-- ==== Sys2Proof/Word.lean ====
section
/-!
DEFINITION. The word types of the ZL9 and their plainest arithmetic.
-/

namespace Sys2Proof

/-- A scalar register's contents (R38). -/
abbrev W64 := BitVec 64

/-- One 32-bit lane of a vector register (R64), and an FP32 or INT32 value. -/
abbrev W32 := BitVec 32

/-- One byte of any memory. -/
abbrev Byte := BitVec 8

/-- The 256-bit long word (R11). -/
abbrev W256 := BitVec 256

/-- A vector register's 2,048 bits (R38, R64). -/
abbrev VBits := BitVec 2048

/-- The format tag of a vector or weight register (R43). -/
abbrev Tag := BitVec 4

/-- Extension immediate EXT (R17). -/
abbrev Ext := BitVec 28

/-- Scalar, vector, predicate and mask register numbers (R38). -/
abbrev SReg := BitVec 5
abbrev VReg := BitVec 5
abbrev PReg := BitVec 4
abbrev MReg := BitVec 3

/-- Address register number, a0 to a7. -/
abbrev AReg := BitVec 3

/-- An even-odd predicate pair p(2j), p(2j+1), named by j (R40). -/
abbrev PPair := BitVec 3

end Sys2Proof
end

