-- ==== Sys2Proof/Config.lean ====
section
/-!
DEFINITION. The free values: what the spec leaves open and nothing here fixes. Each is applied to a counter that the
state holds and the step advances, or to the operands it depends on, so no proof can lean on a number.
-/

namespace Sys2Proof.Config

/-- A free number, fresh for each use: a trap value the spec does not fix, or the choice among ways a race may end. -/
opaque freeNat : Nat → Nat

/-- A free byte, fresh for each use: a result that the spec calls unspecified (R277, R330), and a byte that lies
outside the device. -/
opaque freeByte : Nat → Byte

/-- Which entry of a 2 MiB group whose entries disagree translates an access to one of its pages (R294). -/
opaque freeEntry : Nat → Nat → Nat

/-- The unit number that trap 0x15 reports for a kind of core storage (R346 gives the field and no numbers): 0 the
scratchpad, 1 a register, 2 a queue entry, 3 a tile row. -/
opaque eccUnit : Nat → Nat

/-- In one cycle of so many and one, every event of the device's own agents that may happen does, so that each wait ends (R386). -/
opaque patience : Nat

/-- SHA-512 of a byte string (R368 to R370), 64 bytes. -/
opaque sha512 : List Byte → List Byte

/-- An Ed25519 signature of a message under the identity key of a device (R370), 64 bytes. -/
opaque ed25519Sign : Nat → List Byte → List Byte

/-- The Ed25519 identity public key of a device (R368, R370), 32 bytes: made from its PUF. -/
opaque identityKey : Nat → List Byte

/-- The boot ROM of a device, whose digest is measurement 0 (R369). -/
opaque bootRom : Nat → List Byte

end Sys2Proof.Config
end

