-- ==== Sys2Proof/Syntax.lean ====
section
/-!
DEFINITION. The instructions and events of the ZL9, one constructor of `Instr` for each row of the opcode table.

A slot instruction carries its operands and no guard: the guard stands beside it in `SlotOp` (R14).
An event (the rows of the table without an opcode value) is a thing that an engine, the scheduler, the fabric,
firmware or the host does of itself, and it carries what the outside of the device supplies.
-/

namespace Sys2Proof

/-! ## Operand forms of the slot instructions -/

/-- Second operand of layout S3 (R18, R87): register, unsigned 5-bit immediate, or EXT sign-extended. -/
inductive SrcB where
  | reg (sb : SReg)
  | imm (u : BitVec 5)
  | ext (e : Ext)
  deriving DecidableEq, Repr

/-- Source of `mov` (R89). -/
inductive MovSrc where
  | reg (sa : SReg)
  | imm (i : BitVec 9)
  | extS (e : Ext)
  | extZ (e : Ext)
  | nt (j : BitVec 2)
  deriving DecidableEq, Repr

/-- Source of `aset` (R91): base and stride from the word, or from two scalar registers. -/
inductive AsetSrc where
  | ext (base : BitVec 24) (stride : BitVec 13)
  | regs (sa sb : SReg)
  deriving DecidableEq, Repr

/-- What `aget` reads (R92). -/
inductive AgetSrc where
  | disp (d : BitVec 7)
  | ext (e : Ext)
  | stride
  deriving DecidableEq, Repr

/-- Word offset of `br` and `call` (R98). -/
inductive BrOff where
  | short (o : BitVec 16)
  | ext (e : Ext)
  deriving DecidableEq, Repr

/-- Count of `loop` (R101). -/
inductive LoopCnt where
  | imm (n : BitVec 7)
  | ext (n : BitVec 24)
  deriving DecidableEq, Repr

/-- Value operand of `csrw`, `csrs` and `csrc` (R118). -/
inductive CsrSrc where
  | reg (sa : BitVec 4)
  | ext (e : Ext)
  deriving DecidableEq, Repr

/-- Offset of an L-slot access whose offset field has `n` bits (R18, R121). -/
inductive Off (n : Nat) where
  | imm (o : BitVec n)
  | ext (e : Ext)
  deriving DecidableEq, Repr

abbrev Off5 := Off 5
abbrev Off6 := Off 6
abbrev Off8 := Off 8

/-- Address of a shape record, in units of 64 bytes: from an `n`-bit field, or from EXT (R131). -/
inductive Rec (n : Nat) where
  | imm (a : BitVec n)
  | ext (a : BitVec 16)
  deriving DecidableEq, Repr

abbrev Rec4 := Rec 4
abbrev Rec6 := Rec 6
abbrev Rec7 := Rec 7

/-- A scalar register, or EXT zero-extended in its place (R140, R149). -/
inductive RegExt where
  | reg (s : SReg)
  | ext (e : Ext)
  deriving DecidableEq, Repr

/-- Constellation identifier of `anchor` (R147). -/
inductive CidSrc where
  | reg (sa : SReg)
  | ext (cid : BitVec 24)
  deriving DecidableEq, Repr

/-- Operands of layout VA with two sources (R153). -/
inductive VaOp where
  | plain (vd va vb : VReg)
  | masked (vd va : VReg) (vb : BitVec 3) (mk : BitVec 2)
  deriving DecidableEq, Repr

/-- Operands of layout VA with one source (R153). -/
inductive VuOp where
  | plain (vd va : VReg)
  | masked (vd va : VReg) (mk : BitVec 2)
  deriving DecidableEq, Repr

/-- The parts of layout VA (R153). -/
def VaOp.vd : VaOp → VReg | .plain d _ _ => d | .masked d _ _ _ => d
def VaOp.va : VaOp → VReg | .plain _ a _ => a | .masked _ a _ _ => a
def VaOp.vb : VaOp → VReg | .plain _ _ b => b | .masked _ _ b _ => b.setWidth 5
def VaOp.mk : VaOp → Option MReg | .plain _ _ _ => none | .masked _ _ _ m => some (m.setWidth 3)
def VuOp.vd : VuOp → VReg | .plain d _ => d | .masked d _ _ => d
def VuOp.va : VuOp → VReg | .plain _ a => a | .masked _ a _ => a
def VuOp.mk : VuOp → Option MReg | .plain _ _ => none | .masked _ _ m => some (m.setWidth 3)

/-- Source of `vsplat` (R161). -/
inductive SplatSrc where
  | imm (i : BitVec 10)
  | reg (sa : SReg)
  deriving DecidableEq, Repr

/-- Source of `mx.cfg` (R179): the low ten bits of a scalar register, or ten bits of EXT. -/
inductive CfgSrc where
  | reg (sa : SReg)
  | ext (v : BitVec 10)
  deriving DecidableEq, Repr

/-- Source of `fd.off` (R193), an immediate in units of 512 bytes. -/
inductive FOffSrc where
  | imm (o : BitVec 13)
  | reg (sa : SReg)
  deriving DecidableEq, Repr

/-- Source of `fd.inc` (R193), an immediate in units of 16 bytes. -/
inductive FIncSrc where
  | imm (i : BitVec 12)
  | reg (sa : SReg)
  deriving DecidableEq, Repr

/-- The slots of the long word, in the order of R11. -/
inductive Slot where
  | S | K | L | V | X | F | C | N
  deriving DecidableEq, Repr

/-- Slot number, 0 for S to 7 for N (R11). -/
def Slot.num : Slot → Nat
  | .S => 0 | .K => 1 | .L => 2 | .V => 3 | .X => 4 | .F => 5 | .C => 6 | .N => 7

/-! ## What the events carry -/

/-- An Ouvpex packet (R320): a request, a forwarded request or a reply. The same record stands for a request inside
the device, from an engine to a home controller. `args` are bytes 21 to 31 and `data` is the payload. -/
structure Pkt where
  dst : Nat
  src : Nat
  eng : Nat
  hops : Nat
  fwd : Bool
  vf : Nat
  lane : Nat
  nm : Bool
  op : Nat
  via : Nat
  mcg : Nat
  tag : Nat
  code : Nat
  addr : Nat
  args : List Byte
  data : List Byte
  deriving DecidableEq, Repr

/-- Bytes that lie on another device or in pooled memory, as its reply brings them: byte address and byte. -/
abbrev ExtBytes := List (Nat × Byte)

/-- Where firmware moves a page (R311): a frame of its new home and, for one that goes out to pooled memory, the pool's page
behind that frame. -/
structure FrameAim where
  frame : Nat
  pool : Option Nat
  deriving DecidableEq, Repr

/-- What the host does at the UCIe boundary (R257, R360, R361), and `firmware`, the write by which a privileged firmware context
reaches a mailbox register from inside. `fn` 0 to 15 is a virtual function, 16 the physical function. -/
inductive HostAcc where
  | rd (vf addr n : Nat)
  | wr (vf addr : Nat) (data : List Byte)
  | mailbox (fn offset : Nat) (v : W64)
  | mboxRd (fn offset : Nat)
  | firmware (fn offset : Nat) (v : W64)
  | memActive (vf : Nat)
  | dvsecRd (fn : Nat)
  deriving DecidableEq, Repr

/-- Every instruction of the eight slots, then every event of the opcode table. -/
inductive Instr where
  | nop
  -- slot S
  | add (sd : SReg) (sa : SReg) (b : SrcB)
  | sub (sd : SReg) (sa : SReg) (b : SrcB)
  | mul (sd : SReg) (sa : SReg) (b : SrcB)
  | mulh (sd : SReg) (sa : SReg) (b : SrcB)
  | and (sd : SReg) (sa : SReg) (b : SrcB)
  | or (sd : SReg) (sa : SReg) (b : SrcB)
  | xor (sd : SReg) (sa : SReg) (b : SrcB)
  | shl (sd : SReg) (sa : SReg) (b : SrcB)
  | shr (sd : SReg) (sa : SReg) (b : SrcB)
  | sar (sd : SReg) (sa : SReg) (b : SrcB)
  | min (sd : SReg) (sa : SReg) (b : SrcB)
  | max (sd : SReg) (sa : SReg) (b : SrcB)
  | minu (sd : SReg) (sa : SReg) (b : SrcB)
  | maxu (sd : SReg) (sa : SReg) (b : SrcB)
  | clz (sd : SReg) (sa : SReg)
  | popc (sd : SReg) (sa : SReg)
  | mov (sd : SReg) (src : MovSrc)
  | sel (sd : SReg) (sa : SReg) (pc : PReg) (alt : Option Ext)
  | aset (aj : AReg) (src : AsetSrc)
  | aget (sd : SReg) (aj : AReg) (src : AgetSrc)
  | cmpEq (pd : PPair) (sa : SReg) (b : SrcB)
  | cmpNe (pd : PPair) (sa : SReg) (b : SrcB)
  | cmpLt (pd : PPair) (sa : SReg) (b : SrcB)
  | cmpLe (pd : PPair) (sa : SReg) (b : SrcB)
  | cmpLtu (pd : PPair) (sa : SReg) (b : SrcB)
  | cmpLeu (pd : PPair) (sa : SReg) (b : SrcB)
  | pand (pd : PPair) (pa : PReg) (pb : PReg)
  | por (pd : PPair) (pa : PReg) (pb : PReg)
  | fadd (sd : SReg) (sa : SReg) (sb : SReg)
  | fsub (sd : SReg) (sa : SReg) (sb : SReg)
  | fmul (sd : SReg) (sa : SReg) (sb : SReg)
  | ffma (sd : SReg) (sa : SReg) (sb : SReg)
  | fmin (sd : SReg) (sa : SReg) (sb : SReg)
  | fmax (sd : SReg) (sa : SReg) (sb : SReg)
  | fcmpEq (pd : PPair) (sa : SReg) (sb : SReg)
  | fcmpLt (pd : PPair) (sa : SReg) (sb : SReg)
  | fcmpLe (pd : PPair) (sa : SReg) (sb : SReg)
  | br (off : BrOff)
  | brx (sa : SReg)
  | call (off : BrOff)
  | ret
  | loop (frame : Bool) (cnt : LoopCnt) (last : Byte)
  | loopS (frame : Bool) (sa : SReg) (last : Byte)
  | yieldT (sa : SReg)
  | yieldB (sa : SReg)
  | spec (off : BitVec 16)
  | specCommit (pc : PReg)
  | specAbort
  | exit
  | trap (imm : BitVec 16)
  | rti (next : Bool)
  | csrd (sd : BitVec 4) (csr : BitVec 12)
  | csrw (csr : BitVec 12) (v : CsrSrc)
  | csrs (csr : BitVec 12) (v : CsrSrc)
  | csrc (csr : BitVec 12) (v : CsrSrc)
  | launch (sd : SReg) (sa : SReg) (n : SrcB)
  | watch (sd : SReg) (sa : SReg) (sb : SReg) (timeout : Option Ext)
  -- slot K
  | ntreq
  | sctl (aj : AReg) (off : BitVec 13)
  | sctlEnt (k : BitVec 4) (sa : SReg)
  | srtIota (vd : VReg) (c : BitVec 11)
  | srtCeA (vk : BitVec 4) (dist : BitVec 3) (flip : BitVec 3)
  | srtCeD (vk : BitVec 4) (dist : BitVec 3) (flip : BitVec 3)
  | srtTop (va : BitVec 4) (vb : BitVec 4)
  | ptRd (sd : SReg) (sa : SReg)
  | ptWr (sa : SReg) (sb : SReg)
  | ptUpd (sa : SReg) (pc : PReg)
  | ptClr (sa : SReg) (sb : SReg)
  | demand (sd : SReg) (sa : SReg) (sb : SReg)
  | redem (sd : SReg) (sa : SReg) (sb : SReg)
  | tolShare (sd : SReg) (sa : SReg) (sb : SReg)
  | tolMin (sd : SReg) (sa : SReg) (cls : Bool)
  | itrDef (it : BitVec 2) (sa : SReg)
  | itrFit (sd : SReg) (it : BitVec 2)
  | stGrade (aj : AReg) (sa : SReg) (adj : Bool) (off : BitVec 7)
  -- slot L
  | ldB (sd : SReg) (aj : AReg) (off : Off8)
  | ldBu (sd : SReg) (aj : AReg) (off : Off8)
  | ldH (sd : SReg) (aj : AReg) (off : Off8)
  | ldHu (sd : SReg) (aj : AReg) (off : Off8)
  | ldW (sd : SReg) (aj : AReg) (off : Off8)
  | ldWu (sd : SReg) (aj : AReg) (off : Off8)
  | ldD (sd : SReg) (aj : AReg) (off : Off8)
  | stB (sd : SReg) (aj : AReg) (off : Off8)
  | stH (sd : SReg) (aj : AReg) (off : Off8)
  | stW (sd : SReg) (aj : AReg) (off : Off8)
  | stD (sd : SReg) (aj : AReg) (off : Off8)
  | ldVF32 (vd : VReg) (aj : AReg) (off : Off8)
  | ldVF16 (vd : VReg) (aj : AReg) (off : Off8)
  | ldVBf16 (vd : VReg) (aj : AReg) (off : Off8)
  | ldVE4m3 (vd : VReg) (aj : AReg) (off : Off8)
  | ldVE5m2 (vd : VReg) (aj : AReg) (off : Off8)
  | ldVI8 (vd : VReg) (aj : AReg) (off : Off8)
  | ldVI32 (vd : VReg) (aj : AReg) (off : Off8)
  | ldVSx7 (vd : VReg) (aj : AReg) (off : Off8)
  | ldVSx4 (vd : VReg) (aj : AReg) (off : Off8)
  | ldVSx2 (vd : VReg) (aj : AReg) (off : Off8)
  | ldVAq8 (vd : VReg) (aj : AReg) (off : Off8)
  | ldVBcast (vd : VReg) (aj : AReg) (t : BitVec 2) (off : Off6)
  | ldVx (vd : VReg) (aj : AReg) (vi : VReg) (i32 : Bool) (mk : BitVec 2) (disp : Option Ext)
  | stVx (vs : VReg) (aj : AReg) (vi : VReg) (mk : MReg) (disp : Option Ext)
  | stV (vs : VReg) (aj : AReg) (mk : MReg) (off : Off5)
  | stVCmp (vs : VReg) (aj : AReg) (mk : MReg) (off : Off5)
  | ldM (mk : MReg) (aj : AReg) (off : Off8)
  | stM (mk : MReg) (aj : AReg) (off : Off8)
  -- slot V
  | vaddF32 (ops : VaOp)
  | vsubF32 (ops : VaOp)
  | vmulF32 (ops : VaOp)
  | vfmaF32 (ops : VaOp)
  | vminF32 (ops : VaOp)
  | vmaxF32 (ops : VaOp)
  | vabsF32 (ops : VuOp)
  | vnegF32 (ops : VuOp)
  | vaddBf16 (ops : VaOp)
  | vsubBf16 (ops : VaOp)
  | vmulBf16 (ops : VaOp)
  | vfmaBf16 (ops : VaOp)
  | vminBf16 (ops : VaOp)
  | vmaxBf16 (ops : VaOp)
  | vabsBf16 (ops : VuOp)
  | vnegBf16 (ops : VuOp)
  | vaddI32 (ops : VaOp)
  | vsubI32 (ops : VaOp)
  | vmulI32 (ops : VaOp)
  | vminI32 (ops : VaOp)
  | vmaxI32 (ops : VaOp)
  | vand (ops : VaOp)
  | vor (ops : VaOp)
  | vxor (ops : VaOp)
  | vshl (ops : VaOp)
  | vshr (ops : VaOp)
  | vsar (ops : VaOp)
  | vcmpF32 (cond : BitVec 3) (md : MReg) (va : VReg) (vb : VReg)
  | vcmpBf16 (cond : BitVec 3) (md : MReg) (va : VReg) (vb : VReg)
  | vcmpI32 (cond : BitVec 3) (md : MReg) (va : VReg) (vb : VReg)
  | vrcpF32 (ops : VuOp)
  | vrsqrtF32 (ops : VuOp)
  | vexp2F32 (ops : VuOp)
  | vlog2F32 (ops : VuOp)
  | vredAddF32 (sd : SReg) (va : VReg) (mk : MReg)
  | vredMaxF32 (sd : SReg) (va : VReg) (mk : MReg)
  | vredAddI32 (sd : SReg) (va : VReg) (mk : MReg)
  | vperm (vd : VReg) (va : VReg) (vi : VReg)
  | vbcast (vd : VReg) (va : VReg) (n : BitVec 6)
  | vrot (vd : VReg) (va : VReg) (n : BitVec 6)
  | vsel (vd : VReg) (va : VReg) (vb : BitVec 3) (mk : MReg)
  | mand (md : MReg) (ma : MReg) (mb : MReg)
  | mor (md : MReg) (ma : MReg) (mb : MReg)
  | mxor (md : MReg) (ma : MReg) (mb : MReg)
  | mandn (md : MReg) (ma : MReg) (mb : MReg)
  | mpop (sd : SReg) (ma : MReg)
  | vsplatF32 (vd : VReg) (src : SplatSrc)
  | vsplatI32 (vd : VReg) (src : SplatSrc)
  | vmov (vd : VReg) (va : VReg) (mk : MReg)
  | cvt (vd : VReg) (va : VReg) (t : Tag) (part : BitVec 2)
  | cvtFit (vd : BitVec 4) (va : VReg) (cls : Bool) (k : BitVec 4)
  | cvtSx (vd : VReg) (va : VReg) (fmt : BitVec 2) (k : BitVec 4)
  | cvtAq8 (vd : VReg) (va : VReg)
  -- slot X
  | mxPermit (sd : SReg) (lvl : BitVec 2)
  | mxRel
  | mxCfg (src : CfgSrc)
  | mxLd (wd : BitVec 2) (aj : AReg) (fmt : Tag) (disp : Option Ext)
  | mxLdT (wd : BitVec 2) (aj : AReg) (fmt : Tag) (disp : Option Ext)
  | mxLdr (wd : BitVec 2) (aj : AReg) (fmt : Tag) (kx : BitVec 3) (t : Bool) (disp : Option Ext)
  | mxWsel (wd : BitVec 2) (ws : BitVec 2) (t : Bool)
  | mxCsum (ws : BitVec 2)
  | mxRun (acc : BitVec 3) (w : BitVec 2) (op : BitVec 2) (st : SReg)
  | mxRunSet (acc : BitVec 3) (w : BitVec 2) (op : BitVec 2) (st : SReg)
  | mxClr (acc : BitVec 3) (ninf : Bool)
  | mxDrain (st : SReg) (acc : BitVec 3) (cvt : BitVec 2) (strm : BitVec 4) (rows : Option (BitVec 7))
  -- slot F
  | fdA (aj : AReg) (fk : BitVec 2) (fmt : Tag)
  | fdAMc (aj : AReg) (fk : BitVec 2) (fmt : Tag) (kx : BitVec 3) (members : BitVec 3)
  | fdAr (aj : AReg) (fk : BitVec 2) (fmt : Tag) (kx : BitVec 3)
  | fdZ
  | fdWin (aj : AReg) (ak : AReg) (fk : BitVec 2) (fmt : Tag) (wl : BitVec 3)
  | fdTap (aj : AReg) (ak : AReg) (fk : BitVec 2) (fmt : Tag) (wl : BitVec 3)
  | fdOff (fk : BitVec 2) (src : FOffSrc)
  | fdInc (fk : BitVec 2) (src : FIncSrc)
  -- slot C
  | cpIn (st : SReg) (ch : BitVec 4) (rec : Rec7)
  | cpOut (st : SReg) (ch : BitVec 4) (rec : Rec7)
  | cpPf (st : SReg) (ch : BitVec 4) (rec : Rec7)
  | cpGat (st : SReg) (ch : BitVec 4) (rec : Rec7)
  | cpCst (st : SReg) (ch : BitVec 4) (rec : Rec7)
  | accLd (st : SReg) (ch : BitVec 4) (acc : BitVec 3) (rec : Rec4)
  | accSt (st : SReg) (ch : BitVec 4) (acc : BitVec 3) (rec : Rec4)
  | gld (sd : SReg) (sa : SReg) (size : BitVec 2) (sx : Bool) (disp : Option Ext)
  | gst (sb : SReg) (sa : SReg) (size : BitVec 2) (disp : Option Ext)
  | atAdd (sd : SReg) (sa : SReg) (sb : SReg) (w : Bool) (disp : Option Ext)
  | atFadd (sd : SReg) (sa : SReg) (sb : SReg) (disp : Option Ext)
  | atMin (sd : SReg) (sa : SReg) (sb : SReg) (w : Bool) (disp : Option Ext)
  | atMax (sd : SReg) (sa : SReg) (sb : SReg) (w : Bool) (disp : Option Ext)
  | atFmin (sd : SReg) (sa : SReg) (sb : SReg) (disp : Option Ext)
  | atFmax (sd : SReg) (sa : SReg) (sb : SReg) (disp : Option Ext)
  | atAnd (sd : SReg) (sa : SReg) (sb : SReg) (w : Bool) (disp : Option Ext)
  | atOr (sd : SReg) (sa : SReg) (sb : SReg) (w : Bool) (disp : Option Ext)
  | atXor (sd : SReg) (sa : SReg) (sb : SReg) (w : Bool) (disp : Option Ext)
  | atSwap (sd : SReg) (sa : SReg) (sb : SReg) (w : Bool) (disp : Option Ext)
  | atCas (sd : SReg) (sa : SReg) (sb : SReg) (w : Bool) (disp : Option Ext)
  | barInit (sa : SReg) (n : RegExt)
  | barArr (sd : SReg) (sa : SReg) (m : RegExt)
  | drain (scope : BitVec 3) (loads : BitVec 3) (stores : BitVec 3) (copies : BitVec 3) (tiles : BitVec 4)
  | qpoint
  | anchor (hj : BitVec 2) (sd : SReg) (cid : CidSrc)
  | hznRel (hj : BitVec 2) (cid : Option (BitVec 24))
  | cld (sd : SReg) (sa : SReg) (hj : BitVec 2) (size : BitVec 2) (sx : Bool) (disp : Option Ext)
  | publish (sd : SReg) (sa : SReg) (ver : RegExt)
  | gred (st : SReg) (ch : BitVec 4) (rec : Rec7)
  | xdisp (st : SReg) (ch : BitVec 4) (q : Bool) (rec : Rec6)
  | resolve (st : SReg) (ch : BitVec 4) (k : BitVec 3) (rec : Rec4)
  -- slot N
  | send (vs : VReg) (sa : SReg)
  | sendQ (vs : VReg) (sa : SReg)
  | sendMc (vs : VReg) (sa : SReg)
  | recv (vd : VReg) (qj : BitVec 3)
  | recvAdd (vd : VReg) (qj : BitVec 3)
  | recvMax (vd : VReg) (qj : BitVec 3)
  | collStart (sd : SReg) (sa : SReg) (gs : BitVec 2)
  | collAbort (sd : SReg)
  -- events
  | wordDispatch (core : Nat)
  | markCommit (ctx : Nat)
  | specForcedAbort (ctx : Nat)
  | watchFire (ctx : Nat)
  | watchTimeout (ctx : Nat)
  | shootdownStart (cluster : Nat)
  | tileCounterServe (cluster : Nat)
  | nextTileDelivery (ctx : Nat)
  | predictorTableApply (cluster : Nat)
  | toleranceDemandServe (cluster : Nat) (ext : ExtBytes)
  | permitGrant (die : Nat)
  | fabricBurstPermit
  | passRowWrite (core : Nat)
  | mcRendezvousClose (cluster : Nat)
  | copyRowLanding (ctx : Nat) (op : Nat)
  | copyCompletion (ctx : Nat) (op : Nat)
  | combiningBufferSend (core : Nat) (lane : Nat)
  | barrierNotify (core : Nat)
  | sendReservation (ctx : Nat)
  | sendArrival (i : Nat)
  | walkerTransfer (ctx : Nat) (op : Nat)
  | collectiveCompletion (ctx : Nat) (op : Nat)
  | reductionComplete (i : Nat)
  | rdPkt (i : Nat)
  | wrPkt (i : Nat)
  | wrmPkt (i : Nat)
  | wrcPkt (i : Nat)
  | rdcPkt (i : Nat)
  | atPkt (i : Nat)
  | ancPkt (i : Nat)
  | pubPkt (i : Nat)
  | barPkt (i : Nat)
  | redPkt (i : Nat)
  | qrptPkt (i : Nat)
  | mgmtPkt (i : Nat)
  | replyPkt (i : Nat)
  | unknownOpPacket (i : Nat)
  | forwardedRequest (i : Nat)
  | multicastWr (i : Nat)
  | packetRoute (port : Nat) (p : Pkt)
  | laneNonminimalMove (dst : Nat) (lane : Nat)
  | laneMinimalReturn (dst : Nat) (lane : Nat)
  | requestTimeout (tag : Nat)
  | expertRowArrival (i : Nat)
  | overflowAfterWait (ctx : Nat) (op : Nat)
  | pageWalk (ctx : Nat) (op : Nat)
  | shootdownWatchdog (cluster : Nat)
  | shootdownEnd (cluster : Nat)
  | migrationService
  | pageMove (vf : Nat) (va : Nat) (home : Nat) (frame : FrameAim) (ext : ExtBytes)
  | stepGraphAccept (cluster : Nat) (ext : ExtBytes)
  | taskBind (core : Nat)
  | taskAging (core : Nat)
  | recordCompletion (rec : Nat)
  | spanLimit (core : Nat)
  | swapOut (ctx : Nat)
  | reload (core : Nat)
  | pipelinePreempt (rec : Nat)
  | loaderTile (rec : Nat) (ext : ExtBytes)
  | storerWriteback (rec : Nat)
  | faultQueueService (cluster : Nat)
  | lineRetire (line : Nat)
  | patrolScrub (line : Nat)
  | coreRetire (core : Nat)
  | rosterRemove (vertex : Nat)
  | laneSpare (port : Nat)
  | portDown (port : Nat)
  | linkUp (port : Nat) (ouv : Nat)
  | hostAccess (acc : HostAcc)
  | hifVersionWrite (fn : Nat) (ver : Nat)
  | submissionQueueServe (vf : Nat) (ext : ExtBytes)
  | functionLevelReset (vf : Nat)
  | placeSubq (fn : Nat)
  | placeRepl (fn : Nat)
  | cstCreate (fn : Nat)
  | cstDestroy (fn : Nat)
  | errlog (fn : Nat)
  | roster (fn : Nat)
  | faultAns (fn : Nat)
  | debugCmd (fn : Nat)
  | setLtr (fn : Nat)
  | quote (fn : Nat)
  | preempt (fn : Nat)
  | flr (fn : Nat)
  | faultNext (fn : Nat)
  | mailboxUnknownCmd (fn : Nat)
  | mailboxGoBusy (fn : Nat)
  | powerLevelEnter (cluster : Nat)
  | powerWake (cluster : Nat)
  | thermalGrantHold (die : Nat) (temp : Nat)
  | thermalClockHalve (die : Nat) (temp : Nat)
  | thermalShutdown (die : Nat) (temp : Nat)
  | powerOnBoot
  | writeQueueBankWrite (core : Nat)
  | remoteReadArrival (ctx : Nat)
  | barrierQueryAnswer (ctx : Nat)
  | occupancyReport (i : Nat)
  | thermalGrantResume (die : Nat) (temp : Nat)
  | thermalClockRestore (die : Nat) (temp : Nat)
  | pooledMemoryReply (i : Nat) (ext : ExtBytes)
  deriving DecidableEq, Repr

/-- One slot of a decoded word (R14): the guard and the operation it governs. -/
structure SlotOp where
  guard : PReg
  op : Instr
  deriving DecidableEq, Repr

/-- A decoded long word (R11, R13): the header's fields and the eight slots.
An extension slot stands here as `nop` under guard p0, since it does no work of its own (R17). -/
structure LongWord where
  mark : Bool
  yld : Bool
  sync : BitVec 8
  pop : BitVec 8
  step : BitVec 8
  slots : List SlotOp
  deriving DecidableEq, Repr

end Sys2Proof
end

