-- ==== Sys2Proof/WellFormed.lean ====
section
/-!
DEFINITION. Well-formed instructions: the operand values that the spec calls reserved (R19, reason 5) and that the
operand types of Syntax.lean do not already rule out. A register field that must be even is held by the number of its
pair, and a field that must be zero is not held at all, so neither can be ill-formed.
-/

namespace Sys2Proof

/-- Control-register numbers that `csrd` may name (R49, R50, R292, R298, R305, R352, R355, R371). -/
def csrReadable (n : BitVec 12) : Bool :=
  let k := n.toNat
  decide (k ≤ 3) || (decide (0x010 ≤ k) && decide (k ≤ 0x013)) || (decide (0x020 ≤ k) && decide (k ≤ 0x023)) ||
  (decide (0x030 ≤ k) && decide (k ≤ 0x037)) || (decide (0x040 ≤ k) && decide (k ≤ 0x05F)) ||
  (decide (0x100 ≤ k) && decide (k ≤ 0x102)) || (decide (0x800 ≤ k) && decide (k ≤ 0x805)) ||
  (decide (0x810 ≤ k) && decide (k ≤ 0x81F))

/-- Control-register numbers that may be written at all (R49, R50).
DEDUCED (log 7): sys.rgen (0x803) counts roster changes and takes no write; sys.spare (0x804) takes one. -/
def csrWritable (n : BitVec 12) : Bool :=
  let k := n.toNat
  (decide (0x010 ≤ k) && decide (k ≤ 0x013)) || (decide (0x800 ≤ k) && decide (k ≤ 0x802)) || decide (k = 0x804) ||
  (decide (0x810 ≤ k) && decide (k ≤ 0x81F))

/-- Format and register of a weight load (R180): FMT from 0x1 to 0xA, and FP32 only into an even register. -/
def weightFmt (wd : BitVec 2) (fmt : Tag) : Bool :=
  decide (1 ≤ fmt.toNat) && decide (fmt.toNat ≤ 10) && (decide (fmt ≠ 1#4) || decide (wd.toNat % 2 = 0))

/-- A format of a feed (R188): 0x0 for the weight register's own, or a tag from 0x1 to 0xB. -/
def feedFmt (fmt : Tag) : Bool := decide (fmt.toNat ≤ 11)

/-- No operand holds a value that the instruction's description calls reserved (R19, reason 5). -/
def Instr.wf : Instr → Bool
  | .nop => true
  | .add _ _ _ => true
  | .sub _ _ _ => true
  | .mul _ _ _ => true
  | .mulh _ _ _ => true
  | .and _ _ _ => true
  | .or _ _ _ => true
  | .xor _ _ _ => true
  | .shl _ _ _ => true
  | .shr _ _ _ => true
  | .sar _ _ _ => true
  | .min _ _ _ => true
  | .max _ _ _ => true
  | .minu _ _ _ => true
  | .maxu _ _ _ => true
  | .clz _ _ => true
  | .popc _ _ => true
  | .mov _ _ => true
  | .sel _ _ _ _ => true
  | .aset _ _ => true
  | .aget _ _ _ => true
  | .cmpEq _ _ _ => true
  | .cmpNe _ _ _ => true
  | .cmpLt _ _ _ => true
  | .cmpLe _ _ _ => true
  | .cmpLtu _ _ _ => true
  | .cmpLeu _ _ _ => true
  | .pand _ _ _ => true
  | .por _ _ _ => true
  | .fadd _ _ _ => true
  | .fsub _ _ _ => true
  | .fmul _ _ _ => true
  | .ffma _ _ _ => true
  | .fmin _ _ _ => true
  | .fmax _ _ _ => true
  | .fcmpEq _ _ _ => true
  | .fcmpLt _ _ _ => true
  | .fcmpLe _ _ _ => true
  | .br _ => true
  | .brx _ => true
  | .call _ => true
  | .ret => true
  | .loop _ _ _ => true
  | .loopS _ _ _ => true
  | .yieldT _ => true
  | .yieldB _ => true
  | .spec _ => true
  | .specCommit _ => true
  | .specAbort => true
  | .exit => true
  | .trap _ => true
  | .rti _ => true
  | .csrd _ csr => csrReadable csr
  | .csrw csr _ => csrWritable csr
  | .csrs csr _ => csrWritable csr
  | .csrc csr _ => csrWritable csr
  | .launch _ _ _ => true
  | .watch _ _ _ _ => true
  | .ntreq => true
  | .sctl _ _ => true
  | .sctlEnt _ _ => true
  | .srtIota _ _ => true
  | .srtCeA _ dist flip => decide (dist.toNat ≤ 5) && decide (flip.toNat ≤ 5)
  | .srtCeD _ dist flip => decide (dist.toNat ≤ 5) && decide (flip.toNat ≤ 5)
  | .srtTop _ _ => true
  | .ptRd _ _ => true
  | .ptWr _ _ => true
  | .ptUpd _ _ => true
  | .ptClr _ _ => true
  | .demand _ _ _ => true
  | .redem _ _ _ => true
  | .tolShare _ _ _ => true
  | .tolMin _ _ _ => true
  | .itrDef _ _ => true
  | .itrFit _ _ => true
  | .stGrade _ _ _ _ => true
  | .ldB _ _ _ => true
  | .ldBu _ _ _ => true
  | .ldH _ _ _ => true
  | .ldHu _ _ _ => true
  | .ldW _ _ _ => true
  | .ldWu _ _ _ => true
  | .ldD _ _ _ => true
  | .stB _ _ _ => true
  | .stH _ _ _ => true
  | .stW _ _ _ => true
  | .stD _ _ _ => true
  | .ldVF32 _ _ _ => true
  | .ldVF16 _ _ _ => true
  | .ldVBf16 _ _ _ => true
  | .ldVE4m3 _ _ _ => true
  | .ldVE5m2 _ _ _ => true
  | .ldVI8 _ _ _ => true
  | .ldVI32 _ _ _ => true
  | .ldVSx7 _ _ _ => true
  | .ldVSx4 _ _ _ => true
  | .ldVSx2 _ _ _ => true
  | .ldVAq8 _ _ _ => true
  | .ldVBcast _ _ _ _ => true
  | .ldVx _ _ _ _ _ _ => true
  | .stVx _ _ _ _ _ => true
  | .stV _ _ _ _ => true
  | .stVCmp _ _ _ _ => true
  | .ldM _ _ _ => true
  | .stM _ _ _ => true
  | .vaddF32 _ => true
  | .vsubF32 _ => true
  | .vmulF32 _ => true
  | .vfmaF32 _ => true
  | .vminF32 _ => true
  | .vmaxF32 _ => true
  | .vabsF32 _ => true
  | .vnegF32 _ => true
  | .vaddBf16 _ => true
  | .vsubBf16 _ => true
  | .vmulBf16 _ => true
  | .vfmaBf16 _ => true
  | .vminBf16 _ => true
  | .vmaxBf16 _ => true
  | .vabsBf16 _ => true
  | .vnegBf16 _ => true
  | .vaddI32 _ => true
  | .vsubI32 _ => true
  | .vmulI32 _ => true
  | .vminI32 _ => true
  | .vmaxI32 _ => true
  | .vand _ => true
  | .vor _ => true
  | .vxor _ => true
  | .vshl _ => true
  | .vshr _ => true
  | .vsar _ => true
  | .vcmpF32 _ _ _ _ => true
  | .vcmpBf16 _ _ _ _ => true
  | .vcmpI32 _ _ _ _ => true
  | .vrcpF32 _ => true
  | .vrsqrtF32 _ => true
  | .vexp2F32 _ => true
  | .vlog2F32 _ => true
  | .vredAddF32 _ _ _ => true
  | .vredMaxF32 _ _ _ => true
  | .vredAddI32 _ _ _ => true
  | .vperm _ _ _ => true
  | .vbcast _ _ _ => true
  | .vrot _ _ _ => true
  | .vsel _ _ _ _ => true
  | .mand _ _ _ => true
  | .mor _ _ _ => true
  | .mxor _ _ _ => true
  | .mandn _ _ _ => true
  | .mpop _ _ => true
  | .vsplatF32 _ _ => true
  | .vsplatI32 _ _ => true
  | .vmov _ _ _ => true
  | .cvt _ _ t _ => decide (1 ≤ t.toNat) && decide (t.toNat ≤ 7)
  | .cvtFit _ _ _ _ => true
  | .cvtSx _ _ fmt _ => decide (fmt.toNat ≤ 2)
  | .cvtAq8 _ _ => true
  | .mxPermit _ _ => true
  | .mxRel => true
  | .mxCfg _ => true
  | .mxLd wd _ fmt _ => weightFmt wd fmt
  | .mxLdT wd _ fmt _ => weightFmt wd fmt
  | .mxLdr wd _ fmt _ _ _ => weightFmt wd fmt
  | .mxWsel _ _ _ => true
  | .mxCsum _ => true
  | .mxRun _ _ op _ => decide (op.toNat ≤ 2)
  | .mxRunSet _ _ op _ => decide (op.toNat ≤ 2)
  | .mxClr _ _ => true
  | .mxDrain _ _ _ _ _ => true
  | .fdA _ _ fmt => feedFmt fmt
  | .fdAMc _ _ fmt _ _ => feedFmt fmt
  | .fdAr _ _ fmt _ => feedFmt fmt
  | .fdZ => true
  | .fdWin _ _ _ fmt _ => feedFmt fmt
  | .fdTap _ _ _ fmt _ => feedFmt fmt
  | .fdOff _ _ => true
  | .fdInc _ _ => true
  | .cpIn _ _ _ => true
  | .cpOut _ _ _ => true
  | .cpPf _ _ _ => true
  | .cpGat _ _ _ => true
  | .cpCst _ _ _ => true
  | .accLd _ _ _ _ => true
  | .accSt _ _ _ _ => true
  | .gld _ _ _ _ _ => true
  | .gst _ _ _ _ => true
  | .atAdd _ _ _ _ _ => true
  | .atFadd _ _ _ _ => true
  | .atMin _ _ _ _ _ => true
  | .atMax _ _ _ _ _ => true
  | .atFmin _ _ _ _ => true
  | .atFmax _ _ _ _ => true
  | .atAnd _ _ _ _ _ => true
  | .atOr _ _ _ _ _ => true
  | .atXor _ _ _ _ _ => true
  | .atSwap _ _ _ _ _ => true
  | .atCas _ _ _ _ _ => true
  | .barInit _ _ => true
  | .barArr _ _ _ => true
  | .drain scope _ _ _ _ => decide (scope.toNat ≤ 5)
  | .qpoint => true
  | .anchor _ _ _ => true
  | .hznRel _ _ => true
  | .cld _ _ _ _ _ _ => true
  | .publish _ _ _ => true
  | .gred _ _ _ => true
  | .xdisp _ _ _ _ => true
  | .resolve _ _ _ _ => true
  | .send _ _ => true
  | .sendQ _ _ => true
  | .sendMc _ _ => true
  | .recv _ _ => true
  | .recvAdd _ _ => true
  | .recvMax _ _ => true
  | .collStart _ _ _ => true
  | .collAbort _ => true
  | .wordDispatch _ => true
  | .markCommit _ => true
  | .specForcedAbort _ => true
  | .watchFire _ => true
  | .watchTimeout _ => true
  | .shootdownStart _ => true
  | .tileCounterServe _ => true
  | .nextTileDelivery _ => true
  | .predictorTableApply _ => true
  | .toleranceDemandServe _ _ => true
  | .permitGrant _ => true
  | .fabricBurstPermit => true
  | .passRowWrite _ => true
  | .mcRendezvousClose _ => true
  | .copyRowLanding _ _ => true
  | .copyCompletion _ _ => true
  | .combiningBufferSend _ _ => true
  | .barrierNotify _ => true
  | .sendReservation _ => true
  | .sendArrival _ => true
  | .walkerTransfer _ _ => true
  | .collectiveCompletion _ _ => true
  | .reductionComplete _ => true
  | .rdPkt _ => true
  | .wrPkt _ => true
  | .wrmPkt _ => true
  | .wrcPkt _ => true
  | .rdcPkt _ => true
  | .atPkt _ => true
  | .ancPkt _ => true
  | .pubPkt _ => true
  | .barPkt _ => true
  | .redPkt _ => true
  | .qrptPkt _ => true
  | .mgmtPkt _ => true
  | .replyPkt _ => true
  | .unknownOpPacket _ => true
  | .forwardedRequest _ => true
  | .multicastWr _ => true
  | .packetRoute _ _ => true
  | .laneNonminimalMove _ _ => true
  | .laneMinimalReturn _ _ => true
  | .requestTimeout _ => true
  | .expertRowArrival _ => true
  | .overflowAfterWait _ _ => true
  | .pageWalk _ _ => true
  | .shootdownWatchdog _ => true
  | .shootdownEnd _ => true
  | .migrationService => true
  | .pageMove _ _ _ _ _ => true
  | .stepGraphAccept _ _ => true
  | .taskBind _ => true
  | .taskAging _ => true
  | .recordCompletion _ => true
  | .spanLimit _ => true
  | .swapOut _ => true
  | .reload _ => true
  | .pipelinePreempt _ => true
  | .loaderTile _ _ => true
  | .storerWriteback _ => true
  | .faultQueueService _ => true
  | .lineRetire _ => true
  | .patrolScrub _ => true
  | .coreRetire _ => true
  | .rosterRemove _ => true
  | .laneSpare _ => true
  | .portDown _ => true
  | .linkUp _ _ => true
  | .hostAccess _ => true
  | .hifVersionWrite _ _ => true
  | .submissionQueueServe _ _ => true
  | .functionLevelReset _ => true
  | .placeSubq _ => true
  | .placeRepl _ => true
  | .cstCreate _ => true
  | .cstDestroy _ => true
  | .errlog _ => true
  | .roster _ => true
  | .faultAns _ => true
  | .debugCmd _ => true
  | .setLtr _ => true
  | .quote _ => true
  | .preempt _ => true
  | .flr _ => true
  | .faultNext _ => true
  | .mailboxUnknownCmd _ => true
  | .mailboxGoBusy _ => true
  | .powerLevelEnter _ => true
  | .powerWake _ => true
  | .thermalGrantHold _ _ => true
  | .thermalClockHalve _ _ => true
  | .thermalShutdown _ _ => true
  | .powerOnBoot => true
  | .writeQueueBankWrite _ => true
  | .remoteReadArrival _ => true
  | .barrierQueryAnswer _ => true
  | .occupancyReport _ => true
  | .thermalGrantResume _ _ => true
  | .thermalClockRestore _ _ => true
  | .pooledMemoryReply _ _ => true

end Sys2Proof
end

