-- ==== Sys2Proof/Decode.lean ====
section
/-!
DEFINITION. The decoder of the long word and the encoder of its slots.

`decodeWord` is total on 256 bits: it answers a `LongWord`, or the reason of R19 and the slot in which it lies.
`encode` is written from the same layouts of the spec (R18, R87 to R222).
-/

namespace Sys2Proof

/-- Field of `w` bits of an operand, from bit `lo`. -/
def fld (o : BitVec 16) (lo w : Nat) : BitVec w := o.extractLsb' lo w

/-- One bit of an operand. -/
def bit (o : BitVec 16) (lo : Nat) : Bool := o.getLsbD lo

/-- An operand is taken only if none of its values is reserved (R19, reason 5). -/
def accept (i : Instr) : Except Nat Instr := if i.wf then .ok i else .error 5

/-- An instruction that takes no extension stands in no extended slot (R19, reason 4). -/
def noExt (x : Option Ext) (r : Except Nat Instr) : Except Nat Instr :=
  match x with
  | none => r
  | some _ => .error 4

/-- An operand form that does not decode is a reserved operand value (R19, reason 5). -/
def withUnion {α : Type} (u : Option α) (k : α → Except Nat Instr) : Except Nat Instr :=
  match u with
  | some a => k a
  | none => .error 5

/-! ## Operand forms -/

/-- Bits 5 to 0 of layout S3 (R18). -/
def decSrcB (b : BitVec 6) (x : Option Ext) : Option SrcB :=
  match x with
  | some e => if b = 1#6 then some (.ext e) else none
  | none => if b.getLsbD 0 then some (.imm (b.extractLsb' 1 5)) else some (.reg (b.extractLsb' 1 5))

def encSrcB : SrcB → BitVec 6 × Option Ext
  | .reg sb => (sb ++ 0#1, none)
  | .imm u => (u ++ 1#1, none)
  | .ext e => (1#6, some e)

/-- Bits 10 to 0 of `mov` (R89). -/
def decMovSrc (b : BitVec 11) (x : Option Ext) : Option MovSrc :=
  let kind := b.extractLsb' 9 2
  match x with
  | some e =>
    if kind = 1#2 ∧ b.extractLsb' 1 8 = 0#8 then
      if b.getLsbD 0 then some (.extZ e) else some (.extS e)
    else none
  | none =>
    if kind = 0#2 then
      if b.extractLsb' 0 4 = 0#4 then some (.reg (b.extractLsb' 4 5)) else none
    else if kind = 1#2 then some (.imm (b.extractLsb' 0 9))
    else if kind = 2#2 then
      if b.extractLsb' 2 7 = 0#7 then some (.nt (b.extractLsb' 0 2)) else none
    else none

def encMovSrc : MovSrc → BitVec 11 × Option Ext
  | .reg sa => (0#2 ++ sa ++ 0#4, none)
  | .imm i => (1#2 ++ i, none)
  | .extS e => (1#2 ++ 0#9, some e)
  | .extZ e => (1#2 ++ 1#9, some e)
  | .nt j => (2#2 ++ 0#7 ++ j, none)

/-- Bits 12 to 0 of `aset` (R91). -/
def decAsetSrc (b : BitVec 13) (x : Option Ext) : Option AsetSrc :=
  match x with
  | some e => if e.extractLsb' 24 4 = 0#4 then some (.ext (e.extractLsb' 0 24) b) else none
  | none =>
    if b.extractLsb' 0 3 = 0#3 then some (.regs (b.extractLsb' 8 5) (b.extractLsb' 3 5)) else none

def encAsetSrc : AsetSrc → BitVec 13 × Option Ext
  | .ext base stride => (stride, some (0#4 ++ base))
  | .regs sa sb => (sa ++ sb ++ 0#3, none)

/-- Bits 7 to 0 of `aget` (R92). -/
def decAgetSrc (b : BitVec 8) (x : Option Ext) : Option AgetSrc :=
  match x with
  | some e => if b = 0#8 then some (.ext e) else none
  | none =>
    if b.getLsbD 7 then (if b.extractLsb' 0 7 = 0#7 then some .stride else none)
    else some (.disp (b.extractLsb' 0 7))

def encAgetSrc : AgetSrc → BitVec 8 × Option Ext
  | .disp d => (0#1 ++ d, none)
  | .ext e => (0#8, some e)
  | .stride => (0x80#8, none)

/-- OPND of `br` and `call` (R98). -/
def decBrOff (b : BitVec 16) (x : Option Ext) : Option BrOff :=
  match x with
  | some e => if b = 0#16 then some (.ext e) else none
  | none => some (.short b)

def encBrOff : BrOff → BitVec 16 × Option Ext
  | .short o => (o, none)
  | .ext e => (0#16, some e)

/-- Bits 14 to 8 of `loop` (R101). -/
def decLoopCnt (b : BitVec 7) (x : Option Ext) : Option LoopCnt :=
  match x with
  | some e => if b = 0#7 ∧ e.extractLsb' 24 4 = 0#4 then some (.ext (e.extractLsb' 0 24)) else none
  | none => some (.imm b)

def encLoopCnt : LoopCnt → BitVec 7 × Option Ext
  | .imm n => (n, none)
  | .ext n => (0#7, some (0#4 ++ n))

/-- Bits 15 to 12 of layout CS (R118). -/
def decCsrSrc (b : BitVec 4) (x : Option Ext) : Option CsrSrc :=
  match x with
  | some e => if b = 0#4 then some (.ext e) else none
  | none => some (.reg b)

def encCsrSrc : CsrSrc → BitVec 4 × Option Ext
  | .reg sa => (sa, none)
  | .ext e => (0#4, some e)

/-- The offset field of an L-slot access (R121). -/
def decOff {n : Nat} (b : BitVec n) (x : Option Ext) : Option (Off n) :=
  match x with
  | some e => if b = 0#n then some (.ext e) else none
  | none => some (.imm b)

def encOff {n : Nat} : Off n → BitVec n × Option Ext
  | .imm o => (o, none)
  | .ext e => (0#n, some e)

/-- The record address of a copy (R131): EXT[27:22] zero and the address a multiple of 64. -/
def decRec {n : Nat} (b : BitVec n) (x : Option Ext) : Option (Rec n) :=
  match x with
  | some e =>
    if b = 0#n ∧ e.extractLsb' 22 6 = 0#6 ∧ e.extractLsb' 0 6 = 0#6 then some (.ext (e.extractLsb' 6 16)) else none
  | none => some (.imm b)

def encRec {n : Nat} : Rec n → BitVec n × Option Ext
  | .imm a => (a, none)
  | .ext a => (0#n, some (0#6 ++ a ++ 0#6))

/-- A register field that EXT replaces (R140, R149). -/
def decRegExt (b : BitVec 5) (x : Option Ext) : Option RegExt :=
  match x with
  | some e => if b = 0#5 then some (.ext e) else none
  | none => some (.reg b)

def encRegExt : RegExt → BitVec 5 × Option Ext
  | .reg s => (s, none)
  | .ext e => (0#5, some e)

/-- Bits 8 to 4 of `anchor` (R147). -/
def decCidSrc (b : BitVec 5) (x : Option Ext) : Option CidSrc :=
  match x with
  | some e => if b = 0#5 ∧ e.extractLsb' 24 4 = 0#4 then some (.ext (e.extractLsb' 0 24)) else none
  | none => some (.reg b)

def encCidSrc : CidSrc → BitVec 5 × Option Ext
  | .reg sa => (sa, none)
  | .ext c => (0#5, some (0#4 ++ c))

/-- The CID of `hzn.rel` (R147).
DEDUCED (log 8): EXT[27:24] are compared with nothing and are ignored. -/
def decRelCid (x : Option Ext) : Option (Option (BitVec 24)) :=
  match x with
  | some e => some (some (e.extractLsb' 0 24))
  | none => some none

def encRelCid (c : Option (BitVec 24)) : Option Ext := c.map fun v => 0#4 ++ v

/-- The row count of `mx.drain` (R195): EXT[27:7] zero. -/
def decRowCnt (x : Option Ext) : Option (Option (BitVec 7)) :=
  match x with
  | some e => if e.extractLsb' 7 21 = 0#21 then some (some (e.extractLsb' 0 7)) else none
  | none => some none

def encRowCnt (c : Option (BitVec 7)) : Option Ext := c.map fun v => 0#21 ++ v

/-- OPND of `mx.cfg` (R179). -/
def decCfgSrc (b : BitVec 16) (x : Option Ext) : Option CfgSrc :=
  match x with
  | some e => if b = 0#16 ∧ e.extractLsb' 10 18 = 0#18 then some (.ext (e.extractLsb' 0 10)) else none
  | none => if b.extractLsb' 0 11 = 0#11 then some (.reg (b.extractLsb' 11 5)) else none

def encCfgSrc : CfgSrc → BitVec 16 × Option Ext
  | .reg sa => (sa ++ 0#11, none)
  | .ext v => (0#16, some (0#18 ++ v))

/-- OPND of layout VA with two sources (R153). -/
def decVaOp (o : BitVec 16) : Option VaOp :=
  if bit o 15 then some (.masked (fld o 10 5) (fld o 5 5) (fld o 2 3) (fld o 0 2))
  else some (.plain (fld o 10 5) (fld o 5 5) (fld o 0 5))

def encVaOp : VaOp → BitVec 16
  | .plain vd va vb => 0#1 ++ vd ++ va ++ vb
  | .masked vd va vb mk => 1#1 ++ vd ++ va ++ vb ++ mk

/-- OPND of layout VA with one source (R153): the vb field is zero. -/
def decVuOp (o : BitVec 16) : Option VuOp :=
  if bit o 15 then (if fld o 2 3 = 0#3 then some (.masked (fld o 10 5) (fld o 5 5) (fld o 0 2)) else none)
  else if fld o 0 5 = 0#5 then some (.plain (fld o 10 5) (fld o 5 5)) else none

def encVuOp : VuOp → BitVec 16
  | .plain vd va => 0#1 ++ vd ++ va ++ 0#5
  | .masked vd va mk => 1#1 ++ vd ++ va ++ 0#3 ++ mk

/-- Bits 10 to 0 of `vsplat` (R161). -/
def decSplatSrc (b : BitVec 11) : Option SplatSrc :=
  if b.getLsbD 10 then (if b.extractLsb' 0 5 = 0#5 then some (.reg (b.extractLsb' 5 5)) else none)
  else some (.imm (b.extractLsb' 0 10))

def encSplatSrc : SplatSrc → BitVec 11
  | .imm i => 0#1 ++ i
  | .reg sa => 1#1 ++ sa ++ 0#5

/-- Bits 13 to 0 of `fd.off` (R193). -/
def decFOffSrc (b : BitVec 14) : Option FOffSrc :=
  if b.getLsbD 13 then (if b.extractLsb' 0 8 = 0#8 then some (.reg (b.extractLsb' 8 5)) else none)
  else some (.imm (b.extractLsb' 0 13))

def encFOffSrc : FOffSrc → BitVec 14
  | .imm o => 0#1 ++ o
  | .reg sa => 1#1 ++ sa ++ 0#8

/-- Bits 13 to 0 of `fd.inc` (R193). -/
def decFIncSrc (b : BitVec 14) : Option FIncSrc :=
  if b.getLsbD 13 then (if b.extractLsb' 0 8 = 0#8 then some (.reg (b.extractLsb' 8 5)) else none)
  else if b.getLsbD 12 then none else some (.imm (b.extractLsb' 0 12))

def encFIncSrc : FIncSrc → BitVec 14
  | .imm i => 0#2 ++ i
  | .reg sa => 1#1 ++ sa ++ 0#8

/-! ## The eight opcode maps -/

/-- The S slot's opcode map, R29. -/
def decS (opc : BitVec 8) (o : BitVec 16) (x : Option Ext) : Except Nat Instr :=
  match opc.toNat with
  | 0x01 => withUnion (decSrcB (fld o 0 6) x) fun u => accept (.add (fld o 11 5) (fld o 6 5) u)
  | 0x02 => withUnion (decSrcB (fld o 0 6) x) fun u => accept (.sub (fld o 11 5) (fld o 6 5) u)
  | 0x03 => withUnion (decSrcB (fld o 0 6) x) fun u => accept (.mul (fld o 11 5) (fld o 6 5) u)
  | 0x04 => withUnion (decSrcB (fld o 0 6) x) fun u => accept (.mulh (fld o 11 5) (fld o 6 5) u)
  | 0x05 => withUnion (decSrcB (fld o 0 6) x) fun u => accept (.and (fld o 11 5) (fld o 6 5) u)
  | 0x06 => withUnion (decSrcB (fld o 0 6) x) fun u => accept (.or (fld o 11 5) (fld o 6 5) u)
  | 0x07 => withUnion (decSrcB (fld o 0 6) x) fun u => accept (.xor (fld o 11 5) (fld o 6 5) u)
  | 0x08 => withUnion (decSrcB (fld o 0 6) x) fun u => accept (.shl (fld o 11 5) (fld o 6 5) u)
  | 0x09 => withUnion (decSrcB (fld o 0 6) x) fun u => accept (.shr (fld o 11 5) (fld o 6 5) u)
  | 0x0A => withUnion (decSrcB (fld o 0 6) x) fun u => accept (.sar (fld o 11 5) (fld o 6 5) u)
  | 0x0B => withUnion (decSrcB (fld o 0 6) x) fun u => accept (.min (fld o 11 5) (fld o 6 5) u)
  | 0x0C => withUnion (decSrcB (fld o 0 6) x) fun u => accept (.max (fld o 11 5) (fld o 6 5) u)
  | 0x0D => withUnion (decSrcB (fld o 0 6) x) fun u => accept (.minu (fld o 11 5) (fld o 6 5) u)
  | 0x0E => withUnion (decSrcB (fld o 0 6) x) fun u => accept (.maxu (fld o 11 5) (fld o 6 5) u)
  | 0x0F => noExt x (if (fld o 0 6) = 0#6 then accept (.clz (fld o 11 5) (fld o 6 5)) else .error 5)
  | 0x10 => noExt x (if (fld o 0 6) = 0#6 then accept (.popc (fld o 11 5) (fld o 6 5)) else .error 5)
  | 0x11 => withUnion (decMovSrc (fld o 0 11) x) fun u => accept (.mov (fld o 11 5) u)
  | 0x12 => if (fld o 0 2) = 0#2 then accept (.sel (fld o 11 5) (fld o 6 5) (fld o 2 4) x) else .error 5
  | 0x13 => withUnion (decAsetSrc (fld o 0 13) x) fun u => accept (.aset (fld o 13 3) u)
  | 0x14 => withUnion (decAgetSrc (fld o 0 8) x) fun u => accept (.aget (fld o 11 5) (fld o 8 3) u)
  | 0x15 => if (fld o 15 1) = 0#1 ∧ (fld o 11 1) = 0#1 then withUnion (decSrcB (fld o 0 6) x) fun u => accept (.cmpEq (fld o 12 3) (fld o 6 5) u) else .error 5
  | 0x16 => if (fld o 15 1) = 0#1 ∧ (fld o 11 1) = 0#1 then withUnion (decSrcB (fld o 0 6) x) fun u => accept (.cmpNe (fld o 12 3) (fld o 6 5) u) else .error 5
  | 0x17 => if (fld o 15 1) = 0#1 ∧ (fld o 11 1) = 0#1 then withUnion (decSrcB (fld o 0 6) x) fun u => accept (.cmpLt (fld o 12 3) (fld o 6 5) u) else .error 5
  | 0x18 => if (fld o 15 1) = 0#1 ∧ (fld o 11 1) = 0#1 then withUnion (decSrcB (fld o 0 6) x) fun u => accept (.cmpLe (fld o 12 3) (fld o 6 5) u) else .error 5
  | 0x19 => if (fld o 15 1) = 0#1 ∧ (fld o 11 1) = 0#1 then withUnion (decSrcB (fld o 0 6) x) fun u => accept (.cmpLtu (fld o 12 3) (fld o 6 5) u) else .error 5
  | 0x1A => if (fld o 15 1) = 0#1 ∧ (fld o 11 1) = 0#1 then withUnion (decSrcB (fld o 0 6) x) fun u => accept (.cmpLeu (fld o 12 3) (fld o 6 5) u) else .error 5
  | 0x1B => noExt x (if (fld o 12 1) = 0#1 ∧ (fld o 0 4) = 0#4 then accept (.pand (fld o 13 3) (fld o 8 4) (fld o 4 4)) else .error 5)
  | 0x1C => noExt x (if (fld o 12 1) = 0#1 ∧ (fld o 0 4) = 0#4 then accept (.por (fld o 13 3) (fld o 8 4) (fld o 4 4)) else .error 5)
  | 0x1D => noExt x (if (fld o 0 1) = 0#1 then accept (.fadd (fld o 11 5) (fld o 6 5) (fld o 1 5)) else .error 5)
  | 0x1E => noExt x (if (fld o 0 1) = 0#1 then accept (.fsub (fld o 11 5) (fld o 6 5) (fld o 1 5)) else .error 5)
  | 0x1F => noExt x (if (fld o 0 1) = 0#1 then accept (.fmul (fld o 11 5) (fld o 6 5) (fld o 1 5)) else .error 5)
  | 0x20 => noExt x (if (fld o 0 1) = 0#1 then accept (.ffma (fld o 11 5) (fld o 6 5) (fld o 1 5)) else .error 5)
  | 0x21 => noExt x (if (fld o 0 1) = 0#1 then accept (.fmin (fld o 11 5) (fld o 6 5) (fld o 1 5)) else .error 5)
  | 0x22 => noExt x (if (fld o 0 1) = 0#1 then accept (.fmax (fld o 11 5) (fld o 6 5) (fld o 1 5)) else .error 5)
  | 0x23 => noExt x (if (fld o 15 1) = 0#1 ∧ (fld o 11 1) = 0#1 ∧ (fld o 0 1) = 0#1 then accept (.fcmpEq (fld o 12 3) (fld o 6 5) (fld o 1 5)) else .error 5)
  | 0x24 => noExt x (if (fld o 15 1) = 0#1 ∧ (fld o 11 1) = 0#1 ∧ (fld o 0 1) = 0#1 then accept (.fcmpLt (fld o 12 3) (fld o 6 5) (fld o 1 5)) else .error 5)
  | 0x25 => noExt x (if (fld o 15 1) = 0#1 ∧ (fld o 11 1) = 0#1 ∧ (fld o 0 1) = 0#1 then accept (.fcmpLe (fld o 12 3) (fld o 6 5) (fld o 1 5)) else .error 5)
  | 0x26 => withUnion (decBrOff o x) fun u => accept (.br u)
  | 0x27 => noExt x (if (fld o 11 5) = 0#5 ∧ (fld o 0 6) = 0#6 then accept (.brx (fld o 6 5)) else .error 5)
  | 0x28 => withUnion (decBrOff o x) fun u => accept (.call u)
  | 0x29 => noExt x (if o = 0#16 then accept .ret else .error 5)
  | 0x2A => withUnion (decLoopCnt (fld o 8 7) x) fun u => accept (.loop (bit o 15) u (fld o 0 8))
  | 0x2B => noExt x (if (fld o 13 2) = 0#2 then accept (.loopS (bit o 15) (fld o 8 5) (fld o 0 8)) else .error 5)
  | 0x2C => noExt x (if (fld o 11 5) = 0#5 ∧ (fld o 0 6) = 0#6 then accept (.yieldT (fld o 6 5)) else .error 5)
  | 0x2D => noExt x (if (fld o 11 5) = 0#5 ∧ (fld o 0 6) = 0#6 then accept (.yieldB (fld o 6 5)) else .error 5)
  | 0x2E => noExt x (accept (.spec o))
  | 0x2F => noExt x (if (fld o 0 12) = 0#12 then accept (.specCommit (fld o 12 4)) else .error 5)
  | 0x30 => noExt x (if o = 0#16 then accept .specAbort else .error 5)
  | 0x31 => noExt x (if o = 0#16 then accept .exit else .error 5)   -- DEDUCED: R29's number, log 91
  | 0x32 => noExt x (accept (.trap o))                              -- DEDUCED: R29's number, log 91
  | 0x33 => noExt x (if (fld o 1 15) = 0#15 then accept (.rti (bit o 0)) else .error 5)
  | 0x34 => noExt x (accept (.csrd (fld o 12 4) (fld o 0 12)))
  | 0x35 => withUnion (decCsrSrc (fld o 12 4) x) fun u => accept (.csrw (fld o 0 12) u)
  | 0x36 => withUnion (decCsrSrc (fld o 12 4) x) fun u => accept (.csrs (fld o 0 12) u)
  | 0x37 => withUnion (decCsrSrc (fld o 12 4) x) fun u => accept (.csrc (fld o 0 12) u)
  | 0x38 => withUnion (decSrcB (fld o 0 6) x) fun u => accept (.launch (fld o 11 5) (fld o 6 5) u)
  | 0x39 => if (fld o 0 1) = 0#1 then accept (.watch (fld o 11 5) (fld o 6 5) (fld o 1 5) x) else .error 5
  | _ => .error 2

/-- The K slot's opcode map, R30. -/
def decK (opc : BitVec 8) (o : BitVec 16) (x : Option Ext) : Except Nat Instr :=
  match opc.toNat with
  | 0x01 => noExt x (if o = 0#16 then accept .ntreq else .error 5)
  | 0x02 => noExt x (accept (.sctl (fld o 13 3) (fld o 0 13)))
  | 0x03 => noExt x (if (fld o 0 7) = 0#7 then accept (.sctlEnt (fld o 12 4) (fld o 7 5)) else .error 5)
  | 0x04 => noExt x (accept (.srtIota (fld o 11 5) (fld o 0 11)))
  | 0x05 => noExt x (if (fld o 11 1) = 0#1 ∧ (fld o 0 5) = 0#5 then accept (.srtCeA (fld o 12 4) (fld o 8 3) (fld o 5 3)) else .error 5)
  | 0x06 => noExt x (if (fld o 11 1) = 0#1 ∧ (fld o 0 5) = 0#5 then accept (.srtCeD (fld o 12 4) (fld o 8 3) (fld o 5 3)) else .error 5)
  | 0x07 => noExt x (if (fld o 11 1) = 0#1 ∧ (fld o 0 7) = 0#7 then accept (.srtTop (fld o 12 4) (fld o 7 4)) else .error 5)
  | 0x08 => noExt x (if (fld o 0 6) = 0#6 then accept (.ptRd (fld o 11 5) (fld o 6 5)) else .error 5)
  | 0x09 => noExt x (if (fld o 11 5) = 0#5 ∧ (fld o 0 1) = 0#1 then accept (.ptWr (fld o 6 5) (fld o 1 5)) else .error 5)
  | 0x0A => noExt x (if (fld o 11 5) = 0#5 ∧ (fld o 0 2) = 0#2 then accept (.ptUpd (fld o 6 5) (fld o 2 4)) else .error 5)
  | 0x0B => noExt x (if (fld o 11 5) = 0#5 ∧ (fld o 0 1) = 0#1 then accept (.ptClr (fld o 6 5) (fld o 1 5)) else .error 5)
  | 0x0C => noExt x (if (fld o 0 1) = 0#1 then accept (.demand (fld o 11 5) (fld o 6 5) (fld o 1 5)) else .error 5)
  | 0x0D => noExt x (if (fld o 0 1) = 0#1 then accept (.redem (fld o 11 5) (fld o 6 5) (fld o 1 5)) else .error 5)
  | 0x0E => noExt x (if (fld o 0 1) = 0#1 then accept (.tolShare (fld o 11 5) (fld o 6 5) (fld o 1 5)) else .error 5)
  | 0x0F => noExt x (if (fld o 0 5) = 0#5 then accept (.tolMin (fld o 11 5) (fld o 6 5) (bit o 5)) else .error 5)
  | 0x10 => noExt x (if (fld o 0 9) = 0#9 then accept (.itrDef (fld o 14 2) (fld o 9 5)) else .error 5)
  | 0x11 => noExt x (if (fld o 0 9) = 0#9 then accept (.itrFit (fld o 11 5) (fld o 9 2)) else .error 5)
  | 0x12 => noExt x (accept (.stGrade (fld o 13 3) (fld o 8 5) (bit o 7) (fld o 0 7)))
  | _ => .error 2

/-- The L slot's opcode map, R31. -/
def decL (opc : BitVec 8) (o : BitVec 16) (x : Option Ext) : Except Nat Instr :=
  match opc.toNat with
  | 0x01 => withUnion (decOff (fld o 0 8) x) fun u => accept (.ldB (fld o 11 5) (fld o 8 3) u)
  | 0x02 => withUnion (decOff (fld o 0 8) x) fun u => accept (.ldBu (fld o 11 5) (fld o 8 3) u)
  | 0x03 => withUnion (decOff (fld o 0 8) x) fun u => accept (.ldH (fld o 11 5) (fld o 8 3) u)
  | 0x04 => withUnion (decOff (fld o 0 8) x) fun u => accept (.ldHu (fld o 11 5) (fld o 8 3) u)
  | 0x05 => withUnion (decOff (fld o 0 8) x) fun u => accept (.ldW (fld o 11 5) (fld o 8 3) u)
  | 0x06 => withUnion (decOff (fld o 0 8) x) fun u => accept (.ldWu (fld o 11 5) (fld o 8 3) u)
  | 0x07 => withUnion (decOff (fld o 0 8) x) fun u => accept (.ldD (fld o 11 5) (fld o 8 3) u)
  | 0x08 => withUnion (decOff (fld o 0 8) x) fun u => accept (.stB (fld o 11 5) (fld o 8 3) u)
  | 0x09 => withUnion (decOff (fld o 0 8) x) fun u => accept (.stH (fld o 11 5) (fld o 8 3) u)
  | 0x0A => withUnion (decOff (fld o 0 8) x) fun u => accept (.stW (fld o 11 5) (fld o 8 3) u)
  | 0x0B => withUnion (decOff (fld o 0 8) x) fun u => accept (.stD (fld o 11 5) (fld o 8 3) u)
  | 0x0C => withUnion (decOff (fld o 0 8) x) fun u => accept (.ldVF32 (fld o 11 5) (fld o 8 3) u)
  | 0x0D => withUnion (decOff (fld o 0 8) x) fun u => accept (.ldVF16 (fld o 11 5) (fld o 8 3) u)
  | 0x0E => withUnion (decOff (fld o 0 8) x) fun u => accept (.ldVBf16 (fld o 11 5) (fld o 8 3) u)
  | 0x0F => withUnion (decOff (fld o 0 8) x) fun u => accept (.ldVE4m3 (fld o 11 5) (fld o 8 3) u)
  | 0x10 => withUnion (decOff (fld o 0 8) x) fun u => accept (.ldVE5m2 (fld o 11 5) (fld o 8 3) u)
  | 0x11 => withUnion (decOff (fld o 0 8) x) fun u => accept (.ldVI8 (fld o 11 5) (fld o 8 3) u)
  | 0x12 => withUnion (decOff (fld o 0 8) x) fun u => accept (.ldVI32 (fld o 11 5) (fld o 8 3) u)
  | 0x13 => withUnion (decOff (fld o 0 8) x) fun u => accept (.ldVSx7 (fld o 11 5) (fld o 8 3) u)
  | 0x14 => withUnion (decOff (fld o 0 8) x) fun u => accept (.ldVSx4 (fld o 11 5) (fld o 8 3) u)
  | 0x15 => withUnion (decOff (fld o 0 8) x) fun u => accept (.ldVSx2 (fld o 11 5) (fld o 8 3) u)
  | 0x16 => withUnion (decOff (fld o 0 8) x) fun u => accept (.ldVAq8 (fld o 11 5) (fld o 8 3) u)
  | 0x17 => withUnion (decOff (fld o 0 6) x) fun u => accept (.ldVBcast (fld o 11 5) (fld o 8 3) (fld o 6 2) u)
  | 0x18 => accept (.ldVx (fld o 11 5) (fld o 8 3) (fld o 3 5) (bit o 2) (fld o 0 2) x)
  | 0x19 => withUnion (decOff (fld o 0 5) x) fun u => accept (.stV (fld o 11 5) (fld o 8 3) (fld o 5 3) u)
  | 0x1A => withUnion (decOff (fld o 0 5) x) fun u => accept (.stVCmp (fld o 11 5) (fld o 8 3) (fld o 5 3) u)
  | 0x1B => accept (.stVx (fld o 11 5) (fld o 8 3) (fld o 3 5) (fld o 0 3) x)
  | 0x1C => if (fld o 11 2) = 0#2 then withUnion (decOff (fld o 0 8) x) fun u => accept (.ldM (fld o 13 3) (fld o 8 3) u) else .error 5
  | 0x1D => if (fld o 11 2) = 0#2 then withUnion (decOff (fld o 0 8) x) fun u => accept (.stM (fld o 13 3) (fld o 8 3) u) else .error 5
  | _ => .error 2

/-- The V slot's opcode map, R32. -/
def decV (opc : BitVec 8) (o : BitVec 16) (x : Option Ext) : Except Nat Instr :=
  match opc.toNat with
  | 0x01 => noExt x (withUnion (decVaOp o) fun u => accept (.vaddF32 u))
  | 0x02 => noExt x (withUnion (decVaOp o) fun u => accept (.vsubF32 u))
  | 0x03 => noExt x (withUnion (decVaOp o) fun u => accept (.vmulF32 u))
  | 0x04 => noExt x (withUnion (decVaOp o) fun u => accept (.vfmaF32 u))
  | 0x05 => noExt x (withUnion (decVaOp o) fun u => accept (.vminF32 u))
  | 0x06 => noExt x (withUnion (decVaOp o) fun u => accept (.vmaxF32 u))
  | 0x07 => noExt x (withUnion (decVuOp o) fun u => accept (.vabsF32 u))
  | 0x08 => noExt x (withUnion (decVuOp o) fun u => accept (.vnegF32 u))
  | 0x09 => noExt x (withUnion (decVaOp o) fun u => accept (.vaddBf16 u))
  | 0x0A => noExt x (withUnion (decVaOp o) fun u => accept (.vsubBf16 u))
  | 0x0B => noExt x (withUnion (decVaOp o) fun u => accept (.vmulBf16 u))
  | 0x0C => noExt x (withUnion (decVaOp o) fun u => accept (.vfmaBf16 u))
  | 0x0D => noExt x (withUnion (decVaOp o) fun u => accept (.vminBf16 u))
  | 0x0E => noExt x (withUnion (decVaOp o) fun u => accept (.vmaxBf16 u))
  | 0x0F => noExt x (withUnion (decVuOp o) fun u => accept (.vabsBf16 u))
  | 0x10 => noExt x (withUnion (decVuOp o) fun u => accept (.vnegBf16 u))
  | 0x11 => noExt x (withUnion (decVaOp o) fun u => accept (.vaddI32 u))
  | 0x12 => noExt x (withUnion (decVaOp o) fun u => accept (.vsubI32 u))
  | 0x13 => noExt x (withUnion (decVaOp o) fun u => accept (.vmulI32 u))
  | 0x14 => noExt x (withUnion (decVaOp o) fun u => accept (.vminI32 u))
  | 0x15 => noExt x (withUnion (decVaOp o) fun u => accept (.vmaxI32 u))
  | 0x16 => noExt x (withUnion (decVaOp o) fun u => accept (.vand u))
  | 0x17 => noExt x (withUnion (decVaOp o) fun u => accept (.vor u))
  | 0x18 => noExt x (withUnion (decVaOp o) fun u => accept (.vxor u))
  | 0x19 => noExt x (withUnion (decVaOp o) fun u => accept (.vshl u))
  | 0x1A => noExt x (withUnion (decVaOp o) fun u => accept (.vshr u))
  | 0x1B => noExt x (withUnion (decVaOp o) fun u => accept (.vsar u))
  | 0x1C => noExt x (accept (.vcmpF32 (fld o 13 3) (fld o 10 3) (fld o 5 5) (fld o 0 5)))
  | 0x1D => noExt x (accept (.vcmpBf16 (fld o 13 3) (fld o 10 3) (fld o 5 5) (fld o 0 5)))
  | 0x1E => noExt x (accept (.vcmpI32 (fld o 13 3) (fld o 10 3) (fld o 5 5) (fld o 0 5)))
  | 0x1F => noExt x (withUnion (decVuOp o) fun u => accept (.vrcpF32 u))
  | 0x20 => noExt x (withUnion (decVuOp o) fun u => accept (.vrsqrtF32 u))
  | 0x21 => noExt x (withUnion (decVuOp o) fun u => accept (.vexp2F32 u))
  | 0x22 => noExt x (withUnion (decVuOp o) fun u => accept (.vlog2F32 u))
  | 0x23 => noExt x (if (fld o 0 3) = 0#3 then accept (.vredAddF32 (fld o 11 5) (fld o 6 5) (fld o 3 3)) else .error 5)
  | 0x24 => noExt x (if (fld o 0 3) = 0#3 then accept (.vredMaxF32 (fld o 11 5) (fld o 6 5) (fld o 3 3)) else .error 5)
  | 0x25 => noExt x (if (fld o 0 3) = 0#3 then accept (.vredAddI32 (fld o 11 5) (fld o 6 5) (fld o 3 3)) else .error 5)
  | 0x26 => noExt x (if (fld o 0 1) = 0#1 then accept (.vperm (fld o 11 5) (fld o 6 5) (fld o 1 5)) else .error 5)
  | 0x27 => noExt x (accept (.vbcast (fld o 11 5) (fld o 6 5) (fld o 0 6)))
  | 0x28 => noExt x (accept (.vrot (fld o 11 5) (fld o 6 5) (fld o 0 6)))
  | 0x29 => noExt x (accept (.vsel (fld o 11 5) (fld o 6 5) (fld o 3 3) (fld o 0 3)))
  | 0x2A => noExt x (if (fld o 0 7) = 0#7 then accept (.mand (fld o 13 3) (fld o 10 3) (fld o 7 3)) else .error 5)
  | 0x2B => noExt x (if (fld o 0 7) = 0#7 then accept (.mor (fld o 13 3) (fld o 10 3) (fld o 7 3)) else .error 5)
  | 0x2C => noExt x (if (fld o 0 7) = 0#7 then accept (.mxor (fld o 13 3) (fld o 10 3) (fld o 7 3)) else .error 5)
  | 0x2D => noExt x (if (fld o 0 7) = 0#7 then accept (.mandn (fld o 13 3) (fld o 10 3) (fld o 7 3)) else .error 5)
  | 0x2E => noExt x (if (fld o 0 8) = 0#8 then accept (.mpop (fld o 11 5) (fld o 8 3)) else .error 5)
  | 0x2F => noExt x (withUnion (decSplatSrc (fld o 0 11)) fun u => accept (.vsplatF32 (fld o 11 5) u))
  | 0x30 => noExt x (withUnion (decSplatSrc (fld o 0 11)) fun u => accept (.vsplatI32 (fld o 11 5) u))
  | 0x31 => noExt x (if (fld o 0 3) = 0#3 then accept (.vmov (fld o 11 5) (fld o 6 5) (fld o 3 3)) else .error 5)
  | 0x32 => noExt x (accept (.cvt (fld o 11 5) (fld o 6 5) (fld o 2 4) (fld o 0 2)))
  | 0x33 => noExt x (if (fld o 11 1) = 0#1 ∧ (fld o 0 1) = 0#1 then accept (.cvtFit (fld o 12 4) (fld o 6 5) (bit o 5) (fld o 1 4)) else .error 5)
  | 0x34 => noExt x (accept (.cvtSx (fld o 11 5) (fld o 6 5) (fld o 4 2) (fld o 0 4)))
  | 0x35 => noExt x (if (fld o 0 6) = 0#6 then accept (.cvtAq8 (fld o 11 5) (fld o 6 5)) else .error 5)
  | _ => .error 2

/-- The X slot's opcode map, R33. -/
def decX (opc : BitVec 8) (o : BitVec 16) (x : Option Ext) : Except Nat Instr :=
  match opc.toNat with
  | 0x01 => noExt x (if (fld o 0 9) = 0#9 then accept (.mxPermit (fld o 11 5) (fld o 9 2)) else .error 5)
  | 0x02 => noExt x (if o = 0#16 then accept .mxRel else .error 5)
  | 0x03 => withUnion (decCfgSrc o x) fun u => accept (.mxCfg u)
  | 0x04 => if (fld o 0 7) = 0#7 then accept (.mxLd (fld o 14 2) (fld o 11 3) (fld o 7 4) x) else .error 5
  | 0x05 => if (fld o 0 7) = 0#7 then accept (.mxLdT (fld o 14 2) (fld o 11 3) (fld o 7 4) x) else .error 5
  | 0x06 => if (fld o 0 3) = 0#3 then accept (.mxLdr (fld o 14 2) (fld o 11 3) (fld o 7 4) (fld o 4 3) (bit o 3) x) else .error 5
  | 0x07 => noExt x (if (fld o 0 11) = 0#11 then accept (.mxWsel (fld o 14 2) (fld o 12 2) (bit o 11)) else .error 5)
  | 0x08 => noExt x (if (fld o 0 14) = 0#14 then accept (.mxCsum (fld o 14 2)) else .error 5)
  | 0x09 => noExt x (if (fld o 0 4) = 0#4 then accept (.mxRun (fld o 13 3) (fld o 11 2) (fld o 9 2) (fld o 4 5)) else .error 5)
  | 0x0A => noExt x (if (fld o 0 4) = 0#4 then accept (.mxRunSet (fld o 13 3) (fld o 11 2) (fld o 9 2) (fld o 4 5)) else .error 5)
  | 0x0B => noExt x (if (fld o 0 12) = 0#12 then accept (.mxClr (fld o 13 3) (bit o 12)) else .error 5)
  | 0x0C => if (fld o 4 2) = 0#2 then withUnion (decRowCnt x) fun u => accept (.mxDrain (fld o 11 5) (fld o 8 3) (fld o 6 2) (fld o 0 4) u) else .error 5
  | _ => .error 2

/-- The F slot's opcode map, R34. -/
def decF (opc : BitVec 8) (o : BitVec 16) (x : Option Ext) : Except Nat Instr :=
  match opc.toNat with
  | 0x01 => noExt x (if (fld o 0 7) = 0#7 then accept (.fdA (fld o 13 3) (fld o 11 2) (fld o 7 4)) else .error 5)
  | 0x02 => noExt x (if (fld o 0 1) = 0#1 then accept (.fdAMc (fld o 13 3) (fld o 11 2) (fld o 7 4) (fld o 4 3) (fld o 1 3)) else .error 5)
  | 0x03 => noExt x (if (fld o 0 4) = 0#4 then accept (.fdAr (fld o 13 3) (fld o 11 2) (fld o 7 4) (fld o 4 3)) else .error 5)
  | 0x04 => noExt x (if o = 0#16 then accept .fdZ else .error 5)
  | 0x05 => noExt x (if (fld o 3 1) = 0#1 then accept (.fdWin (fld o 13 3) (fld o 10 3) (fld o 8 2) (fld o 4 4) (fld o 0 3)) else .error 5)
  | 0x06 => noExt x (if (fld o 3 1) = 0#1 then accept (.fdTap (fld o 13 3) (fld o 10 3) (fld o 8 2) (fld o 4 4) (fld o 0 3)) else .error 5)
  | 0x07 => noExt x (withUnion (decFOffSrc (fld o 0 14)) fun u => accept (.fdOff (fld o 14 2) u))
  | 0x08 => noExt x (withUnion (decFIncSrc (fld o 0 14)) fun u => accept (.fdInc (fld o 14 2) u))
  | _ => .error 2

/-- The C slot's opcode map, R35. -/
def decC (opc : BitVec 8) (o : BitVec 16) (x : Option Ext) : Except Nat Instr :=
  match opc.toNat with
  | 0x01 => withUnion (decRec (fld o 0 7) x) fun u => accept (.cpIn (fld o 11 5) (fld o 7 4) u)
  | 0x02 => withUnion (decRec (fld o 0 7) x) fun u => accept (.cpOut (fld o 11 5) (fld o 7 4) u)
  | 0x03 => withUnion (decRec (fld o 0 7) x) fun u => accept (.cpPf (fld o 11 5) (fld o 7 4) u)
  | 0x04 => withUnion (decRec (fld o 0 7) x) fun u => accept (.cpGat (fld o 11 5) (fld o 7 4) u)
  | 0x05 => withUnion (decRec (fld o 0 7) x) fun u => accept (.cpCst (fld o 11 5) (fld o 7 4) u)
  | 0x06 => withUnion (decRec (fld o 0 4) x) fun u => accept (.accLd (fld o 11 5) (fld o 7 4) (fld o 4 3) u)
  | 0x07 => withUnion (decRec (fld o 0 4) x) fun u => accept (.accSt (fld o 11 5) (fld o 7 4) (fld o 4 3) u)
  | 0x08 => if (fld o 0 3) = 0#3 then accept (.gld (fld o 11 5) (fld o 6 5) (fld o 4 2) (bit o 3) x) else .error 5
  | 0x09 => if (fld o 0 4) = 0#4 then accept (.gst (fld o 11 5) (fld o 6 5) (fld o 4 2) x) else .error 5
  | 0x0A => accept (.atAdd (fld o 11 5) (fld o 6 5) (fld o 1 5) (bit o 0) x)
  | 0x0B => if (fld o 0 1) = 0#1 then accept (.atFadd (fld o 11 5) (fld o 6 5) (fld o 1 5) x) else .error 5
  | 0x0C => accept (.atMin (fld o 11 5) (fld o 6 5) (fld o 1 5) (bit o 0) x)
  | 0x0D => accept (.atMax (fld o 11 5) (fld o 6 5) (fld o 1 5) (bit o 0) x)
  | 0x0E => if (fld o 0 1) = 0#1 then accept (.atFmin (fld o 11 5) (fld o 6 5) (fld o 1 5) x) else .error 5
  | 0x0F => if (fld o 0 1) = 0#1 then accept (.atFmax (fld o 11 5) (fld o 6 5) (fld o 1 5) x) else .error 5
  | 0x10 => accept (.atAnd (fld o 11 5) (fld o 6 5) (fld o 1 5) (bit o 0) x)
  | 0x11 => accept (.atOr (fld o 11 5) (fld o 6 5) (fld o 1 5) (bit o 0) x)
  | 0x12 => accept (.atXor (fld o 11 5) (fld o 6 5) (fld o 1 5) (bit o 0) x)
  | 0x13 => accept (.atSwap (fld o 11 5) (fld o 6 5) (fld o 1 5) (bit o 0) x)
  | 0x14 => accept (.atCas (fld o 11 5) (fld o 6 5) (fld o 1 5) (bit o 0) x)
  | 0x15 => if (fld o 11 5) = 0#5 ∧ (fld o 0 1) = 0#1 then withUnion (decRegExt (fld o 1 5) x) fun u => accept (.barInit (fld o 6 5) u) else .error 5
  | 0x16 => if (fld o 0 1) = 0#1 then withUnion (decRegExt (fld o 1 5) x) fun u => accept (.barArr (fld o 11 5) (fld o 6 5) u) else .error 5
  | 0x17 => noExt x (accept (.drain (fld o 13 3) (fld o 10 3) (fld o 7 3) (fld o 4 3) (fld o 0 4)))
  | 0x18 => noExt x (if o = 0#16 then accept .qpoint else .error 5)
  | 0x19 => if (fld o 0 4) = 0#4 then withUnion (decCidSrc (fld o 4 5) x) fun u => accept (.anchor (fld o 14 2) (fld o 9 5) u) else .error 5
  | 0x1A => if (fld o 0 14) = 0#14 then withUnion (decRelCid x) fun u => accept (.hznRel (fld o 14 2) u) else .error 5
  | 0x1B => if (fld o 0 1) = 0#1 then accept (.cld (fld o 11 5) (fld o 6 5) (fld o 4 2) (fld o 2 2) (bit o 1) x) else .error 5
  | 0x1C => if (fld o 0 1) = 0#1 then withUnion (decRegExt (fld o 1 5) x) fun u => accept (.publish (fld o 11 5) (fld o 6 5) u) else .error 5
  | 0x1D => withUnion (decRec (fld o 0 7) x) fun u => accept (.gred (fld o 11 5) (fld o 7 4) u)
  | 0x1E => withUnion (decRec (fld o 0 6) x) fun u => accept (.xdisp (fld o 11 5) (fld o 7 4) (bit o 6) u)
  | 0x1F => withUnion (decRec (fld o 0 4) x) fun u => accept (.resolve (fld o 11 5) (fld o 7 4) (fld o 4 3) u)
  | _ => .error 2

/-- The N slot's opcode map, R36. -/
def decN (opc : BitVec 8) (o : BitVec 16) (x : Option Ext) : Except Nat Instr :=
  match opc.toNat with
  | 0x01 => noExt x (if (fld o 0 6) = 0#6 then accept (.send (fld o 11 5) (fld o 6 5)) else .error 5)
  | 0x02 => noExt x (if (fld o 0 6) = 0#6 then accept (.sendQ (fld o 11 5) (fld o 6 5)) else .error 5)
  | 0x03 => noExt x (if (fld o 0 6) = 0#6 then accept (.sendMc (fld o 11 5) (fld o 6 5)) else .error 5)
  | 0x04 => noExt x (if (fld o 0 8) = 0#8 then accept (.recv (fld o 11 5) (fld o 8 3)) else .error 5)
  | 0x05 => noExt x (if (fld o 0 8) = 0#8 then accept (.recvAdd (fld o 11 5) (fld o 8 3)) else .error 5)
  | 0x06 => noExt x (if (fld o 0 8) = 0#8 then accept (.recvMax (fld o 11 5) (fld o 8 3)) else .error 5)
  | 0x07 => noExt x (if (fld o 0 4) = 0#4 then accept (.collStart (fld o 11 5) (fld o 6 5) (fld o 4 2)) else .error 5)
  | 0x08 => noExt x (if (fld o 0 11) = 0#11 then accept (.collAbort (fld o 11 5)) else .error 5)
  | _ => .error 2

/-- The operation of one slot, by the opcode map of that slot. OPC 0x00 is `nop` or no instruction (R15). -/
def decOp (k : Slot) (opc : BitVec 8) (o : BitVec 16) (x : Option Ext) : Except Nat Instr :=
  match k with
  | .S => decS opc o x | .K => decK opc o x | .L => decL opc o x | .V => decV opc o x
  | .X => decX opc o x | .F => decF opc o x | .C => decC opc o x | .N => decN opc o x

/-- One slot of a word (R14, R15, R17, R19): reason 3 for OPC 0x00 with anything else set, reason 4 for an extension
beside `nop`. -/
def decSlot (k : Slot) (v : BitVec 28) (x : Option Ext) : Except Nat SlotOp :=
  let guard : PReg := v.extractLsb' 24 4
  let opc : BitVec 8 := v.extractLsb' 16 8
  let o : BitVec 16 := v.extractLsb' 0 16
  if opc = 0#8 then
    if v = 0#28 then (match x with | none => .ok ⟨0#4, .nop⟩ | some _ => .error 4) else .error 3
  else
    match decOp k opc o x with
    | .ok i => .ok ⟨guard, i⟩
    | .error r => .error r

/-- The 28 bits of slot `k` (R11). -/
def slotBits (w : W256) (k : Slot) : BitVec 28 := w.extractLsb' (196 - 28 * k.num) 28

/-- The header, bits 255 to 224 (R13). -/
def headerBits (w : W256) : BitVec 32 := w.extractLsb' 224 32

/-- The extension bit of the pair whose left-hand slot is `k`, and the slot that serves it (R13, R17). -/
def extPair (h : BitVec 32) : Slot → Option Slot
  | .S => if h.getLsbD 2 then some .K else none
  | .L => if h.getLsbD 3 then some .V else none
  | .X => if h.getLsbD 4 then some .F else none
  | .C => if h.getLsbD 5 then some .N else none
  | .K | .V | .F | .N => none

/-- Whether slot `k` serves as an extension (R17). -/
def isExtSlot (h : BitVec 32) : Slot → Bool
  | .K => h.getLsbD 2 | .V => h.getLsbD 3 | .F => h.getLsbD 4 | .N => h.getLsbD 5
  | .S | .L | .X | .C => false

/-- Slot `k` of the word as it works in it. -/
def wordSlot (w : W256) (k : Slot) : Except Nat SlotOp :=
  let h := headerBits w
  if isExtSlot h k then .ok ⟨0#4, .nop⟩
  else decSlot k (slotBits w k) ((extPair h k).map (slotBits w))

/-- The slots in ascending order. -/
def allSlots : List Slot := [.S, .K, .L, .V, .X, .F, .C, .N]

/-- A pass of the X slot, which needs a feed beside it (R187). -/
def Instr.isPass : Instr → Bool
  | .mxRun _ _ _ _ | .mxRunSet _ _ _ _ => true
  | _ => false

/-- A feed of the F slot, which needs a pass beside it (R187). -/
def Instr.isFeed : Instr → Bool
  | .fdA _ _ _ | .fdAMc _ _ _ _ _ | .fdAr _ _ _ _ | .fdZ | .fdWin _ _ _ _ _ | .fdTap _ _ _ _ _ => true
  | _ => false

/-- OPC of slot `k`, or 0 where the slot serves as an extension (R14, R17). -/
def slotOpc (w : W256) (k : Slot) : Nat :=
  if isExtSlot (headerBits w) k then 0 else ((slotBits w k).extractLsb' 16 8).toNat

/-- Whether an OPC of the X slot is that of a pass, `mx.run` or `mx.run.set` (R34). -/
def passOpc (n : Nat) : Bool := decide (n = 0x09) || decide (n = 0x0A)

/-- Whether an OPC of the F slot is that of a feed, `fd.a` to `fd.tap` (R34). -/
def feedOpc (n : Nat) : Bool := decide (1 ≤ n) && decide (n ≤ 6)

/-- Which slot a pass without a feed, or a feed without a pass, makes illegal under reason 5 (R187), by the OPC values of
the X and the F slot: a slot holds an instruction by its OPC, whatever reason its other fields give. -/
def pairFault (x f : Nat) : Option Slot :=
  if passOpc x && !feedOpc f then some .X
  else if feedOpc f && !passOpc x then some .F
  else none

/-- The reason of R19 that slot `k` gives, reason 6 for an instruction that this kind of core does not have. -/
def slotReason (ctl : Bool) (pair : Option Slot) (k : Slot) (r : Except Nat SlotOp) : Option Nat :=
  match r with
  | .error n => some n
  | .ok s =>
    if pair = some k then some 5
    else if ctl && (decide (k = .X) || decide (k = .F)) && decide (s.op ≠ .nop) then some 6
    else
      match s.op with
      | .watch _ _ _ _ => if ctl then none else some 6
      | _ => none

/-- The first reason found, the table's order before the slots' order (R19). -/
def firstReason : List (Slot × Option Nat) → Option (Nat × Slot)
  | [] => none
  | (k, some n) :: rest =>
    match firstReason rest with
    | some (m, k') => if m < n then some (m, k') else some (n, k)
    | none => some (n, k)
  | (_, none) :: rest => firstReason rest

/-- Why a word is no instruction (R19): the reason, the slot in which it lies, and whether it lies in the header. -/
structure Illegal where
  reason : Nat
  slot : Nat
  header : Bool
  deriving DecidableEq, Repr

/-- The word, decoded on a compute core (`ctl` false) or a control core (R11 to R19, R187). -/
def decodeWord (ctl : Bool) (w : W256) : Except Illegal LongWord :=
  let h := headerBits w
  if h.extractLsb' 0 2 ≠ 0#2 then .error ⟨1, 0, true⟩
  else
    let ds := allSlots.map fun k => (k, wordSlot w k)
    let pair := pairFault (slotOpc w .X) (slotOpc w .F)
    match firstReason (ds.map fun p => (p.1, slotReason ctl pair p.1 p.2)) with
    | some (n, k) => .error ⟨n, k.num, false⟩
    | none =>
      .ok { mark := h.getLsbD 31, yld := h.getLsbD 30, sync := h.extractLsb' 22 8, pop := h.extractLsb' 14 8,
            step := h.extractLsb' 6 8,
            slots := ds.map fun p => match p.2 with | .ok s => s | .error _ => ⟨0#4, .nop⟩ }

/-! ## Encoding -/

/-- What `encode` gives for an instruction: its slot, its opcode, its operand field, and the extension it needs. -/
structure Enc where
  slot : Slot
  opc : BitVec 8
  opnd : BitVec 16
  ext : Option Ext
  deriving DecidableEq, Repr

/-- The 28 bits of the slot (R14). -/
def Enc.bits (e : Enc) (guard : PReg) : BitVec 28 := guard ++ e.opc ++ e.opnd

/-- The encoding of a slot instruction, written from the same layouts; an event has none. -/
def encode : Instr → Option Enc
  | .nop => some ⟨.S, 0x00#8, 0#16, none⟩
  | .add sd sa b => some ⟨.S, 0x01#8, sd ++ sa ++ (encSrcB b).1, (encSrcB b).2⟩
  | .sub sd sa b => some ⟨.S, 0x02#8, sd ++ sa ++ (encSrcB b).1, (encSrcB b).2⟩
  | .mul sd sa b => some ⟨.S, 0x03#8, sd ++ sa ++ (encSrcB b).1, (encSrcB b).2⟩
  | .mulh sd sa b => some ⟨.S, 0x04#8, sd ++ sa ++ (encSrcB b).1, (encSrcB b).2⟩
  | .and sd sa b => some ⟨.S, 0x05#8, sd ++ sa ++ (encSrcB b).1, (encSrcB b).2⟩
  | .or sd sa b => some ⟨.S, 0x06#8, sd ++ sa ++ (encSrcB b).1, (encSrcB b).2⟩
  | .xor sd sa b => some ⟨.S, 0x07#8, sd ++ sa ++ (encSrcB b).1, (encSrcB b).2⟩
  | .shl sd sa b => some ⟨.S, 0x08#8, sd ++ sa ++ (encSrcB b).1, (encSrcB b).2⟩
  | .shr sd sa b => some ⟨.S, 0x09#8, sd ++ sa ++ (encSrcB b).1, (encSrcB b).2⟩
  | .sar sd sa b => some ⟨.S, 0x0A#8, sd ++ sa ++ (encSrcB b).1, (encSrcB b).2⟩
  | .min sd sa b => some ⟨.S, 0x0B#8, sd ++ sa ++ (encSrcB b).1, (encSrcB b).2⟩
  | .max sd sa b => some ⟨.S, 0x0C#8, sd ++ sa ++ (encSrcB b).1, (encSrcB b).2⟩
  | .minu sd sa b => some ⟨.S, 0x0D#8, sd ++ sa ++ (encSrcB b).1, (encSrcB b).2⟩
  | .maxu sd sa b => some ⟨.S, 0x0E#8, sd ++ sa ++ (encSrcB b).1, (encSrcB b).2⟩
  | .clz sd sa => some ⟨.S, 0x0F#8, sd ++ sa ++ 0#6, none⟩
  | .popc sd sa => some ⟨.S, 0x10#8, sd ++ sa ++ 0#6, none⟩
  | .mov sd src => some ⟨.S, 0x11#8, sd ++ (encMovSrc src).1, (encMovSrc src).2⟩
  | .sel sd sa pc alt => some ⟨.S, 0x12#8, sd ++ sa ++ pc ++ 0#2, alt⟩
  | .aset aj src => some ⟨.S, 0x13#8, aj ++ (encAsetSrc src).1, (encAsetSrc src).2⟩
  | .aget sd aj src => some ⟨.S, 0x14#8, sd ++ aj ++ (encAgetSrc src).1, (encAgetSrc src).2⟩
  | .cmpEq pd sa b => some ⟨.S, 0x15#8, 0#1 ++ pd ++ 0#1 ++ sa ++ (encSrcB b).1, (encSrcB b).2⟩
  | .cmpNe pd sa b => some ⟨.S, 0x16#8, 0#1 ++ pd ++ 0#1 ++ sa ++ (encSrcB b).1, (encSrcB b).2⟩
  | .cmpLt pd sa b => some ⟨.S, 0x17#8, 0#1 ++ pd ++ 0#1 ++ sa ++ (encSrcB b).1, (encSrcB b).2⟩
  | .cmpLe pd sa b => some ⟨.S, 0x18#8, 0#1 ++ pd ++ 0#1 ++ sa ++ (encSrcB b).1, (encSrcB b).2⟩
  | .cmpLtu pd sa b => some ⟨.S, 0x19#8, 0#1 ++ pd ++ 0#1 ++ sa ++ (encSrcB b).1, (encSrcB b).2⟩
  | .cmpLeu pd sa b => some ⟨.S, 0x1A#8, 0#1 ++ pd ++ 0#1 ++ sa ++ (encSrcB b).1, (encSrcB b).2⟩
  | .pand pd pa pb => some ⟨.S, 0x1B#8, pd ++ 0#1 ++ pa ++ pb ++ 0#4, none⟩
  | .por pd pa pb => some ⟨.S, 0x1C#8, pd ++ 0#1 ++ pa ++ pb ++ 0#4, none⟩
  | .fadd sd sa sb => some ⟨.S, 0x1D#8, sd ++ sa ++ sb ++ 0#1, none⟩
  | .fsub sd sa sb => some ⟨.S, 0x1E#8, sd ++ sa ++ sb ++ 0#1, none⟩
  | .fmul sd sa sb => some ⟨.S, 0x1F#8, sd ++ sa ++ sb ++ 0#1, none⟩
  | .ffma sd sa sb => some ⟨.S, 0x20#8, sd ++ sa ++ sb ++ 0#1, none⟩
  | .fmin sd sa sb => some ⟨.S, 0x21#8, sd ++ sa ++ sb ++ 0#1, none⟩
  | .fmax sd sa sb => some ⟨.S, 0x22#8, sd ++ sa ++ sb ++ 0#1, none⟩
  | .fcmpEq pd sa sb => some ⟨.S, 0x23#8, 0#1 ++ pd ++ 0#1 ++ sa ++ sb ++ 0#1, none⟩
  | .fcmpLt pd sa sb => some ⟨.S, 0x24#8, 0#1 ++ pd ++ 0#1 ++ sa ++ sb ++ 0#1, none⟩
  | .fcmpLe pd sa sb => some ⟨.S, 0x25#8, 0#1 ++ pd ++ 0#1 ++ sa ++ sb ++ 0#1, none⟩
  | .br off => some ⟨.S, 0x26#8, (encBrOff off).1, (encBrOff off).2⟩
  | .brx sa => some ⟨.S, 0x27#8, 0#5 ++ sa ++ 0#6, none⟩
  | .call off => some ⟨.S, 0x28#8, (encBrOff off).1, (encBrOff off).2⟩
  | .ret => some ⟨.S, 0x29#8, 0#16, none⟩
  | .loop frame cnt last => some ⟨.S, 0x2A#8, BitVec.ofBool frame ++ (encLoopCnt cnt).1 ++ last, (encLoopCnt cnt).2⟩
  | .loopS frame sa last => some ⟨.S, 0x2B#8, BitVec.ofBool frame ++ 0#2 ++ sa ++ last, none⟩
  | .yieldT sa => some ⟨.S, 0x2C#8, 0#5 ++ sa ++ 0#6, none⟩
  | .yieldB sa => some ⟨.S, 0x2D#8, 0#5 ++ sa ++ 0#6, none⟩
  | .spec off => some ⟨.S, 0x2E#8, off, none⟩
  | .specCommit pc => some ⟨.S, 0x2F#8, pc ++ 0#12, none⟩
  | .specAbort => some ⟨.S, 0x30#8, 0#16, none⟩
  | .exit => some ⟨.S, 0x31#8, 0#16, none⟩
  | .trap imm => some ⟨.S, 0x32#8, imm, none⟩
  | .rti next => some ⟨.S, 0x33#8, 0#15 ++ BitVec.ofBool next, none⟩
  | .csrd sd csr => some ⟨.S, 0x34#8, sd ++ csr, none⟩
  | .csrw csr v => some ⟨.S, 0x35#8, (encCsrSrc v).1 ++ csr, (encCsrSrc v).2⟩
  | .csrs csr v => some ⟨.S, 0x36#8, (encCsrSrc v).1 ++ csr, (encCsrSrc v).2⟩
  | .csrc csr v => some ⟨.S, 0x37#8, (encCsrSrc v).1 ++ csr, (encCsrSrc v).2⟩
  | .launch sd sa n => some ⟨.S, 0x38#8, sd ++ sa ++ (encSrcB n).1, (encSrcB n).2⟩
  | .watch sd sa sb timeout => some ⟨.S, 0x39#8, sd ++ sa ++ sb ++ 0#1, timeout⟩
  | .ntreq => some ⟨.K, 0x01#8, 0#16, none⟩
  | .sctl aj off => some ⟨.K, 0x02#8, aj ++ off, none⟩
  | .sctlEnt k sa => some ⟨.K, 0x03#8, k ++ sa ++ 0#7, none⟩
  | .srtIota vd c => some ⟨.K, 0x04#8, vd ++ c, none⟩
  | .srtCeA vk dist flip => some ⟨.K, 0x05#8, vk ++ 0#1 ++ dist ++ flip ++ 0#5, none⟩
  | .srtCeD vk dist flip => some ⟨.K, 0x06#8, vk ++ 0#1 ++ dist ++ flip ++ 0#5, none⟩
  | .srtTop va vb => some ⟨.K, 0x07#8, va ++ 0#1 ++ vb ++ 0#7, none⟩
  | .ptRd sd sa => some ⟨.K, 0x08#8, sd ++ sa ++ 0#6, none⟩
  | .ptWr sa sb => some ⟨.K, 0x09#8, 0#5 ++ sa ++ sb ++ 0#1, none⟩
  | .ptUpd sa pc => some ⟨.K, 0x0A#8, 0#5 ++ sa ++ pc ++ 0#2, none⟩
  | .ptClr sa sb => some ⟨.K, 0x0B#8, 0#5 ++ sa ++ sb ++ 0#1, none⟩
  | .demand sd sa sb => some ⟨.K, 0x0C#8, sd ++ sa ++ sb ++ 0#1, none⟩
  | .redem sd sa sb => some ⟨.K, 0x0D#8, sd ++ sa ++ sb ++ 0#1, none⟩
  | .tolShare sd sa sb => some ⟨.K, 0x0E#8, sd ++ sa ++ sb ++ 0#1, none⟩
  | .tolMin sd sa cls => some ⟨.K, 0x0F#8, sd ++ sa ++ BitVec.ofBool cls ++ 0#5, none⟩
  | .itrDef it sa => some ⟨.K, 0x10#8, it ++ sa ++ 0#9, none⟩
  | .itrFit sd it => some ⟨.K, 0x11#8, sd ++ it ++ 0#9, none⟩
  | .stGrade aj sa adj off => some ⟨.K, 0x12#8, aj ++ sa ++ BitVec.ofBool adj ++ off, none⟩
  | .ldB sd aj off => some ⟨.L, 0x01#8, sd ++ aj ++ (encOff off).1, (encOff off).2⟩
  | .ldBu sd aj off => some ⟨.L, 0x02#8, sd ++ aj ++ (encOff off).1, (encOff off).2⟩
  | .ldH sd aj off => some ⟨.L, 0x03#8, sd ++ aj ++ (encOff off).1, (encOff off).2⟩
  | .ldHu sd aj off => some ⟨.L, 0x04#8, sd ++ aj ++ (encOff off).1, (encOff off).2⟩
  | .ldW sd aj off => some ⟨.L, 0x05#8, sd ++ aj ++ (encOff off).1, (encOff off).2⟩
  | .ldWu sd aj off => some ⟨.L, 0x06#8, sd ++ aj ++ (encOff off).1, (encOff off).2⟩
  | .ldD sd aj off => some ⟨.L, 0x07#8, sd ++ aj ++ (encOff off).1, (encOff off).2⟩
  | .stB sd aj off => some ⟨.L, 0x08#8, sd ++ aj ++ (encOff off).1, (encOff off).2⟩
  | .stH sd aj off => some ⟨.L, 0x09#8, sd ++ aj ++ (encOff off).1, (encOff off).2⟩
  | .stW sd aj off => some ⟨.L, 0x0A#8, sd ++ aj ++ (encOff off).1, (encOff off).2⟩
  | .stD sd aj off => some ⟨.L, 0x0B#8, sd ++ aj ++ (encOff off).1, (encOff off).2⟩
  | .ldVF32 vd aj off => some ⟨.L, 0x0C#8, vd ++ aj ++ (encOff off).1, (encOff off).2⟩
  | .ldVF16 vd aj off => some ⟨.L, 0x0D#8, vd ++ aj ++ (encOff off).1, (encOff off).2⟩
  | .ldVBf16 vd aj off => some ⟨.L, 0x0E#8, vd ++ aj ++ (encOff off).1, (encOff off).2⟩
  | .ldVE4m3 vd aj off => some ⟨.L, 0x0F#8, vd ++ aj ++ (encOff off).1, (encOff off).2⟩
  | .ldVE5m2 vd aj off => some ⟨.L, 0x10#8, vd ++ aj ++ (encOff off).1, (encOff off).2⟩
  | .ldVI8 vd aj off => some ⟨.L, 0x11#8, vd ++ aj ++ (encOff off).1, (encOff off).2⟩
  | .ldVI32 vd aj off => some ⟨.L, 0x12#8, vd ++ aj ++ (encOff off).1, (encOff off).2⟩
  | .ldVSx7 vd aj off => some ⟨.L, 0x13#8, vd ++ aj ++ (encOff off).1, (encOff off).2⟩
  | .ldVSx4 vd aj off => some ⟨.L, 0x14#8, vd ++ aj ++ (encOff off).1, (encOff off).2⟩
  | .ldVSx2 vd aj off => some ⟨.L, 0x15#8, vd ++ aj ++ (encOff off).1, (encOff off).2⟩
  | .ldVAq8 vd aj off => some ⟨.L, 0x16#8, vd ++ aj ++ (encOff off).1, (encOff off).2⟩
  | .ldVBcast vd aj t off => some ⟨.L, 0x17#8, vd ++ aj ++ t ++ (encOff off).1, (encOff off).2⟩
  | .ldVx vd aj vi i32 mk disp => some ⟨.L, 0x18#8, vd ++ aj ++ vi ++ BitVec.ofBool i32 ++ mk, disp⟩
  | .stV vs aj mk off => some ⟨.L, 0x19#8, vs ++ aj ++ mk ++ (encOff off).1, (encOff off).2⟩
  | .stVCmp vs aj mk off => some ⟨.L, 0x1A#8, vs ++ aj ++ mk ++ (encOff off).1, (encOff off).2⟩
  | .stVx vs aj vi mk disp => some ⟨.L, 0x1B#8, vs ++ aj ++ vi ++ mk, disp⟩
  | .ldM mk aj off => some ⟨.L, 0x1C#8, mk ++ 0#2 ++ aj ++ (encOff off).1, (encOff off).2⟩
  | .stM mk aj off => some ⟨.L, 0x1D#8, mk ++ 0#2 ++ aj ++ (encOff off).1, (encOff off).2⟩
  | .vaddF32 ops => some ⟨.V, 0x01#8, (encVaOp ops), none⟩
  | .vsubF32 ops => some ⟨.V, 0x02#8, (encVaOp ops), none⟩
  | .vmulF32 ops => some ⟨.V, 0x03#8, (encVaOp ops), none⟩
  | .vfmaF32 ops => some ⟨.V, 0x04#8, (encVaOp ops), none⟩
  | .vminF32 ops => some ⟨.V, 0x05#8, (encVaOp ops), none⟩
  | .vmaxF32 ops => some ⟨.V, 0x06#8, (encVaOp ops), none⟩
  | .vabsF32 ops => some ⟨.V, 0x07#8, (encVuOp ops), none⟩
  | .vnegF32 ops => some ⟨.V, 0x08#8, (encVuOp ops), none⟩
  | .vaddBf16 ops => some ⟨.V, 0x09#8, (encVaOp ops), none⟩
  | .vsubBf16 ops => some ⟨.V, 0x0A#8, (encVaOp ops), none⟩
  | .vmulBf16 ops => some ⟨.V, 0x0B#8, (encVaOp ops), none⟩
  | .vfmaBf16 ops => some ⟨.V, 0x0C#8, (encVaOp ops), none⟩
  | .vminBf16 ops => some ⟨.V, 0x0D#8, (encVaOp ops), none⟩
  | .vmaxBf16 ops => some ⟨.V, 0x0E#8, (encVaOp ops), none⟩
  | .vabsBf16 ops => some ⟨.V, 0x0F#8, (encVuOp ops), none⟩
  | .vnegBf16 ops => some ⟨.V, 0x10#8, (encVuOp ops), none⟩
  | .vaddI32 ops => some ⟨.V, 0x11#8, (encVaOp ops), none⟩
  | .vsubI32 ops => some ⟨.V, 0x12#8, (encVaOp ops), none⟩
  | .vmulI32 ops => some ⟨.V, 0x13#8, (encVaOp ops), none⟩
  | .vminI32 ops => some ⟨.V, 0x14#8, (encVaOp ops), none⟩
  | .vmaxI32 ops => some ⟨.V, 0x15#8, (encVaOp ops), none⟩
  | .vand ops => some ⟨.V, 0x16#8, (encVaOp ops), none⟩
  | .vor ops => some ⟨.V, 0x17#8, (encVaOp ops), none⟩
  | .vxor ops => some ⟨.V, 0x18#8, (encVaOp ops), none⟩
  | .vshl ops => some ⟨.V, 0x19#8, (encVaOp ops), none⟩
  | .vshr ops => some ⟨.V, 0x1A#8, (encVaOp ops), none⟩
  | .vsar ops => some ⟨.V, 0x1B#8, (encVaOp ops), none⟩
  | .vcmpF32 cond md va vb => some ⟨.V, 0x1C#8, cond ++ md ++ va ++ vb, none⟩
  | .vcmpBf16 cond md va vb => some ⟨.V, 0x1D#8, cond ++ md ++ va ++ vb, none⟩
  | .vcmpI32 cond md va vb => some ⟨.V, 0x1E#8, cond ++ md ++ va ++ vb, none⟩
  | .vrcpF32 ops => some ⟨.V, 0x1F#8, (encVuOp ops), none⟩
  | .vrsqrtF32 ops => some ⟨.V, 0x20#8, (encVuOp ops), none⟩
  | .vexp2F32 ops => some ⟨.V, 0x21#8, (encVuOp ops), none⟩
  | .vlog2F32 ops => some ⟨.V, 0x22#8, (encVuOp ops), none⟩
  | .vredAddF32 sd va mk => some ⟨.V, 0x23#8, sd ++ va ++ mk ++ 0#3, none⟩
  | .vredMaxF32 sd va mk => some ⟨.V, 0x24#8, sd ++ va ++ mk ++ 0#3, none⟩
  | .vredAddI32 sd va mk => some ⟨.V, 0x25#8, sd ++ va ++ mk ++ 0#3, none⟩
  | .vperm vd va vi => some ⟨.V, 0x26#8, vd ++ va ++ vi ++ 0#1, none⟩
  | .vbcast vd va n => some ⟨.V, 0x27#8, vd ++ va ++ n, none⟩
  | .vrot vd va n => some ⟨.V, 0x28#8, vd ++ va ++ n, none⟩
  | .vsel vd va vb mk => some ⟨.V, 0x29#8, vd ++ va ++ vb ++ mk, none⟩
  | .mand md ma mb => some ⟨.V, 0x2A#8, md ++ ma ++ mb ++ 0#7, none⟩
  | .mor md ma mb => some ⟨.V, 0x2B#8, md ++ ma ++ mb ++ 0#7, none⟩
  | .mxor md ma mb => some ⟨.V, 0x2C#8, md ++ ma ++ mb ++ 0#7, none⟩
  | .mandn md ma mb => some ⟨.V, 0x2D#8, md ++ ma ++ mb ++ 0#7, none⟩
  | .mpop sd ma => some ⟨.V, 0x2E#8, sd ++ ma ++ 0#8, none⟩
  | .vsplatF32 vd src => some ⟨.V, 0x2F#8, vd ++ (encSplatSrc src), none⟩
  | .vsplatI32 vd src => some ⟨.V, 0x30#8, vd ++ (encSplatSrc src), none⟩
  | .vmov vd va mk => some ⟨.V, 0x31#8, vd ++ va ++ mk ++ 0#3, none⟩
  | .cvt vd va t part => some ⟨.V, 0x32#8, vd ++ va ++ t ++ part, none⟩
  | .cvtFit vd va cls k => some ⟨.V, 0x33#8, vd ++ 0#1 ++ va ++ BitVec.ofBool cls ++ k ++ 0#1, none⟩
  | .cvtSx vd va fmt k => some ⟨.V, 0x34#8, vd ++ va ++ fmt ++ k, none⟩
  | .cvtAq8 vd va => some ⟨.V, 0x35#8, vd ++ va ++ 0#6, none⟩
  | .mxPermit sd lvl => some ⟨.X, 0x01#8, sd ++ lvl ++ 0#9, none⟩
  | .mxRel => some ⟨.X, 0x02#8, 0#16, none⟩
  | .mxCfg src => some ⟨.X, 0x03#8, (encCfgSrc src).1, (encCfgSrc src).2⟩
  | .mxLd wd aj fmt disp => some ⟨.X, 0x04#8, wd ++ aj ++ fmt ++ 0#7, disp⟩
  | .mxLdT wd aj fmt disp => some ⟨.X, 0x05#8, wd ++ aj ++ fmt ++ 0#7, disp⟩
  | .mxLdr wd aj fmt kx t disp => some ⟨.X, 0x06#8, wd ++ aj ++ fmt ++ kx ++ BitVec.ofBool t ++ 0#3, disp⟩
  | .mxWsel wd ws t => some ⟨.X, 0x07#8, wd ++ ws ++ BitVec.ofBool t ++ 0#11, none⟩
  | .mxCsum ws => some ⟨.X, 0x08#8, ws ++ 0#14, none⟩
  | .mxRun acc w op st => some ⟨.X, 0x09#8, acc ++ w ++ op ++ st ++ 0#4, none⟩
  | .mxRunSet acc w op st => some ⟨.X, 0x0A#8, acc ++ w ++ op ++ st ++ 0#4, none⟩
  | .mxClr acc ninf => some ⟨.X, 0x0B#8, acc ++ BitVec.ofBool ninf ++ 0#12, none⟩
  | .mxDrain st acc cvt strm rows => some ⟨.X, 0x0C#8, st ++ acc ++ cvt ++ 0#2 ++ strm, (encRowCnt rows)⟩
  | .fdA aj fk fmt => some ⟨.F, 0x01#8, aj ++ fk ++ fmt ++ 0#7, none⟩
  | .fdAMc aj fk fmt kx members => some ⟨.F, 0x02#8, aj ++ fk ++ fmt ++ kx ++ members ++ 0#1, none⟩
  | .fdAr aj fk fmt kx => some ⟨.F, 0x03#8, aj ++ fk ++ fmt ++ kx ++ 0#4, none⟩
  | .fdZ => some ⟨.F, 0x04#8, 0#16, none⟩
  | .fdWin aj ak fk fmt wl => some ⟨.F, 0x05#8, aj ++ ak ++ fk ++ fmt ++ 0#1 ++ wl, none⟩
  | .fdTap aj ak fk fmt wl => some ⟨.F, 0x06#8, aj ++ ak ++ fk ++ fmt ++ 0#1 ++ wl, none⟩
  | .fdOff fk src => some ⟨.F, 0x07#8, fk ++ (encFOffSrc src), none⟩
  | .fdInc fk src => some ⟨.F, 0x08#8, fk ++ (encFIncSrc src), none⟩
  | .cpIn st ch rec => some ⟨.C, 0x01#8, st ++ ch ++ (encRec rec).1, (encRec rec).2⟩
  | .cpOut st ch rec => some ⟨.C, 0x02#8, st ++ ch ++ (encRec rec).1, (encRec rec).2⟩
  | .cpPf st ch rec => some ⟨.C, 0x03#8, st ++ ch ++ (encRec rec).1, (encRec rec).2⟩
  | .cpGat st ch rec => some ⟨.C, 0x04#8, st ++ ch ++ (encRec rec).1, (encRec rec).2⟩
  | .cpCst st ch rec => some ⟨.C, 0x05#8, st ++ ch ++ (encRec rec).1, (encRec rec).2⟩
  | .accLd st ch acc rec => some ⟨.C, 0x06#8, st ++ ch ++ acc ++ (encRec rec).1, (encRec rec).2⟩
  | .accSt st ch acc rec => some ⟨.C, 0x07#8, st ++ ch ++ acc ++ (encRec rec).1, (encRec rec).2⟩
  | .gld sd sa size sx disp => some ⟨.C, 0x08#8, sd ++ sa ++ size ++ BitVec.ofBool sx ++ 0#3, disp⟩
  | .gst sb sa size disp => some ⟨.C, 0x09#8, sb ++ sa ++ size ++ 0#4, disp⟩
  | .atAdd sd sa sb w disp => some ⟨.C, 0x0A#8, sd ++ sa ++ sb ++ BitVec.ofBool w, disp⟩
  | .atFadd sd sa sb disp => some ⟨.C, 0x0B#8, sd ++ sa ++ sb ++ 0#1, disp⟩
  | .atMin sd sa sb w disp => some ⟨.C, 0x0C#8, sd ++ sa ++ sb ++ BitVec.ofBool w, disp⟩
  | .atMax sd sa sb w disp => some ⟨.C, 0x0D#8, sd ++ sa ++ sb ++ BitVec.ofBool w, disp⟩
  | .atFmin sd sa sb disp => some ⟨.C, 0x0E#8, sd ++ sa ++ sb ++ 0#1, disp⟩
  | .atFmax sd sa sb disp => some ⟨.C, 0x0F#8, sd ++ sa ++ sb ++ 0#1, disp⟩
  | .atAnd sd sa sb w disp => some ⟨.C, 0x10#8, sd ++ sa ++ sb ++ BitVec.ofBool w, disp⟩
  | .atOr sd sa sb w disp => some ⟨.C, 0x11#8, sd ++ sa ++ sb ++ BitVec.ofBool w, disp⟩
  | .atXor sd sa sb w disp => some ⟨.C, 0x12#8, sd ++ sa ++ sb ++ BitVec.ofBool w, disp⟩
  | .atSwap sd sa sb w disp => some ⟨.C, 0x13#8, sd ++ sa ++ sb ++ BitVec.ofBool w, disp⟩
  | .atCas sd sa sb w disp => some ⟨.C, 0x14#8, sd ++ sa ++ sb ++ BitVec.ofBool w, disp⟩
  | .barInit sa n => some ⟨.C, 0x15#8, 0#5 ++ sa ++ (encRegExt n).1 ++ 0#1, (encRegExt n).2⟩
  | .barArr sd sa m => some ⟨.C, 0x16#8, sd ++ sa ++ (encRegExt m).1 ++ 0#1, (encRegExt m).2⟩
  | .drain scope loads stores copies tiles => some ⟨.C, 0x17#8, scope ++ loads ++ stores ++ copies ++ tiles, none⟩
  | .qpoint => some ⟨.C, 0x18#8, 0#16, none⟩
  | .anchor hj sd cid => some ⟨.C, 0x19#8, hj ++ sd ++ (encCidSrc cid).1 ++ 0#4, (encCidSrc cid).2⟩
  | .hznRel hj cid => some ⟨.C, 0x1A#8, hj ++ 0#14, (encRelCid cid)⟩
  | .cld sd sa hj size sx disp => some ⟨.C, 0x1B#8, sd ++ sa ++ hj ++ size ++ BitVec.ofBool sx ++ 0#1, disp⟩
  | .publish sd sa ver => some ⟨.C, 0x1C#8, sd ++ sa ++ (encRegExt ver).1 ++ 0#1, (encRegExt ver).2⟩
  | .gred st ch rec => some ⟨.C, 0x1D#8, st ++ ch ++ (encRec rec).1, (encRec rec).2⟩
  | .xdisp st ch q rec => some ⟨.C, 0x1E#8, st ++ ch ++ BitVec.ofBool q ++ (encRec rec).1, (encRec rec).2⟩
  | .resolve st ch k rec => some ⟨.C, 0x1F#8, st ++ ch ++ k ++ (encRec rec).1, (encRec rec).2⟩
  | .send vs sa => some ⟨.N, 0x01#8, vs ++ sa ++ 0#6, none⟩
  | .sendQ vs sa => some ⟨.N, 0x02#8, vs ++ sa ++ 0#6, none⟩
  | .sendMc vs sa => some ⟨.N, 0x03#8, vs ++ sa ++ 0#6, none⟩
  | .recv vd qj => some ⟨.N, 0x04#8, vd ++ qj ++ 0#8, none⟩
  | .recvAdd vd qj => some ⟨.N, 0x05#8, vd ++ qj ++ 0#8, none⟩
  | .recvMax vd qj => some ⟨.N, 0x06#8, vd ++ qj ++ 0#8, none⟩
  | .collStart sd sa gs => some ⟨.N, 0x07#8, sd ++ sa ++ gs ++ 0#4, none⟩
  | .collAbort sd => some ⟨.N, 0x08#8, sd ++ 0#11, none⟩
  | .wordDispatch _ => none
  | .markCommit _ => none
  | .specForcedAbort _ => none
  | .watchFire _ => none
  | .watchTimeout _ => none
  | .shootdownStart _ => none
  | .tileCounterServe _ => none
  | .nextTileDelivery _ => none
  | .predictorTableApply _ => none
  | .toleranceDemandServe _ _ => none
  | .permitGrant _ => none
  | .fabricBurstPermit => none
  | .passRowWrite _ => none
  | .mcRendezvousClose _ => none
  | .copyRowLanding _ _ => none
  | .copyCompletion _ _ => none
  | .combiningBufferSend _ _ => none
  | .barrierNotify _ => none
  | .sendReservation _ => none
  | .sendArrival _ => none
  | .walkerTransfer _ _ => none
  | .collectiveCompletion _ _ => none
  | .reductionComplete _ => none
  | .rdPkt _ => none
  | .wrPkt _ => none
  | .wrmPkt _ => none
  | .wrcPkt _ => none
  | .rdcPkt _ => none
  | .atPkt _ => none
  | .ancPkt _ => none
  | .pubPkt _ => none
  | .barPkt _ => none
  | .redPkt _ => none
  | .qrptPkt _ => none
  | .mgmtPkt _ => none
  | .replyPkt _ => none
  | .unknownOpPacket _ => none
  | .forwardedRequest _ => none
  | .multicastWr _ => none
  | .packetRoute _ _ => none
  | .laneNonminimalMove _ _ => none
  | .laneMinimalReturn _ _ => none
  | .requestTimeout _ => none
  | .expertRowArrival _ => none
  | .overflowAfterWait _ _ => none
  | .pageWalk _ _ => none
  | .shootdownWatchdog _ => none
  | .shootdownEnd _ => none
  | .migrationService => none
  | .pageMove _ _ _ _ _ => none
  | .stepGraphAccept _ _ => none
  | .taskBind _ => none
  | .taskAging _ => none
  | .recordCompletion _ => none
  | .spanLimit _ => none
  | .swapOut _ => none
  | .reload _ => none
  | .pipelinePreempt _ => none
  | .loaderTile _ _ => none
  | .storerWriteback _ => none
  | .faultQueueService _ => none
  | .lineRetire _ => none
  | .patrolScrub _ => none
  | .coreRetire _ => none
  | .rosterRemove _ => none
  | .laneSpare _ => none
  | .portDown _ => none
  | .linkUp _ _ => none
  | .hostAccess _ => none
  | .hifVersionWrite _ _ => none
  | .submissionQueueServe _ _ => none
  | .functionLevelReset _ => none
  | .placeSubq _ => none
  | .placeRepl _ => none
  | .cstCreate _ => none
  | .cstDestroy _ => none
  | .errlog _ => none
  | .roster _ => none
  | .faultAns _ => none
  | .debugCmd _ => none
  | .setLtr _ => none
  | .quote _ => none
  | .preempt _ => none
  | .flr _ => none
  | .faultNext _ => none
  | .mailboxUnknownCmd _ => none
  | .mailboxGoBusy _ => none
  | .powerLevelEnter _ => none
  | .powerWake _ => none
  | .thermalGrantHold _ _ => none
  | .thermalClockHalve _ _ => none
  | .thermalShutdown _ _ => none
  | .powerOnBoot => none
  | .writeQueueBankWrite _ => none
  | .remoteReadArrival _ => none
  | .barrierQueryAnswer _ => none
  | .occupancyReport _ => none
  | .thermalGrantResume _ _ => none
  | .thermalClockRestore _ _ => none
  | .pooledMemoryReply _ _ => none

/-- The slot at the right hand of a pair, and the header bit that joins it (R13, R17). -/
def extPartner : Slot → Option (Slot × Nat)
  | .S => some (.K, 2) | .L => some (.V, 3) | .X => some (.F, 4) | .C => some (.N, 5)
  | .K | .V | .F | .N => none

/-- The 28 bits of a slot at their place in the word (R11). -/
def placeSlot (k : Slot) (v : BitVec 28) : W256 := (v.setWidth 256) <<< (196 - 28 * k.num)

/-- A whole word that holds one encoded operation under guard p0, with its extension where it has one. -/
def Enc.word (e : Enc) : W256 :=
  let w := placeSlot e.slot (e.bits 0#4)
  match e.ext, extPartner e.slot with
  | some x, some (k, b) => w ||| placeSlot k x ||| ((1#256) <<< (224 + b))
  | _, _ => w

/-! ## Words as bytes -/

/-- A 256-bit word from its 32 bytes, the lowest first (R11). -/
def wordOfBytes (bs : List Byte) : W256 :=
  bs.foldr (fun b acc => (acc <<< 8) ||| b.setWidth 256) 0#256

/-- The 32 bytes of a word, byte k holding bits 8k + 7 to 8k (R11). -/
def bytesOfWord (w : W256) : List Byte := (List.range 32).map fun k => w.extractLsb' (8 * k) 8

/-- The one operation of a word whose other slots hold `nop`, or none where several work. -/
def soleOp : List SlotOp → Option Instr
  | [] => some .nop
  | s :: rest => if s.op = .nop then soleOp rest else if rest.all (fun t => decide (t.op = .nop)) then some s.op else none

/-- The instruction the decoder reads from a word of `nbits` bits, every bit above `nbits` zero.
A word of several operations is not one instruction, and a pass stands only beside its feed: for those the answer is
none. A word that a compute core refuses is tried as a control core's, which alone has `watch`. -/
def decodeTableWord (nbits w : Nat) : Option Instr :=
  let v : W256 := BitVec.ofNat 256 (w % 2 ^ nbits)
  match decodeWord false v with
  | .ok lw => soleOp lw.slots
  | .error _ =>
    match decodeWord true v with
    | .ok lw => soleOp lw.slots
    | .error _ => none

end Sys2Proof
end

