-- ==== Sys2Proof/Machine/Bits.lean ====
section
/-!
DEFINITION. Bit fields, byte order, packed elements and keyed maps: the helpers that every other file calls.
-/

namespace Sys2Proof.Machine

/-! ## Maps from a number to a value, as sorted lists of pairs -/

/-- A map from numbers: pairs in strictly rising key order. A key not listed reads as the default its user names. -/
abbrev AMap (α : Type) := List (Nat × α)

/-- The value at `k`, or none. -/
def AMap.find? {α : Type} : AMap α → Nat → Option α
  | [], _ => none
  | (j, v) :: rest, k => if j = k then some v else AMap.find? rest k

/-- The value at `k`, and `d` where the map lists none. -/
def AMap.get {α : Type} (d : α) (m : AMap α) (k : Nat) : α := (m.find? k).getD d

/-- `v` written at `k`. -/
def AMap.set {α : Type} : AMap α → Nat → α → AMap α
  | [], k, v => [(k, v)]
  | (j, u) :: rest, k, v =>
    if k < j then (k, v) :: (j, u) :: rest
    else if k = j then (k, v) :: rest
    else (j, u) :: AMap.set rest k v

/-- The key `k` taken out. -/
def AMap.erase {α : Type} (m : AMap α) (k : Nat) : AMap α := m.filter fun p => decide (p.1 ≠ k)

/-! ## Bits and bytes -/

/-- Bits `lo` upward of a number, `w` of them. -/
def bits (x lo w : Nat) : Nat := x / 2 ^ lo % 2 ^ w

/-- Whether bit `i` of a number is set. -/
def bitAt (x i : Nat) : Bool := decide (x / 2 ^ i % 2 = 1)

/-- A number of `w` bits read as two's complement. -/
def signed (w x : Nat) : Int := if 2 ^ (w - 1) ≤ x % 2 ^ w then (x % 2 ^ w : Int) - 2 ^ w else (x % 2 ^ w : Int)

/-- An integer held in `w` bits. -/
def wrap (w : Nat) (x : Int) : Nat := (x % (2 ^ w : Int)).toNat

/-- 64 bits of an integer. -/
def w64 (x : Int) : W64 := BitVec.ofInt 64 x

/-- A bit as a number. -/
def b2n (b : Bool) : Nat := if b then 1 else 0

/-- Little-endian number of a list of bytes. -/
def leNat (bs : List Byte) : Nat := bs.foldr (fun b acc => b.toNat + 256 * acc) 0

/-- The `n` low bytes of a number, the lowest first. -/
def leBytes (n x : Nat) : List Byte := (List.range n).map fun k => BitVec.ofNat 8 (x / 2 ^ (8 * k))

/-- Elements of `w` bits of a packed number, the lowest first. -/
def elems (w n x : Nat) : List Nat := (List.range n).map fun j => x / 2 ^ (w * j) % 2 ^ w

/-- A packed number from its elements of `w` bits. -/
def packElems (w : Nat) (xs : List Nat) : Nat := xs.foldr (fun x acc => x % 2 ^ w + 2 ^ w * acc) 0

/-- Number of leading zero bits among `w`. -/
def clzNat : Nat → Nat → Nat
  | 0, _ => 0
  | w + 1, x => if bitAt x w then 0 else 1 + clzNat w x

/-- Number of one bits among the low `w`. -/
def popcNat : Nat → Nat → Nat
  | 0, _ => 0
  | w + 1, x => b2n (bitAt x w) + popcNat w x

/-- Number of the (j+1)-th lowest set bit of a map of `w` bits (R47), or none. -/
def nthSet (w x j : Nat) : Option Nat := ((List.range w).filter fun i => bitAt x i)[j]?

/-! ## Vector registers (R64) -/

/-- Lane `j` of a vector register. -/
def lane (v : VBits) (j : Nat) : W32 := v.extractLsb' (32 * j) 32

/-- The 64 lanes, in order. -/
def lanes (v : VBits) : List W32 := (List.range 64).map (lane v)

/-- A vector register from its lanes. -/
def ofLanes (xs : List W32) : VBits := BitVec.ofNat 2048 (packElems 32 (xs.map (·.toNat)))

/-- Elements of `w` bits of a vector register. -/
def vElems (w : Nat) (v : VBits) : List Nat := elems w (2048 / w) v.toNat

/-- A vector register from its elements of `w` bits. -/
def ofElems (w : Nat) (xs : List Nat) : VBits := BitVec.ofNat 2048 (packElems w xs)

/-- The 256 bytes of a vector register. -/
def vBytes (v : VBits) : List Byte := (vElems 8 v).map (BitVec.ofNat 8)

/-- A vector register whose low bytes are `bs`, the rest zero (R123). -/
def ofBytes (bs : List Byte) : VBits := BitVec.ofNat 2048 (leNat bs)

/-- Lane by lane, `a` where the mask is set and `b` elsewhere. -/
def maskLanes (mk : W64) (a b : VBits) : VBits :=
  ofLanes ((List.range 64).map fun j => if mk.getLsbD j then lane a j else lane b j)

end Sys2Proof.Machine
end

