-- ==== Sys2Proof/Machine/Fp.lean ====
section
/-!
DEFINITION. Floating point: exact values, the five rounding modes, the standard formats (R65 to R67, R79 to R81) and
the estimates of R157. Operands are decoded to exact values, the operation is exact, and one rounding ends it.
-/

namespace Sys2Proof.Machine

/-! ## Flags, in the bit positions of fstat (R56) -/

abbrev Flags := BitVec 8

def fNX : Flags := 0x01#8
def fUF : Flags := 0x02#8
def fOF : Flags := 0x04#8
def fDZ : Flags := 0x08#8
def fNV : Flags := 0x10#8
def fSOF : Flags := 0x20#8
def fSUF : Flags := 0x40#8
def fQCL : Flags := 0x80#8

def flagIf (b : Bool) (f : Flags) : Flags := if b then f else 0#8

/-! ## Exact values -/

/-- An exact value: a NaN (and whether it signals), an infinity, or ±m·2^e. -/
inductive XV where
  | nan (sig : Bool)
  | inf (neg : Bool)
  | fin (neg : Bool) (m : Nat) (e : Int)
  deriving DecidableEq, Repr

def XV.zero : XV := .fin false 0 0

def XV.isNan : XV → Bool
  | .nan _ => true
  | _ => false

def XV.isSig : XV → Bool
  | .nan s => s
  | _ => false

def XV.isFinite : XV → Bool
  | .fin _ _ _ => true
  | _ => false

def XV.neg : XV → XV
  | .nan s => .nan s
  | .inf n => .inf (!n)
  | .fin n m e => .fin (!n) m e

def XV.abs : XV → XV
  | .nan s => .nan s
  | .inf _ => .inf false
  | .fin _ m e => .fin false m e

/-- The integer of value m·2^(e - base), for base at or below e. -/
def alignInt (neg : Bool) (m : Nat) (e base : Int) : Int :=
  let k : Int := (m * 2 ^ (e - base).toNat : Nat)
  if neg then -k else k

/-- Exact product, and whether it is invalid (a signalling operand, or ∞ × 0). -/
def XV.mul (a b : XV) : XV × Bool :=
  match a, b with
  | .nan s, .nan t => (.nan false, s || t)
  | .nan s, _ => (.nan false, s)
  | _, .nan t => (.nan false, t)
  | .inf n, .inf k => (.inf (n != k), false)
  | .inf n, .fin k m _ => if m = 0 then (.nan false, true) else (.inf (n != k), false)
  | .fin n m _, .inf k => if m = 0 then (.nan false, true) else (.inf (n != k), false)
  | .fin n m e, .fin k m' e' => (.fin (n != k) (m * m') (e + e'), false)

/-- Exact sum, and whether it is invalid. `down` is rounding mode 3, under which opposite values cancel to −0. -/
def XV.add (down : Bool) (a b : XV) : XV × Bool :=
  match a, b with
  | .nan s, .nan t => (.nan false, s || t)
  | .nan s, _ => (.nan false, s)
  | _, .nan t => (.nan false, t)
  | .inf n, .inf k => if n = k then (.inf n, false) else (.nan false, true)
  | .inf n, .fin _ _ _ => (.inf n, false)
  | .fin _ _ _, .inf k => (.inf k, false)
  | .fin n m e, .fin k m' e' =>
    let base := min e e'
    let t := alignInt n m e base + alignInt k m' e' base
    if t = 0 then (if m = 0 ∧ m' = 0 ∧ n = k then (.fin n 0 0, false) else (.fin down 0 0, false))
    else (.fin (decide (t < 0)) t.natAbs base, false)

/-- Comparison of two values that are not NaN: −1, 0 or 1, with −0 equal to +0. -/
def XV.cmp (a b : XV) : Int :=
  match a, b with
  | .inf n, .inf k => if n = k then 0 else if n then -1 else 1
  | .inf n, _ => if n then -1 else 1
  | _, .inf k => if k then 1 else -1
  | .fin n m e, .fin k m' e' =>
    let base := min e e'
    let x := alignInt n m e base
    let y := alignInt k m' e' base
    if x < y then -1 else if y < x then 1 else 0
  | _, _ => 0

/-- Sign of a value, −0 negative. -/
def XV.isNeg : XV → Bool
  | .nan _ => false
  | .inf n => n
  | .fin n _ _ => n

/-- The smaller of two values that are no NaN, −0 below +0. -/
def XV.minv (a b : XV) : XV :=
  let c := a.cmp b
  if c < 0 then a else if 0 < c then b else if a.isNeg then a else b

def XV.maxv (a b : XV) : XV :=
  let c := a.cmp b
  if c < 0 then b else if 0 < c then a else if a.isNeg then b else a

/-! ## Formats -/

/-- A floating format: exponent bits, fraction bits, bias, and how it ends (R65, R66). -/
structure Fmt where
  eb : Nat
  mb : Nat
  bias : Nat
  fp8 : Bool
  deriving DecidableEq, Repr

def fmt32 : Fmt := ⟨8, 23, 127, false⟩
def fmt16 : Fmt := ⟨5, 10, 15, false⟩
def fmtBf : Fmt := ⟨8, 7, 127, false⟩
def fmtE4 : Fmt := ⟨4, 3, 7, true⟩
def fmtE5 : Fmt := ⟨5, 2, 15, true⟩

/-- E4M3, the one format without infinities (R66). -/
def Fmt.noInf (f : Fmt) : Bool := f.fp8 && decide (f.eb = 4)

/-- Exponent of the least subnormal. -/
def Fmt.qmin (f : Fmt) : Int := 1 - (f.bias : Int) - f.mb

/-- Sign bit of the format. -/
def Fmt.signBit (f : Fmt) : Nat := 2 ^ (f.eb + f.mb)

/-- Encoding of the largest finite magnitude. -/
def Fmt.maxBits (f : Fmt) : Nat := if f.noInf then 0x7E else (2 ^ f.eb - 1) * 2 ^ f.mb - 1

/-- Encoding of infinity, where the format has one. -/
def Fmt.infBits (f : Fmt) : Nat := (2 ^ f.eb - 1) * 2 ^ f.mb

/-- Canonical NaN (R65, R66). -/
def Fmt.nanBits (f : Fmt) : Nat := if f.fp8 then 0x7F else (2 ^ f.eb - 1) * 2 ^ f.mb + 2 ^ (f.mb - 1)

/-- Value of an encoding. -/
def Fmt.decode (f : Fmt) (x : Nat) : XV :=
  let s := bitAt x (f.eb + f.mb)
  let ex := bits x f.mb f.eb
  let fr := bits x 0 f.mb
  if f.noInf ∧ ex = 2 ^ f.eb - 1 then
    if fr = 2 ^ f.mb - 1 then .nan false else .fin s (2 ^ f.mb + fr) ((ex : Int) - f.bias - f.mb)
  else if ¬ f.noInf ∧ ex = 2 ^ f.eb - 1 then
    if fr = 0 then .inf s else .nan (!f.fp8 && !bitAt fr (f.mb - 1))
  else if ex = 0 then .fin s fr f.qmin
  else .fin s (2 ^ f.mb + fr) ((ex : Int) - f.bias - f.mb)

/-! ## Rounding (R79, R80) -/

/-- Rounding mode and flush control, as fmode holds them (R55). -/
structure FpEnv where
  rm : Nat
  ftz : Bool
  deriving DecidableEq, Repr

/-- Round to nearest even, no flush. -/
def envNE : FpEnv := ⟨0, false⟩

/-- Largest E with 2^E ≤ num/den, for num and den positive. -/
def floorLog2 (num den : Nat) : Int :=
  let e : Int := (num.log2 : Int) - den.log2
  let ok : Bool := if 0 ≤ e then decide (den * 2 ^ e.toNat ≤ num) else decide (den ≤ num * 2 ^ (-e).toNat)
  if ok then e else e - 1

/-- num/den in units of 2^q: the whole part, the remainder and the divisor. -/
def scaleQ (num den : Nat) (q : Int) : Nat × Nat × Nat :=
  let n := if 0 ≤ q then num else num * 2 ^ (-q).toNat
  let d := if 0 ≤ q then den * 2 ^ q.toNat else den
  (n / d, n % d, d)

/-- Whether a magnitude with whole part `fl` and fraction rem/d goes to the next one up, under mode `rm` (R79, R80).
`r` is the draw of the stochastic mode. -/
def roundsUp (rm : Nat) (neg : Bool) (r fl rem d : Nat) : Bool :=
  if rem = 0 then false
  else if rm = 0 then decide (d < 2 * rem) || (decide (2 * rem = d) && decide (fl % 2 = 1))
  else if rm = 2 then !neg
  else if rm = 3 then neg
  else if rm = 4 then decide (2 ^ 16 ≤ 2 ^ 16 * rem / d + r)
  else false

/-- A magnitude in units of 2^q, rounded to a whole number of them, and whether it was inexact. -/
def roundUnits (rm : Nat) (neg : Bool) (r num den : Nat) (q : Int) : Nat × Bool :=
  let (fl, rem, d) := scaleQ num den q
  (fl + b2n (roundsUp rm neg r fl rem d), decide (rem ≠ 0))

/-- RoundInt of ±num/den (R67, R72): the integer magnitude under the mode, and whether it was inexact. -/
def roundInt (rm : Nat) (neg : Bool) (r num den : Nat) : Nat × Bool := roundUnits rm neg r num den 0

/-- Whether a positive magnitude num/den is tiny (R65): rounded under the mode to the format's precision, with an unbounded
exponent, it lies below the least normal magnitude. -/
def Fmt.tinyMag (f : Fmt) (rm : Nat) (neg : Bool) (r num den : Nat) : Bool :=
  let e := floorLog2 num den
  let emin : Int := 1 - (f.bias : Int)
  if e < emin then
    let (k, _) := roundUnits rm neg r num den (e - f.mb)
    !(decide (e = emin - 1) && decide (k = 2 ^ (f.mb + 1)))
  else false

/-- A positive magnitude num/den rounded into the format (R65, R66, R79, R80): its encoding without the sign, and the
flags. Tininess is detected after rounding. -/
def Fmt.roundMag (f : Fmt) (rm : Nat) (neg : Bool) (r num den : Nat) : Nat × Flags :=
  let e := floorLog2 num den
  let q := max (e - f.mb) f.qmin
  let (k, inexact) := roundUnits rm neg r num den q
  let enc : Nat := (q - f.qmin).toNat * 2 ^ f.mb + k
  if f.maxBits < enc then
    let toInf : Bool :=
      !f.fp8 && (decide (rm = 0) || decide (rm = 4) || (decide (rm = 2) && !neg) || (decide (rm = 3) && neg))
    (if toInf then f.infBits else f.maxBits, fOF ||| fNX)
  else (enc, flagIf inexact fNX ||| flagIf (f.tinyMag rm neg r num den && inexact) fUF)

/-- Sign put on an encoding. -/
def Fmt.withSign (f : Fmt) (neg : Bool) (x : Nat) : Nat := if neg then f.signBit + x else x

/-- ±num/den rounded into the format; num may be zero. -/
def Fmt.roundQ (f : Fmt) (rm : Nat) (neg : Bool) (r num den : Nat) : Nat × Flags :=
  if num = 0 then (f.withSign neg 0, 0#8)
  else
    let (x, fl) := f.roundMag rm neg r num den
    (f.withSign neg x, fl)

/-- Numerator and denominator of m·2^e. -/
def dyadic (m : Nat) (e : Int) : Nat × Nat := if 0 ≤ e then (m * 2 ^ e.toNat, 1) else (m, 2 ^ (-e).toNat)

/-- An exact value rounded into the format. An infinity has no place in E4M3: NaN and NV (R66). -/
def Fmt.round (f : Fmt) (rm r : Nat) (x : XV) : Nat × Flags :=
  match x with
  | .nan _ => (f.nanBits, 0#8)
  | .inf n => if f.noInf then (f.nanBits, fNV) else (f.withSign n f.infBits, 0#8)
  | .fin n m e =>
    let (a, b) := dyadic m e
    f.roundQ rm n r a b

/-- Whether an FP32 encoding is a subnormal. -/
def isSub32 (x : Nat) : Bool := decide (bits x 23 8 = 0) && decide (bits x 0 23 ≠ 0)

/-- An FP32 operand: a subnormal reads as the zero of its sign under FTZ (R81). -/
def dec32 (ftz : Bool) (x : W32) : XV :=
  if ftz && isSub32 x.toNat then .fin (bitAt x.toNat 31) 0 0 else fmt32.decode x.toNat

/-- Whether an exact value is a nonzero tiny result of the format (R65). -/
def Fmt.tiny (f : Fmt) (rm r : Nat) (x : XV) : Bool :=
  match x with
  | .fin n m e => let (a, b) := dyadic m e; decide (m ≠ 0) && f.tinyMag rm n r a b
  | _ => false

/-- An FP32 result: rounded, and under FTZ a tiny one, as R65 detects it, flushed to the zero of its sign with UF and NX
(R81). -/
def rnd32 (env : FpEnv) (r : Nat) (x : XV) : W32 × Flags :=
  let (y, fl) := fmt32.round env.rm r x
  if env.ftz && fmt32.tiny env.rm r x then (BitVec.ofNat 32 (y / 2 ^ 31 * 2 ^ 31), fl ||| fUF ||| fNX)
  else (BitVec.ofNat 32 y, fl)

/-- An exact FP32 value flushed as an operand under FTZ, when it is subnormal (R81). -/
def flushXV (ftz : Bool) (x : XV) : XV :=
  match x with
  | .fin n m e =>
    if ftz && decide (m ≠ 0) && (let (a, b) := dyadic m e; decide (floorLog2 a b < -126)) then .fin n 0 0 else x
  | _ => x

/-! ## Operations on FP32 and BF16 elements (R95, R154) -/

/-- Which format an element operation works in. -/
inductive ElemFmt where
  | f32 | bf16
  deriving DecidableEq, Repr

/-- An operand of an element operation. BF16 operands are never flushed (R154). -/
def ElemFmt.dec (f : ElemFmt) (ftz : Bool) (x : Nat) : XV :=
  match f with
  | .f32 => dec32 ftz (BitVec.ofNat 32 x)
  | .bf16 => fmtBf.decode x

/-- A rounded result of an element operation. -/
def ElemFmt.rnd (f : ElemFmt) (env : FpEnv) (r : Nat) (x : XV) : Nat × Flags :=
  match f with
  | .f32 => let (y, fl) := rnd32 env r x; (y.toNat, fl)
  | .bf16 => fmtBf.round env.rm r x

def withNV (nv : Bool) (p : Nat × Flags) : Nat × Flags := (p.1, p.2 ||| flagIf nv fNV)

def fpAdd (f : ElemFmt) (env : FpEnv) (r a b : Nat) : Nat × Flags :=
  let (x, nv) := XV.add (decide (env.rm = 3)) (f.dec env.ftz a) (f.dec env.ftz b)
  withNV nv (f.rnd env r x)

/-- a − b. The sign of a NaN plays no part, so the negated operand signals as it did. -/
def fpSub (f : ElemFmt) (env : FpEnv) (r a b : Nat) : Nat × Flags :=
  let (x, nv) := XV.add (decide (env.rm = 3)) (f.dec env.ftz a) (f.dec env.ftz b).neg
  withNV nv (f.rnd env r x)

def fpMul (f : ElemFmt) (env : FpEnv) (r a b : Nat) : Nat × Flags :=
  let (x, nv) := XV.mul (f.dec env.ftz a) (f.dec env.ftz b)
  withNV nv (f.rnd env r x)

/-- a × b + d with one rounding.
DESIGN CHOICE (log 94): ∞ × 0 raises NV even where d is a quiet NaN. -/
def fpFma (f : ElemFmt) (env : FpEnv) (r a b d : Nat) : Nat × Flags :=
  let (p, nv) := XV.mul (f.dec env.ftz a) (f.dec env.ftz b)
  let (x, nv') := XV.add (decide (env.rm = 3)) p (f.dec env.ftz d)
  withNV (nv || nv') (f.rnd env r x)

/-- A value that needs no rounding, in the format: a NaN canonical, an FP32 subnormal already flushed as an operand. -/
def ElemFmt.exact (f : ElemFmt) (x : XV) : Nat := (f.rnd envNE 0 x).1

def fpMinMax (mx : Bool) (f : ElemFmt) (env : FpEnv) (a b : Nat) : Nat × Flags :=
  let x := f.dec env.ftz a
  let y := f.dec env.ftz b
  if x.isNan || y.isNan then (f.exact (.nan false), flagIf (x.isSig || y.isSig) fNV)
  else (f.exact (if mx then x.maxv y else x.minv y), 0#8)

def fpAbsNeg (ng : Bool) (f : ElemFmt) (env : FpEnv) (a : Nat) : Nat × Flags :=
  let x := f.dec env.ftz a
  (f.exact (if ng then x.neg else x.abs), flagIf x.isSig fNV)

/-- The eight float conditions of R156: whether it holds, and whether NV is raised. -/
def fpCond (c : Nat) (x y : XV) : Bool × Bool :=
  let un := x.isNan || y.isNan
  let sg := x.isSig || y.isSig
  let k := x.cmp y
  if c = 0 then (!un && decide (k = 0), sg)
  else if c = 1 then (un || decide (k ≠ 0), sg)
  else if c = 2 then (!un && decide (k < 0), un)
  else if c = 3 then (!un && decide (k ≤ 0), un)
  else if c = 4 then (!un && decide (0 < k), un)
  else if c = 5 then (!un && decide (0 ≤ k), un)
  else if c = 6 then (un, sg)
  else (!un, sg)

/-! ## Stochastic rounding's register (R80) -/

/-- One step of lfsr. -/
def stepLfsr (l : W32) : W32 := if l.getLsbD 0 then (l >>> 1) ^^^ 0x80200003#32 else l >>> 1

/-- `n` steps of lfsr. -/
def stepsLfsr : Nat → W32 → W32
  | 0, l => l
  | n + 1, l => stepsLfsr n (stepLfsr l)

/-- The draw of a state: its low 16 bits. -/
def drawOf (l : W32) : Nat := l.toNat % 2 ^ 16

/-- The draws of `n` successive elements. -/
def draws : Nat → W32 → List Nat
  | 0, _ => []
  | n + 1, l => drawOf (stepLfsr l) :: draws n (stepLfsr l)

/-! ## Estimates (R157) -/

/-- Whole square root, by trying the bits from `k` down: the greatest s with s² ≤ n, given acc² ≤ n. -/
def isqrtAux : Nat → Nat → Nat → Nat
  | 0, n, acc => if (acc + 1) * (acc + 1) ≤ n then acc + 1 else acc
  | k + 1, n, acc => let t := acc + 2 ^ (k + 1); if t * t ≤ n then isqrtAux k n t else isqrtAux k n acc

def isqrt (n : Nat) : Nat := isqrtAux (n.log2 / 2 + 1) n 0

/-- Exponent of the grid of R157 for a magnitude of binade `e`: 12-bit significands, or FP32's own grid. -/
def estQ (e : Int) : Int := max (e - 11) (-149)

/-- Encodes k·2^q as FP32 (k below 2^13): k is put on FP32's finer grid first. -/
def enc32 (k : Nat) (q : Int) : Nat :=
  let (a, b) := dyadic k q
  (fmt32.roundQ 0 false 0 a b).1

/-- What Est gives for a positive magnitude already rounded to k·2^q: overflow above 0x7F7FF000, underflow to 0. -/
def estFinish (neg : Bool) (k : Nat) (q : Int) : W32 × Flags :=
  if k = 0 then (BitVec.ofNat 32 (fmt32.withSign neg 0), fUF)
  else
    let x := enc32 k q
    if 0x7F7FF000 < x then (BitVec.ofNat 32 (fmt32.withSign neg fmt32.infBits), fOF)
    else (BitVec.ofNat 32 (fmt32.withSign neg x), 0#8)

/-- Est of ±num/den, num and den positive. -/
def estQuot (neg : Bool) (num den : Nat) : W32 × Flags :=
  let q := estQ (floorLog2 num den)
  let (k, _) := roundUnits 0 neg 0 num den q
  estFinish neg k q

/-- Est of the square root of num/den: k is the nearest whole number to √(num/den)/2^q, by comparing (2k+1)² with
4·(num/den)/2^2q; the root is irrational or exact, so no tie arises above the exact case. -/
def estSqrt (num den : Nat) : W32 × Flags :=
  let e := (floorLog2 num den) / 2
  let q := estQ e
  let (n4, _, _) := scaleQ (4 * num) den (2 * q)
  let s := isqrt n4
  estFinish false ((s + 1) / 2) q

/-- Working precision of the digit methods for 2^x and log2 x. -/
def estBits : Nat := 192

/-- 2^(2^-i) in fixed point, from √ of the one before: the list for i = 1, 2, …. -/
def rootsOfTwo : Nat → Nat → List Nat
  | 0, _ => []
  | n + 1, x => let r := isqrt (x * 2 ^ estBits); r :: rootsOfTwo n r

/-- 2^f in fixed point, for the fraction f/2^n whose bits are tried from the top. -/
def exp2Frac : List Nat → Nat → Nat → Nat → Nat
  | [], _, _, acc => acc
  | r :: rs, n, f, acc =>
    if bitAt f (n - 1) then exp2Frac rs (n - 1) f (acc * r / 2 ^ estBits) else exp2Frac rs (n - 1) f acc

/-- Number of fraction bits of the operand that the method uses. -/
def expDigits : Nat := 160

/-- Est(2^a) for a finite a = ±m·2^e. Beyond ±2^16 only the overflow and underflow of the table are left. -/
def estExp2 (neg : Bool) (m : Nat) (e : Int) : W32 × Flags :=
  if m = 0 then (0x3F800000#32, 0#8)
  else
    let (a, b) := dyadic m e
    if 16 ≤ floorLog2 a b then (if neg then (0#32, fUF) else (0x7F800000#32, fOF))
    else
      let x : Int := if neg then -((a : Int) * 2 ^ expDigits / b) else (a : Int) * 2 ^ expDigits / b
      let n : Int := x / 2 ^ expDigits
      let f : Nat := (x % (2 ^ expDigits : Int)).toNat
      let y := exp2Frac (rootsOfTwo expDigits (2 * 2 ^ estBits)) expDigits f (2 ^ estBits)
      let q := estQ n
      let (num, den) := if 0 ≤ n then (y * 2 ^ n.toNat, 2 ^ estBits) else (y, 2 ^ estBits * 2 ^ (-n).toNat)
      let (k, _) := roundUnits 0 false 0 num den q
      estFinish false k q

/-- Binary digits of log2 of a fixed-point mantissa in [1, 2), by squaring. -/
def log2Digits : Nat → Nat → Nat → Nat
  | 0, _, acc => acc
  | n + 1, y, acc =>
    let s := y * y / 2 ^ estBits
    if 2 * 2 ^ estBits ≤ s then log2Digits n (s / 2) (2 * acc + 1) else log2Digits n s (2 * acc)

/-- Number of fraction digits of log2 that the method forms. -/
def logDigits : Nat := 96

/-- Est(log2 a) for a positive finite a = m·2^e. -/
def estLog2 (m : Nat) (e : Int) : W32 × Flags :=
  let (a, b) := dyadic m e
  let n := floorLog2 a b
  let y := if 0 ≤ n then a * 2 ^ estBits / (b * 2 ^ n.toNat) else a * 2 ^ (-n).toNat * 2 ^ estBits / b
  let f := log2Digits logDigits y 0
  let t : Int := n * 2 ^ logDigits + f
  if t = 0 then (0#32, 0#8) else estQuot (decide (t < 0)) t.natAbs (2 ^ logDigits)

/-- The functions that R157 estimates. -/
inductive EstFn where
  | rcp | rsqrt | exp2 | log2
  deriving DecidableEq, Repr

/-- Flushing of an estimate's subnormal result (R81, R157): Est has rounded already, so the result is tiny exactly where its
encoding is subnormal. -/
def estFlush (ftz : Bool) (p : W32 × Flags) : W32 × Flags :=
  if ftz && isSub32 p.1.toNat then (p.1 &&& 0x80000000#32, p.2 ||| fUF ||| fNX) else p

/-- Est(f(a)) with the flags of R157's table. -/
def estimate (fn : EstFn) (ftz : Bool) (a : W32) : W32 × Flags :=
  let nanR : Bool → W32 × Flags := fun nv => (0x7FC00000#32, flagIf nv fNV)
  estFlush ftz <|
    match dec32 ftz a, fn with
    | .nan s, _ => nanR s
    | .inf n, .rcp => (if n then 0x80000000#32 else 0#32, 0#8)
    | .inf n, .rsqrt => if n then nanR true else (0#32, 0#8)
    | .inf n, .exp2 => if n then (0#32, 0#8) else (0x7F800000#32, 0#8)
    | .inf n, .log2 => if n then nanR true else (0x7F800000#32, 0#8)
    | .fin n m e, .rcp =>
      if m = 0 then (if n then 0xFF800000#32 else 0x7F800000#32, fDZ)
      else let (x, y) := dyadic m e; estQuot n y x
    | .fin n m e, .rsqrt =>
      if m = 0 then (if n then 0xFF800000#32 else 0x7F800000#32, fDZ)
      else if n then nanR true
      else let (x, y) := dyadic m e; estSqrt y x
    | .fin n m e, .exp2 => estExp2 n m e
    | .fin n m e, .log2 =>
      if m = 0 then (0xFF800000#32, fDZ) else if n then nanR true else estLog2 m e

end Sys2Proof.Machine
end

