-- ==== Sys2Proof/Machine/Formats.lean ====
section
/-!
DEFINITION. The number formats of R64 to R78 as they lie in registers and rows, their conversions (R164 to R168) and
their grades (R84, R85).
-/

namespace Sys2Proof.Machine

/-! ## Tags (R43) -/

def tRAW : Tag := 0x0#4
def tF32 : Tag := 0x1#4
def tF16 : Tag := 0x2#4
def tBF16 : Tag := 0x3#4
def tE4M3 : Tag := 0x4#4
def tE5M2 : Tag := 0x5#4
def tI8 : Tag := 0x6#4
def tI32 : Tag := 0x7#4
def tSX7 : Tag := 0x8#4
def tSX4 : Tag := 0x9#4
def tSX2 : Tag := 0xA#4
def tAQ8 : Tag := 0xB#4

/-- The format of a floating tag. -/
def tagFmt (t : Tag) : Option Fmt :=
  if t = tF32 then some fmt32 else if t = tF16 then some fmt16 else if t = tBF16 then some fmtBf
  else if t = tE4M3 then some fmtE4 else if t = tE5M2 then some fmtE5 else none

/-- M of an SX tag (R68), and 0 for any other. -/
def sxM (t : Tag) : Nat := if t = tSX7 then 7 else if t = tSX4 then 4 else if t = tSX2 then 2 else 0

def isSX (t : Tag) : Bool := decide (sxM t ≠ 0)

/-- Elements per register (R64, R164). -/
def tagCount (t : Tag) : Nat :=
  if t = tF32 ∨ t = tI32 then 64 else if t = tE4M3 ∨ t = tE5M2 ∨ t = tI8 then 256 else 128

/-- Bytes that a typed load or store of the tag moves (R123, R126). -/
def tagBytes (t : Tag) : Nat :=
  if t = tSX7 ∨ t = tAQ8 then 144 else if t = tSX4 then 96 else if t = tSX2 then 64 else 256

/-- Bytes of one 128-element row segment of the tag (R175).
DEDUCED (log 9): R175 gives no row for I32, and 128 elements of 32 bits are 512 bytes. -/
def rowBytes (t : Tag) : Nat :=
  if t = tSX2 then 64 else if t = tSX4 then 96 else if t = tSX7 ∨ t = tAQ8 then 144
  else if t = tE4M3 ∨ t = tE5M2 ∨ t = tI8 then 128 else if t = tBF16 ∨ t = tF16 then 256 else 512

/-- Bits of one element of a standard tag. -/
def elemBits (t : Tag) : Nat :=
  if t = tF32 ∨ t = tI32 then 32 else if t = tF16 ∨ t = tBF16 then 16 else 8

/-- Two's-complement value as an exact value; zero is +0. -/
def xvInt (i : Int) : XV := .fin (decide (i < 0)) i.natAbs 0

/-- An element of a standard tag, decoded exactly (R65 to R67). -/
def decElem (t : Tag) (x : Nat) : XV :=
  match tagFmt t with
  | some f => f.decode x
  | none => xvInt (signed (elemBits t) x)

/-! ## SX blocks (R68 to R70) -/

/-- Entry `k` of the scale table (R71). -/
def scaleAt (tbl : List W32) (k : Nat) : W32 := tbl.getD k 0x3F800000#32

/-- Scale code of AQ8 as mantissa and exponent: (8 + f)·2^(x − 18) (R74). -/
def aqScale (code : Nat) : Nat × Int := (8 + bits code 0 3, (bits code 3 5 : Int) - 18)

/-- Element `i` of an SX segment held in the number `seg` (R68 to R70). No element is −0 unless its scale-table
entry is negative (R69). FTZ does not flush a subnormal scale-table entry, and an infinite one times code 0 is NaN, with no flag.
DESIGN CHOICE (logs 123, 128). -/
def sxElem (m : Nat) (tbl : List W32) (seg i : Nat) : XV :=
  let bs := 2 + 4 * (m + 1)
  let blk := bits seg (8 * bs * (i / 32)) (8 * bs)
  let e := bits blk 0 8
  let j := i % 32
  let s := bits blk (8 + 2 * (j / 8)) 2
  let q := signed (m + 1) (bits blk (16 + (m + 1) * j) (m + 1))
  let idx := bits seg (8 * 4 * bs) 4
  if e = 0xFF then .nan false
  else
    let t := fmt32.decode (scaleAt tbl idx).toNat
    match (XV.mul (.fin (decide (q < 0)) q.natAbs ((e : Int) - 127 - s - (m - 1 : Int))) t).1 with
    | .fin n 0 x => .fin (n && t.isNeg) 0 x
    | v => v

/-- Element `i` of an AQ8 segment (R75): scale × (q − z). -/
def aqElem (seg i : Nat) : XV :=
  let (m, e) := aqScale (bits seg (8 * 128) 8)
  let d : Int := (bits seg (8 * i) 8 : Int) - bits seg (8 * 129) 8
  .fin (decide (d < 0)) (m * d.natAbs) e

/-- Element `i` of a row segment of the tag, held in the number `seg`, decoded exactly (R69, R75). -/
def segElem (t : Tag) (tbl : List W32) (seg i : Nat) : XV :=
  if isSX t then sxElem (sxM t) tbl seg i
  else if t = tAQ8 then aqElem seg i
  else decElem t (bits seg (elemBits t * i) (elemBits t))

/-- A 128-element row segment, decoded exactly. -/
def segElems (t : Tag) (tbl : List W32) (bs : List Byte) : List XV :=
  let seg := leNat bs
  (List.range 128).map (segElem t tbl seg)

/-! ## Quantising (R72, R73, R76, R77) -/

/-- A value to be quantised: a NaN, an infinity, or ±num/den. -/
inductive QV where
  | nan (sig : Bool)
  | inf (neg : Bool)
  | q (neg : Bool) (num den : Nat)
  deriving DecidableEq, Repr

/-- x / T, divided exactly, for a T that is finite and not zero (R166). -/
def divBy (x : XV) (t : XV) : QV :=
  match x, t with
  | .nan s, _ => .nan s
  | .inf n, t => .inf (n != t.isNeg)
  | .fin n m e, .fin k d e' =>
    let (a, b) := dyadic m e
    let (c, f) := dyadic d e'
    .q (n != k) (a * f) (b * c)
  | .fin _ _ _, _ => .nan false

/-- Whether num/den is at most c·2^e. -/
def leScaled (num den c : Nat) (e : Int) : Bool :=
  if 0 ≤ e then decide (num ≤ c * 2 ^ e.toNat * den) else decide (num * 2 ^ (-e).toNat ≤ c * den)

/-- The greater of two magnitudes; an infinity stands above all. -/
def magMax : Option (Nat × Nat) → QV → Option (Nat × Nat)
  | none, _ => none
  | some _, .inf _ => none
  | some (a, b), .q _ n d => if a * d < n * b then some (n, d) else some (a, b)
  | some p, .nan _ => some p

/-- Largest magnitude of a list, or none for an infinity among them. -/
def amaxOf (xs : List QV) : Option (Nat × Nat) := xs.foldl magMax (some (0, 1))

/-- Smallest e with num/den ≤ Q·2^(e − M + 1). -/
def sxExp (m num den : Nat) : Int :=
  let q := 2 ^ m - 1
  let e := floorLog2 num (den * q) + m - 1
  if leScaled num den q (e - m + 1) then e else e + 1

/-- One quantised element: q in two's complement, and whether it was inexact or saturated. -/
def sxQuantElem (m : Nat) (rm : Nat) (e : Int) (s : Nat) (x : QV) (r : Nat) : Nat × Bool :=
  let q : Nat := 2 ^ m - 1
  match x with
  | .nan _ => (0, false)
  | .inf n => (wrap (m + 1) (if n then -(q : Int) else q), true)
  | .q n num den =>
    let (k, inx) := roundUnits rm n r num den (e - s - m + 1)
    let k' := min k q
    (wrap (m + 1) (if n then -(k' : Int) else k'), inx || decide (k' ≠ k))

/-- Largest sub-shift at which a group fits, or 0 where none does (R72). -/
def subShift (m : Nat) (e : Int) (gmax : Option (Nat × Nat)) : Nat :=
  match gmax with
  | none => 0
  | some (n, d) =>
    let q := 2 ^ m - 1
    let fits := fun (s : Nat) => leScaled n d q (e - s - m + 1)
    if fits 3 then 3 else if fits 2 then 2 else if fits 1 then 1 else 0

/-- A quantised SX block: its shared exponent, its sub-shifts, its 32 element fields, and the flags. -/
structure SxBlock where
  e : Nat
  sh : Nat
  els : List Nat
  flags : Flags
  deriving DecidableEq, Repr

/-- SXQuantise (R72). `rs` are the draws of the 32 elements under the stochastic mode. -/
def sxQuantise (m rm : Nat) (xs : List QV) (rs : List Nat) : SxBlock :=
  let isNan := fun (x : QV) => match x with | .nan _ => true | _ => false
  let isSig := fun (x : QV) => match x with | .nan s => s | _ => false
  if xs.any isNan then ⟨0xFF, 0, List.replicate 32 0, flagIf (xs.any isSig) fNV⟩
  else
    match amaxOf xs with
    | some (0, _) => ⟨0, 0, List.replicate 32 0, 0#8⟩
    | am =>
      let e0 : Int := match am with | none => 128 | some (n, d) => sxExp m n d
      let e : Int := max (-127) (min 127 e0)
      let gs := (List.range 4).map fun g => subShift m e (amaxOf ((xs.drop (8 * g)).take 8))
      let els := (List.range 32).map fun i =>
        sxQuantElem m rm e (gs.getD (i / 8) 0) (xs.getD i (.q false 0 1)) (rs.getD i 0)
      ⟨(e + 127).toNat, packElems 2 gs, els.map (·.1),
        flagIf (decide (127 < e0)) fSOF ||| flagIf (decide (e0 < -127)) fSUF ||| flagIf (els.any (·.2)) fNX⟩

/-- The bytes of a block (R68). -/
def SxBlock.bytes (b : SxBlock) (m : Nat) : List Byte :=
  [BitVec.ofNat 8 b.e, BitVec.ofNat 8 b.sh] ++ leBytes (4 * (m + 1)) (packElems (m + 1) b.els)

/-- A 128-element row segment quantised into the SX format of tag `t` with scale index `k` (R70, R166), with its
flags. A scale entry that is zero, infinite or NaN makes every block NaN and raises NV; FTZ does not flush a subnormal one. DESIGN
CHOICE (log 123). -/
def sxSegment (t : Tag) (tbl : List W32) (k rm : Nat) (xs : List XV) (rs : List Nat) : List Byte × Flags :=
  let m := sxM t
  let s := fmt32.decode (scaleAt tbl k).toNat
  let bad : Bool := match s with | .fin _ n _ => decide (n = 0) | _ => true
  let blk := fun (b : Nat) =>
    if bad then SxBlock.mk 0xFF 0 (List.replicate 32 0) fNV
    else sxQuantise m rm (((xs.drop (32 * b)).take 32).map fun x => divBy x s) ((rs.drop (32 * b)).take 32)
  let bs := (List.range 4).map blk
  ((bs.map fun b => b.bytes m).flatten ++ [BitVec.ofNat 8 k] ++ List.replicate 7 0#8,
    bs.foldl (fun f b => f ||| b.flags) 0#8)

/-- A finite value as a whole number of 2^-160. -/
def fixed160 : XV → Int
  | .fin n m e => alignInt n m (e + 160) 0
  | _ => 0

/-- Whole number nearest to x/d, ties to even, for a positive d. -/
def roundNE (x : Int) (d : Nat) : Int :=
  let (k, _) := roundInt 0 (decide (x < 0)) 0 x.natAbs d
  if x < 0 then -(k : Int) else k

def clampInt (lo hi x : Int) : Int := max lo (min hi x)

/-- Scale code, zero point, codes, and whether the scale was clamped (R76). -/
structure AqRow where
  code : Nat
  z : Nat
  qs : List Nat
  clamped : Bool
  deriving DecidableEq, Repr

/-- 255·scale(code) in units of 2^-160. -/
def aqSpan (code : Nat) : Nat := let (m, e) := aqScale code; 255 * (m * 2 ^ (e + 160).toNat)

/-- AQ8Quantise (R76), or none where an element is an infinity or a NaN. -/
def aqQuantise (xs : List XV) : Option AqRow :=
  if xs.all XV.isFinite then
    let ys := xs.map fixed160
    let hi := ys.foldl max 0
    let lo := ys.foldl min 0
    let span := (hi - lo).toNat
    if span = 0 then some ⟨0, 0, xs.map fun _ => 0, false⟩
    else
      let above := decide (aqSpan 255 < span)
      let below := decide (span < aqSpan 0)
      let code := if above then 255 else if below then 0
        else ((List.range 256).find? fun c => decide (span ≤ aqSpan c)).getD 255
      let sc := aqSpan code / 255
      let z := clampInt 0 255 (roundNE (-lo) sc)
      some ⟨code, z.toNat, ys.map fun y => (clampInt 0 255 (roundNE y sc + z)).toNat, above || below⟩
  else none

/-- The 144 bytes of one AQ8 segment (R75). -/
def aqBytes (code z : Nat) (qs : List Nat) : List Byte :=
  qs.map (BitVec.ofNat 8) ++ [BitVec.ofNat 8 code, BitVec.ofNat 8 z] ++ List.replicate 14 0#8

/-- A row of whole 128-element segments quantised as one unit. -/
def AqRow.bytes (a : AqRow) : List Byte :=
  ((List.range (a.qs.length / 128)).map fun s => aqBytes a.code a.z ((a.qs.drop (128 * s)).take 128)).flatten

/-! ## Grades (R84, R85) -/

def gradeOf (t : Tag) : Nat :=
  if t = tF32 then 192 else if t = tF16 then 88 else if t = tBF16 then 64 else if t = tE4M3 then 32
  else if t = tE5M2 then 24 else if t = tSX7 then 55 else if t = tSX4 then 31 else if t = tSX2 then 12
  else if t = tAQ8 then 62 else if t = tI8 then 63 else if t = tI32 then 255 else 0

/-- The candidates of `cvt.fit`, narrowest first (R167). -/
def fitCandidates (cls : Bool) : List Tag :=
  if cls then [tE5M2, tE4M3, tBF16, tF16, tF32] else [tSX2, tSX4, tSX7, tBF16, tF16, tF32]

/-- The format that `cvt.fit` chooses for a tolerance (R167). -/
def fitChoice (cls : Bool) (tol : Nat) : Tag :=
  ((fitCandidates cls).find? fun t => decide (tol ≤ gradeOf t)).getD tF32

/-! ## Conversion of one element (R165) -/

/-- Whether the conversion rounds under fmode.RM, and so steps lfsr under the stochastic mode (R80, R165). -/
def cvtRounds (s t : Tag) : Bool :=
  if s = t then false
  else if isSX s ∨ s = tAQ8 then decide (t = tBF16)
  else if s = tI32 then decide (t ≠ tI8)
  else if s = tI8 then decide (t = tE4M3 ∨ t = tE5M2)
  else if t = tI8 ∨ t = tI32 ∨ t = tE4M3 ∨ t = tE5M2 then true
  else if s = tE4M3 ∨ s = tE5M2 then false
  else decide (t ≠ tF32)

/-- A floating value converted to an integer of `w` bits: saturating, NaN to 0, NV for both (R67). -/
def cvtInt (w rm r : Nat) (x : XV) : Nat × Flags :=
  let hi : Int := 2 ^ (w - 1) - 1
  let lo : Int := -(2 ^ (w - 1))
  match x with
  | .nan _ => (0, fNV)
  | .inf n => (wrap w (if n then lo else hi), fNV)
  | .fin n m e =>
    let (a, b) := dyadic m e
    let (k, inx) := roundInt rm n r a b
    let v : Int := if n then -(k : Int) else k
    if hi < v then (wrap w hi, fNV) else if v < lo then (wrap w lo, fNV) else (wrap w v, flagIf inx fNX)

/-- An exact value delivered in a floating format, FP32 results flushed under FTZ (R81). -/
def cvtFloat (f : Fmt) (env : FpEnv) (r : Nat) (x : XV) : Nat × Flags :=
  if f = fmt32 then (let (y, fl) := rnd32 env r x; (y.toNat, fl)) else f.round env.rm r x

/-- Convert of R165 for a source value decoded exactly. An SX or AQ8 value passes through FP32 to nearest even. -/
def cvtElem (s t : Tag) (env : FpEnv) (r : Nat) (x : XV) : Nat × Flags :=
  if isSX s ∨ s = tAQ8 then
    let (y, fl) := rnd32 { env with rm := 0 } 0 x
    if t = tF32 then (y.toNat, fl)
    else
      let (z, fl') := fmtBf.round env.rm r (fmt32.decode y.toNat)
      (z, fl ||| fl')
  else
    let x' := if s = tF32 then flushXV env.ftz x else x
    let sig := flagIf x.isSig fNV
    match tagFmt t with
    | some f => let (y, fl) := cvtFloat f env r x'; (y, fl ||| sig)
    | none =>
      if s = tI32 ∨ s = tI8 then
        let v : Int := match x with | .fin n m _ => (if n then -(m : Int) else m) | _ => 0
        let w := elemBits t
        let hi : Int := 2 ^ (w - 1) - 1
        let lo : Int := -(2 ^ (w - 1))
        (wrap w (clampInt lo hi v), flagIf (decide (hi < v) || decide (v < lo)) fNV)
      else cvtInt (elemBits t) env.rm r x'

/-- Elements of a register or register pair as `cvt.sx`, `cvt.fit`, `cvt.aq8` and `send.q` read their source (R166):
128 elements, FP32 subnormals flushed under FTZ. -/
def srcElems (bf : Bool) (env : FpEnv) (lo hi : VBits) : List XV :=
  if bf then (vElems 16 lo).map fmtBf.decode
  else ((vElems 32 lo) ++ (vElems 32 hi)).map fun x => dec32 env.ftz (BitVec.ofNat 32 x)

/-- 128 elements converted to BF16 to nearest even, with no flag: the row flag's form of a row (R168, R195). -/
def bf16Row (xs : List XV) : VBits := ofElems 16 (xs.map fun x => (fmtBf.round 0 0 x).1)

/-- Achieved grade of a row in the row flag's form: BF16's, or 0 where the conversion overflowed (R77, R207). -/
def bf16Grade (xs : List XV) : Nat :=
  if xs.any fun x => decide ((fmtBf.round 0 0 x).2 &&& fOF ≠ 0#8) then 0 else 64

end Sys2Proof.Machine
end

