-- ==== Sys2Proof/Machine/State.lean ====
section
/-!
DEFINITION. The state of one ZL9 device (R1), as plain data: contexts, cores, clusters, dies and the device, the steps
still to run, and `State.reset`. What stands outside the device (other devices, the host, pooled memory) reaches it
through the arguments of events, and what leaves it stands in `egress`, `poolOut` and `hostOut`.

The fields `agenda`, `focus`, `fresh` and the serial numbers are the model's own; every other field is the spec's.
-/

namespace Sys2Proof.Machine

/-! ## Registers under the word-count rule (R24 to R28) -/

/-- What reading a written result brings with it: nothing, a remote-access trap with its code (R137), a constellation
overrun (R146), the raised deferred faults of a `resolve` (R214), or an error its storage cannot correct (R350). -/
inductive Note where
  | plain
  | remote (code : Nat)
  | overrun (cid : Nat)
  | resolveTok
  | bad
  deriving DecidableEq, Repr

/-- One write of a register. It stands from the dispatch of its word, with its value once produced: `vis` is the word
from which it is read (R24), `async` marks the writes of R105, `gated` those of R129. -/
structure Wr (α : Type) where
  id : Nat
  idx : Nat
  word : Nat
  vis : Nat
  slot : Nat
  async : Bool
  gated : Bool
  val : Option α
  note : Note
  deriving DecidableEq, Repr

/-- A register file: the values at the last committed mark (R107), and every write since, oldest first. -/
structure RegFile (α : Type) where
  base : AMap α
  log : List (Wr α)
  deriving DecidableEq, Repr

/-- A write of an address register (R28, R91): both halves, or one step by its stride. -/
inductive AEv where
  | set (base stride : BitVec 24)
  | step
  deriving DecidableEq, Repr

/-- What happens to fstat (R56): an operation raises flags, or a control-register instruction writes it. -/
inductive FlagOp where
  | raise | put | set | clear
  deriving DecidableEq, Repr

structure FEv where
  id : Nat
  word : Nat
  vis : Nat
  slot : Nat
  op : FlagOp
  val : Option Flags
  deriving DecidableEq, Repr

/-- What happens to lfsr (R80): steps, or a control-register instruction, which acts after the word's steps. -/
inductive LfsrOp where
  | steps | put | set | clear
  deriving DecidableEq, Repr

structure LEv where
  id : Nat
  word : Nat
  slot : Nat
  op : LfsrOp
  val : Option Nat
  deriving DecidableEq, Repr

/-- One rotation of the next-tile registers (R59, R113). -/
structure NtEv where
  id : Nat
  due : Nat
  val : Option W64
  deriving DecidableEq, Repr

/-! ## Slot queues, marks and checkpoints -/

/-- An entry of a slot queue (R22). `checked` records that an operation which waits for its word's mark, or for the
rest of its word, has passed the checks it makes at issue; `late` that it has found itself waiting for a result that only its
own word's mark releases (R129). -/
structure Entry where
  id : Nat
  word : Nat
  pc : Nat
  op : Instr
  sync : BitVec 8
  cyc : Nat
  closes : Bool
  checked : Bool
  late : Bool
  deriving DecidableEq, Repr

/-- A restart mark that has not committed (R106, R107). `ovf` marks the Overflow cause. -/
structure Mark where
  word : Nat
  next : Nat
  ovf : Bool
  deriving DecidableEq, Repr

/-- A dispatched word since the last committed mark: its byte offset, the next word's, and its POP bits (R28). -/
structure WordRec where
  word : Nat
  pc : Nat
  next : Nat
  pop : BitVec 8
  deriving DecidableEq, Repr

/-- A gated scratchpad store (R128): the bytes of one store word. -/
structure GStore where
  word : Nat
  slot : Nat
  cells : List (Nat × Byte)
  deriving DecidableEq, Repr

/-- A speculative checkpoint (R108, R109): the `spec` word, its abort label, and the word of the `spec.commit` that
closed it, whose mark has not committed. -/
structure Checkpoint where
  word : Nat
  label : Nat
  commit : Option Nat
  deriving DecidableEq, Repr

/-! ## Matrix engine -/

/-- A weight register (R173). `w` holds W[k, n] row by row; `sums` holds c[j][n]. -/
structure WReg where
  tag : Tag
  csv : Bool
  w : List (List XV)
  ready : Nat
  sums : List (List XV)
  sumReady : Nat
  deriving DecidableEq, Repr

/-- Tag and CSV bit of a weight register as dispatch knows them (R45). -/
structure WTag where
  tag : Tag
  csv : Bool
  deriving DecidableEq, Repr

/-- What writes a tile row by row (R184, R187): a pass, or `mx.clr`. -/
inductive PassKind where
  | run (set : Bool) (op : Nat) (g : Nat) (a w : List (List XV))
  | clr (ninf : Bool)
  deriving DecidableEq, Repr

/-- A tile operation that has issued: row i is written at `cyc` + 136 + i; `done` rows have been. -/
structure Pass where
  id : Nat
  word : Nat
  tile : Nat
  cyc : Nat
  n : Nat
  ftz : Bool
  kind : PassKind
  done : Nat
  deriving DecidableEq, Repr

/-- The rows a feed has read for the pass of its word (R187, R189), with the A format (RAW for `fd.z`). -/
structure FeedBuf where
  word : Nat
  tag : Tag
  rows : List (List XV)
  deriving DecidableEq, Repr

/-- A remote feed or `mx.ldr` that reads another core's rows (R190, R249): the rows, once they have arrived. -/
structure Stage where
  word : Nat
  slot : Nat
  core : Nat
  addrs : List Nat
  len : Nat
  mcast : Option Nat
  rows : Option (List (List Byte))
  arrived : Nat
  deriving DecidableEq, Repr

/-- One row packet of the streaming port (R206). -/
structure RowPkt where
  bytes : List Byte
  deriving DecidableEq, Repr

/-- An `mx.drain` (R195, R196): its rows held in the port, the collective whose stream it found open, and what has become of
the rows. -/
structure DrainOp where
  id : Nat
  word : Nat
  issue : Nat
  strm : Nat
  coll : Nat
  rows : List RowPkt
  released : Bool
  sent : Nat
  dropped : Bool
  err : Bool
  deriving DecidableEq, Repr

/-- A context's standing with the governor (R177). -/
structure Permit where
  id : Nat
  lvl : Nat
  granted : Bool
  deriving DecidableEq, Repr

/-! ## Engine operations -/

/-- What an operation that an engine carries out is. -/
inductive OpKind where
  | cpIn | cpOut | cpPf | cpGat | cpCst | accLd | accSt
  | gld (size : Nat) (sx : Bool) | gst | at (n : Nat) (w64 : Bool)
  | cld (size : Nat) (sx : Bool) | anchor (hj : Nat) | publish
  | barInit | barArr
  | gred | xdisp (q : Bool) | resolve (k : Nat)
  | watch | launch
  | ptWr | ptUpd | ptClr
  | demand | redem
  | coll | collAbort
  deriving DecidableEq, Repr

/-- How far a piece of an operation has come. -/
inductive PieceSt where
  | fresh | ready | sent | replied | landed | failed
  deriving DecidableEq, Repr

/-- A part of an operation that lies within one 128-byte line: `va` virtual, `sp` in scratchpad, `pa` the home device
and physical address once translated, `slotB` the frame of slot B of a twin page. -/
structure Piece where
  row : Nat
  va : Nat
  sp : Nat
  len : Nat
  pa : Option (Nat × Nat)
  twin : Bool
  data : List Byte
  st : PieceSt
  ver : Option (Nat × Nat)
  deriving DecidableEq, Repr

/-- The fields of a shape record (R130). -/
structure Shape where
  va : Nat
  rows : Nat
  bytes : Nat
  vstride : Int
  sp : Nat
  spstride : Nat
  barV : Bool
  bar : Nat
  hz : Bool
  hsel : Nat
  cvt : Nat
  ks : Nat
  cid : Nat
  ver : Nat
  midx : Nat
  mcnt : Nat
  aux : Nat
  grade : Nat
  deriving DecidableEq, Repr

def Shape.none : Shape := ⟨0, 0, 0, 0, 0, 0, false, 0, false, 0, 0, 0, 0, 0, 0, 0, 0, 0⟩

/-- A header of a contribution slot (R276). -/
structure Hdr where
  token : Nat
  pid : Nat
  expert : Nat
  state : Nat
  pay : Nat
  gate : Nat
  deriving DecidableEq, Repr

/-- A row that an `xdisp` or a repair sends to an expert (R215, R217). -/
structure XRow where
  slotVa : Nat
  token : Nat
  pid : Nat
  expert : Nat
  j : Nat
  tag : Nat
  grade : Nat
  rf : Bool
  data : List Byte
  waited : Nat
  st : Nat
  deriving DecidableEq, Repr

/-- A collective record (R325) with the place its walker has reached (R327). -/
structure Coll where
  kind : Nat
  mc : Bool
  strm : Bool
  cst : Bool
  mode : Nat
  lvls : List (Nat × Int × Int × Int)
  sstr : Nat
  mcg : Nat
  blk : Nat
  slot : Nat
  nslot : Nat
  src : Nat
  pb : Int
  pm : Nat
  cid : Nat
  dva : Nat
  pstr : Int
  sva : Nat
  barV : Bool
  bar : Nat
  ver : Nat
  midx : Nat
  mcnt : Nat
  next : Nat
  total : Nat
  inflight : Nat
  count : Nat
  aborted : Bool
  held : Bool
  published : Bool
  deriving DecidableEq, Repr

/-- An operation in an engine. `started` is set once every slot has issued its word, so that a precise trap can still
take it back; `released` once a mark lets a gated one go (R128, R129). `pids` are the prediction identifiers that a
`resolve` has named, with whether it confirmed them (R217); `spoiled` are the tokens of a `resolve` whose headers software
has written meanwhile (R277). `issued` counts the rows that a `gred` is done with, and is the cycle at which a `resolve`
or a `gst` issued. `lost` are the rows whose bytes in scratchpad could not be read, until the engine has failed them (R350); `fault` is
the first faulting row of a `cp.pf`, with the code it met or 0 (R213). -/
structure Op where
  id : Nat
  word : Nat
  pc : Nat
  slot : Nat
  kind : OpKind
  dest : Nat
  gated : Bool
  released : Bool
  ch : Option Nat
  prevCh : Nat × Nat × Bool × Bool × Nat
  shape : Shape
  addr : Nat
  b : Nat
  c : Nat
  tile : Nat
  lost : List Nat
  list : List Byte
  pieces : List Piece
  passed : Bool
  abandoned : Bool
  phase : Nat
  code : Nat
  frac : Bool
  defer : Bool
  fault : Option (Nat × Nat)
  icnt : Nat
  rows : List XRow
  coll : Option Coll
  issued : Nat
  burst : Nat
  pids : List (Nat × Bool)
  spoiled : List Nat
  deriving DecidableEq, Repr

/-- A send (R200, R201): its entry, the queues it goes to as core·64 + context·8 + queue, the queues that have
reserved, whether it has been released, and 1 more than the cycle at which it asked for its reservations, or 0. -/
structure SendOp where
  id : Nat
  word : Nat
  data : VBits
  tag : Tag
  dests : List Nat
  reserved : List Nat
  released : Bool
  asked : Nat
  src : Nat
  deriving DecidableEq, Repr

/-- An entry of a receive queue (R198). `bad` is an error its storage cannot correct (R350). -/
structure QEnt where
  data : VBits
  tag : Tag
  bad : Bool
  deriving DecidableEq, Repr

/-- A receive queue: the entries held from the read position at the last committed mark, and reservations granted. -/
structure RQueue where
  ents : List QEnt
  reserved : Nat
  deriving DecidableEq, Repr

/-- A copy channel (R48), with the operation that holds it. -/
structure Chan where
  base : Nat
  limit : Nat
  busy : Bool
  empty : Bool
  wm : Nat
  deriving DecidableEq, Repr

def Chan.reset : Chan := ⟨0, 0, false, true, 0⟩

/-- A full entry of the deferred-fault table (R213). `raised` names the `resolve` that has confirmed it (R214). -/
structure DefEnt where
  pid : Nat
  tr : Bool
  code : Nat
  va : Nat
  lost : Bool
  raised : Option Nat
  deriving DecidableEq, Repr

/-- The deferred-fault table (R213): full entries oldest first, LOST records oldest first, and OVF with the `resolve` whose
token reports it. -/
structure DefTable where
  full : List DefEnt
  lost : List DefEnt
  ovf : Bool
  ovfAt : Option Nat
  deriving DecidableEq, Repr

/-- An armed watch (R120). -/
structure Watch where
  id : Nat
  va : Nat
  line : Nat
  until_ : Nat
  hit : Bool
  deriving DecidableEq, Repr

/-- What a context does (R103, R114, R233, R306). -/
inductive Run where
  | free
  | ready
  | waitTok (reg word : Nat)
  | waitBar (addr gen : Nat) (byGen : Bool) (notified : Bool)
  | trapped
  | stopped
  | halted
  deriving DecidableEq, Repr

/-- Where a mode bit or a field of ctx.stat comes from (R53). -/
structure Stat where
  priv : Bool
  launch : Bool
  inTrap : Bool
  vf : Nat
  prio : Nat
  scale : Bool
  deriving DecidableEq, Repr

/-- One hardware context (R38 to R63). `under` holds the bytes that the stores of the last committed mark's own word have
replaced, for a feed of that word, which reads before they are made (R121, R189). `heldChk` is the checkpoint that a trap of
a control core has put aside until `rti`, with the offset of the word after its `spec` (R112). `cHold` says that a `qpoint` holds
the C slot until a shoot-down has ended (R143). -/
structure Ctx where
  run : Run
  record : Nat
  tile : Nat
  stat : Stat
  wmap : Nat
  amap : Nat
  cmap : Nat
  splo : Nat
  sphi : Nat
  image : Nat
  codesz : Nat
  pc : Nat
  word : Nat
  serial : Nat
  s : RegFile W64
  p : RegFile Bool
  v : RegFile VBits
  vt : RegFile Tag
  m : RegFile W64
  a : RegFile AEv
  fo : RegFile (BitVec 24)
  fi : RegFile (BitVec 16)
  u : RegFile W64
  fstat0 : Flags
  fstat : List FEv
  lfsr0 : W32
  lfsr : List LEv
  nt0 : List W64
  nt : List NtEv
  gs : AMap W64
  w : RegFile WReg
  wt : AMap WTag
  tiles : AMap (AMap (List W32))
  passes : List Pass
  mxf : Flags
  feed : Option FeedBuf
  stages : List Stage
  permit : Option Permit
  drains : List DrainOp
  chans : AMap Chan
  queues : AMap (List Entry)
  words : List WordRec
  marks : List Mark
  closers : List Nat
  lastMark : Nat
  lastPc : Nat
  gstores : List GStore
  chk : Option Checkpoint
  dspec : Bool
  halt : Bool
  yldWord : Option Nat
  yields : Bool
  ops : List Op
  sends : List SendOp
  rq : AMap RQueue
  dft : DefTable
  barRec : Option (Nat × Nat)
  watch : Option Watch
  gstErr : List Nat
  trapCause : W64
  trapPc : W64
  trapVal : W64
  quiet : Bool
  yieldCyc : Nat
  spillDue : Option Nat
  under : List (Nat × Byte)
  heldChk : Option (Checkpoint × Nat)
  cHold : Bool
  deriving DecidableEq, Repr

def Stat.none : Stat := ⟨false, false, false, 0, 0, false⟩

/-- A context that holds no task, at the binding values of R38, R46, R48, R55, R60, R198 and R213. -/
def Ctx.idle : Ctx :=
  { run := .free, record := 0, tile := 0, stat := .none, wmap := 0, amap := 0, cmap := 0, splo := 0, sphi := 0x3FFFFF,
    image := 0, codesz := 0, pc := 0, word := 1, serial := 1,
    s := ⟨[], []⟩, p := ⟨[], []⟩, v := ⟨[], []⟩, vt := ⟨[], []⟩, m := ⟨[], []⟩, a := ⟨[], []⟩, fo := ⟨[], []⟩,
    fi := ⟨[], []⟩, u := ⟨[], []⟩, fstat0 := 0#8, fstat := [], lfsr0 := 1#32, lfsr := [],
    nt0 := [0#64, 0#64, 0#64, 0#64], nt := [], gs := [], w := ⟨[], []⟩, wt := [], tiles := [], passes := [],
    mxf := 0#8, feed := none, stages := [], permit := none, drains := [], chans := [], queues := [], words := [],
    marks := [], closers := [], lastMark := 0, lastPc := 0, gstores := [], chk := none, dspec := false, halt := false,
    yldWord := none, yields := false, ops := [], sends := [], rq := [], dft := ⟨[], [], false, none⟩, barRec := none,
    watch := none, gstErr := [], trapCause := 0#64, trapPc := 0#64, trapVal := 0#64, quiet := false, yieldCyc := 0, spillDue := none,
    under := [], heldChk := none, cHold := false }

/-! ## Core and cluster -/

/-- A load of the scale table that has issued (R71, R194): who loaded it, in which word, and one entry or all. -/
structure ScaleEv where
  ctx : Nat
  word : Nat
  id : Nat
  ent : Option Nat
  vals : List W32
  deriving DecidableEq, Repr

/-- A TLB entry (R299): `size` in 64 KiB pages. -/
structure TlbEnt where
  asid : Nat
  page : Nat
  size : Nat
  r : Bool
  w : Bool
  a : Bool
  twin : Bool
  rd : Bool
  home : Nat
  home2 : Nat
  frame : Nat
  deriving DecidableEq, Repr

/-- An entry of the combining buffer (R136): `line` is the virtual line, `pa` its physical address at `home`, `stores` how many
stores it holds. -/
structure CbEnt where
  ctx : Nat
  word : Nat
  vf : Nat
  home : Nat
  line : Nat
  pa : Nat
  lane : Nat
  cells : List (Nat × Byte)
  sent : Bool
  tag : Nat
  stores : Nat
  deriving DecidableEq, Repr

/-- A task waiting for a context (R227). -/
structure Task where
  record : Nat
  tile : Nat
  tol : Option Nat
  since : Nat
  aged : Bool
  deriving DecidableEq, Repr

/-- A context waiting at a barrier of this core (R141). `hit` says that what it waits for has come. -/
structure BarWait where
  addr : Nat
  gen : Nat
  byGen : Bool
  who : Nat
  hit : Bool
  deriving DecidableEq, Repr

/-- A byte of a released scratchpad store on its way to the banks (R247): whose it is, and its word and slot as
8·word + slot. -/
structure WqEnt where
  ctx : Nat
  op : Nat
  addr : Nat
  val : Byte
  deriving DecidableEq, Repr

/-- A core. `halted` says that a double trap has stopped it (R114). `ecc` lists what its storage cannot correct (R350): scratchpad addresses, and from 2^24 upward tile rows. A
context spilled to save-area slot j (R235, R237) stands in the map of contexts under key 4096 + 16·core + j. -/
structure Core where
  sp : List Host.Cell
  wq : List WqEnt
  cb : List CbEnt
  scale0 : List W32
  scale : List ScaleEv
  tlb : List TlbEnt
  icnt : Nat
  passCyc : Nat
  passInt : Nat
  holder : Option Nat
  turn : Nat
  last : Nat
  spanEnd : Bool
  dq : List Task
  waits : List BarWait
  swapthr : Nat
  retired : Bool
  halted : Bool
  ecc : List Nat
  corrected : List Nat
  deriving DecidableEq, Repr

def Core.reset : Core :=
  { sp := [], wq := [], cb := [], scale0 := [], scale := [], tlb := [], icnt := 0, passCyc := 0, passInt := 0,
    holder := none, turn := 0, last := 7, spanEnd := false, dq := [], waits := [], swapthr := 16384,
    retired := false, halted := false, ecc := [], corrected := [] }

/-- What waits for the predictor table (R212). -/
inductive PtEv where
  | put (i : Nat) (v : W32)
  | hit (i : Nat)
  | miss (i : Nat)
  | unseen (i : Nat)
  | clr (i n : Nat)
  deriving DecidableEq, Repr

/-- An update on its way to the predictor table: from which context and operation, whether a `resolve` made it, and the
cycle at which it came. -/
structure PtReq where
  ctx : Nat
  op : Nat
  byResolve : Bool
  ev : PtEv
  cyc : Nat
  deriving DecidableEq, Repr

/-- A demand on its way to a tolerance engine (R219, R267). -/
structure DemReq where
  ctx : Nat
  op : Nat
  redem : Bool
  node : Nat
  grade : Nat
  record : Nat
  deriving DecidableEq, Repr

/-- A request for a tile coordinate (R234). -/
structure TileReq where
  ctx : Nat
  id : Nat
  record : Nat
  deriving DecidableEq, Repr

/-- An entry of a fault queue (R347): a trapped context, or a walker with its port and transfer. -/
structure FaultEnt where
  ctx : Nat
  op : Nat
  walker : Bool
  cause : Nat
  pc : Nat
  val : Nat
  port : Nat
  xfer : Nat
  deriving DecidableEq, Repr

/-- A submitted step graph that waits for the scheduler's check (R225). -/
structure GraphReq where
  ctx : Nat
  op : Nat
  addr : Nat
  n : Nat
  vf : Nat
  priv : Bool
  lcap : Bool
  deriving DecidableEq, Repr

/-- A shoot-down in progress (R305 to R307). `gone` are the TLB entries that its effect has invalidated, as page and size,
and `stopped` the contexts that its watchdog has stopped. -/
structure Shoot where
  busy : Bool
  forced : Bool
  ack : Nat
  asid : Nat
  kmask : Nat
  npg : Nat
  va : Nat
  start : Nat
  effect : Bool
  pending : List Nat
  gone : List (Nat × Nat)
  stopped : List Nat
  deriving DecidableEq, Repr

def Shoot.reset : Shoot := ⟨false, false, 0, 0, 0, 0, 0, 0, false, [], [], []⟩

/-- A rendezvous of `fd.a.mc` feeds (R190). -/
structure Rendez where
  kx : Nat
  addr : Nat
  stride : Int
  fmt : Nat
  n : Nat
  m : Nat
  opened : Nat
  members : List (Nat × Nat)
  deriving DecidableEq, Repr

/-- A cluster's power level (R364). -/
inductive Power where
  | run | gated | retention | refresh | off
  deriving DecidableEq, Repr

structure Cluster where
  pt : AMap W32
  ptq : List PtReq
  store : AMap (List Byte)
  demq : List DemReq
  tileq : List TileReq
  deliv : List (Nat × Nat × Nat)
  faults : List FaultEnt
  graphs : List GraphReq
  sd : Shoot
  spare : W64
  rdv : List Rendez
  power : Power
  wake : Nat
  deriving DecidableEq, Repr

def Cluster.reset : Cluster :=
  { pt := [], ptq := [], store := [], demq := [], tileq := [], deliv := [], faults := [], graphs := [],
    sd := .reset, spare := 0#64, rdv := [], power := .run, wake := 0 }

/-! ## Die and device -/

/-- A die's governor, thermal state and retired-line table (R351, R366, R367). -/
structure Die where
  budget : Nat
  held : Nat
  queue : List (Nat × Nat × Nat)
  hold : Bool
  half : Bool
  retired : List (Nat × Nat × Bool)
  refresh : Bool
  deriving DecidableEq, Repr

def Die.reset : Die := ⟨40, 0, [], false, false, [], false⟩

/-- A group-table entry (R229), with the bitmap's bytes where it is one. -/
structure Grp where
  kind : Nat
  a : Nat
  b : Nat
  c : Nat
  map : List Byte
  deriving DecidableEq, Repr

/-- A pipeline record and its ring (R238, R335, R239): the buffers whose permit the loader holds, as (core, buffer); the
tiles handed to a core and not yet loaded; those loaded, with GEN of their output barrier at that time; those being written
back; those whose transfer a walker fault holds, with whether it is the write back. `stop` is 0, or 1 while a stop token is
on its way; `publish` is 0, 1 while the publish of SREC's version is out, and 2 once it is done. -/
structure Pipe where
  va : Nat
  lrec : Shape
  srec : Shape
  nbuf : Nat
  bstride : Nat
  lbar : Nat
  sbar : Nat
  permits : List (Nat × Nat)
  loads : List (Nat × Nat)
  full : List (Nat × Nat × Nat)
  writing : List (Nat × Nat)
  held : List (Nat × Bool)
  stop : Nat
  publish : Nat
  cores : List Nat
  deriving DecidableEq, Repr

/-- A launch record that the scheduler has accepted (R223 to R234), at virtual address `va`, with its image as read then.
`queued`: it is ready; `dealt`: tasks handed to dispatch queues; `live`: those of them that have not ended; `counter`: the
tiles that its tile counter still holds, as ranges from an index up to before another; `completing`: its completion
doubleword is on its way; `retiles`: the tiles that a `redem` runs again, for the operation `redem`. -/
structure LRec where
  va : Nat
  prio : Nat
  vf : Nat
  flags : Nat
  code : Nat
  codesz : Nat
  img : List Byte
  x : Nat
  y : Nat
  z : Nat
  nres : Nat
  res : Nat
  splo : Nat
  sphi : Nat
  arg : Nat
  grps : List Grp
  tol : Nat
  place : Nat
  dep : List Nat
  compl : Nat
  dgraph : Nat
  pipe : Option Pipe
  graph : Nat
  index : Nat
  queued : Bool
  readyAt : Nat
  dealt : Nat
  live : Nat
  failed : Nat
  counter : List (Nat × Nat)
  completing : Bool
  done : Bool
  retiles : Option (List Nat)
  redem : Option (Nat × Nat)
  node : Option Nat
  deriving DecidableEq, Repr

/-- A node of a loaded demand graph (R260, R264). -/
structure DNode where
  kind : Nat
  flags : Nat
  rho : Nat
  record : Nat
  lgrade : Nat
  gva : Nat
  ins : List (Nat × Int × Nat)
  d : Option Nat
  p : Option Nat
  deriving DecidableEq, Repr

structure DGraph where
  va : Nat
  vf : Nat
  graph : Nat
  cluster : Nat
  nodes : List DNode
  deriving DecidableEq, Repr

/-- A request that has arrived and waits to be applied by its home (R252): when and with which rank it came. Where its
home needs C of another device's commit record (R338), `fetch` is 1 while the fetch is out and 2 once C, or the code that
came instead, stands in `cver` and `ccode`. -/
structure Arr where
  pkt : Pkt
  cyc : Nat
  rank : Nat
  fetch : Nat
  cver : Nat
  ccode : Nat
  deriving DecidableEq, Repr

/-- Whose an outstanding request is. -/
inductive ReqOwner where
  | piece (ctx op piece : Nat)
  | combine (core ctx word line : Nat)
  | reduce (i : Nat)
  | forward (p : Pkt)
  | fetchC (src eng tag : Nat)
  | compl (r : Nat)
  | pipe (r tile : Nat)
  | host (addr n : Nat)
  | firmware
  deriving DecidableEq, Repr

/-- An outstanding request (R322), by its source's engine and tag, and its lane. `va` is the virtual address that a core's TLB
translated for it. -/
structure Req where
  tag : Nat
  owner : ReqOwner
  dst : Nat
  op : Nat
  vf : Nat
  addr : Nat
  sentAt : Nat
  va : Option Nat
  eng : Nat
  lane : Nat
  deriving DecidableEq, Repr

/-- The sideband of a twin page's line (R144): CID, version, member index and member count. -/
structure Side where
  cid : Nat
  ver : Nat
  midx : Nat
  mcnt : Nat
  deriving DecidableEq, Repr

/-- A commit record (R336). -/
structure Commit where
  vf : Nat
  c : Nat
  deriving DecidableEq, Repr

/-- A long-term error record (R349). -/
structure ErrRec where
  time : Nat
  kind : Nat
  code : Nat
  src : Nat
  vf : Nat
  addr : Nat
  count : Nat
  deriving DecidableEq, Repr

/-- A function's mailbox (R361). `sent` says that its command has asked other devices for something and waits for their
answers. -/
structure Mbox where
  go : Bool
  err : Bool
  sent : Bool
  status : Nat
  cmd : Nat
  arg0 : Nat
  arg1 : Nat
  data : List (Nat × Byte)
  order : Nat
  deriving DecidableEq, Repr

def Mbox.reset : Mbox := ⟨false, false, false, 0, 0, 0, 0, [], 0⟩

/-- A fault posting (R363). -/
structure Posting where
  num : Nat
  vf : Nat
  walker : Bool
  cause : Nat
  who : Nat
  ctx : Nat
  op : Nat
  port : Nat
  pc : Nat
  val : Nat
  xfer : Nat
  time : Nat
  deriving DecidableEq, Repr

/-- What belongs to one virtual function: tr.vf (R292), its submission queue (R288) and replica table (R279), its
latency tolerance (R365), its next posting number (R363), the next step of its reset or 0 (R354), the host-interface version
chosen (R372); and where firmware stands in serving the queue (R289): the value of PROD it works up to, 2^32 where it works on
none, and whether the result of the entry at CONS is written. -/
structure Func where
  tr : W64
  subq : Option Nat
  repl : Option Nat
  ltr : Nat
  nextPost : Nat
  debug : Bool
  flr : Nat
  flrAt : Nat
  memActive : Bool
  hif : Nat
  served : Nat
  resultOut : Bool
  deriving DecidableEq, Repr

def Func.reset : Func := ⟨0#64, none, none, 0, 1, false, 0, 0, false, 0x0100, 2 ^ 32, false⟩

/-- A reduction under way at this device (R330): its header address, the slots in the order they arrived, the payload of
the last arrival, and whether the arrivals disagree. `due` says that the last one has come, `started` that the engine has read the
slots. Where the header's frame is forwarded to the pool, `pool` holds the header's address there and the slots' bytes. -/
structure Redn where
  hdr : Nat
  mixed : Bool
  order : List Nat
  args : List Byte
  vf : Nat
  due : Bool
  code : Nat
  started : Bool
  pool : Option (Nat × List Byte)
  deriving DecidableEq, Repr

/-- The path of one destination and lane (R251, R317): `inflight` counts requests without a reply, `replies` this device's
replies that may still be on their way. -/
structure LanePath where
  via : Option Nat
  idx : Nat
  since : Nat
  inflight : Nat
  pend : Option (Option Nat)
  replies : Nat
  deriving DecidableEq, Repr

/-- A port: up, its lanes in use and its spare, and the peer's negotiated minor version (R356, R372). -/
structure Port where
  up : Bool
  lanes : Nat
  spareUsed : Bool
  minor : Nat
  deriving DecidableEq, Repr

/-- The signed configuration image and the nonvolatile service record (R368), as the flash holds them. The service record is
`lost`, `spares`, `retired` (the compute cores that are retired) and `laneSpares` (a port's lanes, and whether its spare is one
of them). `frameTab` is what firmware writes into the frame table (R296) when it starts. -/
structure Image where
  valid : Bool
  fwValid : Bool
  vertex : Nat
  owner : List Nat
  budgets : List Nat
  swapthr : Nat
  sched : Nat
  fab : Nat
  firmware : List Byte
  lost : List (Nat × Nat × Bool)
  spares : List (Nat × Nat)
  retired : List Nat
  laneSpares : AMap (Nat × Bool)
  hdm : List (Nat × Nat × Nat)
  image : List Byte
  fabImage : List Byte
  saveBase : Nat
  frameBase : Nat
  frameTab : AMap W64
  rosterAddr : Nat
  roster : List Nat
  routes : AMap (Nat × List Nat)
  mcast : AMap W64
  deriving DecidableEq, Repr

/-- What waits for the migration service (R310, R311): a fault of kind 4 or 5 of a context, forwarded by device `dev`, or
the move of a page (`kind` 8) to a frame of a device. `phase` is 1 once the entries are busy; `todo` are the clusters whose
shoot-down is still to start, `out` those whose shoot-down has started. -/
structure Migration where
  ctx : Nat
  vf : Nat
  va : Nat
  dev : Nat
  kind : Nat
  phase : Nat
  todo : List Nat
  out : List Nat
  deriving DecidableEq, Repr

/-- An entry on its way to a receive queue (R201). -/
structure Flight where
  due : Nat
  sender : Nat
  dest : Nat
  data : VBits
  tag : Tag
  deriving DecidableEq, Repr

/-- A source of a receive buffer: its device and engine, and how many of its rows have reached the buffer. -/
structure RingSrc where
  dev : Nat
  eng : Nat
  rows : Nat
  deriving DecidableEq, Repr

/-- A receive buffer as its home knows it (R281, R282): the descriptor, the overflow ring's read position, the sources
that have sent to it, its last report, whether its occupancy has changed since, and the function whose rows it takes. -/
structure Ring where
  desc : Nat
  pos : Nat
  srcs : List RingSrc
  last : Nat
  cyc : Nat
  changed : Bool
  vf : Nat
  deriving DecidableEq, Repr

/-- What a core's copy engine knows of a receive buffer (R281): the occupancy last reported, or read in the descriptor before the
first report; the rows of its own that the home had had then; and the rows sent to it. -/
structure RingKnown where
  core : Nat
  dev : Nat
  desc : Nat
  occ : Nat
  had : Nat
  sent : Nat
  deriving DecidableEq, Repr

/-- A row that has reached its turn at an expert's receive buffer of this device (R280); `src` is the packet that brought it, and
`rest` are the further packets of a row that did not fit one. -/
structure ExpRow where
  ctx : Nat
  op : Nat
  row : Nat
  desc : Nat
  vf : Nat
  src : Option Pkt
  ovf : Bool
  x : XRow
  rest : List Pkt
  deriving DecidableEq, Repr

/-- A request that this device has sent on, or one of its lane answered after it, whose reply keeps its place in the lane
(R298): the request, and the reply once it is known. -/
structure Back where
  pkt : Pkt
  reply : Option Pkt
  deriving DecidableEq, Repr

/-- A packet or access for the pooled memory (R298). -/
structure PoolReq where
  pkt : Pkt
  addr : Nat
  deriving DecidableEq, Repr

/-! ## The machine's own steps -/

/-- The events that a device's own agents bring about (R22, R107 and the rules that name each event), by what they act on:
a context, an operation of a context, a core, a cluster, a launch record, the device, a numbered item of a list, a
function. The step calls the meaning of the event's instruction. -/
inductive CtxEv where
  | markCommit | specForcedAbort | watchFire | watchTimeout | nextTileDelivery | sendReservation | remoteReadArrival
  | barrierQueryAnswer | swapOut
  deriving DecidableEq, Repr

inductive OpEv where
  | pageWalk | copyRowLanding | copyCompletion | overflowAfterWait | walkerTransfer | collectiveCompletion
  deriving DecidableEq, Repr

inductive CoreEv where
  | wordDispatch | passRowWrite | barrierNotify | spanLimit | taskBind | taskAging | reload | writeQueueBankWrite
  deriving DecidableEq, Repr

inductive ClusterEv where
  | shootdownStart | shootdownWatchdog | shootdownEnd | tileCounterServe | predictorTableApply | toleranceDemandServe
  | stepGraphAccept | faultQueueService | mcRendezvousClose | powerLevelEnter | powerWake
  deriving DecidableEq, Repr

inductive RecEv where
  | recordCompletion | pipelinePreempt | loaderTile | storerWriteback
  deriving DecidableEq, Repr

inductive DevEv where
  | fabricBurstPermit | migrationService | powerOnBoot | patrolScrub | lineRetire
  deriving DecidableEq, Repr

inductive ItemEv where
  | sendArrival | packet | forwardedRequest | expertRowArrival | occupancyReport | reductionComplete
  deriving DecidableEq, Repr

inductive FuncEv where
  | submissionQueueServe | functionLevelReset | mailbox
  deriving DecidableEq, Repr

inductive Own where
  | ctx (e : CtxEv) (k : Nat)
  | op (e : OpEv) (k id : Nat)
  | core (e : CoreEv) (k : Nat)
  | lane (core lane : Nat)
  | cluster (e : ClusterEv) (q : Nat)
  | record (e : RecEv) (r : Nat)
  | permit (die : Nat)
  | dev (e : DevEv)
  | item (e : ItemEv) (i : Nat)
  | timeout (tag : Nat)
  | func (e : FuncEv) (v : Nat)
  | path (back : Bool) (dst lane : Nat)
  deriving DecidableEq, Repr

/-- One move of the device: a slot of a context issues its queue head, one of its own events happens, an event from
outside happens, or the cycle ends. -/
inductive Move where
  | issue (ctx : Nat) (slot : Nat)
  | own (e : Own)
  | event (i : Instr)
  | tick
  deriving DecidableEq, Repr

/-- The operation whose meaning runs: its context, its slot, its entry, and whether dispatch resolves it. -/
structure Focus where
  ctx : Nat
  slot : Nat
  ent : Entry
  disp : Bool
  deriving DecidableEq, Repr

/-- The device (R1, R2). `ident` is what its PUF makes its keys from (R368, R370); `scrub` counts the lines of each die that the
patrol scrubber has visited (R350); `removed` are the devices that have left the roster and have not been reset since (R352); `asks`
the sleeping dies that an access of this device's own engines has asked for (R364); `touched` are the places of memory that an access has reached in this cycle (R252). -/
structure State where
  now : Nat
  booted : Bool
  bootStep : Nat
  bootFail : Nat
  shut : Bool
  conf : Image
  ctxs : AMap Ctx
  cores : AMap Core
  clusters : AMap Cluster
  dies : AMap Die
  funcs : AMap Func
  mem : List Host.Cell
  side : AMap Side
  frames : AMap W64
  commits : AMap Commit
  eccBad : List Nat
  eccFix : List Nat
  svc : Nat
  rgen : Nat
  roster : List Nat
  vertex : Nat
  fwver : W64
  measures : List (List Byte)
  routes : AMap (Nat × List Nat)
  paths : AMap LanePath
  mcast : AMap W64
  ports : AMap Port
  errs : List ErrRec
  errOvr : Nat
  mboxes : AMap Mbox
  mbOrder : Nat
  posts : List Posting
  recs : AMap LRec
  nextRec : Nat
  nextGraph : Nat
  graphs : List DGraph
  inbox : List Arr
  reqs : List Req
  nextTag : Nat
  egress : List (Nat × Pkt)
  poolOut : List PoolReq
  backs : List Back
  hostOut : List (Nat × List Byte)
  hostInv : List Nat
  flights : List Flight
  expRows : List ExpRow
  rings : List Ring
  known : List RingKnown
  redns : List Redn
  migs : List Migration
  burstHeld : Nat
  burstQ : List (Nat × Nat)
  ident : Nat
  scrub : Nat
  removed : List Nat
  asks : List Nat
  touched : List (Nat × Nat)
  agenda : List Move
  focus : Option Focus
  fresh : Nat
  deriving DecidableEq, Repr

/-- Why the machine stops with a fault. -/
inductive Fault where
  /-- Raised by `step` and the meanings for a unit number the device does not have (R2): no such context, core,
  cluster or die. Safe: the hardware has no such agent, so nothing of it is lost. -/
  | noSuchUnit (n : Nat)
  deriving DecidableEq, Repr

/-- Why an instruction has no meaning. -/
inductive Refusal where
  /-- Raised by `exec` for an instruction that the model does not give a meaning. Safe: nothing is claimed of it. -/
  | notModelled (mnemonic : String)
  deriving DecidableEq, Repr

/-- The configuration image of a part whose flash holds the default budgets, one function 0 that owns every cluster,
and no firmware code (log 3). -/
def Image.factory : Image :=
  { valid := true, fwValid := true, vertex := 0, owner := List.replicate 32 0, budgets := [40, 40, 40, 40], swapthr := 16384,
    sched := 0, fab := 0, firmware := [], lost := [], spares := [], retired := [], laneSpares := [], hdm := [(0, 0, 0x6000000000)], image := [],
    fabImage := [], saveBase := 0x17C0000000, frameBase := 0x17BC000000, frameTab := [], rosterAddr := 0x17BBFF0000, roster := [], routes := [],
    mcast := [] }

/-- The machine right after power-on, before the boot ROM has run (R368): every table empty, sys.svc.MODE BRINGUP. -/
def State.reset : State :=
  { now := 0, booted := false, bootStep := 0, bootFail := 0, shut := false, conf := Image.factory, ctxs := [], cores := [], clusters := [],
    dies := [], funcs := [], mem := [], side := [], frames := [], commits := [], eccBad := [], eccFix := [], svc := 1,
    rgen := 0, roster := [], vertex := 0, fwver := 0x01000100#64, measures := [], routes := [], paths := [],
    mcast := [], ports := [], errs := [], errOvr := 0, mboxes := [], mbOrder := 0, posts := [], recs := [],
    nextRec := 0, nextGraph := 0, graphs := [], inbox := [], reqs := [], nextTag := 0, egress := [], poolOut := [], backs := [],
    hostOut := [], hostInv := [], flights := [], expRows := [], rings := [], known := [], redns := [], migs := [],
    burstHeld := 0, burstQ := [], ident := 0, scrub := 0, removed := [], asks := [], touched := [], agenda := [], focus := none, fresh := 0 }

end Sys2Proof.Machine
end

