-- ==== Sys2Proof/Machine/Ops.lean ====
section
/-!
DEFINITION. The named operations over registers, scratchpad, device memory and queues that every meaning calls: reading
and writing a register under the word-count rule, the gate, taking a trap, rolling back, committing, and issuing.
-/

namespace Sys2Proof.Machine

/-! ## Finding the parts of the state -/

def State.ctx (s : State) (k : Nat) : Ctx := AMap.get Ctx.idle s.ctxs k
def State.core (s : State) (k : Nat) : Core := AMap.get Core.reset s.cores k
def State.cluster (s : State) (k : Nat) : Cluster := AMap.get Cluster.reset s.clusters k
def State.die (s : State) (k : Nat) : Die := AMap.get Die.reset s.dies k
def State.func (s : State) (k : Nat) : Func := AMap.get Func.reset s.funcs k

def State.setCtx (s : State) (k : Nat) (c : Ctx) : State := { s with ctxs := s.ctxs.set k c }
def State.setCore (s : State) (k : Nat) (c : Core) : State := { s with cores := s.cores.set k c }
def State.setCluster (s : State) (k : Nat) (c : Cluster) : State := { s with clusters := s.clusters.set k c }
def State.setDie (s : State) (k : Nat) (d : Die) : State := { s with dies := s.dies.set k d }
def State.setFunc (s : State) (k : Nat) (f : Func) : State := { s with funcs := s.funcs.set k f }

/-- Key of the first save-area slot (R237): those of core n are 4096 + 16·n to 4096 + 16·n + 15. -/
def spillBase : Nat := 4096
/-- Whether a key is a spilled context's. -/
def isSpilled (k : Nat) : Bool := decide (spillBase ≤ k)
/-- Core of a context key. A core is numbered 16·(8q + c) + K, with K as ctx.id numbers it (R52). -/
def ctxCore (k : Nat) : Nat := if k < spillBase then k / 8 else (k - spillBase) / 16
/-- Cluster of a core: 8q + c. -/
def coreCluster (k : Nat) : Nat := k / 16
def ctxCluster (k : Nat) : Nat := coreCluster (ctxCore k)
/-- Die of a cluster: q. -/
def clusterDie (k : Nat) : Nat := k / 8
/-- K of a core: 0 to 7 compute, 8 control, 9 spare (R52). -/
def coreK (k : Nat) : Nat := k % 16
def isControl (k : Nat) : Bool := decide (coreK k = 8)

/-- Whether a core number exists (R2): 32 clusters with cores K0 to K7, the control core and the spare. -/
def coreExists (k : Nat) : Bool := decide (k < 512) && decide (coreK k ≤ 9)

/-! ## The outcome of an operation at its slot -/

/-- What an operation finds when it issues: it performs, it waits in its slot, or it finds a trap. `late` is a wait for a
result that only the mark of the reading word itself releases: that mark does not wait for the reader (R129). -/
inductive Eff (α : Type) where
  | ok (a : α)
  | wait
  | late
  | trap (code : Nat) (val : W64)
  deriving DecidableEq, Repr

def Eff.bind {α β : Type} (x : Eff α) (k : α → Eff β) : Eff β :=
  match x with
  | .ok a => k a
  | .wait => .wait
  | .late => .late
  | .trap c v => .trap c v

/-- The operation goes on only if the condition holds; else it waits in its slot. -/
def waitUnless {α : Type} (b : Bool) (k : Eff α) : Eff α := if b then k else .wait

/-- The operation traps if the condition holds. -/
def trapIf {α : Type} (b : Bool) (code : Nat) (val : W64) (k : Eff α) : Eff α := if b then .trap code val else k

abbrev Out := Host.Outcome State Fault Refusal

/-! ## Register files -/

/-- The word from which a fixed-latency write is read: the one of R24, or the first closing word after it (R26). -/
def effVis (closers : List Nat) (word vis : Nat) (async : Bool) : Nat :=
  if async then vis
  else match closers.find? fun c => decide (word < c) with
    | some c => min vis c
    | none => vis

def Wr.eff {α : Type} (e : Wr α) (closers : List Nat) : Nat := effVis closers e.word e.vis e.async

/-- The write that word `n` reads from register `idx`: among those visible, the one that became visible last, ties to
the later word and the higher slot (R27). The log stands in that order. -/
def RegFile.winner {α : Type} (f : RegFile α) (closers : List Nat) (idx n : Nat) : Option (Wr α) :=
  f.log.foldl (fun best e =>
    if e.idx = idx ∧ e.eff closers ≤ n then
      match best with
      | some b => if b.eff closers ≤ e.eff closers then some e else some b
      | none => some e
    else best) none

/-- What reading the token of `resolve` `id` raises, with its PID: an overflow of the table first, else the raised fault of
lowest PID (R213, R214), as trap.val. -/
def DefTable.raisedVal (t : DefTable) (id : Nat) : Option (W64 × Nat) :=
  if t.ovf && decide (t.ovfAt = some id) then some ((1#64) <<< 49, 0)
  else
    let rs := (t.full ++ t.lost).filter fun e => decide (e.raised = some id)
    match rs with
    | [] => none
    | r :: rest =>
      let b := rest.foldl (fun b e => if e.pid < b.pid then e else b) r
      some (BitVec.ofNat 64 ((b2n b.lost) * 2 ^ 49 + (b2n (b.tr && !b.lost)) * 2 ^ 48 + b.code * 2 ^ 40 + b.pid), b.pid)

/-- Virtual address of the raised fault of a PID, for the firmware that services it. -/
def DefTable.raisedVa (t : DefTable) (pid : Nat) : Nat :=
  match (t.full ++ t.lost).find? fun e => decide (e.pid = pid) with | some e => e.va | none => 0

/-- The table after the raised fault of a PID has been reported; PID 0 stands for the overflow. -/
def DefTable.dropRaised (t : DefTable) (pid : Nat) : DefTable :=
  if pid = 0 then { t with ovf := false, ovfAt := none }
  else { t with full := t.full.filter fun e => decide (e.pid ≠ pid), lost := t.lost.filter fun e => decide (e.pid ≠ pid) }

/-- trap.val of an error that core storage cannot correct (R346, R350). -/
def eccVal (kind addr : Nat) : W64 := BitVec.ofNat 64 (Config.eccUnit kind % 16 * 2 ^ 60 + addr % 2 ^ 24)

/-- Whether a gated operation of word `w` may still be waited for by a reader at word `n`: a mark stands between, or
has committed (R129). -/
def Ctx.gateOpen (c : Ctx) (w n : Nat) : Bool :=
  decide (w ≤ c.lastMark) || c.marks.any fun m => decide (w ≤ m.word) && decide (m.word ≤ n)

/-- What word `n` reads from a register file: the value, a wait, or the trap that reading it raises. -/
def Ctx.read {α : Type} (c : Ctx) (f : RegFile α) (d : α) (idx n : Nat) : Eff α :=
  match f.winner c.closers idx n with
  | none => .ok (f.base.get d idx)
  | some e =>
    match e.val with
    | none =>
      if !e.gated then .wait
      else if !c.gateOpen e.word n then .trap 0x0B (BitVec.ofNat 64 idx)
      else if decide (c.lastMark < e.word) && !c.gateOpen e.word (n - 1) then .late
      else .wait
    | some a =>
      match e.note with
      | .plain => .ok a
      | .remote code => .trap 0x0C (BitVec.ofNat 64 (idx * 256 + code))
      | .overrun cid => .trap 0x0D (BitVec.ofNat 64 (cid * 256 + idx))
      | .resolveTok =>
        match c.dft.raisedVal e.id with
        | some (v, _) => .trap 0x13 v
        | none => .ok a
      | .bad => .trap 0x15 (eccVal 1 idx)

/-- The registers that always read one value (R39). -/
def Ctx.rdS (c : Ctx) (n : Nat) (r : SReg) : Eff W64 := if r = 0#5 then .ok 0#64 else c.read c.s 0#64 r.toNat n
def Ctx.rdP (c : Ctx) (n : Nat) (r : PReg) : Eff Bool := if r = 0#4 then .ok true else c.read c.p false r.toNat n
def Ctx.rdM (c : Ctx) (n : Nat) (r : MReg) : Eff W64 :=
  if r = 0#3 then .ok (BitVec.allOnes 64) else c.read c.m 0#64 r.toNat n
def Ctx.rdV (c : Ctx) (n : Nat) (r : VReg) : Eff VBits := c.read c.v 0#2048 r.toNat n

/-- The tag that word `n` reads. A pending write of vd + 1 by `recv.add` or `recv.max` (its `gated` place here) writes F32
or nothing, as its entry decides (R203): the tag is known where both give the same, and else it is waited for.
DEDUCED (log 105). -/
def Ctx.rdVt (c : Ctx) (n : Nat) (r : VReg) : Eff Tag :=
  let open_ : Wr Tag → Bool := fun e => e.gated && e.val.isNone
  if (c.vt.winner c.closers r.toNat n).any open_ then
    (c.read { c.vt with log := c.vt.log.filter fun e => !open_ e } tRAW r.toNat n).bind fun t =>
      if t = tF32 then .ok t else .wait
  else c.read c.vt tRAW r.toNat n

def Ctx.rdFo (c : Ctx) (n : Nat) (k : BitVec 2) : Eff (BitVec 24) := c.read c.fo 0#24 k.toNat n
def Ctx.rdFi (c : Ctx) (n : Nat) (k : BitVec 2) : Eff (BitVec 16) := c.read c.fi 0#16 k.toNat n

/-- The unshadowed registers by their place in the file `u`: tol, fmode, mxc, I0 to I3, h0 to h3 (R38, R174, R221). -/
def uTol : Nat := 0
def uFmode : Nat := 1
def uMxc : Nat := 2
def uItr : Nat := 4
def uHzn : Nat := 8

def Ctx.rdU (c : Ctx) (n i : Nat) : Eff W64 := c.read c.u (if i = uMxc then 0x3FF#64 else 0#64) i n

/-- Rounding mode and flush control that word `n` sees (R55). -/
def Ctx.rdEnv (c : Ctx) (n : Nat) : Eff FpEnv :=
  (c.rdU n uFmode).bind fun x => .ok ⟨bits x.toNat 0 3, bitAt x.toNat 3⟩

/-- Address register `j` as word `n` sees it: its last explicit write, then the steps after it (R28, R41). -/
def Ctx.rdA (c : Ctx) (n : Nat) (j : AReg) : Eff (BitVec 24 × BitVec 24) :=
  let start : Option (BitVec 24 × BitVec 24) :=
    match c.a.base.get (.set 0#24 0#24) j.toNat with | .set b t => some (b, t) | .step => some (0#24, 0#24)
  let fin := c.a.log.foldl (fun (acc : Option (BitVec 24 × BitVec 24)) e =>
    if e.idx = j.toNat ∧ e.word < n then
      match e.val with
      | none => none
      | some (.set b t) => some (b, t)
      | some .step => acc.map fun p => (p.1 + p.2, p.2)
    else acc) start
  match fin with
  | some p => .ok p
  | none => .wait

/-- Next-tile register `j` as word `n` sees it (R59): the rotations due by then. -/
def Ctx.rdNt (c : Ctx) (n : Nat) (j : BitVec 2) : Eff W64 :=
  let fin := c.nt.foldl (fun (acc : Option (List W64)) e =>
    if e.due ≤ n then (match acc, e.val with | some xs, some v => some (v :: xs.take 3) | _, _ => none) else acc)
    (some c.nt0)
  match fin with
  | some xs => .ok (xs.getD j.toNat 0#64)
  | none => .wait

/-! ### fstat and lfsr -/

/-- Place of an event of fstat in the order of R56: by the word at which it takes effect, raises before writes. -/
def FEv.key (e : FEv) (closers : List Nat) : Nat :=
  match e.op with
  | .raise => 2 * effVis closers e.word e.vis false
  | _ => 2 * e.word + 1

def FEv.apply (f : Flags) (e : FEv) : Flags :=
  match e.op, e.val with
  | .raise, some v => f ||| v
  | .put, some v => v
  | .set, some v => f ||| v
  | .clear, some v => f &&& ~~~v
  | _, none => f

/-- Events put in the order of R56, earlier dispatched first among equals. -/
def sortFEv (closers : List Nat) : List FEv → List FEv
  | [] => []
  | e :: rest =>
    let xs := sortFEv closers rest
    (xs.takeWhile fun x => decide (x.key closers < e.key closers)) ++ e ::
      (xs.dropWhile fun x => decide (x.key closers < e.key closers))

/-- fstat as word `n` reads it: flags raised up to word n, and writes of earlier words (R56, R118). -/
def Ctx.rdFstat (c : Ctx) (n : Nat) : Eff Flags :=
  let es := c.fstat.filter fun e => decide (e.key c.closers ≤ 2 * n)
  if es.any fun e => e.val.isNone then .wait
  else .ok ((sortFEv c.closers es).foldl FEv.apply c.fstat0)

def LEv.apply (l : W32) (e : LEv) : W32 :=
  let fix : W32 → W32 := fun x => if x = 0#32 then 1#32 else x
  match e.op, e.val with
  | .steps, some k => stepsLfsr k l
  | .put, some v => fix (BitVec.ofNat 32 v)
  | .set, some v => fix (l ||| BitVec.ofNat 32 v)
  | .clear, some v => fix (l &&& ~~~(BitVec.ofNat 32 v))
  | _, none => l

/-- lfsr as slot `k` of word `n` finds it: steps of earlier words and lower slots, writes of earlier words (R80). A
write of a control-register instruction stands after every slot of its word, at slot number 8. -/
def Ctx.rdLfsr (c : Ctx) (n k : Nat) : Eff W32 :=
  let es := c.lfsr.filter fun e => decide (e.word < n) || (decide (e.word = n) && decide (e.slot < k))
  if es.any fun e => e.val.isNone then .wait
  else .ok (es.foldl LEv.apply c.lfsr0)

/-! ### Producing results -/

/-- The value of write `id` of register `idx` is produced. -/
def RegFile.fill {α : Type} (f : RegFile α) (id idx : Nat) (v : α) (note : Note) : RegFile α :=
  { f with log := f.log.map fun e =>
      if e.id = id ∧ e.idx = idx ∧ e.val.isNone then { e with val := some v, note := note } else e }

def Ctx.putS (c : Ctx) (id : Nat) (r : SReg) (v : W64) : Ctx := { c with s := c.s.fill id r.toNat v .plain }
def Ctx.putM (c : Ctx) (id : Nat) (r : MReg) (v : W64) : Ctx := { c with m := c.m.fill id r.toNat v .plain }
def Ctx.putV (c : Ctx) (id : Nat) (r : VReg) (v : VBits) : Ctx := { c with v := c.v.fill id r.toNat v .plain }
def Ctx.putVt (c : Ctx) (id : Nat) (r : VReg) (t : Tag) : Ctx := { c with vt := c.vt.fill id r.toNat t .plain }
def Ctx.putA (c : Ctx) (id : Nat) (r : AReg) (b t : BitVec 24) : Ctx :=
  { c with a := c.a.fill id r.toNat (.set b t) .plain }
def Ctx.putU (c : Ctx) (id i : Nat) (v : W64) : Ctx := { c with u := c.u.fill id i v .plain }

/-- A predicate pair: the result and its complement (R40). -/
def Ctx.putP (c : Ctx) (id : Nat) (j : PPair) (b : Bool) : Ctx :=
  { c with p := (c.p.fill id (2 * j.toNat) b .plain).fill id (2 * j.toNat + 1) (!b) .plain }

/-- The flags an operation raises at the word of its result (R56). -/
def Ctx.raise (c : Ctx) (id : Nat) (f : Flags) : Ctx :=
  { c with fstat := c.fstat.map fun e => if e.id = id ∧ e.val.isNone then { e with val := some f } else e }

/-- The steps of lfsr that an operation has made (R80). -/
def Ctx.stepped (c : Ctx) (id k : Nat) : Ctx :=
  { c with lfsr := c.lfsr.map fun e => if e.id = id ∧ e.val.isNone then { e with val := some k } else e }

/-! ## Slot queues -/

def Ctx.queue (c : Ctx) (k : Nat) : List Entry := c.queues.get [] k

/-- Whether slot `k` has issued every word before `n`. -/
def Ctx.issuedBefore (c : Ctx) (k n : Nat) : Bool := (c.queue k).all fun e => decide (n ≤ e.word)

/-- Whether every slot has issued every word before `n`. -/
def Ctx.allIssuedBefore (c : Ctx) (n : Nat) : Bool := (List.range 8).all fun k => c.issuedBefore k n

/-- Whether every slot has issued every word up to `n`. -/
def Ctx.allIssued (c : Ctx) (n : Nat) : Bool := c.allIssuedBefore (n + 1)

/-- Operations of the S slot that themselves wait for the rest of their word: the other slots do not wait for them. -/
def waitsForRest : Instr → Bool
  | .exit | .specAbort | .specCommit _ | .rti _ => true
  | _ => false

/-- Whether slots other than `k` have issued word `n`, or hold in it an operation that itself waits for the word's
mark or for the rest of the word and has passed its checks. -/
def Ctx.othersIssued (c : Ctx) (k n : Nat) : Bool :=
  (List.range 8).all fun j => decide (j = k) ||
    (c.queue j).all fun e => decide (n < e.word) || (decide (e.word = n) && e.checked)

/-- Whether every slot has issued word `n`, but for operations in it that have passed their checks and wait for its mark
or for the rest of it. From then on no precise trap can take the word back, and its engine operations may start. -/
def Ctx.wordDone (c : Ctx) (n : Nat) : Bool :=
  (List.range 8).all fun j => (c.queue j).all fun e => decide (n < e.word) || (decide (e.word = n) && e.checked)

/-- A trap found by slot `k` in word `n` is taken once every earlier word has issued and every lower slot has issued
the word, has passed its checks in it, or holds in it an operation that finds no trap and waits for the rest of the word
(R21, item 7). -/
def Ctx.trapReady (c : Ctx) (k n : Nat) : Bool :=
  c.allIssuedBefore n && (List.range k).all fun j =>
    (c.queue j).all fun e => decide (n < e.word) || (decide (e.word = n) && (e.checked || waitsForRest e.op))

/-- Whether a released `gst` of context `k` is still to be answered. -/
def State.gstOut (s : State) (k : Nat) : Bool :=
  ((s.ctx k).ops.any fun o => decide (o.kind = .gst) && (!o.gated || o.released) && !o.abandoned) ||
    (s.core (ctxCore k)).cb.any fun e => decide (e.ctx = k)

/-- Whether it is known that the marks before word `n` leave no `gst` to fail: they have committed, and every `gst` is answered. -/
def State.gstKnown (s : State) (k n : Nat) : Bool := ((s.ctx k).marks.all fun m => decide (n ≤ m.word)) && !s.gstOut k

/-- Whether the S slot has no trap of an `exit` in word `n` to report: one that waits there takes the fault of a `gst` before a
trap of a higher slot (R21, item 7; R137). -/
def State.exitClear (s : State) (k n : Nat) : Bool :=
  !(((s.ctx k).queue 0).any fun e => decide (e.word = n) && decide (e.op = .exit)) || (s.gstKnown k n && (s.ctx k).gstErr.isEmpty)

/-- The entry leaves its queue: its slot has issued it. -/
def Ctx.popQ (c : Ctx) (k id : Nat) : Ctx :=
  { c with queues := c.queues.set k ((c.queue k).filter fun e => decide (e.id ≠ id)) }

/-- The entry stays and is marked as having passed its checks. -/
def Ctx.checkQ (c : Ctx) (k id : Nat) : Ctx :=
  { c with queues := c.queues.set k ((c.queue k).map fun e => if e.id = id then { e with checked := true } else e) }

/-- The entry stays, and is known to wait for what only its own word's mark releases (R129). -/
def Ctx.lateQ (c : Ctx) (k id : Nat) : Ctx :=
  { c with queues := c.queues.set k ((c.queue k).map fun e => if e.id = id then { e with late := true } else e) }

/-- The entry stays, marked as checked, with the cycle at which its slot reached it. -/
def Ctx.stampQ (c : Ctx) (k id now : Nat) : Ctx :=
  { c with queues := c.queues.set k ((c.queue k).map fun e => if e.id = id then { e with checked := true, cyc := now } else e) }

/-! ## Dropping words: precise traps and rollback -/

def RegFile.keep {α : Type} (f : RegFile α) (p : Nat → Bool) : RegFile α :=
  { f with log := f.log.filter fun e => p e.word }

/-- The matrix engine's flag register with the flags given back that drains among the dropped events had taken from it
(R83): a drain of which nothing happens leaves them there. A rollback gives nothing back (R197). -/
def Ctx.givenBack (c : Ctx) (keep : Nat → Bool) : Flags :=
  c.fstat.foldl (fun f e => if !keep e.word && decide (e.slot = 6) && decide (e.op = .raise) then f ||| e.val.getD 0#8 else f) c.mxf

/-- Everything that words `n` and later have done is taken back (R19, R21, R41): their writes, gated stores, marks,
operations not yet started, sends and queue entries. A checkpoint that a `spec.commit` among them closed is open again (R112). -/
def Ctx.dropFrom (c : Ctx) (n : Nat) : Ctx :=
  let lt : Nat → Bool := fun w => decide (w < n)
  let chk := c.chk.map fun x => { x with commit := x.commit.filter lt }
  { c with
    s := c.s.keep lt, p := c.p.keep lt, v := c.v.keep lt, vt := c.vt.keep lt, m := c.m.keep lt, a := c.a.keep lt,
    fo := c.fo.keep lt, fi := c.fi.keep lt, u := c.u.keep lt, w := c.w.keep lt,
    fstat := c.fstat.filter fun e => lt e.word, mxf := c.givenBack lt, lfsr := c.lfsr.filter fun e => lt e.word,
    queues := [], words := c.words.filter fun r => lt r.word, marks := c.marks.filter fun m => lt m.word,
    closers := c.closers.filter lt, gstores := c.gstores.filter fun g => lt g.word,
    chans := c.ops.foldl (fun m o =>
      if lt o.word then m else match o.ch with
        | some k => m.set k ⟨o.prevCh.1, o.prevCh.2.1, o.prevCh.2.2.1, o.prevCh.2.2.2.1, o.prevCh.2.2.2.2⟩
        | none => m) c.chans,
    ops := c.ops.filter fun o => lt o.word, sends := c.sends.filter fun x => lt x.word,
    stages := [], feed := none, drains := c.drains.filter fun d => lt d.word,
    halt := false, yldWord := none, yields := false, chk := chk,
    dspec := chk.any (fun k => k.commit.isNone) }

/-- The tags dispatch goes by after queues have been emptied: those the registers hold (R45). -/
def Ctx.syncTags (c : Ctx) : Ctx :=
  { c with wt := (List.range 4).map fun j =>
      (j, match c.w.winner [] j c.word with
        | some ⟨_, _, _, _, _, _, _, some r, _⟩ => ⟨r.tag, r.csv⟩
        | _ => let r := c.w.base.get ⟨tRAW, false, [], 0, [], 0⟩ j; ⟨r.tag, r.csv⟩) }

/-- Writes of an unshadowed file that a rollback leaves: they stand at once, whichever word made them (R62). -/
def RegFile.settle {α : Type} (f : RegFile α) : RegFile α :=
  { base := f.log.foldl (fun m e => match e.val with | some v => m.set e.idx v | none => m) f.base,
    log := f.log.filter fun e => e.val.isNone && e.async }

/-- Rollback to the latest committed mark (R107, R112, R204): the shadowed registers as they were, the gated stores,
operations and sends of later words gone, the context at the word after the mark. What of the mark's own word has still to
issue stays in its slots (R107). A checkpoint opens afresh. The word
numbers run on from the mark, so a next-tile delivery, for which the words taken back count (R113), comes due earlier
by their number. DEDUCED (log 10). Of the ungated operations of later words, those go that `undo` names. -/
def Ctx.rollbackBy (c : Ctx) (undo : Op → Bool) : Ctx :=
  let n := c.lastMark
  let le : Nat → Bool := fun w => decide (w ≤ n)
  let gone : Op → Bool := fun o => !le o.word && ((o.gated && !o.released) || undo o)
  { c with
    s := c.s.keep le, p := c.p.keep le, v := c.v.keep le, vt := c.vt.keep le, m := c.m.keep le, a := c.a.keep le,
    fo := c.fo.keep le, fi := c.fi.keep le, u := c.u.settle, w := c.w.settle,
    fstat := c.fstat.filter fun e => le e.word, lfsr := c.lfsr.filter fun e => le e.word,
    queues := c.queues.map fun (q : Nat × List Entry) => (q.1, q.2.filter fun e => le e.word),
    words := c.words.filter fun r => le r.word, marks := [], closers := c.closers.filter le,
    gstores := c.gstores.filter fun g => le g.word,
    chans := c.ops.foldl (fun m o =>
      if gone o then (match o.ch with | some k => m.set k { m.get Chan.reset k with busy := false } | none => m)
      else m) c.chans,
    ops := c.ops.filter fun o => !gone o, sends := c.sends.filter fun x => le x.word || x.released,
    stages := c.stages.filter fun g => le g.word, feed := c.feed.filter fun b => le b.word,
    drains := c.drains.filter fun d => le d.word || d.released,
    nt := c.nt.map fun e => { e with due := e.due - (c.word - (n + 1)) },
    halt := false, yldWord := none, yields := false, word := n + 1, pc := c.lastPc,
    chk := c.chk.map fun k => { k with commit := none }, dspec := c.chk.isSome }

/-- Rollback: of the ungated operations, those that have not passed translation are run again (R303). -/
def Ctx.rollback (c : Ctx) : Ctx := c.rollbackBy fun o => !o.passed

/-- The scale table without the loads of a context's words `n` and later. -/
def Core.dropScale (k : Core) (ctx n : Nat) : Core :=
  { k with scale := k.scale.filter fun e => !(decide (e.ctx = ctx) && decide (n ≤ e.word)) }

/-- Loads of the scale table that a rollback to word `n` leaves standing (R194): every later word sees them. -/
def Core.settleScale (k : Core) (ctx n : Nat) : Core :=
  { k with scale := k.scale.map fun e => if e.ctx = ctx then { e with word := min e.word n } else e }

/-- The rollback of one context, with what its core keeps of it. -/
def State.rollbackCtxBy (s : State) (k : Nat) (undo : Op → Bool) : State :=
  let c := s.ctx k
  let co := s.core (ctxCore k)
  (s.setCtx k (c.rollbackBy undo)).setCore (ctxCore k) (co.settleScale k c.lastMark)

def State.rollbackCtx (s : State) (k : Nat) : State := s.rollbackCtxBy k fun o => !o.passed

/-! ## Error records and taking a trap -/

/-- A long-term error record enters the ring; the oldest leaves a full one (R349). -/
def State.record (s : State) (kind code src vf addr : Nat) : State :=
  let r : ErrRec := ⟨s.now, kind, code, src, vf, addr, 1⟩
  if s.errs.length < 65536 then { s with errs := s.errs ++ [r] }
  else { s with errs := s.errs.drop 1 ++ [r], errOvr := s.errOvr + 1 }

/-- ENG of a core as R320 numbers it. A spare in service takes the number of the core it replaces (R355). -/
def State.eng (s : State) (core : Nat) : Nat :=
  let cl := coreCluster core
  if coreK core = 8 then 290 + cl
  else if coreK core = 9 then 64 * (cl / 8) + 8 * (cl % 8) + bits (s.cluster cl).spare.toNat 0 3
  else 64 * (cl / 8) + 8 * (cl % 8) + coreK core

/-- A context that waits at a barrier waits there no more. -/
def State.dropWait (s : State) (k : Nat) : State :=
  match (s.ctx k).run with
  | .waitBar _ _ _ _ => { s with cores := s.cores.map fun (p : Nat × Core) =>
      (p.1, { p.2 with waits := p.2.waits.filter fun w => decide (w.who ≠ k) }) }
  | _ => s

/-- Taking a trap (R60, R112, R114): a yield of what is taken back waits no more; an open checkpoint is rolled back first; then the registers trap.cause, trap.pc
and trap.val; then on a compute core the stop and the entry of the control core's fault queue, on a control core the
trap entry at 0x20 of the image (R368) with INTRAP set, or the halt of the core by a double trap. The fault queue takes no
entry of a function that is being reset (R357). A control core's checkpoint is put aside while its handler runs, and `rti`
opens it again at the word after `spec`. DEDUCED (log 106). -/
def State.enterTrap (s : State) (k cause pc : Nat) (val : W64) : State :=
  let s := s.dropWait k
  let s := if (s.ctx k).chk.any (·.commit.isNone) then s.rollbackCtx k else s
  let c := (s.ctx k).syncTags
  let core := ctxCore k
  let cl := ctxCluster k
  if isControl core then
    if c.stat.inTrap then
      let s := s.record 10 cause (s.eng core) c.stat.vf 0
      (s.setCtx k { c with run := .halted, trapCause := 0x1F#64, trapPc := BitVec.ofNat 64 pc,
                           trapVal := BitVec.ofNat 64 cause }).setCore core { s.core core with holder := none, halted := true }
    else
      let spec := c.chk.any (·.commit.isNone)
      s.setCtx k { c with run := .ready, trapCause := BitVec.ofNat 64 cause, trapPc := BitVec.ofNat 64 pc, trapVal := val,
                          stat := { c.stat with inTrap := true }, pc := 0x20,
                          heldChk := if spec then c.chk.map fun x => (x, c.pc) else c.heldChk,
                          chk := if spec then none else c.chk, dspec := c.dspec && !spec }
  else
    let s := s.setCtx k { c with trapCause := BitVec.ofNat 64 cause, trapPc := BitVec.ofNat 64 pc, trapVal := val,
                                 run := .trapped }
    let q := s.cluster cl
    let s := if (s.func c.stat.vf).flr ≠ 0 then s
      else s.setCluster cl { q with faults := q.faults ++ [⟨k, 0, false, cause, pc, val.toNat, 0, 0⟩] }
    let co := s.core core
    if co.holder = some k then s.setCore core { co with holder := none, last := k % 8 } else s

/-- A precise trap at word `n`, byte offset `pc` (R19, R21, R41): nothing of the word or of later words takes effect.
The constellation overrun rolls back instead (R146), and a reported deferred fault leaves its table (R214), its address going with the entry
of the fault queue. -/
def State.preciseTrap (s : State) (k n pc cause : Nat) (val : W64) : State :=
  let s := { s with focus := none }
  let s := s.setCore (ctxCore k) ((s.core (ctxCore k)).dropScale k n)
  let s := s.setCtx k { (s.ctx k).dropFrom n with word := n, pc := pc }
  let s := if cause = 0x0D then s.rollbackCtx k else s
  if cause = 0x13 then
    let pid := bits val.toNat 0 32
    let va := (s.ctx k).dft.raisedVa pid
    let s := (s.setCtx k { s.ctx k with dft := (s.ctx k).dft.dropRaised pid }).enterTrap k cause pc val
    let q := s.cluster (ctxCluster k)
    s.setCluster (ctxCluster k) { q with faults := q.faults.map fun f => if f.ctx = k ∧ !f.walker then { f with xfer := va } else f }
  else s.enterTrap k cause pc val

/-! ## Issue -/

/-- The core is given up (R103, R233). -/
def Core.release (co : Core) (k : Nat) : Core :=
  if co.holder = some k then { co with holder := none, last := k % 8, spanEnd := false } else co

/-- Whether the answer to a `yield.b` is still on its way, so that it is not known whether the word yields (R141). -/
def Ctx.queryOut (c : Ctx) : Bool := match c.run with | .waitBar _ _ _ known => !known | _ => false

/-- Whether every translated operation of words up to `n` has passed translation (R107, R301). -/
def Ctx.passedTo (c : Ctx) (n : Nat) : Bool := c.ops.all fun o => decide (n < o.word) || o.passed

/-- Whether word `n` is a mark that is still to commit and that no translation holds back (R247). -/
def Ctx.markDue (c : Ctx) (n : Nat) : Bool := (c.marks.any fun m => decide (m.word = n)) && c.passedTo n

/-- After a yield word has issued in every slot: the context gives the core up if the word yields, and goes on if not
(R103). What it waits for, its slot has already written into `run`. Where the word is a mark as well, the mark commits first,
unless an operation of its interval awaits translation (R247). -/
def State.afterIssue (s : State) (k : Nat) : State :=
  let c := s.ctx k
  match c.yldWord with
  | none => s
  | some w =>
    if c.allIssued w && !c.queryOut && !c.markDue w then
      let s := s.setCtx k { c with yldWord := none, yields := false }
      if c.yields then s.setCore (ctxCore k) ((s.core (ctxCore k)).release k) else s
    else s

/-- The cycle at which a yield word has issued in every slot (R235). -/
def Ctx.noteYield (c : Ctx) (now : Nat) : Ctx := if c.yldWord.any c.allIssued then { c with yieldCyc := now } else c

/-- The focused entry has issued: it leaves its queue. -/
def State.retire (s : State) (f : Focus) : State :=
  ({ s with focus := none }.setCtx f.ctx (((s.ctx f.ctx).popQ f.slot f.ent.id).noteYield s.now)).afterIssue f.ctx

/-- The entry has found its trap. It takes it once R21 lets it, and waits until then. -/
def State.issueTrap (s : State) (f : Focus) (cause : Nat) (val : W64) : State :=
  if (s.ctx f.ctx).trapReady f.slot f.ent.word && (decide (f.slot = 0) || s.exitClear f.ctx f.ent.word) then s.preciseTrap f.ctx f.ent.word f.ent.pc cause val
  else { s with focus := none }

/-- The entry waits for a result that only its own word's mark releases. -/
def State.holdLate (s : State) (f : Focus) : State :=
  { s with focus := none }.setCtx f.ctx ((s.ctx f.ctx).lateQ f.slot f.ent.id)

/-- An operation issues: its effect answers the next state of everything but its queue entry, a wait leaves the
machine as it was, and a trap is taken as R21 says. -/
def issueOp (s : State) (k : Focus → Ctx → Eff State) : Out :=
  match s.focus with
  | none => .next s
  | some f =>
    match k f (s.ctx f.ctx) with
    | .ok s' => .next (s'.retire f)
    | .wait => .next { s with focus := none }
    | .late => .next (s.holdLate f)
    | .trap cause val => .next (s.issueTrap f cause val)

/-- The effect of an operation on its own context alone. -/
def onCtx (s : State) (k : Focus → Ctx → Eff Ctx) : Out :=
  issueOp s fun f c => (k f c).bind fun c' => .ok (s.setCtx f.ctx c')

/-! ## Scratchpad (R41, R48, R121, R128, R232, R247) -/

/-- Byte of a canonical memory, 0 where nothing is listed. -/
def memGet : List Host.Cell → Nat → Byte
  | [], _ => 0#8
  | (a, b) :: rest, x => if a = x then b else if x < a then 0#8 else memGet rest x

/-- A byte written. A zero is what an unlisted address reads as, so writing it takes the entry out. -/
def memSet : List Host.Cell → Nat → Byte → List Host.Cell
  | [], x, v => if v = 0#8 then [] else [(x, v)]
  | (a, b) :: rest, x, v =>
    if x < a then (if v = 0#8 then (a, b) :: rest else (x, v) :: (a, b) :: rest)
    else if x = a then (if v = 0#8 then rest else (x, v) :: rest)
    else (a, b) :: memSet rest x v

def memSets (m : List Host.Cell) (cs : List (Nat × Byte)) : List Host.Cell := cs.foldl (fun m p => memSet m p.1 p.2) m

/-- The entries of bytes at `a` upward that differ from what an unlisted address reads as. -/
def cellsOf (a : Nat) : List Byte → List Host.Cell
  | [] => []
  | b :: rest => if b = 0#8 then cellsOf (a + 1) rest else (a, b) :: cellsOf (a + 1) rest

/-- `n` bytes at `a` upward made zero. -/
def memClear (m : List Host.Cell) (a n : Nat) : List Host.Cell := m.filter fun p => decide (p.1 < a) || decide (a + n ≤ p.1)

/-- Bytes written at `a` upward, in one pass over the memory. -/
def memPut (m : List Host.Cell) (a : Nat) (bs : List Byte) : List Host.Cell :=
  (m.filter fun p => decide (p.1 < a)) ++ cellsOf a bs ++ m.filter fun p => decide (a + bs.length ≤ p.1)

/-- The canonical form: addresses strictly rising, and no byte that reads as an unlisted one. -/
def Memory.wf : List Host.Cell → Bool
  | [] => true
  | [(_, b)] => decide (b ≠ 0#8)
  | (a, b) :: (a', b') :: rest => decide (b ≠ 0#8) && decide (a < a') && Memory.wf ((a', b') :: rest)

/-- `n` bytes of a memory from `a`. -/
def memRead (m : List Host.Cell) (a n : Nat) : List Byte := (List.range n).map fun i => memGet m (a + i)

/-- Latest byte written at an address among pairs, oldest first. -/
def lastByte (cs : List (Nat × Byte)) (a : Nat) : Option Byte :=
  cs.foldl (fun acc p => if p.1 = a then some p.2 else acc) none

/-- A byte of a core's scratchpad as its contexts read it: through the write queue (R247). -/
def Core.byte (co : Core) (a : Nat) : Byte := (lastByte (co.wq.map fun e => (e.addr, e.val)) a).getD (memGet co.sp a)

/-- The gated store of the latest word before `n` that writes the byte, the higher slot among equals (R128). -/
def gatedByte (gs : List GStore) (n a : Nat) : Option Byte :=
  (gs.foldl (fun (acc : Option (Nat × Nat × Byte)) g =>
    if g.word < n then
      match lastByte g.cells a with
      | none => acc
      | some b =>
        match acc with
        | some (w, k, _) => if w < g.word ∨ (w = g.word ∧ k ≤ g.slot) then some (g.word, g.slot, b) else acc
        | none => some (g.word, g.slot, b)
    else acc) none).map fun t => t.2.2

/-- A byte as word `n` of context `k` reads it: its own earlier stores, gated or not, over the core's (R121, R128). -/
def State.spByte (s : State) (k n a : Nat) : Byte :=
  (gatedByte (s.ctx k).gstores n a).getD ((s.core (ctxCore k)).byte a)

/-- A byte as a feed of word `n` reads it, once the word's mark has let its own stores go: the reads of a word come before
its stores (R121). -/
def State.feedByte (s : State) (k n a : Nat) : Byte :=
  let c := s.ctx k
  ((if n = c.lastMark then (c.under.find? fun p => decide (p.1 = a)).map (·.2) else none)).getD (s.spByte k n a)

def State.feedRead (s : State) (k n a len : Nat) : List Byte := (List.range len).map fun i => s.feedByte k n (a + i)

def State.spRead (s : State) (k n a len : Nat) : List Byte := (List.range len).map fun i => s.spByte k n (a + i)

/-- Whether an access of `len` bytes leaves the scratchpad or the record's range (R41, R232). -/
def Ctx.outside (c : Ctx) (a : Int) (len : Nat) : Bool :=
  decide (a < 0) || decide (0x400000 < a + len) ||
    (!c.stat.priv && (decide (a < c.splo) || decide ((c.sphi : Int) < a + len - 1)))

/-- Whether a busy channel of the context holds back an access to these bytes (R48). -/
def Ctx.wmStall (c : Ctx) (a len : Nat) : Bool :=
  c.chans.any fun p =>
    let h := p.2
    let lo := max a h.base
    let hi := min (a + len - 1) h.limit
    h.busy && decide (0 < len) && decide (lo ≤ hi) && (h.empty || decide (h.wm < hi))

/-- Whether the operation stores to scratchpad from the L or the K slot. -/
def isSpStore : Instr → Bool
  | .stB _ _ _ | .stH _ _ _ | .stW _ _ _ | .stD _ _ _ | .stVx _ _ _ _ _ | .stV _ _ _ _ | .stVCmp _ _ _ _
  | .stM _ _ _ | .stGrade _ _ _ _ => true
  | _ => false

/-- Whether the operation is gated and takes a remote entry of the restart buffer (R128, R201, R208, R209, R212, R219). -/
def isGatedRemote : Instr → Bool
  | .gst _ _ _ _ | .atAdd _ _ _ _ _ | .atFadd _ _ _ _ | .atMin _ _ _ _ _ | .atMax _ _ _ _ _ | .atFmin _ _ _ _
  | .atFmax _ _ _ _ | .atAnd _ _ _ _ _ | .atOr _ _ _ _ _ | .atXor _ _ _ _ _ | .atSwap _ _ _ _ _ | .atCas _ _ _ _ _
  | .barInit _ _ | .barArr _ _ _ | .publish _ _ _ | .send _ _ | .sendQ _ _ | .sendMc _ _ | .collStart _ _ _
  | .collAbort _ | .ptWr _ _ | .ptUpd _ _ | .ptClr _ _ | .demand _ _ _ | .redem _ _ _ => true
  | _ => false

/-- The checks of one access: range, then alignment (R121). -/
def checkAccess {α : Type} (c : Ctx) (a : Int) (len algn : Nat) (k : Eff α) : Eff α :=
  trapIf (c.outside a len) 0x04 (w64 a) (trapIf (decide (a % (algn : Int) ≠ 0)) 0x05 (w64 a) k)

/-- The checks of an access whose description names alignment first (R180, R189, R194, R222). -/
def checkAligned {α : Type} (c : Ctx) (a : Int) (len algn : Nat) (k : Eff α) : Eff α :=
  trapIf (decide (a % (algn : Int) ≠ 0)) 0x05 (w64 a) (trapIf (c.outside a len) 0x04 (w64 a) k)

/-- The whole word is a mark of the Overflow cause (R106): its entry in the list of marks, in word order. -/
def insertMark (m : Mark) : List Mark → List Mark
  | [] => [m]
  | x :: rest => if m.word < x.word then m :: x :: rest else if x.word = m.word then x :: rest else x :: insertMark m rest

/-- Byte offset of the word after word `n`. -/
def Ctx.nextOf (c : Ctx) (n : Nat) : Nat := ((c.words.find? fun r => decide (r.word = n)).map (·.next)).getD c.pc

/-- Whether a checkpoint holds the gate shut (R108, R111). -/
def Ctx.inSpec (c : Ctx) : Bool := c.chk.any fun k => k.commit.isNone

/-- Whether an operation waits at the head of the S slot to open a checkpoint before word `n`. -/
def Ctx.specAhead (c : Ctx) (n : Nat) : Bool :=
  (c.queue 0).any fun e => decide (e.word < n) && match e.op with | .spec _ => true | _ => false

/-- A place in the restart buffer for word `n` (R106, R111, R128): there is room, or the word becomes a mark of the
Overflow cause, or inside a checkpoint the slot waits. Once a checkpoint is closed, a store of it that comes late makes no
mark: the one of the `spec.commit` stands for it (R109). -/
def Ctx.claim (c : Ctx) (n used cap : Nat) : Eff Ctx :=
  if used < cap then .ok c
  else if c.inSpec || c.specAhead n then .wait
  else if c.chk.any (fun x => x.commit.any fun w => decide (n ≤ w)) then .ok c
  else .ok { c with marks := insertMark ⟨n, c.nextOf n, true⟩ c.marks }

/-- How many different numbers a list holds. -/
def countDistinct : List Nat → Nat
  | [] => 0
  | x :: rest => if rest.elem x then countDistinct rest else countDistinct rest + 1

/-- Scratchpad entries of the restart buffer that words other than `n` have taken: a word that stores takes one, however many of
its slots store (R128). DEDUCED (log 27). -/
def Ctx.storeUsed (c : Ctx) (n : Nat) : Nat := countDistinct ((c.gstores.map (·.word)).filter fun w => decide (w ≠ n))

/-- A gated scratchpad store of one word (R121, R128). -/
def storeSp (s : State) (f : Focus) (c : Ctx) (cells : List (Nat × Byte)) : Eff State :=
  waitUnless (!(cells.any fun p => c.wmStall p.1 1)) <|
    (c.claim f.ent.word (c.storeUsed f.ent.word) 64).bind fun c =>
      .ok (s.setCtx f.ctx { c with gstores := c.gstores ++ [⟨f.ent.word, f.slot, cells⟩] })

/-- Bytes from `a` upward. -/
def cellsAt (a : Nat) (bs : List Byte) : List (Nat × Byte) := (List.range bs.length).map fun i => (a + i, bs.getD i 0#8)

/-! ## Gated remote operations (R128, R129) -/

/-- Remote entries of the restart buffer in use. -/
def Ctx.remoteUsed (c : Ctx) : Nat :=
  (c.ops.filter fun o => o.gated && !o.released).length + (c.sends.filter fun x => !x.released).length

def Op.blank : Op :=
  { id := 0, word := 0, pc := 0, slot := 0, kind := .gst, dest := 0, gated := false, released := false, ch := none,
    prevCh := (0, 0, false, true, 0), shape := Shape.none, addr := 0, b := 0, c := 0, tile := 0, lost := [], list := [],
    pieces := [], passed := true, abandoned := false, phase := 0, code := 0, frac := false, defer := false,
    fault := none, icnt := 0, rows := [], coll := none, issued := 0, burst := 0, pids := [], spoiled := [] }

/-- An operation of the focused entry. -/
def Op.of (f : Focus) (kind : OpKind) (dest : SReg) : Op :=
  { Op.blank with id := f.ent.id, word := f.ent.word, pc := f.ent.pc, slot := f.slot, kind := kind,
                  dest := dest.toNat }

/-- A gated remote operation takes its entry of the restart buffer. -/
def addGated (s : State) (f : Focus) (c : Ctx) (o : Op) : Eff State :=
  (c.claim f.ent.word c.remoteUsed 16).bind fun c =>
    .ok (s.setCtx f.ctx { c with ops := c.ops ++ [{ o with gated := true, issued := s.now }] })

/-- An ungated operation enters its engine. -/
def addOp (s : State) (f : Focus) (c : Ctx) (o : Op) : Eff State :=
  .ok (s.setCtx f.ctx { c with ops := c.ops ++ [o] })

/-- Changes one operation of a context. -/
def Ctx.updOp (c : Ctx) (id : Nat) (g : Op → Op) : Ctx := { c with ops := c.ops.map fun o => if o.id = id then g o else o }
def Ctx.findOp (c : Ctx) (id : Nat) : Option Op := c.ops.find? fun o => decide (o.id = id)
def Ctx.dropOp (c : Ctx) (id : Nat) : Ctx := { c with ops := c.ops.filter fun o => decide (o.id ≠ id) }

/-! ## Tokens (R105, R132) -/

/-- Bit 63 of a token: written. -/
def tokDone : Nat := 2 ^ 63

/-- A token with its code in bits 55 to 48 and what its instruction puts below. -/
def token (code low : Nat) : W64 := BitVec.ofNat 64 (tokDone + code * 2 ^ 48 + low)

/-- The scalar register that operation `id` writes receives its value, whichever register it is, with what reading it
brings. Where a rollback has taken the write away, nothing receives it. -/
def Ctx.putTokNote (c : Ctx) (id : Nat) (v : W64) (note : Note) : Ctx :=
  { c with s := { c.s with log := c.s.log.map fun e =>
      if e.id = id ∧ e.val.isNone then { e with val := some v, note := note } else e } }

def Ctx.putTok (c : Ctx) (id : Nat) (v : W64) : Ctx := c.putTokNote id v .plain

/-- Whether the write of register `r` that word `n` sees is one an engine has still to make (R104, R105). -/
def Ctx.tokPending (c : Ctx) (r n : Nat) : Bool :=
  match c.s.winner c.closers r n with
  | some e => e.async && e.val.isNone
  | none => false

/-! ## Commit (R107) -/

/-- The writes that word `n` reads go into the base; later ones, and those not yet produced or that bring a trap with
them, stay in the log. -/
def RegFile.fold {α : Type} (f : RegFile α) (closers : List Nat) (n : Nat) : RegFile α :=
  let idxs := (f.log.map (·.idx)).eraseDups
  idxs.foldl (fun g i =>
    match f.winner closers i n with
    | some e =>
      match e.val, e.note with
      | some v, .plain =>
        { base := g.base.set i v, log := g.log.filter fun x => !(decide (x.idx = i) && decide (x.eff closers ≤ n)) }
      | _, _ => { g with log := g.log.filter fun x => !(decide (x.idx = i) && decide (x.eff closers ≤ n)) || decide (x.id = e.id) }
    | none => g) f

/-- Address registers as word `n` sees them go into the base, as far as every one of their writes is produced. The word's
own writes and steps stay in the log, for its slots that have still to issue (R28). -/
def Ctx.foldA (c : Ctx) (n : Nat) : RegFile AEv :=
  (List.range 8).foldl (fun g j =>
    match c.rdA n (BitVec.ofNat 3 j) with
    | .ok (b, t) =>
      { base := g.base.set j (.set b t), log := g.log.filter fun e => !(decide (e.idx = j) && decide (e.word < n)) }
    | _ => g) c.a

/-- fstat: what word `n` reads of it goes into the base; the word's own write stays in the log. -/
def Ctx.foldFstat (c : Ctx) (n : Nat) : Ctx :=
  let es := c.fstat.filter fun e => decide (e.key c.closers ≤ 2 * n)
  if es.any fun e => e.val.isNone then c
  else { c with fstat0 := (sortFEv c.closers es).foldl FEv.apply c.fstat0,
                fstat := c.fstat.filter fun e => !decide (e.key c.closers ≤ 2 * n) }

/-- lfsr: the steps and writes of words before `n` go into the base. -/
def Ctx.foldLfsr (c : Ctx) (n : Nat) : Ctx :=
  let es := c.lfsr.filter fun e => decide (e.word < n)
  if es.any fun e => e.val.isNone then c
  else { c with lfsr0 := es.foldl LEv.apply c.lfsr0, lfsr := c.lfsr.filter fun e => !decide (e.word < n) }

/-- Pops of words up to `n` that every slot has issued free their entries (R28, R204). A word that has freed them counts as
popping no more. -/
def Ctx.foldPops (c : Ctx) (n : Nat) : Ctx :=
  let done : WordRec → Bool := fun r => decide (r.word ≤ n) && c.allIssued r.word
  { c with
    rq := (List.range 8).foldl (fun m j =>
      let k := (c.words.filter fun r => done r && r.pop.getLsbD j).length
      let q := m.get (RQueue.mk [] 0) j
      if k = 0 then m else m.set j { q with ents := q.ents.drop k }) c.rq,
    words := c.words.map fun r => if done r then { r with pop := 0#8 } else r }

/-- The read position of queue `j` that word `n` has: pops of earlier words since the last committed mark (R28). -/
def Ctx.popped (c : Ctx) (j n : Nat) : Nat :=
  (c.words.filter fun r => decide (r.word < n) && r.pop.getLsbD j).length

/-- Rotations of the next-tile registers that word `n` has seen, and that have their coordinate (R59, R113). -/
def Ctx.foldNt (c : Ctx) (n : Nat) : Ctx :=
  let done := c.nt.takeWhile fun e => decide (e.due ≤ n) && e.val.isSome
  { c with nt0 := done.foldl (fun xs e => match e.val with | some v => v :: xs.take 3 | none => xs) c.nt0, nt := c.nt.drop done.length }

/-- The shadow of word `n` becomes the base of every shadowed register (R62, R107). -/
def Ctx.foldTo (c : Ctx) (n : Nat) : Ctx :=
  let c := (c.foldFstat n).foldLfsr n
  let c := (c.foldPops n).foldNt n
  { c with s := c.s.fold c.closers n, p := c.p.fold c.closers n, v := c.v.fold c.closers n,
           vt := c.vt.fold c.closers n, m := c.m.fold c.closers n, a := c.foldA n, fo := c.fo.fold c.closers n,
           fi := c.fi.fold c.closers n, u := c.u.fold c.closers n, w := c.w.fold c.closers n,
           words := c.words.filter fun r => decide (n ≤ r.word), closers := c.closers.filter fun x => decide (n < x) }

/-- A gated store put into its place in word order. -/
def insertG (g : GStore) : List GStore → List GStore
  | [] => [g]
  | x :: rest => if g.word < x.word ∨ (g.word = x.word ∧ g.slot < x.slot) then g :: x :: rest else x :: insertG g rest

/-- Gated stores of words up to `n` of context `k`, in word order, as bytes for the core's write queue. -/
def releasedCells (gs : List GStore) (k n : Nat) : List WqEnt :=
  let rs := gs.filter fun g => decide (g.word ≤ n)
  ((rs.foldl (fun acc g => insertG g acc) []).map fun g => g.cells.map fun p => ⟨k, 8 * g.word + g.slot, p.1, p.2⟩).flatten

/-- The bytes that the stores of word `n` are about to replace, where a feed of that word has still to read (R121, R189). -/
def State.replaced (s : State) (k n : Nat) : List (Nat × Byte) :=
  let c := s.ctx k
  if (c.queue 5).any fun e => decide (e.word = n) && e.op.isFeed then
    ((c.gstores.filter fun g => decide (g.word = n)).map fun g => g.cells.map fun p => (p.1, s.spByte k n p.1)).flatten
  else []

/-- The update that a table operation makes (R211, R212). -/
def Op.ptEv (o : Op) : Option PtEv :=
  match o.kind with
  | .ptWr => some (.put o.addr (BitVec.ofNat 32 o.b))
  | .ptUpd => some (if o.b = 1 then .hit o.addr else .miss o.addr)
  | .ptClr => some (.clr o.addr o.b)
  | _ => none

/-- The table updates that a release to word `n` lets go, in word order (R212). -/
def Ctx.ptReleased (c : Ctx) (k n now : Nat) : List PtReq :=
  c.ops.filterMap fun o =>
    if o.gated && !o.released && decide (o.word ≤ n) then o.ptEv.map fun e => ⟨k, o.id, false, e, now⟩ else none

/-- Release at a commit (R107, R109, R196, R201, R247): gated stores enter the write queue, gated operations, sends and
drain rows of words up to `n` are let go. -/
def State.releaseTo (s : State) (k n : Nat) : State :=
  let c := s.ctx k
  let co := s.core (ctxCore k)
  let cells := releasedCells c.gstores k n
  let under := (if c.lastMark < n then [] else c.under) ++ s.replaced k n
  let s := s.setCore (ctxCore k) { co with wq := co.wq ++ cells }
  let q := s.cluster (ctxCluster k)
  let s := s.setCluster (ctxCluster k) { q with ptq := q.ptq ++ c.ptReleased k n s.now }
  s.setCtx k { c with gstores := c.gstores.filter fun g => decide (n < g.word), under := under,
                      ops := c.ops.map fun o => if o.gated && decide (o.word ≤ n) then { o with released := true } else o,
                      sends := c.sends.map fun x => if x.word ≤ n then { x with released := true } else x,
                      drains := c.drains.map fun d => if d.word ≤ n then { d with released := true } else d }

end Sys2Proof.Machine
end

