-- ==== Sys2Proof/Machine/Operands.lean ====
section
/-!
DEFINITION. The operand forms: register, immediate and extension operands, addresses of scratchpad accesses, shape
records, the tags an operation requires, and the registers it writes with their latencies.
-/

namespace Sys2Proof.Machine

/-! ## Scalar operands -/

/-- EXT as a signed number. -/
def extS (e : Ext) : Int := e.toInt
/-- EXT sign-extended to 64 bits. -/
def extS64 (e : Ext) : W64 := e.signExtend 64
/-- EXT zero-extended to 64 bits. -/
def extZ64 (e : Ext) : W64 := e.setWidth 64
/-- A byte displacement that EXT gives, or 0. -/
def dispOf (d : Option Ext) : Int := match d with | some e => extS e | none => 0

/-- Operand b of layout S3 (R87). -/
def Ctx.rdB (c : Ctx) (n : Nat) (b : SrcB) : Eff W64 :=
  match b with
  | .reg sb => c.rdS n sb
  | .imm u => .ok (u.setWidth 64)
  | .ext e => .ok (extS64 e)

/-- A register, or EXT zero-extended (R140, R149). -/
def Ctx.rdRegExt (c : Ctx) (n : Nat) (r : RegExt) : Eff W64 :=
  match r with
  | .reg x => c.rdS n x
  | .ext e => .ok (extZ64 e)

/-- Value operand of the control-register instructions (R118). -/
def Ctx.rdCsrSrc (c : Ctx) (n : Nat) (v : CsrSrc) : Eff W64 :=
  match v with
  | .reg r => c.rdS n (r.setWidth 5)
  | .ext e => .ok (extZ64 e)

/-- FP32 operand of a scalar register: bits 31 to 0 (R95). -/
def Ctx.rdF (c : Ctx) (n : Nat) (r : SReg) : Eff Nat := (c.rdS n r).bind fun x => .ok (x.toNat % 2 ^ 32)

/-- Word offset of `br` and `call` (R98). -/
def brWords (o : BrOff) : Int := match o with | .short x => x.toInt | .ext e => extS e

/-- Count of `loop` (R101). -/
def loopCount (n : LoopCnt) : Nat := match n with | .imm x => x.toNat | .ext x => x.toNat

/-- A loop frame's register: s30 for frame 0, s29 for frame 1 (R100). -/
def frameReg (frame : Bool) : SReg := if frame then 29#5 else 30#5

/-- A loop frame from its fields (R100). -/
def mkFrame (last begin count : Nat) : W64 := BitVec.ofNat 64 (last * 2 ^ 56 + begin % 2 ^ 32 * 2 ^ 24 + count % 2 ^ 24)

/-! ## Scratchpad operands -/

/-- Offset of an L-slot access: units of the field, or EXT in bytes (R121). -/
def offVal {n : Nat} (o : Off n) (unit : Nat) : Int := match o with | .imm x => (x.toNat * unit : Nat) | .ext e => extS e

/-- Effective address of an L-slot access (R121). -/
def Ctx.ea {m : Nat} (c : Ctx) (n : Nat) (j : AReg) (o : Off m) (unit : Nat) : Eff Int :=
  (c.rdA n j).bind fun p => .ok (p.1.toNat + offVal o unit)

/-- Byte address of a record (R131). -/
def recAddr {n : Nat} (r : Rec n) : Nat := match r with | .imm a => 64 * a.toNat | .ext a => 64 * a.toNat

/-- The first error that the code of a 32-bit word cannot correct among the words that bytes [a, a + len) of a scratchpad touch
(R350). Tile rows stand from 2^24 upward. -/
def Core.eccAt (co : Core) (a len : Nat) : Option Nat :=
  co.ecc.find? fun x => decide (x < 2 ^ 24) && decide (0 < len) && decide (a / 4 ≤ x / 4) && decide (x / 4 ≤ (a + len - 1) / 4)

/-- The trap of an error that the scratchpad cannot correct (R350). -/
def State.eccCheck {α : Type} (s : State) (k a len : Nat) (go : Eff α) : Eff α :=
  match (s.core (ctxCore k)).eccAt a len with
  | some x => .trap 0x15 (eccVal 0 x)
  | none => go

/-- Whether bytes [a, a + len) of a core's scratchpad hold an error that their code cannot correct (R350). -/
def State.eccHit (s : State) (k a len : Nat) : Bool := ((s.core (ctxCore k)).eccAt a len).isSome

/-- The active lanes of an access by lane index, with their addresses (R125). -/
def laneAddrs (base : BitVec 24) (d : Int) (vi : VBits) (mk : W64) : List (Nat × Int) :=
  (List.range 64).filterMap fun j => if mk.getLsbD j then some (j, base.toNat + (lane vi j).toInt + d) else none

/-- The bytes that a store will write, as addresses with lengths, once its registers are known (R121 to R127, R222). -/
def Ctx.storeRanges (c : Ctx) (n : Nat) : Instr → Eff (List (Int × Nat))
  | .stB _ j o => (c.ea n j o 1).bind fun a => .ok [(a, 1)]
  | .stH _ j o => (c.ea n j o 2).bind fun a => .ok [(a, 2)]
  | .stW _ j o => (c.ea n j o 4).bind fun a => .ok [(a, 4)]
  | .stD _ j o => (c.ea n j o 8).bind fun a => .ok [(a, 8)]
  | .stM _ j o => (c.ea n j o 8).bind fun a => .ok [(a, 8)]
  | .stVx _ j vi mj d => (c.rdA n j).bind fun p => (c.rdV n vi).bind fun v => (c.rdM n mj).bind fun m =>
    .ok ((laneAddrs p.1 (dispOf d) v m).map fun l => (l.2, 4))
  | .stV vs j mj o => (c.ea n j o 16).bind fun a => (c.rdVt n vs).bind fun t => (c.rdM n mj).bind fun m =>
    .ok (((List.range (tagBytes t / 4)).filter fun i => m.getLsbD i).map fun (i : Nat) => (a + 4 * (i : Int), 4))
  | .stVCmp _ j mj o => (c.ea n j o 16).bind fun a => (c.rdM n mj).bind fun m => .ok [(a, 4 * popcNat 64 m.toNat)]
  | .stGrade j _ _ o => (c.rdA n j).bind fun p => .ok [((p.1.toNat + 64 * o.toNat + 60 : Nat), 1)]
  | _ => .ok []

/-- Whether two ranges of bytes share one. -/
def rangesMeet (x y : Int × Nat) : Bool := decide (x.1 < y.1 + y.2) && decide (y.1 < x.1 + x.2)

/-- A read of scratchpad in word `n` waits for a store of an earlier word that a lagging slot has still to issue, where the two
conflict: they share a byte, or the store's bytes are not known yet (R22, R121). -/
def Ctx.storesPending (c : Ctx) (n : Nat) (rs : List (Int × Nat)) : Bool :=
  [1, 2].any fun k => (c.queue k).any fun e => decide (e.word < n) && isSpStore e.op &&
    match c.storeRanges e.word e.op with
    | .ok ws => ws.any fun w => rs.any (rangesMeet w)
    | _ => true

/-- A load's bytes: the access checked, conflicting stores of earlier words and the watermark waited for (R48, R121). -/
def loadBytes {α : Type} (s : State) (f : Focus) (c : Ctx) (a : Int) (len algn : Nat) (k : List Byte → Eff α) : Eff α :=
  checkAccess c a len algn <|
    waitUnless (!c.storesPending f.ent.word [(a, len)] && !c.wmStall a.toNat len) <| s.eccCheck f.ctx a.toNat len <|
      k (s.spRead f.ctx f.ent.word a.toNat len)

/-- A store's bytes, gated (R121, R128). -/
def storeBytes (s : State) (f : Focus) (c : Ctx) (a : Int) (bs : List Byte) (algn : Nat) : Eff State :=
  checkAccess c a bs.length algn (storeSp s f c (cellsAt a.toNat bs))

/-! ## Shape records (R130) -/

/-- Field of `n` bytes of a record, as a number. -/
def rfld (bs : List Byte) (off n : Nat) : Nat := leNat ((bs.drop off).take n)

def Shape.parse (bs : List Byte) : Shape :=
  let fl := rfld bs 40 4
  { va := rfld bs 0 8 % 2 ^ 55, rows := rfld bs 8 2, bytes := rfld bs 12 4, vstride := signed 64 (rfld bs 16 8),
    sp := rfld bs 24 4, spstride := rfld bs 28 4, barV := bitAt (rfld bs 32 8) 63, bar := bits (rfld bs 32 8) 0 41,
    hz := bitAt fl 0, hsel := bits fl 1 2, cvt := bits fl 4 2, ks := bits fl 8 4, cid := rfld bs 44 3,
    ver := rfld bs 48 4, midx := rfld bs 52 2, mcnt := rfld bs 54 2, aux := rfld bs 56 4, grade := rfld bs 60 1 }

/-- The fields with a bit that R130 marks zero set, by byte offset. -/
def shapeZeroFaults (bs : List Byte) : List Nat :=
  let chk : Bool → Nat → List Nat := fun b o => if b then [o] else []
  chk (decide (rfld bs 0 8 / 2 ^ 55 ≠ 0)) 0 ++ chk (decide (rfld bs 8 2 / 2 ^ 13 ≠ 0)) 8 ++
  chk (decide (rfld bs 10 2 ≠ 0)) 10 ++ chk (decide (rfld bs 12 4 / 2 ^ 17 ≠ 0)) 12 ++
  chk (decide (rfld bs 24 4 / 2 ^ 22 ≠ 0)) 24 ++ chk (decide (rfld bs 28 4 / 2 ^ 23 ≠ 0)) 28 ++
  chk (decide (bits (rfld bs 32 8) 41 22 ≠ 0)) 32 ++
  chk (decide (bits (rfld bs 40 4) 3 1 ≠ 0 ∨ bits (rfld bs 40 4) 6 2 ≠ 0 ∨ bits (rfld bs 40 4) 12 20 ≠ 0)) 40 ++
  chk (decide (rfld bs 47 1 ≠ 0)) 44 ++ chk (decide (rfld bs 61 3 ≠ 0)) 61

/-- trap.val of the copy-record trap (R131): the record's address, and the lowest field charged. -/
def recTrapVal (addr off : Nat) : W64 := BitVec.ofNat 64 (addr % 2 ^ 24 + off * 2 ^ 24)

/-- The copy-record trap for the lowest of the fields charged, if any is. -/
def recTrap {α : Type} (addr : Nat) (faults : List Nat) (k : Eff α) : Eff α :=
  match faults with
  | [] => k
  | o :: rest => .trap 0x0A (recTrapVal addr (rest.foldl min o))

/-- Vertex, core and scratchpad address that a barrier address names (R139). -/
def barDev (b : Nat) : Nat := bits b 30 11
def barCore (b : Nat) : Nat := 16 * bits b 25 5 + bits b 22 3
def barAddr (b : Nat) : Nat := bits b 0 22

/-- Whether a barrier on this device lies outside the record's range, which raises the scratchpad-range trap (R232). -/
def State.barOutside (s : State) (c : Ctx) (b : Nat) : Bool :=
  decide (barDev b = s.vertex) && c.outside (barAddr b) 16

/-- Whether a barrier of another device lies outside the record's range: the issuer of a copy checks that too (R232), and charges
BAR (R131). DEDUCED (log 30). -/
def State.barAway (s : State) (c : Ctx) (b : Nat) : Bool :=
  decide (barDev b ≠ s.vertex) && c.outside (barAddr b) 16

/-- Number of 128-byte lines that bytes [a, a + n) touch. -/
def linesOf (a n : Nat) : Nat := if n = 0 then 0 else (a + n - 1) / 128 - a / 128 + 1

/-- Which checks of R131 a copy makes beside those of every record. -/
inductive CopyForm where
  | plain | gather | member | reduce | tile | prefetch
  deriving DecidableEq, Repr

/-- The fields that the checks of R131 and R134 charge, for a copy of the given form. -/
def State.shapeFaults (s : State) (c : Ctx) (form : CopyForm) (bs : List Byte) : List Nat :=
  let r := Shape.parse bs
  let chk : Bool → Nat → List Nat := fun b o => if b then [o] else []
  let sized := decide (form ≠ .tile)
  let extent := (r.rows - 1) * r.spstride + r.bytes
  shapeZeroFaults bs ++
  chk (decide (r.rows < 1) || decide ((if form = .tile then 128 else 4096) < r.rows)) 8 ++
  chk (sized && (decide (r.bytes < 1) || decide (65536 < r.bytes))) 12 ++
  chk (sized && decide (1 < r.rows) && decide (r.spstride < r.bytes)) 28 ++
  chk (sized && (decide (0x400000 < r.sp + extent) || c.outside r.sp extent)) 24 ++
  chk (decide (form = .gather) && (decide (r.aux % 4 ≠ 0) || c.outside r.aux (4 * r.rows))) 56 ++
  chk (decide (form = .prefetch) && decide (r.aux = 0)) 56 ++
  chk (decide (form = .member) && decide (r.mcnt < r.midx + r.rows * linesOf 0 r.bytes)) 52 ++
  chk (decide (form = .member) &&
    (decide (r.va % 128 ≠ 0) || decide (r.bytes % 128 ≠ 0) || (decide (1 < r.rows) && decide (r.vstride % 128 ≠ 0)))) 0 ++
  chk (decide (form = .reduce) && (decide (r.ks < 1) || decide (8 < r.ks))) 40 ++
  chk (decide (form = .reduce) && decide (r.bytes % 4 ≠ 0)) 12 ++
  chk (decide (form = .tile) && decide (r.cvt = 3)) 40 ++
  chk (decide (form = .tile) && decide (r.bytes ≠ if r.cvt = 0 then 512 else 256)) 12 ++
  chk (r.barV && s.barAway c r.bar) 32

/-! ## Tags (R44, R45, R60) -/

/-- trap.val of a format fault (R60). -/
def fmtVal (req found reg slot : Nat) : W64 := BitVec.ofNat 64 (req * 2 ^ 12 + found * 2 ^ 8 + reg * 2 ^ 3 + slot)

/-- Register `r` must carry tag `t` (R45). -/
def Ctx.need (c : Ctx) (n slot : Nat) (r : VReg) (t : Tag) : Eff Unit :=
  (c.rdVt n r).bind fun f => if f = t then .ok () else .trap 0x03 (fmtVal t.toNat f.toNat r.toNat slot)

/-- The source of `cvt.sx`, `cvt.fit`, `cvt.aq8` and `send.q`: BF16, or an even F32 pair (R166). -/
def Ctx.needPair (c : Ctx) (n slot : Nat) (r : VReg) : Eff Unit :=
  (c.rdVt n r).bind fun f =>
    if f = tBF16 then .ok ()
    else if f = tF32 then
      if r.toNat % 2 = 1 then .trap 0x03 (fmtVal 3 1 r.toNat slot) else c.need n slot (r + 1) tF32
    else .trap 0x03 (fmtVal 0xF f.toNat r.toNat slot)

/-- A sort pair: keys F32 or I32, payloads I32 (R169). -/
def Ctx.needSort (c : Ctx) (n slot : Nat) (vk : BitVec 4) : Eff Unit :=
  let k : VReg := vk ++ 0#1
  (c.rdVt n k).bind fun f =>
    if f = tF32 ∨ f = tI32 then c.need n slot (k + 1) tI32 else .trap 0x03 (fmtVal 0xF f.toNat k.toNat slot)

/-- Several requirements, the first failing one reported. -/
def needAll : List (Eff Unit) → Eff Unit
  | [] => .ok ()
  | x :: rest => x.bind fun _ => needAll rest

/-- Sources of tag `t`, and vd where it is read (R153, R154, R155). The spec does not say which register is reported where several
fail: va comes before vb, and vd last; for a shift vb before vd. DESIGN CHOICE (log 126). -/
def Ctx.needVa (c : Ctx) (n : Nat) (o : VaOp) (t : Tag) (readsVd : Bool) : Eff Unit :=
  needAll [c.need n 3 o.va t, c.need n 3 o.vb t, if readsVd || o.mk.isSome then c.need n 3 o.vd t else .ok ()]

def Ctx.needVu (c : Ctx) (n : Nat) (o : VuOp) (t : Tag) : Eff Unit :=
  needAll [c.need n 3 o.va t, if o.mk.isSome then c.need n 3 o.vd t else .ok ()]

/-- A bit-level instruction: the masked form reads vd, which carries va's tag and is not RAW (R153); a shift requires I32 in
vb. -/
def Ctx.needBits (c : Ctx) (n : Nat) (o : VaOp) (shift : Bool) : Eff Unit :=
  needAll [if shift then c.need n 3 o.vb tI32 else .ok (),
    if o.mk.isSome then (c.rdVt n o.va).bind fun t => (c.rdVt n o.vd).bind fun f =>
      if f = tRAW ∨ f ≠ t then .trap 0x03 (fmtVal t.toNat f.toNat o.vd.toNat 3) else .ok ()
    else .ok ()]

/-- The checks of `cvt` (R164): a source tag that converts, and a part that exists. -/
def Ctx.needCvt (c : Ctx) (n : Nat) (va : VReg) (t : Tag) (part : BitVec 2) : Eff Unit :=
  (c.rdVt n va).bind fun f =>
    if f = tRAW then .trap 0x03 (fmtVal 0xF 0 va.toNat 3)
    else
      let r := max (tagCount f) (tagCount t) / min (tagCount f) (tagCount t)
      if r ≤ part.toNat ∨ ((isSX f ∨ f = tAQ8) ∧ t ≠ tF32 ∧ t ≠ tBF16) then .trap 0x03 (fmtVal t.toNat f.toNat va.toNat 3)
      else .ok ()

/-- The tag checks that dispatch makes for one operation on vector registers (R45). A word that reads a tag which is not yet known
is held here: `cvt` reads that of its destination (R164), `st.v` that of its source (R126). -/
def Ctx.tagCheck (c : Ctx) (n : Nat) : Instr → Eff Unit
  | .vaddF32 o | .vsubF32 o | .vmulF32 o | .vminF32 o | .vmaxF32 o => c.needVa n o tF32 false
  | .vfmaF32 o => c.needVa n o tF32 true
  | .vaddBf16 o | .vsubBf16 o | .vmulBf16 o | .vminBf16 o | .vmaxBf16 o => c.needVa n o tBF16 false
  | .vfmaBf16 o => c.needVa n o tBF16 true
  | .vaddI32 o | .vsubI32 o | .vmulI32 o | .vminI32 o | .vmaxI32 o => c.needVa n o tI32 false
  | .vabsF32 o | .vnegF32 o | .vrcpF32 o | .vrsqrtF32 o | .vexp2F32 o | .vlog2F32 o => c.needVu n o tF32
  | .vabsBf16 o | .vnegBf16 o => c.needVu n o tBF16
  | .vand o | .vor o | .vxor o => c.needBits n o false
  | .vshl o | .vshr o | .vsar o => c.needBits n o true
  | .vcmpF32 _ _ a b => needAll [c.need n 3 a tF32, c.need n 3 b tF32]
  | .vcmpBf16 _ _ a b => needAll [c.need n 3 a tBF16, c.need n 3 b tBF16]
  | .vcmpI32 _ _ a b => needAll [c.need n 3 a tI32, c.need n 3 b tI32]
  | .vredAddF32 _ a _ | .vredMaxF32 _ a _ => c.need n 3 a tF32
  | .vredAddI32 _ a _ => c.need n 3 a tI32
  | .vperm _ _ i => c.need n 3 i tI32
  | .cvt vd va t p => needAll [c.needCvt n va t p, (c.rdVt n vd).bind fun _ => .ok ()]
  | .cvtFit _ va _ _ => c.needPair n 3 va
  | .cvtSx _ va _ _ => c.needPair n 3 va
  | .cvtAq8 _ va => c.needPair n 3 va
  | .srtCeA vk _ _ | .srtCeD vk _ _ => c.needSort n 1 vk
  | .srtTop va vb =>
    needAll [c.needSort n 1 va,
      (c.rdVt n (va ++ 0#1)).bind fun ta => (c.rdVt n (vb ++ 0#1)).bind fun tb =>
        if (tb = tF32 ∨ tb = tI32) ∧ ta ≠ tb then .trap 0x03 (fmtVal ta.toNat tb.toNat (2 * vb.toNat) 1) else .ok (),
      c.needSort n 1 vb]
  | .ldVx _ _ vi _ _ _ | .stVx _ _ vi _ _ => c.need n 2 vi tI32
  | .stV vs _ _ _ => (c.rdVt n vs).bind fun _ => .ok ()
  | .send vs _ | .sendMc vs _ =>
    (c.rdVt n vs).bind fun f => if f = tRAW then .trap 0x03 (fmtVal 0xF 0 vs.toNat 7) else .ok ()
  | .sendQ vs _ => c.needPair n 7 vs
  | .recvAdd vd _ | .recvMax vd _ => c.need n 7 vd tF32
  | _ => .ok ()

/-! ## Registers written (R24, R105, R129, R163) -/

/-- The register files. -/
inductive RF where
  | s | p | v | m | a | fo | fi | u | w
  deriving DecidableEq, Repr

/-- A register that an operation writes: file, number, latency in words, and whether it is one of R105 or R129. -/
structure Dest where
  rf : RF
  idx : Nat
  lat : Nat
  async : Bool
  gated : Bool
  deriving DecidableEq, Repr

def dS (r : SReg) (lat : Nat) : List Dest := [⟨.s, r.toNat, lat, false, false⟩]
def dP (j : PPair) (lat : Nat) : List Dest :=
  [⟨.p, 2 * j.toNat, lat, false, false⟩, ⟨.p, 2 * j.toNat + 1, lat, false, false⟩]
def dV (r : VReg) (lat : Nat) : List Dest := [⟨.v, r.toNat, lat, false, false⟩]
def dM (r : MReg) (lat : Nat) : List Dest := [⟨.m, r.toNat, lat, false, false⟩]
def dU (i : Nat) (lat : Nat) : List Dest := [⟨.u, i, lat, false, false⟩]
/-- A token or result whose time no latency fixes (R105). -/
def dTok (r : SReg) : List Dest := [⟨.s, r.toNat, 1, true, false⟩]
/-- The result of a gated operation (R129). -/
def dGate (r : SReg) : List Dest := [⟨.s, r.toNat, 1, true, true⟩]
def dPair (vk : BitVec 4) (lat : Nat) : List Dest := dV (vk ++ 0#1) lat ++ dV (vk ++ 1#1) lat
/-- A weight register, and for FP32 values its odd neighbour (R173). Weights are read in X-slot order. -/
def dW (w : BitVec 2) (pair : Bool) : List Dest :=
  ⟨.w, w.toNat, 1, false, false⟩ :: (if pair then [⟨.w, w.toNat + 1, 1, false, false⟩] else [])

/-- Control registers that a write of number `n` reaches in the file `u` (R49). -/
def csrFile (n : BitVec 12) : List Dest :=
  if n = 0x010#12 then dU uFmode 1 else if n = 0x013#12 then dU uTol 1 else []

/-- The registers an operation writes, with the latencies of R24, R163 and the instructions' own descriptions. R40 gives
every predicate pair latency 1, while R24 and R96 give `fcmp` latency 3: the pair of an `fcmp` takes 3. DESIGN CHOICE
(log 97). -/
def dests : Instr → List Dest
  | .add d _ _ | .sub d _ _ | .and d _ _ | .or d _ _ | .xor d _ _ | .shl d _ _ | .shr d _ _ | .sar d _ _
  | .min d _ _ | .max d _ _ | .minu d _ _ | .maxu d _ _ => dS d 1
  | .mul d _ _ | .mulh d _ _ => dS d 3
  | .clz d _ | .popc d _ => dS d 1
  | .mov d _ => dS d 1
  | .sel d _ _ _ => dS d 1
  | .aset j _ => [⟨.a, j.toNat, 1, false, false⟩]
  | .aget d _ _ => dS d 1
  | .cmpEq p _ _ | .cmpNe p _ _ | .cmpLt p _ _ | .cmpLe p _ _ | .cmpLtu p _ _ | .cmpLeu p _ _ => dP p 1
  | .pand p _ _ | .por p _ _ => dP p 1
  | .fadd d _ _ | .fsub d _ _ | .fmin d _ _ | .fmax d _ _ => dS d 3
  | .fmul d _ _ | .ffma d _ _ => dS d 4
  | .fcmpEq p _ _ | .fcmpLt p _ _ | .fcmpLe p _ _ => dP p 3
  | .call _ => dS 31#5 1
  | .loop fr _ _ => dS (frameReg fr) 1
  | .loopS fr _ _ => dS (frameReg fr) 1
  | .csrd d _ => dS (d.setWidth 5) 1
  | .csrw n _ | .csrs n _ | .csrc n _ => csrFile n
  | .launch d _ _ => dTok d
  | .watch d _ _ _ => dTok d
  | .srtIota d _ => dV d 2
  | .srtCeA k _ _ | .srtCeD k _ _ => dPair k 2
  | .srtTop a b => dPair a 2 ++ dPair b 2
  | .ptRd d _ => dS d 6
  | .demand d _ _ | .redem d _ _ => dGate d
  | .tolShare d _ _ => dS d 2
  | .tolMin d _ _ => dS d 2
  | .itrDef it _ => dU (uItr + it.toNat) 1
  | .itrFit d _ => dS d 2
  | .ldB d _ _ | .ldBu d _ _ | .ldH d _ _ | .ldHu d _ _ | .ldW d _ _ | .ldWu d _ _ | .ldD d _ _ => dS d 6
  | .ldVF32 d _ _ | .ldVF16 d _ _ | .ldVBf16 d _ _ | .ldVE4m3 d _ _ | .ldVE5m2 d _ _ | .ldVI8 d _ _ | .ldVI32 d _ _
  | .ldVSx7 d _ _ | .ldVSx4 d _ _ | .ldVSx2 d _ _ | .ldVAq8 d _ _ => dV d 8
  | .ldVBcast d _ _ _ => dV d 8
  | .ldVx d _ _ _ _ _ => dV d 10
  | .ldM m _ _ => dM m 6
  | .vaddF32 o | .vsubF32 o | .vminF32 o | .vmaxF32 o | .vaddBf16 o | .vsubBf16 o | .vminBf16 o | .vmaxBf16 o
  | .vaddI32 o | .vsubI32 o | .vminI32 o | .vmaxI32 o | .vand o | .vor o | .vxor o | .vshl o | .vshr o
  | .vsar o => dV o.vd 4
  | .vabsF32 o | .vnegF32 o | .vabsBf16 o | .vnegBf16 o => dV o.vd 4
  | .vmulF32 o | .vmulBf16 o | .vmulI32 o => dV o.vd 5
  | .vfmaF32 o | .vfmaBf16 o => dV o.vd 6
  | .vcmpF32 _ m _ _ | .vcmpBf16 _ m _ _ | .vcmpI32 _ m _ _ => dM m 4
  | .vrcpF32 o | .vrsqrtF32 o | .vexp2F32 o | .vlog2F32 o => dV o.vd 8
  | .vredAddF32 d _ _ | .vredMaxF32 d _ _ | .vredAddI32 d _ _ => dS d 10
  | .vperm d _ _ => dV d 6
  | .vbcast d _ _ => dV d 2
  | .vrot d _ _ => dV d 4
  | .vsel d _ _ _ => dV d 4
  | .mand m _ _ | .mor m _ _ | .mxor m _ _ | .mandn m _ _ => dM m 2
  | .mpop d _ => dS d 2
  | .vsplatF32 d _ | .vsplatI32 d _ => dV d 2
  | .vmov d _ _ => dV d 2
  | .cvt d _ _ _ => dV d 4
  | .cvtFit d _ _ _ => dPair d 6
  | .cvtSx d _ _ _ => dV d 6
  | .cvtAq8 d _ => dV d 8
  | .mxPermit d _ => dTok d
  | .mxCfg _ => dU uMxc 1
  | .mxLd w _ fmt _ | .mxLdT w _ fmt _ => dW w (decide (fmt = tF32))
  | .mxLdr w _ fmt _ _ _ => dW w (decide (fmt = tF32))
  | .mxWsel w _ _ => dW w false
  | .mxDrain d _ _ _ _ => dTok d
  | .fdA _ k _ | .fdAMc _ k _ _ _ | .fdAr _ k _ _ | .fdTap _ _ k _ _ => [⟨.fo, k.toNat, 1, false, false⟩]
  | .fdOff k _ => [⟨.fo, k.toNat, 1, false, false⟩]
  | .fdInc k _ => [⟨.fi, k.toNat, 1, false, false⟩]
  | .cpIn d _ _ | .cpOut d _ _ | .cpPf d _ _ | .cpGat d _ _ | .cpCst d _ _ | .gred d _ _ => dTok d
  | .accLd d _ _ _ | .accSt d _ _ _ => dTok d
  | .gld d _ _ _ _ => dTok d
  | .atAdd d _ _ _ _ | .atMin d _ _ _ _ | .atMax d _ _ _ _ | .atAnd d _ _ _ _ | .atOr d _ _ _ _
  | .atXor d _ _ _ _ | .atSwap d _ _ _ _ | .atCas d _ _ _ _ => dGate d
  | .atFadd d _ _ _ | .atFmin d _ _ _ | .atFmax d _ _ _ => dGate d
  | .barArr d _ _ => dGate d
  | .anchor hj d _ => dTok d ++ [⟨.u, uHzn + hj.toNat, 1, true, false⟩]
  | .hznRel hj _ => dU (uHzn + hj.toNat) 1
  | .cld d _ _ _ _ _ => dTok d
  | .publish d _ _ => dGate d
  | .xdisp d _ _ _ => dTok d
  | .resolve d _ _ _ => dTok d
  | .recv d _ => dV d 2
  | .recvAdd d _ | .recvMax d _ => dV d 6 ++ (if d.toNat % 2 = 0 then dV (d + 1) 6 else [])
  | .collStart d _ _ => dGate d
  | _ => []

/-- Latency at which an operation raises its flags, for those that may raise any (R56). -/
def flagLat : Instr → Option Nat
  | .fadd _ _ _ | .fsub _ _ _ | .fmin _ _ _ | .fmax _ _ _ | .fcmpEq _ _ _ | .fcmpLt _ _ _ | .fcmpLe _ _ _ => some 3
  | .fmul _ _ _ | .ffma _ _ _ => some 4
  | .vaddF32 _ | .vsubF32 _ | .vminF32 _ | .vmaxF32 _ | .vabsF32 _ | .vnegF32 _ | .vaddBf16 _ | .vsubBf16 _
  | .vminBf16 _ | .vmaxBf16 _ | .vabsBf16 _ | .vnegBf16 _ => some 4
  | .vcmpF32 _ _ _ _ | .vcmpBf16 _ _ _ _ | .cvt _ _ _ _ => some 4
  | .vmulF32 _ | .vmulBf16 _ => some 5
  | .vfmaF32 _ | .vfmaBf16 _ | .cvtSx _ _ _ _ | .cvtFit _ _ _ _ => some 6
  | .vrcpF32 _ | .vrsqrtF32 _ | .vexp2F32 _ | .vlog2F32 _ | .cvtAq8 _ _ => some 8
  | .vredAddF32 _ _ _ | .vredMaxF32 _ _ _ => some 10
  | .recvAdd _ _ | .recvMax _ _ => some 6
  | .sendQ _ _ => some 0
  | .drain _ _ _ _ tiles => if tiles = 0#4 then some 0 else none
  | _ => none

/-- Whether an operation may step lfsr (R80). -/
def mayStep : Instr → Bool
  | .fadd _ _ _ | .fsub _ _ _ | .fmul _ _ _ | .ffma _ _ _ | .vaddF32 _ | .vsubF32 _ | .vmulF32 _ | .vfmaF32 _
  | .vaddBf16 _ | .vsubBf16 _ | .vmulBf16 _ | .vfmaBf16 _ | .vredAddF32 _ _ _ | .cvt _ _ _ _ | .cvtFit _ _ _ _
  | .cvtSx _ _ _ _ | .recvAdd _ _ => true
  | _ => false

/-- The tags an operation writes, as far as dispatch knows them: `some none` where only its issue fixes one (R45). -/
def Ctx.tagsOf (c : Ctx) (n : Nat) (i : Instr) : Eff (List (VReg × Option Tag)) :=
  let known : VReg → Tag → Eff (List (VReg × Option Tag)) := fun r t => .ok [(r, some t)]
  let copy : VReg → VReg → Eff (List (VReg × Option Tag)) := fun r a => (c.rdVt n a).bind fun t => .ok [(r, some t)]
  let keep : BitVec 4 → Eff (List (VReg × Option Tag)) := fun k =>
    (c.rdVt n (k ++ 0#1)).bind fun t => .ok [(k ++ 0#1, some t), (k ++ 1#1, some tI32)]
  match i with
  | .vaddF32 o | .vsubF32 o | .vmulF32 o | .vfmaF32 o | .vminF32 o | .vmaxF32 o => known o.vd tF32
  | .vabsF32 o | .vnegF32 o | .vrcpF32 o | .vrsqrtF32 o | .vexp2F32 o | .vlog2F32 o => known o.vd tF32
  | .vaddBf16 o | .vsubBf16 o | .vmulBf16 o | .vfmaBf16 o | .vminBf16 o | .vmaxBf16 o => known o.vd tBF16
  | .vabsBf16 o | .vnegBf16 o => known o.vd tBF16
  | .vaddI32 o | .vsubI32 o | .vmulI32 o | .vminI32 o | .vmaxI32 o => known o.vd tI32
  | .vand o | .vor o | .vxor o | .vshl o | .vshr o | .vsar o => copy o.vd o.va
  | .vperm d a _ | .vbcast d a _ | .vrot d a _ | .vsel d a _ _ | .vmov d a _ => copy d a
  | .vsplatF32 d _ => known d tF32
  | .vsplatI32 d _ => known d tI32
  | .cvt d _ t _ => known d t
  | .cvtFit d _ _ _ => .ok [(d ++ 0#1, none), (d ++ 1#1, none)]
  | .cvtSx d _ f _ => known d (if f = 0#2 then tSX7 else if f = 1#2 then tSX4 else tSX2)
  | .cvtAq8 d _ => .ok [(d, none)]
  | .srtIota d _ => known d tI32
  | .srtCeA k _ _ | .srtCeD k _ _ => keep k
  | .srtTop a b => (keep a).bind fun x => (keep b).bind fun y => .ok (x ++ y)
  | .ldVF32 d _ _ => known d tF32
  | .ldVF16 d _ _ => known d tF16
  | .ldVBf16 d _ _ => known d tBF16
  | .ldVE4m3 d _ _ => known d tE4M3
  | .ldVE5m2 d _ _ => known d tE5M2
  | .ldVI8 d _ _ => known d tI8
  | .ldVI32 d _ _ => known d tI32
  | .ldVSx7 d _ _ => known d tSX7
  | .ldVSx4 d _ _ => known d tSX4
  | .ldVSx2 d _ _ => known d tSX2
  | .ldVAq8 d _ _ => known d tAQ8
  | .ldVBcast d _ t _ => known d (if t = 0#2 then tF32 else if t = 1#2 then tI32 else if t = 2#2 then tBF16 else tF16)
  | .ldVx d _ _ i32 _ _ => known d (if i32 then tI32 else tF32)
  | .recv d _ => .ok [(d, none)]
  | .recvAdd d _ | .recvMax d _ =>
    .ok ((d, some tF32) :: (if d.toNat % 2 = 0 then [(d + 1, none)] else []))
  | _ => .ok []

end Sys2Proof.Machine
end

