-- ==== Sys2Proof/Machine/Flags.lean ====
section
/-!
DEFINITION. Flags and stochastic rounding over many elements: which elements are active, which draw each takes, the flags
they raise together, and how many steps of lfsr an operation makes (R56, R80, R152); and the scale table as an operation
sees it (R71).
-/

namespace Sys2Proof.Machine

/-- One element of an operation: whether it is active, the bits it keeps when it is not, and what it computes from its
draw. -/
structure Elem where
  act : Bool
  old : Nat
  f : Nat → Nat × Flags

/-- What a group of elements computes: results in order, the OR of the flags, and the steps of lfsr. -/
structure ElemRes where
  vals : List Nat
  flags : Flags
  steps : Nat
  deriving DecidableEq, Repr

/-- Elements in ascending order. Where the operation rounds under the stochastic mode (`st`), every active element steps
lfsr once and draws from it; an inactive element does nothing (R80, R152). -/
def runElems (st : Bool) : List Elem → W32 → ElemRes
  | [], _ => ⟨[], 0#8, 0⟩
  | e :: rest, l =>
    if e.act then
      let l' := if st then stepLfsr l else l
      let p := e.f (drawOf l')
      let r := runElems st rest l'
      ⟨p.1 :: r.vals, p.2 ||| r.flags, b2n st + r.steps⟩
    else
      let r := runElems st rest l
      ⟨e.old :: r.vals, r.flags, r.steps⟩

/-- Whether operations that round step lfsr under this environment (R80). -/
def FpEnv.stoch (e : FpEnv) : Bool := decide (e.rm = 4)

/-- lfsr as the operation needs it: read only where it steps. -/
def Ctx.drawsFrom (c : Ctx) (f : Focus) (st : Bool) : Eff W32 := if st then c.rdLfsr f.ent.word f.slot else .ok 0#32

/-- A result's flags and lfsr steps recorded for the focused entry. -/
def Ctx.flagged (c : Ctx) (f : Focus) (fl : Flags) (k : Nat) : Ctx := (c.raise f.ent.id fl).stepped f.ent.id k

/-- Element `i` of `w` bits is active under the mask: its lane's bit is set (R42, R152). -/
def laneAct (w : Nat) (mk : W64) (i : Nat) : Bool := mk.getLsbD (w * i / 32)

/-- A single draw for a scalar operation that rounds (R80, R95). -/
def oneDraw (st : Bool) (l : W32) : Nat := if st then drawOf (stepLfsr l) else 0

/-! ## The scale table (R71, R194) -/

/-- One load applied to a scale table. -/
def ScaleEv.apply (t : List W32) (e : ScaleEv) : List W32 :=
  (List.range 16).map fun j =>
    match e.ent with
    | some i => if j = i then e.vals.getD 0 0#32 else t.getD j 0x3F800000#32
    | none => e.vals.getD j 0x3F800000#32

/-- A load of the scale table that has not issued. -/
def isScaleLoad : Instr → Bool
  | .sctl _ _ | .sctlEnt _ _ => true
  | _ => false

/-- The scale table as word `n` of context `k` sees it (R71): the loads of its own earlier words, which must have issued,
and every other context's load that has issued, in the order of issue. -/
def State.scaleFor (s : State) (k n : Nat) : Eff (List W32) :=
  let co := s.core (ctxCore k)
  waitUnless (!((s.ctx k).queue 1).any fun e => decide (e.word < n) && isScaleLoad e.op) <|
    .ok ((co.scale.filter fun e => !(decide (e.ctx = k) && decide (n ≤ e.word))).foldl ScaleEv.apply co.scale0)

end Sys2Proof.Machine
end

