-- ==== Sys2Proof/Machine/Task.lean ====
section
/-!
DEFINITION. What a context has outstanding, the permit it holds, committing its last interval, and the end of its task
(R46, R116, R128, R142, R177, R228).
-/

namespace Sys2Proof.Machine

/-! ## Outstanding operations (R142) -/

def isLoadOp : OpKind → Bool
  | .gld _ _ | .at _ _ | .cld _ _ | .anchor _ | .publish | .barArr => true
  | _ => false

def isStoreOp : OpKind → Bool
  | .gst | .barInit | .barArr => true
  | _ => false

def isCopyOp : OpKind → Bool
  | .cpIn | .cpOut | .cpPf | .cpGat | .cpCst | .accLd | .accSt | .gred | .xdisp _ | .resolve _
  | .coll => true
  | _ => false

/-- Whether an operation counts: a gated one only once it is released (R142). -/
def Op.counts (o : Op) : Bool := (!o.gated || o.released) && !o.abandoned

def Ctx.loadsOut (c : Ctx) : Nat := (c.ops.filter fun o => isLoadOp o.kind && o.counts).length

/-- Stores outstanding for context `k` at a scope (R242): at the context's own, a released store is performed. Wider, remote
ones until their effect is applied; its scratchpad stores, which the core's own contexts see at once, while any byte of them
stands in the write queue and the scope is wider than the core (R247). -/
def State.storesOut (s : State) (k scope : Nat) : Nat :=
  let co := s.core (ctxCore k)
  if scope = 0 then 0
  else ((s.ctx k).ops.filter fun o => isStoreOp o.kind && o.counts).length +
    ((co.cb.filter fun e => decide (e.ctx = k)).map (·.stores)).sum +
      (if 2 ≤ scope then countDistinct ((co.wq.filter fun e => decide (e.ctx = k)).map (·.op)) else 0)

def Ctx.copiesOut (c : Ctx) : Nat := (c.ops.filter fun o => isCopyOp o.kind && o.counts).length

/-- Rows of a pass that are not yet written at cycle `t` (R25, R184). -/
def Pass.pending (p : Pass) (t : Nat) : Bool := decide (t < p.cyc + 136 + p.n)

def Ctx.tilesOut (c : Ctx) (t : Nat) : Nat :=
  (c.passes.filter fun p => p.pending t).length + c.drains.length

/-- An accumulator-writing X-slot operation, or a tile drain. -/
def isTileOp : Instr → Bool
  | .mxRun _ _ _ _ | .mxRunSet _ _ _ _ | .mxClr _ _ | .mxDrain _ _ _ _ _ => true
  | _ => false

/-- Tile operations outstanding at a `drain` in word `n`: one of an earlier word that the X slot has yet to issue has rows
unwritten as well (R25, R142, R242). -/
def Ctx.tilesBefore (c : Ctx) (n t : Nat) : Nat :=
  c.tilesOut t + ((c.queue 4).filter fun e => decide (e.word < n) && isTileOp e.op).length

/-- Whether every mark at a word before `n` has committed (R244). -/
def Ctx.marksDone (c : Ctx) (n : Nat) : Bool := c.marks.all fun m => decide (n ≤ m.word)

/-- Whether nothing is outstanding, as `exit` requires (R116): its remote stores have drained, so that it waits for each
`gst` (R137), and its scratchpad stores stand in the banks, so that the task may be counted as ended (R256). -/
def State.quiet (s : State) (k : Nat) : Bool :=
  let c := s.ctx k
  decide (c.loadsOut = 0) && decide (s.storesOut k 2 = 0) && decide (c.copiesOut = 0) &&
    decide (c.tilesOut s.now = 0) && !(c.ops.any fun o => decide (o.kind = .launch ∨ o.kind = .watch)) &&
    c.sends.isEmpty

/-! ## Committing the last interval (R128) -/

/-- Scale-table loads that no rollback can reach any more go into the base table, the oldest first. A load in a mark's own word
stays apart, since a pass of that word, which issues after the mark has committed, does not see it (R71). -/
def Core.foldScale (co : Core) (last : Nat → Nat) : Core :=
  let done := co.scale.takeWhile fun e => decide (e.word < last e.ctx)
  { co with scale0 := done.foldl ScaleEv.apply co.scale0, scale := co.scale.drop done.length }

/-- Word `n` of context `k` becomes its last committed mark: the shadow is taken, and what was gated is released. -/
def State.commitTo (s : State) (k n next : Nat) : State :=
  let s := s.releaseTo k n
  let c := (s.ctx k).foldTo n
  let s := s.setCtx k { c with lastMark := n, lastPc := next, marks := c.marks.filter fun m => decide (n < m.word) }
  s.setCore (ctxCore k) ((s.core (ctxCore k)).foldScale fun j => (s.ctx j).lastMark)

/-! ## Permits (R177, R366) -/

/-- Units that a permit of level `l` costs. -/
def permitCost (l : Nat) : Nat := 2 ^ l

/-- The permit of a context is released: a granted one returns its units, a pending one leaves the queue and has its token
written with CODE 0x01. -/
def State.dropPermit (s : State) (k : Nat) : State :=
  let c := s.ctx k
  match c.permit with
  | none => s
  | some p =>
    let d := clusterDie (ctxCluster k)
    let g := s.die d
    if p.granted then (s.setCtx k { c with permit := none }).setDie d { g with held := g.held - permitCost p.lvl }
    else (s.setCtx k { (c.putTok p.id (token 1 0)) with permit := none }).setDie d
      { g with queue := g.queue.filter fun q => decide (q.1 ≠ k) }

/-! ## The end of a task (R46, R116, R228, R231) -/

/-- Keys of a core's contexts, those in its save area among them. -/
def coreKeys (core : Nat) : List Nat :=
  ((List.range 8).map fun i => 8 * core + i) ++ (List.range 16).map fun j => spillBase + 16 * core + j

/-- Whether a key holds a task. -/
def State.holds (s : State) (k : Nat) : Bool := match (s.ctx k).run with | .free => false | _ => true

/-- A task of record `r` has ended (R228): one fewer lives, and one more has failed if firmware ended it. -/
def State.countEnd (s : State) (r : Nat) (failed : Bool) : State :=
  match s.recs.find? r with
  | some x => { s with recs := s.recs.set r { x with live := x.live - 1, failed := x.failed + b2n failed } }
  | none => s

/-- The context is freed with its units. What engines still carry for it goes on without it, and entries of its receive queues stay
until the next binding (R199). A context that a shoot-down has
made quiescent stays so, whatever task it holds (R306). -/
def State.freeCtx (s : State) (k : Nat) : State :=
  let c := s.ctx k
  let core := ctxCore k
  let s := s.dropPermit k
  let s := s.setCtx k { Ctx.idle with
    serial := c.serial, quiet := c.quiet, ops := c.ops.map (fun o => { o with abandoned := true }), rq := c.rq }
  let co := s.core core
  let co := { co with scale := co.scale.map (fun (e : ScaleEv) => if e.ctx = k then { e with word := 0 } else e),
                      waits := co.waits.filter fun w => decide (w.who ≠ k),
                      holder := if co.holder = some k then none else co.holder,
                      last := if co.holder = some k then k % 8 else co.last }
  let co := co.foldScale fun j => (s.ctx j).lastMark
  let alone := !((coreKeys core).any fun j => s.holds j && decide ((s.ctx j).record = c.record))
  s.setCore core (if c.stat.scale && alone then { co with scale0 := [], scale := [] } else co)

/-- A task ends, by `exit` or by firmware after a trap. -/
def State.endTask (s : State) (k : Nat) (failed : Bool) : State :=
  (s.freeCtx k).countEnd (s.ctx k).record failed

end Sys2Proof.Machine
end

