-- ==== Sys2Proof/Machine/Control.lean ====
section
/-!
DEFINITION. The meanings of the S slot's control instructions (R97 to R117): branches and calls, the hardware loop, yields,
checkpoints, exit, trap and return.

A branch is resolved at dispatch (R22): its meaning then runs with `Focus.disp` set and moves the pc. When its slot issues
the word, the meaning runs again and makes the register write, if the instruction has one.
-/

namespace Sys2Proof.Machine

/-! ## Branches (R97 to R99) and loops (R100, R101) -/

/-- The count of `loop.s`: an unsigned register value, at most 2^24 − 1 (R101). -/
def loopSCount (x : W64) : Nat := min x.toNat 16777215

/-- Byte offset of the word after a loop body that begins after the word at `pc`. -/
def afterBody (pc : Nat) (last : Byte) : Int := pc + 32 + 32 * (last.toNat + 1)

/-- Where the operation sends the context: a target, or nowhere. A loop of no passes goes to the word after its body. -/
def Ctx.target (c : Ctx) (n pc : Nat) : Instr → Eff (Option Int)
  | .br off => .ok (some (pc + 32 * brWords off))
  | .call off => .ok (some (pc + 32 * brWords off))
  | .brx sa => (c.rdS n sa).bind fun x => .ok (some x.toNat)
  | .ret => (c.rdS n 31#5).bind fun x => .ok (some x.toNat)
  | .loop _ cnt last => .ok (if loopCount cnt = 0 then some (afterBody pc last) else none)
  | .loopS _ sa last => (c.rdS n sa).bind fun x => .ok (if loopSCount x = 0 then some (afterBody pc last) else none)
  | _ => .ok none

/-- Whether a target is a word of the context's code image (R97). -/
def Ctx.legalTarget (c : Ctx) (t : Int) : Bool := decide (0 ≤ t) && decide (t % 32 = 0) && decide (t < c.codesz)

/-- A control transfer: resolved at dispatch, and its register written at issue. -/
def branchOp (s : State) (op : Instr) (eff : Focus → Ctx → Eff Ctx) : Out :=
  match s.focus with
  | none => .next s
  | some f =>
    if f.disp then
      let c := s.ctx f.ctx
      match c.target f.ent.word f.ent.pc op with
      | .ok (some t) =>
        if c.legalTarget t then .next ({ s with focus := none }.setCtx f.ctx { c with pc := t.toNat })
        else .next (s.preciseTrap f.ctx f.ent.word f.ent.pc 0x07 (w64 t))
      | .trap cause val => .next (s.preciseTrap f.ctx f.ent.word f.ent.pc cause val)
      | _ => .next { s with focus := none }
    else onCtx s eff

def execBr (off : BrOff) (s : State) : Out := branchOp s (.br off) fun _ c => .ok c
def execBrx (sa : SReg) (s : State) : Out := branchOp s (.brx sa) fun _ c => .ok c
def execRet (s : State) : Out := branchOp s .ret fun _ c => .ok c

/-- `call` also writes the next word's offset to s31. -/
def execCall (off : BrOff) (s : State) : Out :=
  branchOp s (.call off) fun f c => .ok (c.putS f.ent.id 31#5 (BitVec.ofNat 64 (f.ent.pc + 32)))

/-- `loop` writes its frame as {LAST, PC + 32, n}. -/
def execLoop (frame : Bool) (cnt : LoopCnt) (last : Byte) (s : State) : Out :=
  branchOp s (.loop frame cnt last) fun f c =>
    .ok (c.putS f.ent.id (frameReg frame) (mkFrame last.toNat (f.ent.pc + 32) (loopCount cnt)))

def execLoopS (frame : Bool) (sa : SReg) (last : Byte) (s : State) : Out :=
  branchOp s (.loopS frame sa last) fun f c => (c.rdS f.ent.word sa).bind fun x =>
    .ok (c.putS f.ent.id (frameReg frame) (mkFrame last.toNat (f.ent.pc + 32) (loopSCount x)))

/-! ## Yields (R103, R104, R129, R141) -/

/-- `yield.t` yields if the token is still to be written when the word issues. -/
def execYieldT (sa : SReg) (s : State) : Out :=
  onCtx s fun f c =>
    let n := f.ent.word
    if c.tokPending sa.toNat n then
      match c.rdS n sa with
      | .trap code val => .trap code val
      | _ => .ok { c with run := .waitTok sa.toNat n, yields := true }
    else
      match c.rdS n sa with
      | .trap code val => .trap code val
      | .wait => .wait
      | .late => .late
      | .ok _ => .ok c

/-- The checks of a barrier address taken from a register (R139, R232). -/
def checkBar {α : Type} (s : State) (c : Ctx) (b : W64) (k : Eff α) : Eff α :=
  trapIf (decide (b.toNat / 2 ^ 41 ≠ 0)) 0x04 b <| trapIf (s.barOutside c b.toNat) 0x04 b <|
    trapIf (decide (b.toNat % 16 ≠ 0)) 0x05 b k

/-- `yield.b` sends its query when the word issues (R141): the context waits for the answer, which says whether the word
yields. The condition is the recorded generation where the latest arrival was at this address, else a nonzero PEND. A
released arrival of the context at this address is waited for first, since its result is what is recorded (log 12). -/
def execYieldB (sa : SReg) (s : State) : Out :=
  onCtx s fun f c => (c.rdS f.ent.word sa).bind fun b => checkBar s c b <|
    waitUnless (!(c.ops.any fun o => decide (o.kind = .barArr) && o.released && decide (o.addr = b.toNat))) <|
    match c.barRec with
    | some (a, g) =>
      if a = b.toNat then .ok { c with run := .waitBar b.toNat g true false }
      else .ok { c with run := .waitBar b.toNat 0 false false }
    | none => .ok { c with run := .waitBar b.toNat 0 false false }

/-! ## Checkpoints (R108 to R112) -/

/-- Whether the focused operation, which waits for its word's own mark (R107), may perform: the mark has committed. -/
def Ctx.markDone (c : Ctx) (n : Nat) : Bool := decide (n ≤ c.lastMark)

/-- What the checks of an operation that waits for its mark find of its operands: a trap. One that is still to be written does not
hold the check, since the mark never waits for the operation (R107). -/
def Eff.trapOnly {α : Type} (x : Eff α) : Eff Unit :=
  match x with
  | .trap code v => .trap code v
  | _ => .ok ()

/-- An operation that performs only after its word's mark has committed (R106, R107). Its checks are made first, when its
slot reaches it; the entry then waits, marked as checked, and performs once the mark is committed. -/
def afterMark (s : State) (check : Focus → Ctx → Eff Unit) (k : Focus → Ctx → Eff State) : Out :=
  match s.focus with
  | none => .next s
  | some f =>
    let c := s.ctx f.ctx
    if f.ent.checked then
      if c.markDone f.ent.word then issueOp s k else .next { s with focus := none }
    else
      match check f c with
      | .ok _ => .next ({ s with focus := none }.setCtx f.ctx (c.checkQ f.slot f.ent.id))
      | .wait => .next { s with focus := none }
      | .late => .next (s.holdLate f)
      | .trap cause val => .next (s.issueTrap f cause val)

/-- `spec` opens the checkpoint once its own mark has committed, and records the abort label (R108).
DESIGN CHOICE (log 98): a label before offset 0 is taken as 0, and a label is checked as a target only when a word at it is
dispatched. -/
def execSpec (off : BitVec 16) (s : State) : Out :=
  afterMark s (fun _ _ => .ok ()) fun f c =>
    .ok (s.setCtx f.ctx { c with chk := some ⟨f.ent.word, (f.ent.pc + 32 * off.toInt).toNat, none⟩ })

/-- Abort (R109): the shadow of the `spec` mark, with every gated store and atomic of the checkpoint gone, and the
context at the abort label with no checkpoint open. Copies, global loads and other operations that are not gated go on, also
those still to be translated (R108). -/
def State.abort (s : State) (k : Nat) : State :=
  match (s.ctx k).chk with
  | none => s
  | some x =>
    let s := { s with focus := none }.rollbackCtxBy k fun _ => false
    let c := s.ctx k
    s.setCtx k { c.syncTags with pc := x.label, chk := none, dspec := false }

/-- Whether the head of slot `j` waits on a full restart buffer (R111). -/
def Ctx.slotStuck (c : Ctx) (j : Nat) : Bool :=
  match c.queue j with
  | e :: _ => c.inSpec && ((isSpStore e.op && decide (64 ≤ c.storeUsed e.word)) || (isGatedRemote e.op && decide (16 ≤ c.remoteUsed)))
  | [] => false

/-- Whether an abort in word `n` may be made: every other slot has issued the word, but for one that waits until the
checkpoint closes (R111). -/
def Ctx.abortReady (c : Ctx) (k n : Nat) : Bool :=
  (List.range 8).all fun j => decide (j = k) || c.slotStuck j ||
    (c.queue j).all fun e => decide (n < e.word) || (decide (e.word = n) && e.checked)

/-- `spec.commit` (R109): under a true predicate the checkpoint closes, and its stores stay gated until the mark of this
word commits; under a false one it aborts. Dispatch has read the predicate already, and holds the next word back when it
is false. -/
def execSpecCommit (pc : PReg) (s : State) : Out :=
  match s.focus with
  | none => .next s
  | some f =>
    let c := s.ctx f.ctx
    match c.rdP f.ent.word pc with
    | .ok true =>
      .next ((s.setCtx f.ctx { c with chk := c.chk.map fun x => { x with commit := some f.ent.word } }).retire f)
    | .ok false => .next (if c.abortReady f.slot f.ent.word then s.abort f.ctx else { s with focus := none })
    | .wait => .next { s with focus := none }
    | .late => .next (s.holdLate f)
    | .trap cause val => .next (s.issueTrap f cause val)

/-- `spec.abort` aborts once the word's other slots have issued. -/
def execSpecAbort (s : State) : Out :=
  match s.focus with
  | none => .next s
  | some f => .next (if (s.ctx f.ctx).abortReady f.slot f.ent.word then s.abort f.ctx else { s with focus := none })

/-- The forced abort (R111): a store waits on a full restart buffer inside the checkpoint, dispatch is held because a slot queue is
full or because it waits for what the S slot holds (log 107), and no `spec.commit` or `spec.abort` has issued. -/
def Ctx.forcedAbort (c : Ctx) : Bool :=
  c.inSpec && (List.range 8).any (fun j => c.slotStuck j) &&
    (c.halt || (List.range 8).any fun k => decide (16 ≤ (c.queue k).length))

def execSpecForcedAbort (k : Nat) (s : State) : Out :=
  .next (if (s.ctx k).forcedAbort then s.abort k else s)

/-! ## Exit, trap and return (R115 to R117) -/

/-- What `exit` does next, and whether nothing is left that the end of the task waits for (R116, R128): once every other slot has issued the word, every mark has committed and every translated
operation has passed, the last interval is committed and what it gated is released; the task ends when nothing is
outstanding. A fault that a `gst` reported is taken here (R137), and before a trap that a higher slot finds in the word (R21). -/
def State.exitNext (s : State) (f : Focus) : State × Bool :=
  let c := s.ctx f.ctx
  let n := f.ent.word
  let idle : State := { s with focus := none }
  match c.allIssuedBefore n && s.gstKnown f.ctx n, c.gstErr with
  | true, code :: rest =>
    ((idle.setCtx f.ctx { c with gstErr := rest }).preciseTrap f.ctx n f.ent.pc 0x0C (BitVec.ofNat 64 code), false)
  | _, _ =>
    if !f.ent.checked then
      (if c.allIssuedBefore n && c.othersIssued f.slot n then idle.setCtx f.ctx (c.checkQ f.slot f.ent.id) else idle, false)
    else if c.lastMark < n then
      (if c.marks.isEmpty && c.passedTo n then idle.commitTo f.ctx n (c.nextOf n) else idle, false)
    else (idle, s.quiet f.ctx)

/-- The next state of an `exit`, which ends the task once nothing is left to wait for. -/
def State.exitStep (s : State) (f : Focus) : State :=
  let r := s.exitNext f
  if r.2 then r.1.endTask f.ctx false else r.1

def execExit (s : State) : Out :=
  match s.focus with
  | none => .next s
  | some f => .next (s.exitStep f)

/-- `trap imm` raises the software trap, precise at its word (R115). -/
def execTrap (imm : BitVec 16) (s : State) : Out :=
  match s.focus with
  | none => .next s
  | some f => .next (s.issueTrap f 0x09 (imm.setWidth 64))

/-- The return itself: INTRAP cleared, and the context at trap.pc or the word after it. Where the trap had put a checkpoint
aside, the context resumes at the word after its `spec`, and the checkpoint opens there afresh: this word's mark stands for that
of the `spec` (R112). -/
def State.returnFrom (s : State) (f : Focus) (next : Bool) : State :=
  let c := s.ctx f.ctx
  let c := { c with stat := { c.stat with inTrap := false }, halt := false }
  match c.heldChk with
  | some (x, pc) =>
    let s := (s.setCtx f.ctx c).commitTo f.ctx f.ent.word pc
    s.setCtx f.ctx { s.ctx f.ctx with
      pc := pc, heldChk := none, chk := some ⟨f.ent.word, x.label, none⟩, dspec := true }
  | none => s.setCtx f.ctx { c with pc := c.trapPc.toNat + (if next then 32 else 0) }

/-- `rti` (R117), once every other slot has issued its word; where it opens a checkpoint again, every mark has committed first. -/
def execRti (next : Bool) (s : State) : Out :=
  match s.focus with
  | none => .next s
  | some f =>
    let c := s.ctx f.ctx
    if c.stat.inTrap then
      if c.allIssuedBefore f.ent.word && c.othersIssued f.slot f.ent.word &&
          (c.heldChk.isNone || (c.marks.isEmpty && c.passedTo f.ent.word)) then
        .next ((s.retire f).returnFrom f next)
      else .next { s with focus := none }
    else .next (s.issueTrap f 0x02 0#64)

end Sys2Proof.Machine
end

