-- ==== Sys2Proof/Machine/System.lean ====
section
/-!
DEFINITION. The meanings of the control-register instructions, `launch` and `watch` (R49 to R61, R118 to R120, R292, R298,
R305, R355, R371), and the next-tile request (R113).
-/

namespace Sys2Proof.Machine

/-! ## Reading a control register -/

/-- ctx.id (R52). -/
def State.ctxId (s : State) (k : Nat) : W64 :=
  let core := ctxCore k
  let cl := coreCluster core
  BitVec.ofNat 64 (s.vertex * 2 ^ 21 + cl / 8 * 2 ^ 19 + cl % 8 * 2 ^ 16 + coreK core * 2 ^ 12 + k % 8 * 2 ^ 9)

/-- ctx.stat (R53). -/
def Ctx.statWord (c : Ctx) : W64 :=
  BitVec.ofNat 64 (b2n c.stat.priv * 2 ^ 31 + b2n c.stat.launch * 2 ^ 30 + b2n c.stat.inTrap * 2 ^ 29 +
    b2n c.inSpec * 2 ^ 28 + c.stat.vf % 16 * 2 ^ 24 + c.stat.prio % 4 * 2 ^ 22 + b2n c.stat.scale * 2 ^ 21)

/-- ctx.res (R54). -/
def Ctx.resWord (c : Ctx) : W64 := BitVec.ofNat 64 (c.wmap % 16 * 2 ^ 24 + c.amap % 256 * 2 ^ 16 + c.cmap % 65536)

/-- chwj and chbj (R48). -/
def Chan.chw (h : Chan) : W64 := BitVec.ofNat 64 (b2n h.busy * 2 ^ 63 + b2n h.empty * 2 ^ 62 + h.wm % 2 ^ 24)
def Chan.chb (h : Chan) : W64 := BitVec.ofNat 64 (h.limit % 2 ^ 24 * 2 ^ 24 + h.base % 2 ^ 24)

/-- sys.sd (R305). -/
def Shoot.word (d : Shoot) : W64 := BitVec.ofNat 64 (b2n d.busy * 2 ^ 63 + b2n d.forced * 2 ^ 62 + d.ack % 512)

/-- The value of control register `m` for word `n` of context `k` (R49, R118). -/
def State.csrGet (s : State) (k n : Nat) (m : BitVec 12) : Eff W64 :=
  let c := s.ctx k
  let x := m.toNat
  let cl := s.cluster (ctxCluster k)
  if x = 0x000 then .ok 0x01000000#64
  else if x = 0x001 then .ok (s.ctxId k)
  else if x = 0x002 then .ok c.statWord
  else if x = 0x003 then .ok c.resWord
  else if x = 0x010 then c.rdU n uFmode
  else if x = 0x011 then (c.rdFstat n).bind fun f => .ok (f.setWidth 64)
  else if x = 0x012 then (c.rdLfsr n 0).bind fun l => .ok (l.setWidth 64)
  else if x = 0x013 then c.rdU n uTol
  else if x / 4 = 0x020 / 4 then .ok (c.gs.get 0#64 (x % 4))
  else if x / 4 = 0x030 / 4 then c.rdU n (uHzn + x % 4)
  else if x / 4 = 0x034 / 4 then c.rdNt n (BitVec.ofNat 2 x)
  else if x / 16 = 0x04 then .ok (c.chans.get Chan.reset (x % 16)).chw
  else if x / 16 = 0x05 then .ok (c.chans.get Chan.reset (x % 16)).chb
  else if x = 0x100 then .ok c.trapCause
  else if x = 0x101 then .ok c.trapPc
  else if x = 0x102 then .ok c.trapVal
  else if x = 0x800 then .ok (BitVec.ofNat 64 (s.core (ctxCore k)).swapthr)
  else if x = 0x801 then .ok (BitVec.ofNat 64 s.svc)
  else if x = 0x802 then .ok cl.sd.word
  else if x = 0x803 then .ok (BitVec.ofNat 64 s.rgen)
  else if x = 0x804 then .ok cl.spare
  else if x = 0x805 then .ok s.fwver
  else if x / 16 = 0x81 then .ok (s.func (x % 16)).tr
  else .ok 0#64

def execCsrd (sd : BitVec 4) (m : BitVec 12) (s : State) : Out :=
  onCtx s fun f c => (s.csrGet f.ctx f.ent.word m).bind fun v => .ok (c.putS f.ent.id (sd.setWidth 5) v)

/-! ## Writing a control register -/

/-- How a control-register instruction combines the old value with its operand (R118). -/
inductive CsrOp where
  | put | set | clear
  deriving DecidableEq, Repr

def CsrOp.apply (o : CsrOp) (old v : W64) : W64 :=
  match o with
  | .put => v
  | .set => old ||| v
  | .clear => old &&& ~~~v

/-- fmode as a write leaves it: bits 31 to 4 ignore writes, and RM 5, 6 or 7 stores 0 (R55). -/
def fmodeOf (v : W64) : W64 :=
  let rm := v.toNat % 8
  BitVec.ofNat 64 (v.toNat / 8 % 2 * 8 + if 4 < rm then 0 else rm)

/-- The bits of tr.vf that exist (R292). -/
def trMask : W64 := 0xFFFFFFF0007FFFFF#64

/-- The cores that share a cluster's control core: K0 to K7, the control core and the spare. -/
def clusterCores (cl : Nat) : List Nat := (List.range 10).map fun j => 16 * cl + j

/-- A shoot-down descriptor that keeps its layout (R305): ASID, KMASK, NPG and the first page. -/
def sdParse (bs : List Byte) : Option (Nat × Nat × Nat × Nat) :=
  let km := rfld bs 2 2
  let va := rfld bs 8 8
  -- bits above 54 of a virtual address are ignored (R291)
  if km = 0 ∨ km / 2 ^ 9 ≠ 0 ∨ va % 65536 ≠ 0 ∨ rfld bs 16 16 ≠ 0 then none
  else some (rfld bs 0 2, km, rfld bs 4 4, va % 2 ^ 55)

/-- A write of sys.sd (R305): discarded while one is in progress; a descriptor that breaks its layout ends at once with
no effect; else the shoot-down is in progress, and SHOOTDOWN_START carries it to the cores. -/
def State.writeSd (s : State) (k n : Nat) (v : W64) : State :=
  let q := ctxCluster k
  let cl := s.cluster q
  if cl.sd.busy then s
  else
    let a := v.toNat
    let desc := if a % 32 = 0 ∧ a + 32 ≤ 0x400000 then sdParse (s.spRead k n a 32) else none
    match desc with
    | none => s.setCluster q { cl with sd := Shoot.reset }
    | some (asid, km, npg, va) =>
      s.setCluster q { cl with sd := { Shoot.reset with
        busy := true, asid := asid, kmask := km, npg := npg, va := va, start := s.now,
        pending := (List.range 9).filter fun i => bitAt km i } }

/-- The effect of a write on a register that is not the context's own. -/
def State.csrSys (s : State) (k n : Nat) (m : BitVec 12) (v : W64) : State :=
  let x := m.toNat
  let q := ctxCluster k
  if x = 0x800 then
    let t := if v.toNat % 2 ^ 32 = 0 then 1 else v.toNat % 2 ^ 32
    (clusterCores q).foldl (fun s i => s.setCore i { s.core i with swapthr := t }) s
  else if x = 0x801 then { s with svc := v.toNat % 4 }
  else if x = 0x802 then s.writeSd k n v
  else if x = 0x804 then s.setCluster q { s.cluster q with spare := v &&& 0x87#64 }
  else if x / 16 = 0x81 then s.setFunc (x % 16) { s.func (x % 16) with tr := v &&& trMask }
  else s

/-- Whether a number names a register of the context itself. -/
def isOwnCsr (m : BitVec 12) : Bool := decide (m.toNat < 0x800)

/-- A write of the context's own register takes its place in word order; the flags and the stochastic register apply it
in the order of R56 and R80. -/
def Ctx.csrOwn (c : Ctx) (id : Nat) (m : BitVec 12) (o : CsrOp) (old v : W64) : Ctx :=
  if m = 0x010#12 then c.putU id uFmode (fmodeOf (o.apply old v))
  else if m = 0x013#12 then c.putU id uTol (o.apply old v &&& 0xFF#64)
  else if m = 0x011#12 then c.raise id (v.setWidth 8)
  else if m = 0x012#12 then c.stepped id (v.toNat % 2 ^ 32)
  else c

/-- An operation that reaches beyond its context waits for the rest of its word, so that a trap of another slot still
undoes the word. -/
def afterRest (s : State) (check : Focus → Ctx → Eff Unit) (k : Focus → Ctx → Eff State) : Out :=
  match s.focus with
  | none => .next s
  | some f =>
    let c := s.ctx f.ctx
    match check f c with
    | .wait => .next { s with focus := none }
    | .late => .next (s.holdLate f)
    | .trap cause val => .next (s.issueTrap f cause val)
    | .ok _ =>
      if c.allIssuedBefore f.ent.word && c.othersIssued f.slot f.ent.word then issueOp s k
      else .next ({ s with focus := none }.setCtx f.ctx (c.checkQ f.slot f.ent.id))

/-- `csrw`, `csrs` and `csrc`. -/
def csrOp (s : State) (o : CsrOp) (m : BitVec 12) (src : CsrSrc) : Out :=
  if isOwnCsr m then
    onCtx s fun f c => (c.rdCsrSrc f.ent.word src).bind fun v =>
      (if m = 0x010#12 ∨ m = 0x013#12 then s.csrGet f.ctx f.ent.word m else .ok 0#64).bind fun old =>
        .ok (c.csrOwn f.ent.id m o old v)
  else
    afterRest s (fun f c => (c.rdCsrSrc f.ent.word src).bind fun _ => .ok ()) fun f c =>
      (c.rdCsrSrc f.ent.word src).bind fun v => (s.csrGet f.ctx f.ent.word m).bind fun old =>
        .ok (s.csrSys f.ctx f.ent.word m (o.apply old v))

def execCsrw (m : BitVec 12) (v : CsrSrc) (s : State) : Out := csrOp s .put m v
def execCsrs (m : BitVec 12) (v : CsrSrc) (s : State) : Out := csrOp s .set m v
def execCsrc (m : BitVec 12) (v : CsrSrc) (s : State) : Out := csrOp s .clear m v

/-! ## Launch, watch and the next-tile request -/

/-- `launch` submits its graph to the scheduler once its mark has committed (R119). The scheduler's check answers it. -/
def execLaunch (sd sa : SReg) (nrec : SrcB) (s : State) : Out :=
  afterMark s (fun f c => needAll [(c.rdS f.ent.word sa).trapOnly, (c.rdB f.ent.word nrec).trapOnly]) fun f c =>
    (c.rdS f.ent.word sa).bind fun a => (c.rdB f.ent.word nrec).bind fun m =>
      let q := ctxCluster f.ctx
      let cl := s.cluster q
      let s := s.setCtx f.ctx { c with ops := c.ops ++ [{ Op.of f .launch sd with addr := a.toNat, b := m.toNat }] }
      .ok (s.setCluster q { cl with graphs := cl.graphs ++
        [⟨f.ctx, f.ent.id, a.toNat, m.toNat, c.stat.vf, c.stat.priv, c.stat.launch⟩] })

/-- `watch` (R120): an operation that the control core's copy engine translates, and that PAGE_WALK arms. -/
def execWatch (sd sa sb : SReg) (timeout : Option Ext) (s : State) : Out :=
  afterMark s (fun f c => needAll [(c.rdS f.ent.word sa).trapOnly, (c.rdS f.ent.word sb).trapOnly]) fun f c =>
    (c.rdS f.ent.word sa).bind fun a => (c.rdS f.ent.word sb).bind fun v =>
      let va := a.toNat % 2 ^ 55 / 8 * 8
      addOp s f c { Op.of f .watch sd with
        addr := va, b := v.toNat, c := (match timeout with | some e => e.toNat * 1024 | none => 0), passed := false,
        pieces := [⟨0, va, 0, 8, none, false, [], .fresh, none⟩] }

/-- `ntreq` (R113): a request for the next tile, whose delivery rotates in 24 words later. -/
def execNtreq (s : State) : Out :=
  afterMark s (fun _ _ => .ok ()) fun f c =>
    let q := ctxCluster f.ctx
    let cl := s.cluster q
    let s := s.setCtx f.ctx { c with nt := c.nt ++ [⟨f.ent.id, f.ent.word + 24, none⟩] }
    .ok (s.setCluster q { cl with tileq := cl.tileq ++ [⟨f.ctx, f.ent.id, c.record⟩] })

end Sys2Proof.Machine
end

