-- ==== Sys2Proof/Machine/Matrix.lean ====
section
/-!
DEFINITION. The matrix engine (R173 to R197): weight registers, permits, passes, clears and drains of the X slot, and the
event that writes tile rows.
-/

namespace Sys2Proof.Machine

/-! ## Weight registers (R173, R180 to R183) -/

/-- A weight register at binding: tag RAW (R46). -/
def WReg.blank : WReg := ⟨tRAW, false, [], 0, [], 0⟩

/-- A weight register as word `n` finds it: the latest X-slot write of an earlier word (R45). -/
def Ctx.rdW (c : Ctx) (n w : Nat) : Eff WReg := c.read c.w WReg.blank w n

/-- A write made at issue: it fills the place that dispatch left, or takes one among those of its word, so that the log keeps the
order of the words. -/
def RegFile.post {α : Type} (f : RegFile α) (id word slot idx : Nat) (v : α) : RegFile α :=
  if f.log.any fun e => decide (e.id = id) && decide (e.idx = idx) then f.fill id idx v .plain
  else
    let p := f.log.span fun e => decide (e.word ≤ word)
    { f with log := p.1 ++ ⟨id, idx, word, word + 1, slot, false, false, some v, .plain⟩ :: p.2 }

def Ctx.postW (c : Ctx) (f : Focus) (idx : Nat) (v : WReg) : Ctx :=
  { c with w := c.w.post f.ent.id f.ent.word f.slot idx v }

/-- Cycles from issue until a weight register written in format `t` may be read (R181). -/
def wReady (t : Tag) : Nat := 8 + rowBytes t / 4

/-- The value of a matrix at (k, n). -/
def mAt (w : List (List XV)) (k n : Nat) : XV := (w.getD k []).getD n XV.zero

/-- A 128 × 128 matrix with rows and columns exchanged. -/
def transposeM (w : List (List XV)) : List (List XV) :=
  (List.range 128).map fun k => (List.range 128).map fun n => mAt w n k

/-- Weights are written (R173, R180): the register with its tag, its sums invalid; FP32 values tag the odd neighbour RAW;
and a write of the odd member of an FP32 pair makes the even one RAW. -/
def Ctx.writeW (c : Ctx) (f : Focus) (w : Nat) (t : Tag) (vals : List (List XV)) (ready : Nat) : Eff Ctx :=
  let n := f.ent.word
  let c1 := c.postW f w ⟨t, false, vals, ready, [], 0⟩
  if t = tF32 then .ok (c1.postW f (w + 1) { WReg.blank with ready := ready })
  else if w % 2 = 1 then
    (c.rdW n (w - 1)).bind fun e => .ok (if e.tag = tF32 then c1.postW f (w - 1) { e with tag := tRAW, csv := false } else c1)
  else .ok c1

/-- The weight registers an operation touches are ready (R181). -/
def wIsReady {α : Type} (c : Ctx) (n now : Nat) (ws : List Nat) (k : Eff α) : Eff α :=
  match ws with
  | [] => k
  | w :: rest => (c.rdW n w).bind fun r => waitUnless (decide (r.ready ≤ now)) (wIsReady c n now rest k)

/-- The registers that a write of format `t` into `w` touches. -/
def wTouched (w : Nat) (t : Tag) : List Nat := if t = tF32 then [w, w + 1] else [w]

/-- The row addresses of a load or feed: `n` rows from `a` along a stride. -/
def rowAddrs (a stride : Int) (n : Nat) : List Int := (List.range n).map fun (r : Nat) => a + r * stride

/-- The checks of rows: alignment to 16 bytes and range, the lowest failing row reported (R21, R180, R189). -/
def checkRows {α : Type} (c : Ctx) (len : Nat) : List Int → Eff α → Eff α
  | [], k => k
  | a :: rest, k => checkAligned c a len 16 (checkRows c len rest k)

/-- Storage errors of the rows read from a core's scratchpad (R350). -/
def State.eccRows {α : Type} (s : State) (core len : Nat) : List Nat → Eff α → Eff α
  | [], k => k
  | a :: rest, k =>
    match (s.core core).eccAt a len with
    | some x => .trap 0x15 (eccVal 0 x)
    | none => s.eccRows core len rest k

/-- The 128 decoded rows as a matrix: W[e][r] from row r, or W[r][e] for a transposed load (R180). -/
def wMatrix (t : Tag) (tbl : List W32) (tr : Bool) (rows : List (List Byte)) : List (List XV) :=
  let ms := rows.map (segElems t tbl)
  if tr then ms else transposeM ms

/-- The scale table for a format: read only for an SX format. -/
def State.tblFor (s : State) (k n : Nat) (t : Tag) : Eff (List W32) := if isSX t then s.scaleFor k n else .ok []

/-- `mx.ld` and `mx.ld.t`. -/
def weightLoad (s : State) (wd : BitVec 2) (aj : AReg) (t : Tag) (disp : Option Ext) (tr : Bool) : Out :=
  issueOp s fun f c =>
    let n := f.ent.word
    let rb := rowBytes t
    (c.rdA n aj).bind fun p =>
      let as := rowAddrs (p.1.toNat + dispOf disp) p.2.toInt 128
      checkRows c rb as <| wIsReady c n s.now (wTouched wd.toNat t) <|
        waitUnless (!c.storesPending n (as.map fun a => (a, rb)) && !(as.any fun a => c.wmStall a.toNat rb)) <|
          s.eccRows (ctxCore f.ctx) rb (as.map (·.toNat)) <|
            (s.tblFor f.ctx n t).bind fun tbl =>
              let rows := as.map fun a => s.spRead f.ctx n a.toNat rb
              (c.writeW f wd.toNat t (wMatrix t tbl tr rows) (s.now + wReady t)).bind fun c' => .ok (s.setCtx f.ctx c')

def execMxLd (wd : BitVec 2) (aj : AReg) (t : Tag) (disp : Option Ext) (s : State) : Out := weightLoad s wd aj t disp false
def execMxLdT (wd : BitVec 2) (aj : AReg) (t : Tag) (disp : Option Ext) (s : State) : Out := weightLoad s wd aj t disp true

/-- The core that stands for compute core `k` of a cluster: the spare where it has taken its place (R355). -/
def State.coreFor (s : State) (cl k : Nat) : Nat :=
  let sp := (s.cluster cl).spare.toNat
  if bitAt sp 7 && decide (sp % 8 = k) then 16 * cl + 9 else 16 * cl + k

/-- The stage of a word's remote read, if it has begun. -/
def Ctx.stageOf (c : Ctx) (n slot : Nat) : Option Stage := c.stages.find? fun g => decide (g.word = n) && decide (g.slot = slot)

def Ctx.dropStage (c : Ctx) (n slot : Nat) : Ctx :=
  { c with stages := c.stages.filter fun g => !(decide (g.word = n) && decide (g.slot = slot)) }

/-- A remote read begins once every earlier word has issued in every slot (R249). Until its rows have arrived the slot
waits; then `k` has them. -/
def withStage (s : State) (f : Focus) (core : Nat) (as : List Int) (len : Nat) (mcast : Option Nat)
    (k : Stage → List (List Byte) → Out) : Out :=
  let c := s.ctx f.ctx
  let idle : State := { s with focus := none }
  match c.stageOf f.ent.word f.slot with
  | some g => match g.rows with | some rows => k g rows | none => .next idle
  | none =>
    if c.allIssuedBefore f.ent.word then
      .next (idle.setCtx f.ctx { c with stages := c.stages ++ [⟨f.ent.word, f.slot, core, as.map (·.toNat), len, mcast, none, 0⟩] })
    else .next idle

/-- `mx.ldr` (R180, R249): the rows come from core kx of the cluster; the register is ready `wReady` cycles after the last
row has arrived. -/
def execMxLdr (wd : BitVec 2) (aj : AReg) (t : Tag) (kx : BitVec 3) (tr : Bool) (disp : Option Ext) (s : State) : Out :=
  match s.focus with
  | none => .next s
  | some f =>
    let c := s.ctx f.ctx
    let n := f.ent.word
    let rb := rowBytes t
    let src := s.coreFor (ctxCluster f.ctx) kx.toNat
    let pre : Eff (List Int) := (c.rdA n aj).bind fun p =>
      let as := rowAddrs (p.1.toNat + dispOf disp) p.2.toInt 128
      checkRows c rb as (wIsReady c n s.now (wTouched wd.toNat t) (.ok as))
    match pre with
    | .wait => .next { s with focus := none }
    | .late => .next (s.holdLate f)
    | .trap cause val => .next (s.issueTrap f cause val)
    | .ok as => withStage s f src as rb none fun g rows =>
        issueOp s fun f c => s.eccRows src rb g.addrs <| (s.tblFor f.ctx n t).bind fun tbl =>
          (c.writeW f wd.toNat t (wMatrix t tbl tr rows) (g.arrived + wReady t)).bind fun c' =>
            .ok (s.setCtx f.ctx (c'.dropStage n f.slot))

/-- Rows of another core arrive for an `fd.ar` or an `mx.ldr` (R190, R249): from its banks, not its write queue; rows of
the issuing core itself as the context's word order leaves them. -/
def State.stageRows (s : State) (k : Nat) (g : Stage) : List (List Byte) :=
  if g.core = ctxCore k then g.addrs.map fun a => s.feedRead k g.word a g.len
  else g.addrs.map fun a => memRead (s.core g.core).sp a g.len

/-- Whether a busy channel holds back the rows of a stage, which it does to rows of the issuing core alone (R48, R189). The rows of
an `mx.ldr` that names its own core are read and held as those of an `fd.ar`, where R181 names R48 for `mx.ld` and `mx.ld.t` alone.
DEDUCED (log 127). -/
def Ctx.stageHeld (c : Ctx) (k : Nat) (g : Stage) : Bool :=
  decide (g.core = ctxCore k) && g.addrs.any fun a => c.wmStall a g.len

def execRemoteReadArrival (k : Nat) (s : State) : Out :=
  let c := s.ctx k
  .next (s.setCtx k { c with stages := c.stages.map fun g =>
    if g.rows.isNone && g.mcast.isNone && !c.stageHeld k g then { g with rows := some (s.stageRows k g), arrived := s.now }
    else g })

/-- `mx.wsel` (R182). -/
def execMxWsel (wd ws : BitVec 2) (tr : Bool) (s : State) : Out :=
  issueOp s fun f c =>
    let n := f.ent.word
    wIsReady c n s.now [ws.toNat] <| (c.rdW n ws.toNat).bind fun r =>
      wIsReady c n s.now (wTouched wd.toNat r.tag) <|
        (c.writeW f wd.toNat r.tag (if tr then transposeM r.w else r.w) (s.now + wReady r.tag)).bind fun c' =>
          .ok (s.setCtx f.ctx c')

/-- Exact sum of values, from the first on; NaN where it is invalid (R82, R83).
DESIGN CHOICE (log 95): a sum whose terms are all −0 is −0. -/
def sumXV : List XV → XV
  | [] => XV.zero
  | x :: rest => rest.foldl (fun acc y => (XV.add false acc y).1) x

/-- Column sums (R173): for each group of 16, the exact sum of each column. -/
def colSums (w : List (List XV)) : List (List XV) :=
  (List.range 8).map fun j => (List.range 128).map fun n => sumXV ((List.range 16).map fun k => mAt w (16 * j + k) n)

/-- `mx.csum` (R183). -/
def execMxCsum (ws : BitVec 2) (s : State) : Out :=
  issueOp s fun f c =>
    let n := f.ent.word
    wIsReady c n s.now [ws.toNat] <| (c.rdW n ws.toNat).bind fun r =>
      .ok (s.setCtx f.ctx (c.postW f ws.toNat { r with csv := true, sums := colSums r.w, sumReady := s.now + 24 }))

/-! ## Permits and configuration (R177 to R179) -/

/-- `mx.permit`: what the context holds is released, and the new request joins the queue of the die's governor. -/
def execMxPermit (_sd : SReg) (lvl : BitVec 2) (s : State) : Out :=
  afterRest s (fun _ _ => .ok ()) fun f _ =>
    let s := s.dropPermit f.ctx
    let c := s.ctx f.ctx
    let d := clusterDie (ctxCluster f.ctx)
    let g := s.die d
    .ok ((s.setCtx f.ctx { c with permit := some ⟨f.ent.id, lvl.toNat, false⟩ }).setDie d
      { g with queue := g.queue ++ [(f.ctx, f.ent.id, lvl.toNat)] })

def execMxRel (s : State) : Out := afterRest s (fun _ _ => .ok ()) fun f _ => .ok (s.dropPermit f.ctx)

/-- The value that `mx.cfg` writes (R179). -/
def Ctx.cfgVal (c : Ctx) (n : Nat) (src : CfgSrc) : Eff W64 :=
  match src with
  | .reg sa => (c.rdS n sa).bind fun x => .ok (x &&& 0x3FF#64)
  | .ext v => .ok (v.setWidth 64)

def execMxCfg (src : CfgSrc) (s : State) : Out :=
  onCtx s fun f c => (c.cfgVal f.ent.word src).bind fun v => .ok (c.putU f.ent.id uMxc v)

/-- Rows and groups of a pass, from mxc (R174, R184). -/
def mxcRows (m : W64) : Nat := bits m.toNat 0 7 + 1
def mxcGroups (m : W64) : Nat := bits m.toNat 7 3 + 1

/-! ## What a pass computes (R82 to R84, R184) -/

/-- RoundFP32 of the matrix engine: to nearest even, flushed under FTZ, and NV for a NaN that is formed. -/
def mxRound (ftz : Bool) (x : XV) : W32 × Flags :=
  let r := rnd32 ⟨0, ftz⟩ 0 x
  (r.1, r.2 ||| flagIf x.isNan fNV)

/-- The group value g of an operation: exact over its sixteen terms, rounded once. -/
def groupVal (op : Nat) (ftz : Bool) (a w : List XV) : W32 × Flags :=
  let ts := (List.range a.length).map fun k =>
    let x := a.getD k XV.zero
    let y := w.getD k XV.zero
    if op = 0 then (XV.mul x y).1
    else if op = 1 then (match (XV.add false x y.neg).1 with | .nan q => .nan q | v => v.abs)
    else (XV.add false x y).1
  let v := if op = 2 then
      (if ts.any XV.isNan then .nan false
       else match ts with | [] => XV.zero | t :: rest => rest.foldl XV.maxv t)
    else sumXV ts
  mxRound ftz v

/-- One accumulation step: a sum, or the larger value. A NaN that `ada` or `max` meets raises NV (R184). -/
def accStep (op : Nat) (ftz : Bool) (a g : W32) : W32 × Flags :=
  if op = 2 then
    let x := dec32 ftz a
    let y := dec32 ftz g
    if x.isNan || y.isNan then (BitVec.ofNat 32 fmt32.nanBits, fNV)
    else (BitVec.ofNat 32 (ElemFmt.f32.exact (x.maxv y)), 0#8)
  else
    let (x, nv) := XV.add false (dec32 ftz a) (dec32 ftz g)
    let r := rnd32 ⟨0, ftz⟩ 0 x
    (r.1, r.2 ||| flagIf (nv || (decide (op = 1) && x.isNan)) fNV)

/-- One element of a pass: the groups in ascending order, starting from `a`. -/
def passElem (op : Nat) (ftz : Bool) (g : Nat) (row : List XV) (w : List (List XV)) (n : Nat) (a : W32) : W32 × Flags :=
  (List.range g).foldl (fun (acc : W32 × Flags) j =>
    let as := (List.range 16).map fun k => row.getD (16 * j + k) XV.zero
    let ws := (List.range 16).map fun k => mAt w (16 * j + k) n
    let v := groupVal op ftz as ws
    let r := accStep op ftz acc.1 v.1
    (r.1, acc.2 ||| v.2 ||| r.2)) (a, 0#8)

/-- What a set form starts from, and what `mx.clr` writes: +0 or −∞. -/
def startVal (ninf : Bool) : W32 := if ninf then 0xFF800000#32 else 0#32

/-- Row `i` of a tile after a pass or a clear has written it, with the flags raised. -/
def Pass.row (p : Pass) (i : Nat) (old : List W32) : List W32 × Flags :=
  match p.kind with
  | .clr ninf => (List.replicate 128 (startVal ninf), 0#8)
  | .run set op g a w =>
    let row := a.getD i []
    let rs := (List.range 128).map fun n =>
      passElem op p.ftz g row w n (if set then startVal (decide (op = 2)) else old.getD n 0#32)
    (rs.map (·.1), rs.foldl (fun f r => f ||| r.2) 0#8)

/-- Row `i` of tile `j` as last written (R46: +0 at binding). -/
def Ctx.tileRow (c : Ctx) (j i : Nat) : List W32 := AMap.get (List.replicate 128 0#32) (AMap.get [] c.tiles j) i

/-- Row `i` of tile `j` as a read at cycle `t` finds it: every pass whose row is due by then has written it (R25). -/
def Ctx.rowAt (c : Ctx) (j t i : Nat) : List W32 :=
  c.passes.foldl (fun row p =>
    if p.tile = j ∧ p.done ≤ i ∧ i < p.n ∧ p.cyc + 136 + i ≤ t then (p.row i row).1 else row) (c.tileRow j i)

/-- The rows of one pass that are due at cycle `t` are written into the tile, and their flags into mxf. -/
def Ctx.writeRows (c : Ctx) (t : Nat) (p : Pass) : Ctx × Pass :=
  let upto := min p.n (t + 1 - (p.cyc + 136))
  let c' := (List.range (upto - p.done)).foldl (fun (c : Ctx) d =>
    let i := p.done + d
    let r := p.row i (c.tileRow p.tile i)
    { c with tiles := AMap.set c.tiles p.tile (AMap.set (AMap.get [] c.tiles p.tile) i r.1), mxf := c.mxf ||| r.2 }) c
  (c', { p with done := max p.done upto })

/-- Every row due at cycle `t` is written, pass by pass in issue order (R186). -/
def Ctx.settleRows (c : Ctx) (t : Nat) : Ctx :=
  let r := c.passes.foldl (fun (acc : Ctx × List Pass) p =>
    let x := acc.1.writeRows t p
    (x.1, acc.2 ++ [x.2])) (c, [])
  { r.1 with passes := r.2.filter fun p => decide (p.done < p.n) }

/-- Rows that have reached their cycle are written into the tiles of a core's contexts. -/
def execPassRowWrite (core : Nat) (s : State) : Out :=
  .next ((coreKeys core).foldl (fun s k => s.setCtx k ((s.ctx k).settleRows s.now)) s)

/-! ## Starting a pass (R176, R184 to R187) -/

/-- Cycles of a format's interval (R175). -/
def fmtInterval (t : Tag) : Nat :=
  if t = tSX2 then 32 else if t = tSX4 then 64
  else if t = tF32 then 1024 else if t = tBF16 ∨ t = tF16 then 256 else 128

/-- Cycles of a level's interval (R176). -/
def lvlInterval (l : Nat) : Nat := 256 / 2 ^ l

/-- Whether an `acc.ld` that has not completed targets the tile (R134). -/
def Ctx.accBusy (c : Ctx) (tile : Nat) : Bool := c.ops.any fun o => decide (o.kind = .accLd) && decide (o.tile = tile)

/-- A pass waits for st, but its word's mark does not wait for st (R107, R185). -/
def Ctx.stCheck (c : Ctx) (n : Nat) (st : SReg) : Eff Unit := (c.rdS n st).trapOnly

/-- The feed's tag for a pass of this word: its FMT, or the weight register's tag (R188). -/
def feedTag (fmt w : Tag) : Tag := if fmt = tRAW then w else fmt

/-- The rows the pass takes: those its feed has read. Where the feed's guard read false nothing feeds it, and the spec
states no A operand: free values (log 11). -/
def Ctx.passRows (c : Ctx) (s : State) (n rows : Nat) : Option (List (List XV)) :=
  match c.feed.filter fun b => decide (b.word = n) with
  | some b => some b.rows
  | none =>
    if (c.queue 5).all fun e => decide (e.word ≠ n) then
      some ((List.range rows).map fun i => (List.range 128).map fun k =>
        fmt32.decode (Config.freeNat (s.fresh + 128 * i + k) % 2 ^ 32))
    else none

/-- The A format of the pass in word `n`, for its interval. -/
def Ctx.feedFmt (c : Ctx) (n : Nat) (w : Tag) : Tag :=
  match c.feed with
  | some b => if b.word = n then feedTag b.tag w else w
  | none => w

/-- Whether a physical tile row holds an error its storage cannot correct (R350). -/
def State.tileBad (s : State) (k tile i : Nat) : Bool :=
  match nthSet 8 (s.ctx k).amap tile with
  | some p => (s.core (ctxCore k)).ecc.any fun x => decide (x = 2 ^ 24 + 128 * p + i)
  | none => false

/-- The trap of a pass that would accumulate onto a row in error, which it reads as its word's operand (R350). DEDUCED (log 118). -/
def State.eccTile (s : State) (k tile rows : Nat) : Eff Unit :=
  match (List.range rows).find? fun i => s.tileBad k tile i with
  | some i => .trap 0x15 (eccVal 3 (128 * ((nthSet 8 (s.ctx k).amap tile).getD 0) + i))
  | none => .ok ()

/-- A pass. `set` is the set form. Its checks are made before its mark commits: the permit it must hold, the
rows that it accumulates onto, and st. -/
def passOp (s : State) (set : Bool) (acc : BitVec 3) (w : BitVec 2) (op : BitVec 2) (st : SReg) : Out :=
  afterMark s
    (fun f c => waitUnless (c.issuedBefore 4 f.ent.word) <|
      if c.permit.isNone then .trap 0x0F 0#64
      else (if set then .ok () else (c.rdU f.ent.word uMxc).bind fun m => s.eccTile f.ctx acc.toNat (mxcRows m)).bind fun _ =>
        c.stCheck f.ent.word st)
    fun f c =>
      let n := f.ent.word
      let core := ctxCore f.ctx
      let co := s.core core
      (c.rdS n st).bind fun _ => (c.rdW n w.toNat).bind fun r => (c.rdU n uMxc).bind fun m => (c.rdEnv n).bind fun env =>
        match c.permit, c.passRows s n (mxcRows m) with
        | some p, some rows =>
          let ta := c.feedFmt n r.tag
          waitUnless (p.granted && decide (r.ready ≤ s.now) && (decide (ta ≠ tAQ8) || decide (r.sumReady ≤ s.now)) &&
              decide (co.passCyc + co.passInt ≤ s.now) && !c.accBusy acc.toNat) <|
            let x : Pass := ⟨f.ent.id, n, acc.toNat, s.now, mxcRows m, env.ftz, .run set op.toNat (mxcGroups m) rows r.w, 0⟩
            let ivl := max (max (fmtInterval ta) (fmtInterval r.tag)) (lvlInterval p.lvl)
            let s := if c.feed.isNone then { s with fresh := s.fresh + 16384 } else s
            .ok ((s.setCtx f.ctx { c with passes := c.passes ++ [x], feed := none }).setCore core
              { co with passCyc := s.now, passInt := ivl })
        | _, _ => .wait

def execMxRun (acc : BitVec 3) (w : BitVec 2) (op : BitVec 2) (st : SReg) (s : State) : Out := passOp s false acc w op st
def execMxRunSet (acc : BitVec 3) (w : BitVec 2) (op : BitVec 2) (st : SReg) (s : State) : Out := passOp s true acc w op st

/-- `mx.clr` (R187): all 128 rows, row by row, with no permit and no feed. -/
def execMxClr (acc : BitVec 3) (ninf : Bool) (s : State) : Out :=
  afterMark s (fun _ _ => .ok ()) fun f c =>
    waitUnless (!c.accBusy acc.toNat) <|
      .ok (s.setCtx f.ctx { c with passes := c.passes ++
        [⟨f.ent.id, f.ent.word, acc.toNat, s.now, 128, false, .clr ninf, 0⟩] })

/-- The governor of a die grants the head of its queue when the head's cost fits what is left (R366), unless the die is
too hot (R367). -/
def execPermitGrant (d : Nat) (s : State) : Out :=
  let g := s.die d
  match g.queue with
  | [] => .next s
  | (k, id, lvl) :: rest =>
    if g.hold || decide (g.budget < g.held + permitCost lvl) then .next s
    else
      let c := s.ctx k
      let s := s.setDie d { g with queue := rest, held := g.held + permitCost lvl }
      .next (s.setCtx k { (c.putTok id (token 0 lvl)) with permit := c.permit.map fun p => { p with granted := true } })

/-! ## Draining a tile (R195, R196, R205 to R207) -/

/-- Format of a CVT field (R130, R195). -/
def cvtTag (cv : Nat) : Tag := if cv = 0 then tF32 else if cv = 1 then tBF16 else if cv = 2 then tF16 else tAQ8

/-- A tile row as a packet of the streaming port: tag, row flag, achieved grade and payload. -/
def rowPayload (cv : Nat) (row : List W32) : Tag × Bool × Nat × List Byte :=
  let xs := row.map fun x => fmt32.decode x.toNat
  if cv = 3 then
    match aqQuantise xs with
    | some r => (tAQ8, false, if r.clamped then 0 else 62, r.bytes)
    | none => (tBF16, true, bf16Grade xs, (vBytes (bf16Row xs)).take 256)
  else
    let t := cvtTag cv
    let f : Fmt := if cv = 0 then fmt32 else if cv = 1 then fmtBf else fmt16
    let rs := xs.map fun x => f.round 0 0 x
    let ovf := rs.any fun r => r.2 &&& fOF ≠ 0#8
    (t, false, if ovf then 0 else gradeOf t, (rs.map fun r => leBytes (elemBits t / 8) r.1).flatten)

/-- A row packet (R206). -/
def rowPacket (cv strm i : Nat) (last : Bool) (row : List W32) : RowPkt :=
  let (t, rf, grd, pay) := rowPayload cv row
  ⟨[BitVec.ofNat 8 t.toNat, BitVec.ofNat 8 (b2n rf + 2 * b2n last), BitVec.ofNat 8 grd, BitVec.ofNat 8 strm] ++
    leBytes 2 i ++ leBytes 2 pay.length ++ List.replicate 8 0#8 ++ pay⟩

/-- The released collective that takes its rows from a stream: the stream is open while there is one (R205). -/
def Ctx.streamOf (c : Ctx) (strm : Nat) : Option Nat :=
  (c.ops.find? fun o => decide (o.kind = .coll) && o.released && o.coll.any fun r => r.strm && decide (r.sstr = strm)).map (·.id)

def Ctx.streamOpen (c : Ctx) (strm : Nat) : Bool := (c.streamOf strm).isSome

/-- Rows whose collective has ended are discarded, released or not, and so are the released rows of a drain that met an error
its storage cannot correct: the token has CODE 0x01 (R205, R350). -/
def Ctx.dropRows (c : Ctx) : Ctx :=
  let gone := c.drains.filter fun d => (d.released && d.err) || !(c.ops.any fun o => decide (o.id = d.coll))
  let c := gone.foldl (fun (c : Ctx) d => c.putTok d.id (token 1 0)) c
  { c with drains := c.drains.filter fun d => !(gone.any fun x => decide (x.id = d.id)) }

/-- `mx.drain` reads row i at cycle c + i, with every pass issued before it; at most two drains stand in the port. -/
def execMxDrain (_st : SReg) (acc : BitVec 3) (cv : BitVec 2) (strm : BitVec 4) (rows : Option (BitVec 7)) (s : State) : Out :=
  issueOp s fun f c =>
    let cnt := match rows with | some r => r.toNat + 1 | none => 128
    trapIf (!c.streamOpen strm.toNat) 0x10 (strm.setWidth 64) <|
      waitUnless (decide (c.drains.length < 2) && !c.accBusy acc.toNat) <|
        let ps := (List.range cnt).map fun i =>
          rowPacket cv.toNat strm.toNat i (decide (i + 1 = cnt)) (c.rowAt acc.toNat (s.now + i) i)
        let err := (List.range cnt).any fun i => s.tileBad f.ctx acc.toNat i
        .ok (s.setCtx f.ctx { c with drains := c.drains ++
          [⟨f.ent.id, f.ent.word, s.now, strm.toNat, (c.streamOf strm.toNat).getD 0, ps, false, 0, false, err⟩] })

end Sys2Proof.Machine
end

