-- ==== Sys2Proof/Machine/Feed.lean ====
section
/-!
DEFINITION. The F slot (R187 to R193): the feeds, which issue in one cycle with the pass of their word, the writes of feed
registers, and the rendezvous of multicast feeds.
-/

namespace Sys2Proof.Machine

/-- The weight register that the pass of word `n` names, where its guard read true. -/
def Ctx.passW (c : Ctx) (n : Nat) : Option Nat :=
  (c.queue 4).findSome? fun e => if e.word = n then (match e.op with
    | .mxRun _ w _ _ => some w.toNat
    | .mxRunSet _ w _ _ => some w.toNat
    | _ => none) else none

/-- The A format of a feed in word `n` (R188). -/
def Ctx.rdFeedTag (c : Ctx) (n : Nat) (fmt : Tag) : Eff Tag :=
  if fmt ≠ tRAW then .ok fmt
  else match c.passW n with
    | some w => (c.rdW n w).bind fun r => .ok r.tag
    | none => .ok tRAW

/-- The new offset of fk after a post-increment (R188, R41). -/
def Ctx.fkNext (c : Ctx) (n : Nat) (fk : BitVec 2) : Eff (BitVec 24) :=
  (c.rdFo n fk).bind fun o => (c.rdFi n fk).bind fun i => .ok (o + i.signExtend 24)

/-- A feed that reads scratchpad rows. `src` names another core, and the members of a rendezvous for `fd.a.mc`. Its checks
come first (R189); its rows are read once its word's mark has committed, as they stood before the word's own stores (R121). A
channel's watermark holds back the reading of rows of this core, also of rows that are staged (R48). -/
def feedOp (s : State) (fk : BitVec 2) (fmt : Tag) (incr : Bool) (src : Option (BitVec 3 × Option Nat))
    (addrs : Ctx → Nat → Nat → Eff (List Int)) : Out :=
  match s.focus with
  | none => .next s
  | some f =>
    let c := s.ctx f.ctx
    let n := f.ent.word
    let own := ctxCore f.ctx
    let idle : State := { s with focus := none }
    let pre : Eff (List Int × Tag) := waitUnless (c.issuedBefore 4 n) <|
      (c.rdU n uMxc).bind fun m => (c.rdFeedTag n fmt).bind fun t => (addrs c n (mxcRows m)).bind fun as =>
        checkRows c (rowBytes t) as (.ok (as, t))
    let finish : Tag → List (List Byte) → List Nat → Nat → Bool → Out := fun t rows ads core staged =>
      issueOp s fun f c =>
        waitUnless (staged || !(ads.any fun a => c.wmStall a (rowBytes t))) <|
          s.eccRows core (rowBytes t) ads <| (s.tblFor f.ctx n t).bind fun tbl => (c.fkNext n fk).bind fun o =>
            let c1 := { c.dropStage n f.slot with feed := some ⟨n, t, rows.map (segElems t tbl)⟩ }
            .ok (s.setCtx f.ctx (if incr then { c1 with fo := c1.fo.fill f.ent.id fk.toNat o .plain } else c1))
    match pre with
    | .wait => .next idle
    | .late => .next (s.holdLate f)
    | .trap cause val => .next (s.issueTrap f cause val)
    | .ok (as, t) =>
      if !f.ent.checked then .next (idle.setCtx f.ctx (c.checkQ f.slot f.ent.id))
      else
        match src with
        | none =>
          if c.markDone n then
            finish t (as.map fun a => s.feedRead f.ctx n a.toNat (rowBytes t)) (as.map (·.toNat)) own false
          else .next idle
        | some (kx, mc) =>
          let core := s.coreFor (ctxCluster f.ctx) kx.toNat
          withStage s f core as (rowBytes t) mc fun g rows =>
            if c.markDone n then finish t rows g.addrs core true else .next idle

/-- Row addresses of a plain or remote feed (R188). -/
def plainAddrs (aj : AReg) (fk : BitVec 2) (c : Ctx) (n rows : Nat) : Eff (List Int) :=
  (c.rdA n aj).bind fun p => (c.rdFo n fk).bind fun o => .ok (rowAddrs (p.1.toNat + o.toNat) p.2.toInt rows)

/-- Row addresses of a window of 2^WL pixels a line (R192). -/
def windowAddrs (aj ak : AReg) (fk : BitVec 2) (wl : BitVec 3) (c : Ctx) (n rows : Nat) : Eff (List Int) :=
  (c.rdA n aj).bind fun p => (c.rdA n ak).bind fun q => (c.rdFo n fk).bind fun o =>
    .ok ((List.range rows).map fun i =>
      (p.1.toNat + o.toNat + ((i / 2 ^ wl.toNat : Nat) : Int) * q.2.toInt + ((i % 2 ^ wl.toNat : Nat) : Int) * p.2.toInt))

def execFdA (aj : AReg) (fk : BitVec 2) (fmt : Tag) (s : State) : Out := feedOp s fk fmt true none (plainAddrs aj fk)
def execFdAr (aj : AReg) (fk : BitVec 2) (fmt : Tag) (kx : BitVec 3) (s : State) : Out :=
  feedOp s fk fmt true (some (kx, none)) (plainAddrs aj fk)
def execFdWin (aj ak : AReg) (fk : BitVec 2) (fmt : Tag) (wl : BitVec 3) (s : State) : Out :=
  feedOp s fk fmt false none (windowAddrs aj ak fk wl)
def execFdTap (aj ak : AReg) (fk : BitVec 2) (fmt : Tag) (wl : BitVec 3) (s : State) : Out :=
  feedOp s fk fmt true none (windowAddrs aj ak fk wl)

/-! ## Multicast (R190) -/

/-- A feed joins the rendezvous of its key, or opens one, which the m of that first feed closes. DESIGN CHOICE (log 129). -/
def joinRdv (now : Nat) (kx addr : Nat) (stride : Int) (fmt n m : Nat) (who : Nat × Nat) : List Rendez → List Rendez
  | [] => [⟨kx, addr, stride, fmt, n, m, now, [who]⟩]
  | r :: rest =>
    if r.kx = kx ∧ r.addr = addr ∧ r.stride = stride ∧ r.fmt = fmt ∧ r.n = n ∧ r.members.length < r.m ∧
        now < r.opened + 4096 then { r with members := r.members ++ [who] } :: rest
    else r :: joinRdv now kx addr stride fmt n m who rest

/-- `fd.a.mc` is an `fd.ar` whose rows come through a rendezvous: when its stage begins, it joins one. -/
def execFdAMc (aj : AReg) (fk : BitVec 2) (fmt : Tag) (kx members : BitVec 3) (s : State) : Out :=
  match s.focus with
  | none => .next s
  | some f =>
    let c := s.ctx f.ctx
    let n := f.ent.word
    let m := members.toNat + 1
    match feedOp s fk fmt true (some (kx, some m)) (plainAddrs aj fk) with
    | .next s' =>
      match (c.stageOf n f.slot).isNone, (s'.ctx f.ctx).stageOf n f.slot with
      | true, some g =>
        let q := ctxCluster f.ctx
        let cl := s'.cluster q
        let t := match c.rdFeedTag n fmt with | .ok t => t | _ => fmt
        let stride : Int := match c.rdA n aj with | .ok p => p.2.toInt | _ => 0
        .next (s'.setCluster q { cl with
          rdv := joinRdv s.now kx.toNat (g.addrs.getD 0 0) stride t.toNat g.addrs.length m (f.ctx, n) cl.rdv })
      | _, _ => .next s'
    | r => r

/-- The rows of a closed rendezvous reach one member. -/
def State.deliverRows (s : State) (who : Nat × Nat) : State :=
  let c := s.ctx who.1
  s.setCtx who.1 { c with stages := c.stages.map fun g =>
    if g.word = who.2 ∧ g.slot = 5 ∧ g.rows.isNone ∧ g.mcast.isSome then
      { g with rows := some (s.stageRows who.1 g), arrived := s.now } else g }

/-- Whether a rendezvous has closed: m members have arrived, or 4,096 cycles have passed since the first. -/
def Rendez.closed (r : Rendez) (now : Nat) : Bool := decide (r.m ≤ r.members.length) || decide (r.opened + 4096 ≤ now)

/-- Whether a member whose rows lie in its own core waits for a channel (R48). -/
def State.memberHeld (s : State) (who : Nat × Nat) : Bool :=
  (s.ctx who.1).stages.any fun g => decide (g.word = who.2) && decide (g.slot = 5) && (s.ctx who.1).stageHeld who.1 g

/-- The rows of a closed rendezvous are read once, for every member. -/
def execMcRendezvousClose (cl : Nat) (s : State) : Out :=
  let q := s.cluster cl
  match q.rdv.find? fun r => r.closed s.now && !r.members.any s.memberHeld with
  | none => .next s
  | some r => .next (r.members.foldl State.deliverRows (s.setCluster cl { q with rdv := q.rdv.erase r }))

/-! ## The rest of the slot (R191, R193) -/

/-- `fd.z` feeds +0 in every element, in the weight register's format. -/
def execFdZ (s : State) : Out :=
  afterMark s (fun f c => waitUnless (c.issuedBefore 4 f.ent.word) (.ok ())) fun f c =>
    (c.rdU f.ent.word uMxc).bind fun m =>
      let rows := List.replicate (mxcRows m) (List.replicate 128 XV.zero)
      .ok (s.setCtx f.ctx { c with feed := some ⟨f.ent.word, tRAW, rows⟩ })

/-- The offset that `fd.off` writes. -/
def Ctx.offSrc (c : Ctx) (n : Nat) (src : FOffSrc) : Eff (BitVec 24) :=
  match src with
  | .imm o => .ok (BitVec.ofNat 24 (512 * o.toNat))
  | .reg sa => (c.rdS n sa).bind fun x => .ok (x.setWidth 24)

/-- The increment that `fd.inc` writes. -/
def Ctx.incSrc (c : Ctx) (n : Nat) (src : FIncSrc) : Eff (BitVec 16) :=
  match src with
  | .imm i => .ok (BitVec.ofInt 16 (16 * i.toInt))
  | .reg sa => (c.rdS n sa).bind fun x => .ok (x.setWidth 16)

def execFdOff (fk : BitVec 2) (src : FOffSrc) (s : State) : Out :=
  onCtx s fun f c => (c.offSrc f.ent.word src).bind fun o => .ok { c with fo := c.fo.fill f.ent.id fk.toNat o .plain }

def execFdInc (fk : BitVec 2) (src : FIncSrc) (s : State) : Out :=
  onCtx s fun f c => (c.incSrc f.ent.word src).bind fun i => .ok { c with fi := c.fi.fill f.ent.id fk.toNat i .plain }

end Sys2Proof.Machine
end

