-- ==== Sys2Proof/Machine/Scratch.lean ====
section
/-!
DEFINITION. The meanings of the L slot (R121 to R127), and `st.grade` of the K slot (R222), which stores as `st.b` does.
-/

namespace Sys2Proof.Machine

/-! ## Scalar accesses (R122) -/

/-- A scalar load of `len` bytes. -/
def scalarLoad (s : State) (sd : SReg) (aj : AReg) (off : Off8) (len : Nat) (g : Nat → W64) : Out :=
  issueOp s fun f c => (c.ea f.ent.word aj off len).bind fun a => loadBytes s f c a len len fun bs =>
    .ok (s.setCtx f.ctx (c.putS f.ent.id sd (g (leNat bs))))

/-- A scalar store of the low `len` bytes. -/
def scalarStore (s : State) (sd : SReg) (aj : AReg) (off : Off8) (len : Nat) : Out :=
  issueOp s fun f c => (c.ea f.ent.word aj off len).bind fun a => (c.rdS f.ent.word sd).bind fun v =>
    storeBytes s f c a (leBytes len v.toNat) len

/-- `len` bytes sign-extended. -/
def sext (len : Nat) (x : Nat) : W64 := w64 (signed (8 * len) x)

def execLdB (sd : SReg) (aj : AReg) (off : Off8) (s : State) : Out := scalarLoad s sd aj off 1 (sext 1)
def execLdBu (sd : SReg) (aj : AReg) (off : Off8) (s : State) : Out := scalarLoad s sd aj off 1 (BitVec.ofNat 64)
def execLdH (sd : SReg) (aj : AReg) (off : Off8) (s : State) : Out := scalarLoad s sd aj off 2 (sext 2)
def execLdHu (sd : SReg) (aj : AReg) (off : Off8) (s : State) : Out := scalarLoad s sd aj off 2 (BitVec.ofNat 64)
def execLdW (sd : SReg) (aj : AReg) (off : Off8) (s : State) : Out := scalarLoad s sd aj off 4 (sext 4)
def execLdWu (sd : SReg) (aj : AReg) (off : Off8) (s : State) : Out := scalarLoad s sd aj off 4 (BitVec.ofNat 64)
def execLdD (sd : SReg) (aj : AReg) (off : Off8) (s : State) : Out := scalarLoad s sd aj off 8 (BitVec.ofNat 64)
def execStB (sd : SReg) (aj : AReg) (off : Off8) (s : State) : Out := scalarStore s sd aj off 1
def execStH (sd : SReg) (aj : AReg) (off : Off8) (s : State) : Out := scalarStore s sd aj off 2
def execStW (sd : SReg) (aj : AReg) (off : Off8) (s : State) : Out := scalarStore s sd aj off 4
def execStD (sd : SReg) (aj : AReg) (off : Off8) (s : State) : Out := scalarStore s sd aj off 8

/-! ## Typed vector loads (R123, R124) -/

/-- A typed vector load: the tag's bytes into the register from byte 0, zeros above. Dispatch has recorded the tag. -/
def vecLoad (s : State) (vd : VReg) (aj : AReg) (off : Off8) (t : Tag) : Out :=
  issueOp s fun f c => (c.ea f.ent.word aj off 16).bind fun a => loadBytes s f c a (tagBytes t) 16 fun bs =>
    .ok (s.setCtx f.ctx (c.putV f.ent.id vd (ofBytes bs)))

def execLdVF32 (vd : VReg) (aj : AReg) (off : Off8) (s : State) : Out := vecLoad s vd aj off tF32
def execLdVF16 (vd : VReg) (aj : AReg) (off : Off8) (s : State) : Out := vecLoad s vd aj off tF16
def execLdVBf16 (vd : VReg) (aj : AReg) (off : Off8) (s : State) : Out := vecLoad s vd aj off tBF16
def execLdVE4m3 (vd : VReg) (aj : AReg) (off : Off8) (s : State) : Out := vecLoad s vd aj off tE4M3
def execLdVE5m2 (vd : VReg) (aj : AReg) (off : Off8) (s : State) : Out := vecLoad s vd aj off tE5M2
def execLdVI8 (vd : VReg) (aj : AReg) (off : Off8) (s : State) : Out := vecLoad s vd aj off tI8
def execLdVI32 (vd : VReg) (aj : AReg) (off : Off8) (s : State) : Out := vecLoad s vd aj off tI32
def execLdVSx7 (vd : VReg) (aj : AReg) (off : Off8) (s : State) : Out := vecLoad s vd aj off tSX7
def execLdVSx4 (vd : VReg) (aj : AReg) (off : Off8) (s : State) : Out := vecLoad s vd aj off tSX4
def execLdVSx2 (vd : VReg) (aj : AReg) (off : Off8) (s : State) : Out := vecLoad s vd aj off tSX2
def execLdVAq8 (vd : VReg) (aj : AReg) (off : Off8) (s : State) : Out := vecLoad s vd aj off tAQ8

/-- `ld.v.bcast`: one element to every element of vd; 4 bytes for T 0 and 1, 2 bytes for T 2 and 3. -/
def execLdVBcast (vd : VReg) (aj : AReg) (t : BitVec 2) (off : Off6) (s : State) : Out :=
  let len := if t.toNat < 2 then 4 else 2
  issueOp s fun f c => (c.ea f.ent.word aj off len).bind fun a => loadBytes s f c a len len fun bs =>
    .ok (s.setCtx f.ctx (c.putV f.ent.id vd (ofElems (8 * len) (List.replicate (256 / len) (leNat bs)))))

/-! ## Access by lane index (R125) -/

/-- The checks of every active lane, in ascending order. -/
def checkLanes {α : Type} (c : Ctx) : List (Nat × Int) → Eff α → Eff α
  | [], k => k
  | (_, a) :: rest, k => checkAccess c a 4 4 (checkLanes c rest k)

/-- Storage errors of the words that the lanes read (R350). -/
def State.eccLanes {α : Type} (s : State) (k : Nat) : List (Nat × Int) → Eff α → Eff α
  | [], go => go
  | (_, a) :: rest, go => s.eccCheck k a.toNat 4 (s.eccLanes k rest go)

def execLdVx (vd : VReg) (aj : AReg) (vi : VReg) (_i32 : Bool) (mk : BitVec 2) (disp : Option Ext) (s : State) : Out :=
  issueOp s fun f c =>
    let n := f.ent.word
    (c.rdA n aj).bind fun p => (c.rdV n vi).bind fun idx => (c.rdM n (mk.setWidth 3)).bind fun m =>
      let ls := laneAddrs p.1 (dispOf disp) idx m
      checkLanes c ls <| waitUnless (!c.storesPending n (ls.map fun l => (l.2, 4)) && !(ls.any fun l => c.wmStall l.2.toNat 4)) <|
        s.eccLanes f.ctx ls <|
          let rd : Nat → W32 := fun j => match ls.find? fun l => decide (l.1 = j) with
            | some l => BitVec.ofNat 32 (leNat (s.spRead f.ctx n l.2.toNat 4))
            | none => 0#32
          .ok (s.setCtx f.ctx (c.putV f.ent.id vd (ofLanes ((List.range 64).map rd))))

def execStVx (vs : VReg) (aj : AReg) (vi : VReg) (mk : MReg) (disp : Option Ext) (s : State) : Out :=
  issueOp s fun f c =>
    let n := f.ent.word
    (c.rdA n aj).bind fun p => (c.rdV n vi).bind fun idx => (c.rdM n mk).bind fun m => (c.rdV n vs).bind fun v =>
      let ls := laneAddrs p.1 (dispOf disp) idx m
      checkLanes c ls <|
        storeSp s f c ((ls.map fun l => cellsAt l.2.toNat (leBytes 4 (lane v l.1).toNat)).flatten)

/-! ## Vector stores (R126) -/

/-- `st.v`: the bytes that the register's tag counts, each where its lane's mask bit is set. -/
def execStV (vs : VReg) (aj : AReg) (mk : MReg) (off : Off5) (s : State) : Out :=
  issueOp s fun f c =>
    let n := f.ent.word
    (c.ea n aj off 16).bind fun a => (c.rdV n vs).bind fun v => (c.rdVt n vs).bind fun t => (c.rdM n mk).bind fun m =>
      let len := tagBytes t
      checkAccess c a len 16 <|
        storeSp s f c ((cellsAt a.toNat ((vBytes v).take len)).filter fun p => m.getLsbD ((p.1 - a.toNat) / 4))

/-- `st.v.cmp`: the active lanes to consecutive words, in ascending order. -/
def execStVCmp (vs : VReg) (aj : AReg) (mk : MReg) (off : Off5) (s : State) : Out :=
  issueOp s fun f c =>
    let n := f.ent.word
    (c.ea n aj off 16).bind fun a => (c.rdV n vs).bind fun v => (c.rdM n mk).bind fun m =>
      let bs := ((List.range 64).map fun j => if m.getLsbD j then leBytes 4 (lane v j).toNat else []).flatten
      checkLanes c ((List.range (bs.length / 4)).map fun j => (j, a + 4 * j)) <|
        trapIf (decide (a % 4 ≠ 0)) 0x05 (w64 a) <| storeSp s f c (cellsAt a.toNat bs)

/-! ## Masks (R127) -/

def execLdM (mk : MReg) (aj : AReg) (off : Off8) (s : State) : Out :=
  issueOp s fun f c => (c.ea f.ent.word aj off 8).bind fun a => loadBytes s f c a 8 8 fun bs =>
    .ok (s.setCtx f.ctx (c.putM f.ent.id mk (BitVec.ofNat 64 (leNat bs))))

def execStM (mk : MReg) (aj : AReg) (off : Off8) (s : State) : Out :=
  issueOp s fun f c => (c.ea f.ent.word aj off 8).bind fun a => (c.rdM f.ent.word mk).bind fun m =>
    storeBytes s f c a (leBytes 8 m.toNat) 8

/-! ## Recording a grade (R222) -/

/-- The grade that `st.grade` records. -/
def gradeByte (adj : Bool) (g : Nat) (fl : Flags) (env : FpEnv) : Nat :=
  if !adj then g
  else if fl &&& (fOF ||| fSOF ||| fSUF ||| fQCL) ≠ 0#8 then 0
  else if env.rm = 0 then g else g - 8

def execStGrade (aj : AReg) (sa : SReg) (adj : Bool) (off : BitVec 7) (s : State) : Out :=
  issueOp s fun f c =>
    let n := f.ent.word
    (c.rdA n aj).bind fun p => (c.rdS n sa).bind fun v => (c.rdEnv n).bind fun env =>
    (if adj then c.rdFstat n else .ok 0#8).bind fun fl =>
      let a : Int := p.1.toNat + 64 * off.toNat
      checkAligned c a 64 64 <|
        storeSp s f c [(a.toNat + 60, BitVec.ofNat 8 (gradeByte adj (v.toNat % 256) fl env))]

end Sys2Proof.Machine
end

