-- ==== Sys2Proof/Machine/Copy.lean ====
section
/-!
DEFINITION. The issue of the C slot's copies, global words, atomics, barriers, drains and constellation instructions
(R130 to R149). What their engines do afterwards stands in Engine.lean.
-/

namespace Sys2Proof.Machine

/-! ## Records and channels (R48, R130 to R132) -/

/-- A virtual address: modulo 2^55 (R131). -/
def vaOf (x : Int) : Nat := wrap 55 x

/-- The parts of bytes [va, va + len) that lie within one 128-byte line each, `sp` running along. -/
def splitLines (row va sp : Nat) : Nat → Nat → List Piece
  | 0, _ => []
  | _, 0 => []
  | fuel + 1, len =>
    let k := min len (128 - va % 128)
    ⟨row, va % 2 ^ 55, sp, k, none, false, [], .fresh, none⟩ :: splitLines row (va + k) (sp + k) fuel (len - k)

/-- The pieces of one row. -/
def rowPieces (row : Nat) (va : Int) (sp len : Nat) : List Piece := splitLines row (vaOf va) sp (len + 1) len

/-- A channel that a copy takes, with its scratchpad range (R48, R132 step 5). -/
def Chan.take (base limit : Nat) : Chan := ⟨base, limit, true, true, 0⟩

/-- A channel whose source-side copy has read every byte (R132 step 4). -/
def Chan.allRead (base limit : Nat) : Chan := ⟨base, limit, true, false, limit⟩

def Ctx.chanBusy (c : Ctx) (ch : BitVec 4) : Bool := (c.chans.get Chan.reset ch.toNat).busy

/-- The channel is taken, and what it held is kept with the operation until no trap can take the word back. -/
def Ctx.takeChan (c : Ctx) (ch : BitVec 4) (h : Chan) (o : Op) : Ctx × Op :=
  let p := c.chans.get Chan.reset ch.toNat
  ({ c with chans := c.chans.set ch.toNat h },
   { o with ch := some ch.toNat, prevCh := (p.base, p.limit, p.busy, p.empty, p.wm) })

/-- Every C-slot operation waits while a released `gst` finds no free entry of the combining buffer (R136). -/
def Ctx.gstWaiting (c : Ctx) : Bool := c.ops.any fun o => decide (o.kind = .gst) && o.released

/-- A record of `len` bytes at `a`, read in the load phase of word `n`; one outside the range fails at field 0. -/
def readRec {α : Type} (s : State) (f : Focus) (c : Ctx) (a len : Nat) (k : List Byte → Eff α) : Eff α :=
  if c.outside a len then .trap 0x0A (recTrapVal a 0)
  else waitUnless (!c.storesPending f.ent.word [(a, len)]) <| s.eccCheck f.ctx a len <| k (s.spRead f.ctx f.ent.word a len)

/-- The horizon of a copy that reads through one (R148): CID and version. -/
def Ctx.horizon (c : Ctx) (n j : Nat) : Eff (Nat × Nat) :=
  (c.rdU n (uHzn + j)).bind fun h =>
    if h.getLsbD 63 then .ok (bits h.toNat 32 24, bits h.toNat 0 32) else .trap 0x0E (BitVec.ofNat 64 j)

/-- A record's barrier that lies on this device outside the range raises the scratchpad-range trap (R232), and one that is misaligned
the alignment trap, as any other access does (R139). -/
def barOk {α : Type} (s : State) (c : Ctx) (r : Shape) (k : Eff α) : Eff α :=
  trapIf (r.barV && s.barOutside c r.bar) 0x04 (BitVec.ofNat 64 r.bar) <|
    trapIf (r.barV && decide (r.bar % 16 ≠ 0)) 0x05 (BitVec.ofNat 64 r.bar) k

/-- Bit of a core in KMASK and ACK (R305): K, or 8 for the spare in service. -/
def maskBit (core : Nat) : Nat := if coreK core = 9 then 8 else coreK core

/-- Whether a shoot-down of the core's TLB is in progress. -/
def State.sdPending (s : State) (core : Nat) : Bool :=
  let d := (s.cluster (coreCluster core)).sd
  d.busy && !isControl core && bitAt d.kmask (maskBit core)

/-- Whether a translated operation may issue from the C slot: no `gst` of a drain waits before it, and no shoot-down stalls
it, as it does in a context that is quiescent for it (R306). -/
def State.cFree (s : State) (k : Nat) : Bool := !(s.ctx k).gstWaiting && !((s.ctx k).quiet && s.sdPending (ctxCore k))

/-- The frame of every copy: the channel free, the record read and checked. -/
def withRec (s : State) (ch : BitVec 4) (addr : Nat) (form : CopyForm) (k : Focus → Ctx → Shape → Eff State) : Out :=
  issueOp s fun f c =>
    waitUnless (s.cFree f.ctx && !c.chanBusy ch) <| readRec s f c addr 64 fun bs =>
      recTrap addr (s.shapeFaults c form bs) <| barOk s c (Shape.parse bs) <| k f c (Shape.parse bs)

/-- Last scratchpad byte of a copy's extent. -/
def Shape.limit (r : Shape) : Nat := r.sp + (r.rows - 1) * r.spstride + r.bytes - 1

/-- A copy into scratchpad whose row r comes from `src r`; a row of `lost` fails, as its source is not known. -/
def copyIn (s : State) (kind : OpKind) (st : SReg) (ch : BitVec 4) (f : Focus) (c : Ctx) (r : Shape) (hz : Nat × Nat)
    (lost : List Nat) (src : Nat → Int) : Eff State :=
  let o := { Op.of f kind st with
    shape := r, passed := false, addr := r.aux, b := hz.2, c := hz.1, lost := lost,
    pieces := ((List.range r.rows).map fun i => (rowPieces i (src i) (r.sp + i * r.spstride) r.bytes).map fun p =>
      if lost.elem i then { p with st := .failed } else p).flatten }
  let p := c.takeChan ch (Chan.take r.sp r.limit) o
  .ok (s.setCtx f.ctx { p.1 with ops := p.1.ops ++ [p.2] })

/-- Horizon of a record, where FLAGS.HZ is set. -/
def Ctx.recHorizon (c : Ctx) (n : Nat) (r : Shape) : Eff (Nat × Nat) := if r.hz then c.horizon n r.hsel else .ok (0, 0)

def execCpIn (st : SReg) (ch : BitVec 4) (rc : Rec7) (s : State) : Out :=
  withRec s ch (recAddr rc) .plain fun f c r => (c.recHorizon f.ent.word r).bind fun hz =>
    copyIn s .cpIn st ch f c r hz [] fun i => r.va + i * r.vstride

def execCpPf (st : SReg) (ch : BitVec 4) (rc : Rec7) (s : State) : Out :=
  withRec s ch (recAddr rc) .prefetch fun f c r => (c.recHorizon f.ent.word r).bind fun hz =>
    copyIn s .cpPf st ch f c r hz [] fun i => r.va + i * r.vstride

def execCpGat (st : SReg) (ch : BitVec 4) (rc : Rec7) (s : State) : Out :=
  withRec s ch (recAddr rc) .gather fun f c r => (c.recHorizon f.ent.word r).bind fun hz =>
    let idx := s.spRead f.ctx f.ent.word r.aux (4 * r.rows)
    let lost := (List.range r.rows).filter fun i => s.eccHit f.ctx (r.aux + 4 * i) 4
    copyIn s .cpGat st ch f c r hz lost fun i => r.va + rfld idx (4 * i) 4 * r.vstride

/-- The bytes of a piece, read as the issue word's order leaves them (R132 step 4). One that meets an error the storage cannot
correct fails (R350). -/
def State.fillPiece (s : State) (k n : Nat) (p : Piece) : Piece :=
  { p with data := s.spRead k n p.sp p.len, st := if s.eccHit k p.sp p.len then .failed else p.st }

/-- The rows in which a piece has failed already. -/
def failedRows (ps : List Piece) : List Nat := ((ps.filter fun p => decide (p.st = .failed)).map (·.row)).eraseDups

/-- A copy out of scratchpad. -/
def copyOut (s : State) (kind : OpKind) (st : SReg) (ch : BitVec 4) (f : Focus) (c : Ctx) (r : Shape)
    (ps : List Piece) : Eff State :=
  let o := { Op.of f kind st with shape := r, passed := false, b := r.ver, c := r.cid, pieces := ps, lost := failedRows ps }
  let p := c.takeChan ch (Chan.allRead r.sp r.limit) o
  .ok (s.setCtx f.ctx { p.1 with ops := p.1.ops ++ [p.2] })

/-- The rows of a copy out, with their bytes. -/
def State.outPieces (s : State) (k n : Nat) (r : Shape) : List Piece :=
  ((List.range r.rows).map fun i =>
    (rowPieces i (r.va + i * r.vstride) (r.sp + i * r.spstride) r.bytes).map (s.fillPiece k n)).flatten

def execCpOut (st : SReg) (ch : BitVec 4) (rc : Rec7) (s : State) : Out :=
  withRec s ch (recAddr rc) .plain fun f c r => copyOut s .cpOut st ch f c r (s.outPieces f.ctx f.ent.word r)

/-- Member index of each line (R145): MIDX plus its place in ascending address order. A line that two rows of the copy cover counts
once for each of them, here and against MCNT. DESIGN CHOICE (log 125). -/
def memberOrder (midx ver : Nat) (ps : List Piece) : List Piece :=
  ps.map fun p => { p with ver := some (ver, midx + (ps.filter fun q => decide (q.va < p.va)).length) }

def execCpCst (st : SReg) (ch : BitVec 4) (rc : Rec7) (s : State) : Out :=
  withRec s ch (recAddr rc) .member fun f c r =>
    copyOut s .cpCst st ch f c r (memberOrder r.midx r.ver (s.outPieces f.ctx f.ent.word r))

/-! ## Accumulator copies (R134) -/

/-- A tile row in the format of CVT, rounded to nearest even, NaNs canonical. -/
def rowBytesOf (cv : Nat) (row : List W32) : List Byte :=
  let f : Fmt := if cv = 0 then fmt32 else if cv = 1 then fmtBf else fmt16
  (row.map fun x => leBytes (if cv = 0 then 4 else 2) (f.round 0 0 (fmt32.decode x.toNat)).1).flatten

/-- A row of the tile from bytes in the format of CVT, widened exactly. -/
def rowFromBytes (cv : Nat) (bs : List Byte) : List W32 :=
  let f : Fmt := if cv = 0 then fmt32 else if cv = 1 then fmtBf else fmt16
  let w := if cv = 0 then 4 else 2
  (List.range 128).map fun i => BitVec.ofNat 32 (fmt32.round 0 0 (f.decode (rfld bs (w * i) w))).1

def execAccLd (st : SReg) (ch : BitVec 4) (acc : BitVec 3) (rc : Rec4) (s : State) : Out :=
  withRec s ch (recAddr rc) .tile fun f c r =>
    let o := { Op.of f .accLd st with
      shape := r, passed := false, tile := acc.toNat,
      pieces := ((List.range r.rows).map fun i => rowPieces i (r.va + i * r.vstride) 0 r.bytes).flatten }
    let p := c.takeChan ch (Chan.take 0xFFFFFF 0) o
    .ok (s.setCtx f.ctx { p.1 with ops := p.1.ops ++ [p.2] })

/-- `acc.st` reads row i at cycle c + i: what the passes issued by now leave there at that cycle. A row whose storage holds an
error fails (R350). -/
def execAccSt (st : SReg) (ch : BitVec 4) (acc : BitVec 3) (rc : Rec4) (s : State) : Out :=
  withRec s ch (recAddr rc) .tile fun f c r =>
    let bad : Nat → Bool := fun i => s.tileBad f.ctx acc.toNat i
    let ps := ((List.range r.rows).map fun i =>
      let bs := rowBytesOf r.cvt (c.rowAt acc.toNat (s.now + i) i)
      (rowPieces i (r.va + i * r.vstride) 0 r.bytes).map fun p =>
        { p with data := (bs.drop p.sp).take p.len, st := if bad i then .failed else p.st }).flatten
    let o := { Op.of f .accSt st with
      shape := r, passed := false, tile := acc.toNat, pieces := ps, lost := failedRows ps }
    let p := c.takeChan ch (Chan.take 0xFFFFFF 0) o
    .ok (s.setCtx f.ctx { p.1 with ops := p.1.ops ++ [p.2] })

/-! ## Global words (R135, R136, R148) -/

/-- Bytes of a size field. -/
def sizeBytes (sz : BitVec 2) : Nat := 2 ^ sz.toNat

/-- The address of a global access: sa plus the displacement. -/
def Ctx.gaddr (c : Ctx) (n : Nat) (sa : SReg) (disp : Option Ext) : Eff W64 :=
  (c.rdS n sa).bind fun x => .ok (x + w64 (dispOf disp))

/-- One piece at a virtual address. -/
def onePiece (va len : Nat) (data : List Byte) : Piece := ⟨0, va % 2 ^ 55, 0, len, none, false, data, .fresh, none⟩

/-- Whether an operation is an atomic to a line that has still to be sent. -/
def Op.atomicWaits (o : Op) (line : Nat) : Bool :=
  (match o.kind with | .at _ _ => true | _ => false) && decide (o.addr % 2 ^ 55 / 128 = line) &&
    o.pieces.any fun p => decide (p.st = .fresh ∨ p.st = .ready)

/-- The context's own earlier stores to a byte that have not left the core, the latest of them (R136): entries of the
combining buffer that are not sent, then stores still gated or waiting for an entry. A store before an atomic to the line that
has still to be sent reaches the line before the atomic does, and the load after it (R245). -/
def State.ownStore (s : State) (k n va : Nat) : Option Byte :=
  let c := s.ctx k
  let ops := c.ops.filter fun o => decide (o.word < n)
  let after := (ops.reverse.takeWhile fun o => !o.atomicWaits (va / 128)).reverse
  let late := (after.filter fun o => decide (o.kind = .gst)).foldl (fun (acc : Option Byte) o =>
    o.pieces.foldl (fun acc p => if p.va ≤ va ∧ va < p.va + p.len then p.data[va - p.va]? else acc) acc) none
  match late with
  | some b => some b
  | none =>
    if after.length < ops.length then none
    else (s.core (ctxCore k)).cb.foldl (fun (acc : Option Byte) e =>
      if e.ctx = k ∧ !e.sent ∧ e.line = va / 128 then (match lastByte e.cells (va % 128) with | some b => some b | none => acc)
      else acc) none

/-- What a load lays over the remote data: for each byte a flag and a value. -/
def State.overlay (s : State) (k n va len : Nat) : List Byte :=
  ((List.range len).map fun i => match s.ownStore k n ((va + i) % 2 ^ 55) with
    | some b => [1#8, b]
    | none => [0#8, 0#8]).flatten

def execGld (sd sa : SReg) (size : BitVec 2) (sx : Bool) (disp : Option Ext) (s : State) : Out :=
  issueOp s fun f c => waitUnless (s.cFree f.ctx) <| (c.gaddr f.ent.word sa disp).bind fun a =>
    let len := sizeBytes size
    trapIf (decide (a.toNat % len ≠ 0)) 0x05 a <|
      addOp s f c { Op.of f (.gld len sx) sd with
        addr := a.toNat, passed := false, pieces := [onePiece a.toNat len []],
        list := s.overlay f.ctx f.ent.word a.toNat len }

def execGst (sb sa : SReg) (size : BitVec 2) (disp : Option Ext) (s : State) : Out :=
  issueOp s fun f c => waitUnless (s.cFree f.ctx) <| (c.gaddr f.ent.word sa disp).bind fun a =>
    (c.rdS f.ent.word sb).bind fun v =>
      let len := sizeBytes size
      trapIf (decide (a.toNat % len ≠ 0)) 0x05 a <|
        addGated s f c { Op.of f .gst 0#5 with
          addr := a.toNat, passed := false, pieces := [onePiece a.toNat len (leBytes len v.toNat)] }

def execCld (sd sa : SReg) (hj size : BitVec 2) (sx : Bool) (disp : Option Ext) (s : State) : Out :=
  issueOp s fun f c => waitUnless (s.cFree f.ctx) <| (c.gaddr f.ent.word sa disp).bind fun a =>
    let len := sizeBytes size
    trapIf (decide (a.toNat % len ≠ 0)) 0x05 a <| (c.horizon f.ent.word hj.toNat).bind fun hz =>
      addOp s f c { Op.of f (.cld len sx) sd with
        addr := a.toNat, passed := false, pieces := [onePiece a.toNat len []], b := hz.2, c := hz.1,
        list := s.overlay f.ctx f.ent.word a.toNat len }

/-! ## Atomics (R138) -/

/-- Numbers of the atomics, in opcode order. -/
def atAddN : Nat := 0
def atFaddN : Nat := 1
def atMinN : Nat := 2
def atMaxN : Nat := 3
def atFminN : Nat := 4
def atFmaxN : Nat := 5
def atAndN : Nat := 6
def atOrN : Nat := 7
def atXorN : Nat := 8
def atSwapN : Nat := 9
def atCasN : Nat := 10

/-- An atomic is gated; its operand, and for `at.cas` the value compared, are read at issue. With W = 0 the compared value is
the low 32 bits of sd, as the operand is those of sb: R138 cuts only the operand. DESIGN CHOICE (log 100). -/
def atomicOp (s : State) (n : Nat) (sd sa sb : SReg) (w : Bool) (disp : Option Ext) : Out :=
  issueOp s fun f c => waitUnless (s.cFree f.ctx) <| (c.gaddr f.ent.word sa disp).bind fun a =>
    (c.rdS f.ent.word sb).bind fun b => (if n = atCasN then c.rdS f.ent.word sd else .ok 0#64).bind fun x =>
      let len := if w then 8 else 4
      trapIf (decide (a.toNat % len ≠ 0)) 0x05 a <|
        addGated s f c { Op.of f (.at n w) sd with
          addr := a.toNat, passed := false, b := b.toNat % 2 ^ (8 * len), c := x.toNat % 2 ^ (8 * len),
          pieces := [onePiece a.toNat len []] }

def execAtAdd (sd sa sb : SReg) (w : Bool) (disp : Option Ext) (s : State) : Out := atomicOp s atAddN sd sa sb w disp
def execAtFadd (sd sa sb : SReg) (disp : Option Ext) (s : State) : Out := atomicOp s atFaddN sd sa sb false disp
def execAtMin (sd sa sb : SReg) (w : Bool) (disp : Option Ext) (s : State) : Out := atomicOp s atMinN sd sa sb w disp
def execAtMax (sd sa sb : SReg) (w : Bool) (disp : Option Ext) (s : State) : Out := atomicOp s atMaxN sd sa sb w disp
def execAtFmin (sd sa sb : SReg) (disp : Option Ext) (s : State) : Out := atomicOp s atFminN sd sa sb false disp
def execAtFmax (sd sa sb : SReg) (disp : Option Ext) (s : State) : Out := atomicOp s atFmaxN sd sa sb false disp
def execAtAnd (sd sa sb : SReg) (w : Bool) (disp : Option Ext) (s : State) : Out := atomicOp s atAndN sd sa sb w disp
def execAtOr (sd sa sb : SReg) (w : Bool) (disp : Option Ext) (s : State) : Out := atomicOp s atOrN sd sa sb w disp
def execAtXor (sd sa sb : SReg) (w : Bool) (disp : Option Ext) (s : State) : Out := atomicOp s atXorN sd sa sb w disp
def execAtSwap (sd sa sb : SReg) (w : Bool) (disp : Option Ext) (s : State) : Out := atomicOp s atSwapN sd sa sb w disp
def execAtCas (sd sa sb : SReg) (w : Bool) (disp : Option Ext) (s : State) : Out := atomicOp s atCasN sd sa sb w disp

/-- New value of an atomic on old value `x`, for operand `b` and compared value `cmp`, `w` bits (R138). -/
def atomicNew (n w x b cmp : Nat) : Nat :=
  let fmm : Bool → Nat := fun mx =>
    let p := fmt32.decode x
    let q := fmt32.decode b
    if p.isNan || q.isNan then fmt32.nanBits else ElemFmt.f32.exact (if mx then p.maxv q else p.minv q)
  if n = atAddN then (x + b) % 2 ^ w
  else if n = atFaddN then (fpAdd .f32 envNE 0 x b).1
  else if n = atMinN then (if signed w x ≤ signed w b then x else b)
  else if n = atMaxN then (if signed w x ≤ signed w b then b else x)
  else if n = atFminN then fmm false
  else if n = atFmaxN then fmm true
  else if n = atAndN then Nat.land x b
  else if n = atOrN then Nat.lor x b
  else if n = atXorN then Nat.xor x b
  else if n = atSwapN then b
  else if x = cmp then b else x

/-! ## Barriers (R140) -/

/-- A count above 32 bits is taken whole in max(count, 1), and its low 32 bits then go to the barrier, so ARRIVE may be 0.
DESIGN CHOICE (log 103). -/
def execBarInit (sa : SReg) (cnt : RegExt) (s : State) : Out :=
  issueOp s fun f c => waitUnless (!c.gstWaiting) <| (c.rdS f.ent.word sa).bind fun a =>
    (c.rdRegExt f.ent.word cnt).bind fun m => checkBar s c a <|
      addGated s f c { Op.of f .barInit 0#5 with addr := a.toNat, b := max m.toNat 1 }

def execBarArr (sd sa : SReg) (m : RegExt) (s : State) : Out :=
  issueOp s fun f c => waitUnless (!c.gstWaiting) <| (c.rdS f.ent.word sa).bind fun a =>
    (c.rdRegExt f.ent.word m).bind fun x => checkBar s c a <|
      addGated s f c { Op.of f .barArr sd with addr := a.toNat, b := x.toNat }

/-! ## Drains and quiescent points (R142, R143) -/

/-- Faults of `gst` that a drain waits for, and takes at its word (R137): at a scope where it waits for each store. -/
def Ctx.gstFaults (c : Ctx) (scope stores : BitVec 3) : List Nat :=
  if scope ≠ 0#3 ∧ stores = 0#3 then c.gstErr else []

/-- `drain`: issues once every mark at an earlier word has committed (R244) and the counts of its classes at its scope are no
more than it states. With a tile count of 0 the engine's flags are put into fstat (R83). A fault that a `gst` reported is
taken here (R137); the register field of its trap.val is 0, since a `gst` has no result register. DESIGN CHOICE (log 101). -/
def execDrain (scope loads stores copies : BitVec 3) (tiles : BitVec 4) (s : State) : Out :=
  match s.focus with
  | none => .next s
  | some f =>
    let c := s.ctx f.ctx
    match c.gstFaults scope stores with
    | code :: rest =>
      if c.trapReady f.slot f.ent.word then
        .next ((s.setCtx f.ctx { c with gstErr := rest }).preciseTrap f.ctx f.ent.word f.ent.pc 0x0C (BitVec.ofNat 64 code))
      else .next { s with focus := none }
    | [] => issueOp s fun f c =>
      waitUnless (!c.gstWaiting && c.marksDone f.ent.word && decide (c.loadsOut ≤ loads.toNat) &&
          decide (s.storesOut f.ctx scope.toNat ≤ stores.toNat) && decide (c.copiesOut ≤ copies.toNat) &&
          decide (c.tilesBefore f.ent.word s.now ≤ tiles.toNat)) <|
        if tiles = 0#4 then
          let c1 := c.settleRows s.now
          .ok (s.setCtx f.ctx { (c1.raise f.ent.id c1.mxf) with mxf := 0#8 })
        else .ok s

/-- `qpoint` (R143): after every earlier translated operation has passed translation. Where a shoot-down is pending the
context becomes quiescent with its issue, and the C slot waits until the shoot-down has ended. -/
def execQpoint (s : State) : Out :=
  match s.focus with
  | none => .next s
  | some f =>
    let c := s.ctx f.ctx
    if !(c.ops.all fun o => decide (f.ent.word ≤ o.word) || o.passed) || c.gstWaiting then .next { s with focus := none }
    else issueOp s fun f c =>
      .ok (if s.sdPending (ctxCore f.ctx) then s.setCtx f.ctx { c with quiet := true, cHold := true } else s)

/-! ## Constellations (R147, R149) -/

/-- The CID of `anchor`. -/
def Ctx.rdCid (c : Ctx) (n : Nat) (src : CidSrc) : Eff Nat :=
  match src with
  | .reg sa => (c.rdS n sa).bind fun x => .ok (x.toNat % 2 ^ 24)
  | .ext cid => .ok cid.toNat

def execAnchor (hj : BitVec 2) (sd : SReg) (cid : CidSrc) (s : State) : Out :=
  issueOp s fun f c => waitUnless (!c.gstWaiting) <| (c.rdCid f.ent.word cid).bind fun x =>
    addOp s f c { Op.of f (.anchor hj.toNat) sd with c := x }

/-- `hzn.rel` clears V; with a CID, only where hj holds that one. -/
def execHznRel (hj : BitVec 2) (cid : Option (BitVec 24)) (s : State) : Out :=
  onCtx s fun f c => waitUnless (!c.gstWaiting) <| (c.rdU f.ent.word (uHzn + hj.toNat)).bind fun h =>
    let hit := match cid with | some x => decide (bits h.toNat 32 24 = x.toNat) | none => true
    .ok (c.putU f.ent.id (uHzn + hj.toNat) (if hit then h &&& 0x7FFFFFFFFFFFFFFF#64 else h))

def execPublish (sd sa : SReg) (ver : RegExt) (s : State) : Out :=
  issueOp s fun f c => waitUnless (!c.gstWaiting) <| (c.rdS f.ent.word sa).bind fun x =>
    (c.rdRegExt f.ent.word ver).bind fun v =>
      addGated s f c { Op.of f .publish sd with c := x.toNat % 2 ^ 24, b := v.toNat % 2 ^ 32 }

end Sys2Proof.Machine
end

