-- ==== Sys2Proof/Machine/Expert.lean ====
section
/-!
DEFINITION. The issue of `gred`, `xdisp` and `resolve` (R151, R215, R216), and what they compute: headers of contribution
slots, the sum of `gred`, the plan of `resolve` for one token (R217), and the deferred-fault table (R213, R214).
-/

namespace Sys2Proof.Machine

/-! ## Headers (R276) -/

def Hdr.parse (bs : List Byte) : Hdr :=
  ⟨rfld bs 0 4, rfld bs 4 4, rfld bs 8 2, rfld bs 10 1 % 4, rfld bs 11 1 % 16, rfld bs 12 2⟩

/-- Bytes 0 to 13 of a header. -/
def Hdr.bytes (h : Hdr) : List Byte :=
  leBytes 4 h.token ++ leBytes 4 h.pid ++ leBytes 2 h.expert ++ leBytes 1 h.state ++ leBytes 1 h.pay ++ leBytes 2 h.gate

def hEmpty : Nat := 0
def hTentative : Nat := 1
def hConfirmed : Nat := 2
def hSquashed : Nat := 3

/-! ## The sum of `gred` (R151) -/

/-- Bytes of a payload of `h` elements by its PFMT (R276): a format outside the table counts as F32. -/
def payBytes (pf h : Nat) : Nat :=
  if pf = 0xB then 144 * ((h + 127) / 128) else if pf = 2 ∨ pf = 3 then 2 * h else 4 * h

/-- Element `e` of a payload, decoded exactly. -/
def payElem (pf : Nat) (bs : List Byte) (e : Nat) : XV :=
  if pf = 0xB then aqElem (leNat ((bs.drop (144 * (e / 128))).take 144)) (e % 128)
  else if pf = 2 then fmt16.decode (rfld bs (2 * e) 2)
  else if pf = 3 then fmtBf.decode (rfld bs (2 * e) 2)
  else fmt32.decode (rfld bs (4 * e) 4)

/-- One token's element: the confirmed slots in order, each fused into the chain, nearest even, with no flush. -/
def gredElem (slots : List (Nat × Nat × List Byte)) (e : Nat) : Nat :=
  slots.foldl (fun acc p =>
    let pr := (XV.mul (fmtBf.decode p.1) (payElem p.2.1 p.2.2 e)).1
    (fmt32.round 0 0 (XV.add false pr (fmt32.decode acc)).1).1) 0

/-- An output row of `h` FP32 elements. -/
def gredRow (slots : List (Nat × Nat × List Byte)) (h : Nat) : List Byte :=
  ((List.range h).map fun e => leBytes 4 (gredElem slots e)).flatten

/-! ## Issue -/

/-- Virtual address of slot `j` of token `t` (R151, R217). -/
def slotVa (r : Shape) (t j : Nat) : Nat := vaOf (r.va + t * r.vstride + j * r.aux)

/-- The header pieces of every slot of every token, row t·KS + j. -/
def headerPieces (r : Shape) : List Piece :=
  ((List.range r.rows).map fun t => ((List.range r.ks).map fun j =>
    rowPieces (t * r.ks + j) (slotVa r t j) 0 128).flatten).flatten

def execGred (st : SReg) (ch : BitVec 4) (rc : Rec7) (s : State) : Out :=
  withRec s ch (recAddr rc) .reduce fun f c r => (c.recHorizon f.ent.word r).bind fun hz =>
    let o := { Op.of f .gred st with shape := r, passed := false, addr := r.aux, b := hz.2, c := hz.1, pieces := headerPieces r }
    let p := c.takeChan ch (Chan.take r.sp r.limit) o
    .ok (s.setCtx f.ctx { p.1 with ops := p.1.ops ++ [p.2] })

/-- Format of a row in scratchpad by CVT. -/
def rowFmt (cv : Nat) : Fmt := if cv = 0 then fmt32 else if cv = 1 then fmtBf else fmt16
def rowWidth (cv : Nat) : Nat := if cv = 0 then 4 else 2

/-- A row as `xdisp` sends it (R215, R76, R77): tag, grade, RF and bytes. A row in RF form of which a finite element overflows BF16
has grade 0, as the port's rows have (R207). DEDUCED (log 124). -/
def sendRow (q : Bool) (cv : Nat) (bs : List Byte) : Nat × Nat × Bool × List Byte :=
  let plain := ((cvtTag cv).toNat, gradeOf (cvtTag cv), false, bs)
  if !q then plain
  else
    let w := rowWidth cv
    let xs := (List.range (bs.length / w)).map fun i => (rowFmt cv).decode (rfld bs (w * i) w)
    let segs := (List.range (xs.length / 128)).map fun k => aqQuantise ((xs.drop (128 * k)).take 128)
    if segs.all (·.isSome) then
      (tAQ8.toNat, (if segs.any fun x => x.any (·.clamped) then 0 else 62), false,
        (segs.map fun x => match x with | some a => a.bytes | none => []).flatten)
    else (tBF16.toNat, bf16Grade xs, true, (xs.map fun x => leBytes 2 (fmtBf.round 0 0 x).1).flatten)

/-- Entry `e` of a dispatch list keeps its layout (R215). -/
def dispOk (ks : Nat) (e : List Byte) : Bool :=
  decide (rfld e 0 8 % 128 = 0) && decide (rfld e 12 4 ≠ 0) && decide (rfld e 16 2 ≤ 65534) && decide (rfld e 18 1 < 16) &&
    decide (rfld e 18 1 < ks) && decide (rfld e 19 13 = 0)

/-- The checks that `xdisp` makes of its record beside those of every copy. -/
def Ctx.xdispFaults (c : Ctx) (q : Bool) (r : Shape) : List Nat :=
  let chk : Bool → Nat → List Nat := fun b o => if b then [o] else []
  chk (decide (r.cvt = 3)) 40 ++ chk (q && decide (r.cvt ≠ 3) && decide (r.bytes % (128 * rowWidth r.cvt) ≠ 0)) 12 ++
    chk (decide (r.aux % 32 ≠ 0) || c.outside r.aux (32 * r.rows)) 56

/-- The row that entry `e` dispatches. -/
def xrowOf (q : Bool) (cv : Nat) (e bs : List Byte) : XRow :=
  let p := sendRow q cv bs
  { slotVa := rfld e 0 8 % 2 ^ 55, token := rfld e 8 4, pid := rfld e 12 4, expert := rfld e 16 2, j := rfld e 18 1,
    tag := p.1, grade := p.2.1, rf := p.2.2.1, data := p.2.2.2, waited := 0, st := 0 }

/-- Pieces of the replica-table entries of some experts: row 2^20 + expert (R279). -/
def State.entryPieces (s : State) (vf : Nat) (es : List Nat) : List Piece :=
  match (s.func vf).repl with
  | none => []
  | some base => (es.eraseDups.map fun e => rowPieces (2 ^ 20 + e) ((base + 64 * e : Nat) : Int) 0 64).flatten

/-- Where a copy record's checks and those of `xdisp` meet. A row whose list entry or whose bytes meet an error of the storage
is not sent (R350). -/
def execXdisp (st : SReg) (ch : BitVec 4) (q : Bool) (rc : Rec6) (s : State) : Out :=
  let addr := recAddr rc
  issueOp s fun f c =>
    waitUnless (s.cFree f.ctx && !c.chanBusy ch) <| readRec s f c addr 64 fun bs =>
      let r := Shape.parse bs
      recTrap addr (s.shapeFaults c .plain bs ++ c.xdispFaults q r) <|
        let n := f.ent.word
        let noList : Nat → Bool := fun i => s.eccHit f.ctx (r.aux + 32 * i) 32
        let lost := (List.range r.rows).filter fun i => noList i || s.eccHit f.ctx (r.sp + i * r.spstride) r.bytes
        let es := (List.range r.rows).map fun i => s.spRead f.ctx n (r.aux + 32 * i) 32
        match (List.range r.rows).find? fun i => !noList i && !dispOk r.ks (es.getD i []) with
        | some i => .trap 0x0A (recTrapVal (r.aux + 32 * i) 0xFF)
        | none => barOk s c r <|
          let rows := (List.range r.rows).map fun i =>
            let x := xrowOf q r.cvt (es.getD i []) (s.spRead f.ctx n (r.sp + i * r.spstride) r.bytes)
            if lost.elem i then { x with st := 6 } else x
          let hs := ((List.range r.rows).map fun i => match rows[i]? with
            | some x => if noList i then [] else rowPieces i x.slotVa 0 128
            | none => []).flatten
          let named := (List.range r.rows).filterMap fun i => if noList i then none else (rows[i]?).map (·.expert)
          let o := { Op.of f (.xdisp q) st with
            shape := r, passed := false, rows := rows, b := r.bytes, lost := lost,
            pieces := hs ++ s.entryPieces c.stat.vf named }
          let p := c.takeChan ch (Chan.allRead r.sp r.limit) o
          .ok (s.setCtx f.ctx { p.1 with ops := p.1.ops ++ [p.2] })

/-- The checks of the record at rec (R216). -/
def Ctx.resolveFaults (c : Ctx) (k : Nat) (bs : List Byte) : List Nat :=
  let r := Shape.parse bs
  let chk : Bool → Nat → List Nat := fun b o => if b then [o] else []
  shapeZeroFaults bs ++ chk (decide (r.rows < 1) || decide (64 < r.rows)) 8 ++
    chk (decide (r.ks < k) || decide (8 < r.ks)) 40 ++
    chk (decide (0x400000 < r.sp + 32 + 32 * r.rows) || c.outside r.sp (32 + 32 * r.rows)) 24

/-- The checks of the dispatch record at rec + 64 (R216). -/
def Ctx.repairFaults (c : Ctx) (rows : Nat) (bs : List Byte) : List Nat :=
  let d := Shape.parse bs
  let chk : Bool → Nat → List Nat := fun b o => if b then [o] else []
  let extent := (rows - 1) * d.spstride + d.bytes
  shapeZeroFaults bs ++ chk (decide (d.bytes < 1) || decide (65536 < d.bytes)) 12 ++ chk (decide (d.cvt = 3)) 40 ++
    chk (decide (1 < rows) && decide (d.spstride < d.bytes)) 28 ++
    chk (decide (0x400000 < d.sp + extent) || c.outside d.sp extent) 24

/-- The true experts of token `t` of an input block, and their gates (R216). -/
def trueExperts (blk : List Byte) (k t : Nat) : List (Nat × Nat) :=
  (List.range k).map fun i => (rfld blk (32 + 32 * t + 2 * i) 2, rfld blk (48 + 32 * t + 2 * i) 2)

/-- `resolve` keeps the input block in `list`, the bytes a repair lands in `b`, k in `tile`, and one row per token for
its repairs. A token whose part of the input block meets an error of the storage is passed over with CODE 0x03, and `waited` of
its row is 1 where the repair's bytes do (R350). -/
def execResolve (st : SReg) (ch : BitVec 4) (k : BitVec 3) (rc : Rec4) (s : State) : Out :=
  let addr := recAddr rc
  let kk := k.toNat + 1
  issueOp s fun f c =>
    waitUnless (s.cFree f.ctx && !c.chanBusy ch) <| readRec s f c addr 64 fun bs =>
      let r := Shape.parse bs
      recTrap addr (c.resolveFaults kk bs) <|
        readRec s f c (addr + 64) 64 fun bs2 =>
          let d := Shape.parse bs2
          recTrap (addr + 64) (c.repairFaults r.rows bs2) <| barOk s c r <|
            let n := f.ent.word
            let blk := s.spRead f.ctx n r.sp (32 + 32 * r.rows)
            let noBase := s.eccHit f.ctx r.sp 32
            let lost := (List.range r.rows).filter fun t => noBase || s.eccHit f.ctx (r.sp + 32 + 32 * t) 32
            let rows := (List.range r.rows).map fun t =>
              let p := sendRow false d.cvt (s.spRead f.ctx n (d.sp + t * d.spstride) d.bytes)
              { slotVa := 0, token := t, pid := 0, expert := 0, j := 0, tag := p.1, grade := p.2.1, rf := false,
                data := p.2.2.2, waited := b2n (s.eccHit f.ctx (d.sp + t * d.spstride) d.bytes),
                st := if lost.elem t then 7 else 6 : XRow }
            let es := ((((List.range r.rows).filter fun t => !lost.elem t).map fun t => (trueExperts blk kk t).map (·.1)).flatten).filter fun e => decide (e ≠ 0xFFFF)
            let o := { Op.of f (.resolve kk) st with
              shape := r, passed := false, rows := rows, b := d.bytes, tile := kk, list := blk, lost := lost, issued := s.now,
              pieces := headerPieces r ++ s.entryPieces c.stat.vf es }
            let p := c.takeChan ch (Chan.allRead r.sp (r.sp + 32 + 32 * r.rows - 1)) o
            .ok (s.setCtx f.ctx { p.1 with ops := p.1.ops ++ [p.2] })

/-! ## The plan of `resolve` for one token (R217) -/

/-- What `resolve` does for a token: its code, the headers its PIDs are taken from, the repairs as expert and slot, the
predictor updates, and whether the headers are written. -/
structure Plan where
  code : Nat
  named : List Hdr
  repairs : List (Nat × Nat)
  upds : List PtEv
  write : Bool
  deriving DecidableEq, Repr

/-- Insertion into a list that rises by a key. -/
def insertBy {α : Type} (key : α → Nat) (x : α) : List α → List α
  | [] => [x]
  | y :: rest => if key x < key y then x :: y :: rest else y :: insertBy key x rest

def sortBy {α : Type} (key : α → Nat) (xs : List α) : List α := xs.foldr (insertBy key) []

def Plan.keep (code : Nat) (named : List Hdr) : Plan := ⟨code, named, [], [], false⟩

/-- Confirmed Tentative headers and the others: for each true expert its lowest-numbered Tentative header. -/
def splitTentative (ex : List Nat) : List Hdr → List Hdr × List Hdr
  | [] => ([], [])
  | h :: rest =>
    if h.state ≠ hTentative then splitTentative ex rest
    else if ex.elem h.expert then
      let r := splitTentative (ex.filter fun e => decide (e ≠ h.expert)) rest
      (h :: r.1, r.2)
    else
      let r := splitTentative ex rest
      (r.1, h :: r.2)

/-- The plan for token `t` with base index `base`, true experts `tr` and headers `hs`. -/
def planToken (t base : Nat) (tr : List (Nat × Nat)) (hs : List Hdr) : Plan :=
  let ex := tr.map (·.1)
  let gate : Nat → Nat := fun e => ((tr.find? fun p => decide (p.1 = e)).map (·.2)).getD 0
  let conf0 := hs.filter fun h => decide (h.state = hConfirmed)
  let sq0 := hs.filter fun h => decide (h.state = hSquashed)
  if ex.elem 0xFFFF ∨ ex.eraseDups.length ≠ ex.length then Plan.keep 8 hs
  else if sortBy (·.1) (conf0.map fun h => (h.expert, h.gate)) = sortBy (·.1) tr ∧ conf0.length + sq0.length = hs.length then
    Plan.keep 0 hs
  else if !conf0.isEmpty ∨ !sq0.isEmpty then Plan.keep 8 hs
  else
    let (cf, sq) := splitTentative ex hs
    let free := (List.range hs.length).filter fun j => (hs[j]?).any fun h => decide (h.state = hEmpty)
    let miss := sortBy id (ex.filter fun e => !(cf.any fun h => decide (h.expert = e)))
    if free.length < miss.length then Plan.keep 8 hs
    else
      let reps := miss.zip free
      let cl := sortBy (·.expert) ((cf.map fun h => { h with state := hConfirmed, gate := gate h.expert }) ++
        reps.map fun p => ⟨t, 0, p.1, hConfirmed, p.2, gate p.1⟩)
      let sl := sortBy (fun h => h.expert * 16 + h.pay) (sq.map fun h => { h with state := hSquashed, gate := 0 })
      let ul := (free.drop reps.length).map fun j => (⟨t, 0, 0xFFFF, hSquashed, j, 0⟩ : Hdr)
      let ix : Nat → Nat := fun e => (base + e) % 16384
      ⟨0, cl ++ sl ++ ul, reps,
        (cl.filter fun h => decide (h.pid ≠ 0)).map (fun h => .hit (ix h.expert)) ++ sl.map (fun h => .miss (ix h.expert)) ++
          miss.map (fun e => .unseen (ix e)), true⟩

/-! ## The deferred-fault table (R213, R214) -/

/-- A fault deferred by a `cp.pf`. A PID already present is replaced; the oldest full entry makes way for a new one and
is kept as a LOST record; the oldest LOST record makes way for a new one, and OVF is set. -/
def DefTable.add (t : DefTable) (e : DefEnt) : DefTable :=
  let full := t.full.filter fun x => decide (x.pid ≠ e.pid)
  let lost := t.lost.filter fun x => decide (x.pid ≠ e.pid)
  if full.length < 16 then { t with full := full ++ [e], lost := lost }
  else
    let old := match full with | x :: _ => [{ x with lost := true, tr := false, code := 0, va := 0 }] | [] => []
    if lost.length < 64 then { t with full := full.drop 1 ++ [e], lost := lost ++ old }
    else { t with full := full.drop 1 ++ [e], lost := lost.drop 1 ++ old, ovf := true }

/-- `resolve` `id` settles the PIDs it names: one confirmed in any header is raised for the reader of its token, any other is
discarded. The token also reports an overflow, unless that of an earlier `resolve`, whose write `open_` still finds, does. -/
def DefTable.settle (t : DefTable) (id : Nat) (conf sq : List Nat) (open_ : Nat → Bool) : DefTable :=
  let f : List DefEnt → List DefEnt := fun xs =>
    (xs.filter fun e => conf.elem e.pid || !(sq.elem e.pid)).map fun e => if conf.elem e.pid then { e with raised := some id } else e
  { t with full := f t.full, lost := f t.lost,
           ovfAt := if t.ovf && !(t.ovfAt.any open_) then some id else t.ovfAt }

end Sys2Proof.Machine
end

