-- ==== Sys2Proof/Machine/Vector.lean ====
section
/-!
DEFINITION. The meanings of the V slot (R152 to R168): element-wise arithmetic, compares into masks, estimates, reductions,
lane movement, mask logic and conversions.
-/

namespace Sys2Proof.Machine

/-! ## Shapes shared by many instructions -/

/-- Bits of one element. -/
def ElemFmt.width : ElemFmt → Nat | .f32 => 32 | .bf16 => 16

/-- The mask of an operation: all ones where it has none. -/
def Ctx.rdMk (c : Ctx) (n : Nat) (mk : Option MReg) : Eff W64 :=
  match mk with | some m => c.rdM n m | none => .ok (BitVec.allOnes 64)

/-- vd as the word sees it, where the operation reads it; zeros where it does not. -/
def Ctx.rdOld (c : Ctx) (n : Nat) (vd : VReg) (reads : Bool) : Eff VBits := if reads then c.rdV n vd else .ok 0#2048

/-- A floating element-wise instruction with two sources (R153, R154). `g` takes the environment, the draw, and the
elements of va, vb and vd. `rounds` says whether its active elements step lfsr under the stochastic mode. -/
def vecFp (s : State) (o : VaOp) (fm : ElemFmt) (rounds readsVd : Bool)
    (g : FpEnv → Nat → Nat → Nat → Nat → Nat × Flags) : Out :=
  onCtx s fun f c =>
    let n := f.ent.word
    (c.rdEnv n).bind fun env => (c.rdV n o.va).bind fun a => (c.rdV n o.vb).bind fun b =>
    (c.rdMk n o.mk).bind fun mk => (c.rdOld n o.vd (readsVd || o.mk.isSome)).bind fun d =>
    let st := rounds && env.stoch
    (c.drawsFrom f st).bind fun l =>
      let w := fm.width
      let as := vElems w a
      let bs := vElems w b
      let ds := vElems w d
      let r := runElems st ((List.range (2048 / w)).map fun i =>
        ⟨laneAct w mk i, ds.getD i 0, fun x => g env x (as.getD i 0) (bs.getD i 0) (ds.getD i 0)⟩) l
      .ok ((c.putV f.ent.id o.vd (ofElems w r.vals)).flagged f r.flags r.steps)

/-- A floating element-wise instruction with one source that does not round under RM (R154, R157). -/
def vecFp1 (s : State) (o : VuOp) (fm : ElemFmt) (g : FpEnv → Nat → Nat × Flags) : Out :=
  onCtx s fun f c =>
    let n := f.ent.word
    (c.rdEnv n).bind fun env => (c.rdV n o.va).bind fun a => (c.rdMk n o.mk).bind fun mk =>
    (c.rdOld n o.vd o.mk.isSome).bind fun d =>
      let w := fm.width
      let as := vElems w a
      let ds := vElems w d
      let r := runElems false ((List.range (2048 / w)).map fun i =>
        ⟨laneAct w mk i, ds.getD i 0, fun _ => g env (as.getD i 0)⟩) 0#32
      .ok ((c.putV f.ent.id o.vd (ofElems w r.vals)).flagged f r.flags 0)

/-- An integer or bit-level instruction on 32-bit lanes (R155). -/
def vecInt (s : State) (o : VaOp) (g : W32 → W32 → W32) : Out :=
  onCtx s fun f c =>
    let n := f.ent.word
    (c.rdV n o.va).bind fun a => (c.rdV n o.vb).bind fun b => (c.rdMk n o.mk).bind fun mk =>
    (c.rdOld n o.vd o.mk.isSome).bind fun d =>
      .ok (c.putV f.ent.id o.vd (ofLanes ((List.range 64).map fun j =>
        if mk.getLsbD j then g (lane a j) (lane b j) else lane d j)))

/-! ## Element-wise arithmetic (R154, R155) -/

def execVaddF32 (o : VaOp) (s : State) : Out := vecFp s o .f32 true false fun e r a b _ => fpAdd .f32 e r a b
def execVsubF32 (o : VaOp) (s : State) : Out := vecFp s o .f32 true false fun e r a b _ => fpSub .f32 e r a b
def execVmulF32 (o : VaOp) (s : State) : Out := vecFp s o .f32 true false fun e r a b _ => fpMul .f32 e r a b
def execVfmaF32 (o : VaOp) (s : State) : Out := vecFp s o .f32 true true fun e r a b d => fpFma .f32 e r a b d
def execVminF32 (o : VaOp) (s : State) : Out := vecFp s o .f32 false false fun e _ a b _ => fpMinMax false .f32 e a b
def execVmaxF32 (o : VaOp) (s : State) : Out := vecFp s o .f32 false false fun e _ a b _ => fpMinMax true .f32 e a b
def execVabsF32 (o : VuOp) (s : State) : Out := vecFp1 s o .f32 fun e a => fpAbsNeg false .f32 e a
def execVnegF32 (o : VuOp) (s : State) : Out := vecFp1 s o .f32 fun e a => fpAbsNeg true .f32 e a

def execVaddBf16 (o : VaOp) (s : State) : Out := vecFp s o .bf16 true false fun e r a b _ => fpAdd .bf16 e r a b
def execVsubBf16 (o : VaOp) (s : State) : Out := vecFp s o .bf16 true false fun e r a b _ => fpSub .bf16 e r a b
def execVmulBf16 (o : VaOp) (s : State) : Out := vecFp s o .bf16 true false fun e r a b _ => fpMul .bf16 e r a b
def execVfmaBf16 (o : VaOp) (s : State) : Out := vecFp s o .bf16 true true fun e r a b d => fpFma .bf16 e r a b d
def execVminBf16 (o : VaOp) (s : State) : Out := vecFp s o .bf16 false false fun e _ a b _ => fpMinMax false .bf16 e a b
def execVmaxBf16 (o : VaOp) (s : State) : Out := vecFp s o .bf16 false false fun e _ a b _ => fpMinMax true .bf16 e a b
def execVabsBf16 (o : VuOp) (s : State) : Out := vecFp1 s o .bf16 fun e a => fpAbsNeg false .bf16 e a
def execVnegBf16 (o : VuOp) (s : State) : Out := vecFp1 s o .bf16 fun e a => fpAbsNeg true .bf16 e a

def execVaddI32 (o : VaOp) (s : State) : Out := vecInt s o (· + ·)
def execVsubI32 (o : VaOp) (s : State) : Out := vecInt s o (· - ·)
def execVmulI32 (o : VaOp) (s : State) : Out := vecInt s o (· * ·)
def execVminI32 (o : VaOp) (s : State) : Out := vecInt s o fun a b => if a.toInt ≤ b.toInt then a else b
def execVmaxI32 (o : VaOp) (s : State) : Out := vecInt s o fun a b => if a.toInt ≤ b.toInt then b else a
def execVand (o : VaOp) (s : State) : Out := vecInt s o (· &&& ·)
def execVor (o : VaOp) (s : State) : Out := vecInt s o (· ||| ·)
def execVxor (o : VaOp) (s : State) : Out := vecInt s o (· ^^^ ·)
def execVshl (o : VaOp) (s : State) : Out := vecInt s o fun a b => a <<< (b.toNat % 32)
def execVshr (o : VaOp) (s : State) : Out := vecInt s o fun a b => a >>> (b.toNat % 32)
def execVsar (o : VaOp) (s : State) : Out := vecInt s o fun a b => a.sshiftRight (b.toNat % 32)

/-! ## Compares into masks (R156) -/

/-- A mask from its 64 bits. -/
def maskOf (g : Nat → Bool) : W64 :=
  BitVec.ofNat 64 ((List.range 64).foldr (fun j acc => b2n (g j) + 2 * acc) 0)

/-- A floating compare: lane j's bit holds only if every element of the lane satisfies the condition. -/
def vecFcmp (s : State) (fm : ElemFmt) (cond : BitVec 3) (md : MReg) (va vb : VReg) : Out :=
  onCtx s fun f c =>
    let n := f.ent.word
    (c.rdEnv n).bind fun env => (c.rdV n va).bind fun a => (c.rdV n vb).bind fun b =>
      let w := fm.width
      let as := vElems w a
      let bs := vElems w b
      let rs := (List.range (2048 / w)).map fun i =>
        fpCond cond.toNat (fm.dec env.ftz (as.getD i 0)) (fm.dec env.ftz (bs.getD i 0))
      let k := 32 / w
      .ok ((c.putM f.ent.id md (maskOf fun j => (List.range k).all fun i => (rs.getD (k * j + i) (false, false)).1)).raise
        f.ent.id (flagIf (rs.any (·.2)) fNV))

/-- The integer conditions of R156. -/
def intCond (c : Nat) (a b : W32) : Bool :=
  if c = 0 then decide (a = b)
  else if c = 1 then decide (a ≠ b)
  else if c = 2 then decide (a.toInt < b.toInt)
  else if c = 3 then decide (a.toInt ≤ b.toInt)
  else if c = 4 then decide (b.toInt < a.toInt)
  else if c = 5 then decide (b.toInt ≤ a.toInt)
  else if c = 6 then decide (a.toNat < b.toNat)
  else decide (a.toNat ≤ b.toNat)

def execVcmpF32 (cond : BitVec 3) (md : MReg) (va vb : VReg) (s : State) : Out := vecFcmp s .f32 cond md va vb
def execVcmpBf16 (cond : BitVec 3) (md : MReg) (va vb : VReg) (s : State) : Out := vecFcmp s .bf16 cond md va vb
def execVcmpI32 (cond : BitVec 3) (md : MReg) (va vb : VReg) (s : State) : Out :=
  onCtx s fun f c => (c.rdV f.ent.word va).bind fun a => (c.rdV f.ent.word vb).bind fun b =>
    .ok (c.putM f.ent.id md (maskOf fun j => intCond cond.toNat (lane a j) (lane b j)))

/-! ## Estimates (R157) -/

/-- An estimate on FP32 elements. -/
def vecEst (s : State) (o : VuOp) (fn : EstFn) : Out :=
  vecFp1 s o .f32 fun e a => let p := estimate fn e.ftz (BitVec.ofNat 32 a); (p.1.toNat, p.2)

def execVrcpF32 (o : VuOp) (s : State) : Out := vecEst s o .rcp
def execVrsqrtF32 (o : VuOp) (s : State) : Out := vecEst s o .rsqrt
def execVexp2F32 (o : VuOp) (s : State) : Out := vecEst s o .exp2
def execVlog2F32 (o : VuOp) (s : State) : Out := vecEst s o .log2

/-! ## Reductions (R158) -/

/-- One level of the tree: neighbours combined, each with its draw. -/
def redLevel (st : Bool) (g : Nat → Nat → Nat → Nat × Flags) (xs : List Nat) (l : W32) : ElemRes :=
  runElems st ((List.range (xs.length / 2)).map fun j => ⟨true, 0, fun r => g r (xs.getD (2 * j) 0) (xs.getD (2 * j + 1) 0)⟩) l

/-- `k` levels of the tree: the values left, the flags and the steps. -/
def redTree (st : Bool) (g : Nat → Nat → Nat → Nat × Flags) : Nat → List Nat → W32 → ElemRes
  | 0, xs, _ => ⟨xs, 0#8, 0⟩
  | k + 1, xs, l =>
    let r := redLevel st g xs l
    let t := redTree st g k r.vals (stepsLfsr r.steps l)
    ⟨t.vals, r.flags ||| t.flags, r.steps + t.steps⟩

def execVredAddF32 (sd : SReg) (va : VReg) (mk : MReg) (s : State) : Out :=
  onCtx s fun f c =>
    let n := f.ent.word
    (c.rdEnv n).bind fun env => (c.rdV n va).bind fun a => (c.rdM n mk).bind fun m =>
    (c.drawsFrom f env.stoch).bind fun l =>
      let as := vElems 32 a
      let ys := (List.range 64).map fun j => if m.getLsbD j then as.getD j 0 else 0
      let r := redTree env.stoch (fun d x y => fpAdd .f32 env d x y) 6 ys l
      .ok ((c.putS f.ent.id sd (BitVec.ofNat 64 (r.vals.getD 0 0))).flagged f r.flags r.steps)

/-- The larger of two FP32 encodings, a NaN carried through; its signalling bit was taken when the lane was read. -/
def maxCombine (x y : Nat) : Nat :=
  let a := fmt32.decode x
  let b := fmt32.decode y
  if a.isNan || b.isNan then fmt32.nanBits else ElemFmt.f32.exact (a.maxv b)

/-- Bits 63 to 32 of sd are zero, as R158 says for `vred.add.f32` and leaves unsaid here. DESIGN CHOICE (log 104). -/
def execVredMaxF32 (sd : SReg) (va : VReg) (mk : MReg) (s : State) : Out :=
  onCtx s fun f c =>
    let n := f.ent.word
    (c.rdEnv n).bind fun env => (c.rdV n va).bind fun a => (c.rdM n mk).bind fun m =>
      let as := vElems 32 a
      let xs := (List.range 64).map fun j =>
        if m.getLsbD j then dec32 env.ftz (BitVec.ofNat 32 (as.getD j 0)) else XV.inf true
      let r := redTree false (fun _ x y => (maxCombine x y, 0#8)) 6 (xs.map fun x => ElemFmt.f32.exact x) 0#32
      .ok ((c.putS f.ent.id sd (BitVec.ofNat 64 (r.vals.getD 0 0))).flagged f (flagIf (xs.any XV.isSig) fNV) 0)

def execVredAddI32 (sd : SReg) (va : VReg) (mk : MReg) (s : State) : Out :=
  onCtx s fun f c => (c.rdV f.ent.word va).bind fun a => (c.rdM f.ent.word mk).bind fun m =>
    let t : W32 := (List.range 64).foldl (fun acc j => if m.getLsbD j then acc + lane a j else acc) 0#32
    .ok (c.putS f.ent.id sd (t.signExtend 64))

/-! ## Lane movement, moves and splats (R159 to R161) -/

/-- A lane movement: lane j of vd takes a lane of va. -/
def vecMove (s : State) (vd va : VReg) (src : Nat → Nat) : Out :=
  onCtx s fun f c => (c.rdV f.ent.word va).bind fun a =>
    .ok (c.putV f.ent.id vd (ofLanes ((List.range 64).map fun j => lane a (src j % 64))))

def execVperm (vd va vi : VReg) (s : State) : Out :=
  onCtx s fun f c => (c.rdV f.ent.word va).bind fun a => (c.rdV f.ent.word vi).bind fun i =>
    .ok (c.putV f.ent.id vd (ofLanes ((List.range 64).map fun j => lane a ((lane i j).toNat % 64))))

def execVbcast (vd va : VReg) (n : BitVec 6) (s : State) : Out := vecMove s vd va fun _ => n.toNat
def execVrot (vd va : VReg) (n : BitVec 6) (s : State) : Out := vecMove s vd va fun j => j + n.toNat

def execVsel (vd va : VReg) (vb : BitVec 3) (mk : MReg) (s : State) : Out :=
  onCtx s fun f c => (c.rdV f.ent.word va).bind fun a => (c.rdV f.ent.word (vb.setWidth 5)).bind fun b =>
    (c.rdM f.ent.word mk).bind fun m => .ok (c.putV f.ent.id vd (maskLanes m a b))

def execVmov (vd va : VReg) (mk : MReg) (s : State) : Out :=
  onCtx s fun f c => (c.rdV f.ent.word va).bind fun a => (c.rdV f.ent.word vd).bind fun d =>
    (c.rdM f.ent.word mk).bind fun m => .ok (c.putV f.ent.id vd (maskLanes m a d))

/-- The lane that a splat writes: low half of sa, or its immediate as `imm` reads it (R161). -/
def Ctx.splatLane (c : Ctx) (n : Nat) (src : SplatSrc) (imm : BitVec 10 → W32) : Eff W32 :=
  match src with
  | .imm i => .ok (imm i)
  | .reg sa => (c.rdS n sa).bind fun x => .ok (x.setWidth 32)

def vecSplat (s : State) (vd : VReg) (src : SplatSrc) (imm : BitVec 10 → W32) : Out :=
  onCtx s fun f c => (c.splatLane f.ent.word src imm).bind fun x =>
    .ok (c.putV f.ent.id vd (ofLanes (List.replicate 64 x)))

def execVsplatF32 (vd : VReg) (src : SplatSrc) (s : State) : Out := vecSplat s vd src fun i => i ++ 0#22
def execVsplatI32 (vd : VReg) (src : SplatSrc) (s : State) : Out := vecSplat s vd src fun i => i.signExtend 32

/-! ## Masks (R162) -/

def maskBin (s : State) (md ma mb : MReg) (g : W64 → W64 → W64) : Out :=
  onCtx s fun f c => (c.rdM f.ent.word ma).bind fun a => (c.rdM f.ent.word mb).bind fun b =>
    .ok (c.putM f.ent.id md (g a b))

def execMand (md ma mb : MReg) (s : State) : Out := maskBin s md ma mb (· &&& ·)
def execMor (md ma mb : MReg) (s : State) : Out := maskBin s md ma mb (· ||| ·)
def execMxor (md ma mb : MReg) (s : State) : Out := maskBin s md ma mb (· ^^^ ·)
def execMandn (md ma mb : MReg) (s : State) : Out := maskBin s md ma mb fun a b => a &&& ~~~b

def execMpop (sd : SReg) (ma : MReg) (s : State) : Out :=
  onCtx s fun f c => (c.rdM f.ent.word ma).bind fun a =>
    .ok (c.putS f.ent.id sd (BitVec.ofNat 64 (popcNat 64 a.toNat)))

/-! ## Conversions (R164 to R168) -/

/-- Element `i` of a vector register of tag `t`, decoded exactly. -/
def regElem (t : Tag) (tbl : List W32) (v : Nat) (i : Nat) : XV := segElem t tbl v i

/-- `cvt` (R164, R165): the part P of the wider side is converted, and the other elements of vd are kept where vd had the
target tag and zeroed where it had not. -/
def execCvt (vd va : VReg) (t : Tag) (part : BitVec 2) (s : State) : Out :=
  issueOp s fun f c =>
    let n := f.ent.word
    (c.rdEnv n).bind fun env => (c.rdV n va).bind fun a => (c.rdVt n va).bind fun src =>
    (c.rdVt n vd).bind fun old => (c.rdOld n vd (decide (old = t))).bind fun d =>
    (if isSX src then s.scaleFor f.ctx n else .ok []).bind fun tbl =>
    let st := env.stoch && cvtRounds src t
    (c.drawsFrom f st).bind fun l =>
      let cs := tagCount src
      let ct := tagCount t
      let k := min cs ct
      let off := k * part.toNat
      let srcOff := if cs ≤ ct then 0 else off
      let r := runElems st ((List.range k).map fun i =>
        ⟨true, 0, fun x => cvtElem src t env x (regElem src tbl a.toNat (srcOff + i))⟩) l
      let w := elemBits t
      let ds := vElems w d
      let dstOff := if cs ≤ ct then off else 0
      let out := (List.range ct).map fun i =>
        if dstOff ≤ i ∧ i < dstOff + k then r.vals.getD (i - dstOff) 0 else ds.getD i 0
      .ok (s.setCtx f.ctx ((c.putV f.ent.id vd (ofElems w out)).flagged f r.flags r.steps))

/-- The 128 source elements of `cvt.sx`, `cvt.fit`, `cvt.aq8` and `send.q` (R166). -/
def Ctx.rdSrc (c : Ctx) (n : Nat) (va : VReg) : Eff (List XV) :=
  (c.rdEnv n).bind fun env => (c.rdVt n va).bind fun t => (c.rdV n va).bind fun lo =>
    if t = tBF16 then .ok (srcElems true env lo 0#2048)
    else (c.rdV n (va + 1)).bind fun hi => .ok (srcElems false env lo hi)

/-- A segment quantised into SX under RM, with its draws, one per element (R80, R166). -/
def sxOf (t : Tag) (tbl : List W32) (k : Nat) (env : FpEnv) (xs : List XV) (l : W32) : List Byte × Flags :=
  sxSegment t tbl k env.rm xs (if env.stoch then draws 128 l else [])

def execCvtSx (vd va : VReg) (fmt : BitVec 2) (k : BitVec 4) (s : State) : Out :=
  issueOp s fun f c =>
    let n := f.ent.word
    (c.rdEnv n).bind fun env => (c.rdSrc n va).bind fun xs =>
    (s.scaleFor f.ctx n).bind fun tbl => (c.drawsFrom f env.stoch).bind fun l =>
      let t := if fmt = 0#2 then tSX7 else if fmt = 1#2 then tSX4 else tSX2
      let r := sxOf t tbl k.toNat env xs l
      .ok (s.setCtx f.ctx ((c.putV f.ent.id vd (ofBytes r.1)).flagged f r.2 (if env.stoch then 128 else 0)))

/-- A write that an instruction turns out not to make leaves no trace. -/
def RegFile.unput {α : Type} (f : RegFile α) (id idx : Nat) : RegFile α :=
  { f with log := f.log.filter fun e => !(decide (e.id = id) && decide (e.idx = idx)) }

/-- vd + 1 of a pair is not written: its value and its tag stay as they were. -/
def Ctx.unputV (c : Ctx) (id : Nat) (r : VReg) : Ctx :=
  { c with v := c.v.unput id r.toNat, vt := c.vt.unput id r.toNat }

/-- `cvt.fit` (R167): the narrowest candidate whose grade reaches tol as it stands at issue. -/
def execCvtFit (vk : BitVec 4) (va : VReg) (cls : Bool) (k : BitVec 4) (s : State) : Out :=
  issueOp s fun f c =>
    let n := f.ent.word
    let vd : VReg := vk ++ 0#1
    let hi : VReg := vk ++ 1#1
    (c.rdEnv n).bind fun env => (c.rdSrc n va).bind fun xs => (c.rdVt n va).bind fun src =>
    (c.rdU n uTol).bind fun tol =>
    let t := fitChoice cls (tol.toNat % 256)
    let sx := isSX t
    (if sx then s.scaleFor f.ctx n else .ok []).bind fun tbl =>
    let st := env.stoch && (sx || cvtRounds src t)
    (c.drawsFrom f st).bind fun l =>
      let c1 := c.putVt f.ent.id vd t
      let done : Ctx → State := fun c' => s.setCtx f.ctx c'
      if sx then
        let r := sxOf t tbl k.toNat env xs l
        .ok (done (((c1.putV f.ent.id vd (ofBytes r.1)).unputV f.ent.id hi).flagged f r.2 (if st then 128 else 0)))
      else
        let r := runElems st (xs.map fun x => ⟨true, 0, fun d => cvtElem src t env d x⟩) l
        if t = tF32 then
          .ok (done ((((c1.putVt f.ent.id hi tF32).putV f.ent.id vd (ofElems 32 (r.vals.take 64))).putV f.ent.id hi
            (ofElems 32 (r.vals.drop 64))).flagged f r.flags r.steps))
        else
          .ok (done (((c1.putV f.ent.id vd (ofElems (elemBits t) r.vals)).unputV f.ent.id hi).flagged f r.flags r.steps))

/-- `cvt.aq8` (R168): one AQ8 row, or BF16 to nearest even where the row holds an infinity or a NaN. -/
def execCvtAq8 (vd va : VReg) (s : State) : Out :=
  onCtx s fun f c =>
    let n := f.ent.word
    (c.rdSrc n va).bind fun xs =>
      match aqQuantise xs with
      | some r => .ok (((c.putV f.ent.id vd (ofBytes r.bytes)).putVt f.ent.id vd tAQ8).flagged f (flagIf r.clamped fQCL) 0)
      | none => .ok (((c.putV f.ent.id vd (bf16Row xs)).putVt f.ent.id vd tBF16).flagged f 0#8 0)

end Sys2Proof.Machine
end

