-- ==== Sys2Proof/Machine/Network.lean ====
section
/-!
DEFINITION. The meanings of the N slot (R198 to R209, R325, R326): sends, receives, and the issue of collectives; and the
two events that carry a send to its queues.
-/

namespace Sys2Proof.Machine

/-! ## Sends (R199 to R202) -/

/-- A queue's number: core · 64 + context · 8 + queue. -/
def queueNo (core i q : Nat) : Nat := 64 * core + 8 * i + q

/-- Cluster of a queue address: 8Q + C (R199). -/
def qaCluster (a : W64) : Nat := 8 * bits a.toNat 14 2 + bits a.toNat 11 3

/-- The queues a send goes to: one, or queue QN of context CTX on every core that KMASK names. -/
def State.sendDests (s : State) (a : W64) (mc : Bool) : List Nat :=
  let ks := if mc then (List.range 8).filter fun i => bitAt a.toNat (16 + i) else [bits a.toNat 8 3]
  ks.map fun k => queueNo (s.coreFor (qaCluster a) k) (bits a.toNat 5 3) (bits a.toNat 2 3)

/-- The function that owns a cluster (R359). -/
def State.owner (s : State) (cl : Nat) : Nat := s.conf.owner.getD cl 0

/-- A send issues: its destination is checked before it is gated, it takes a place in the send queue of 16, and it takes
a remote entry of the restart buffer. -/
def sendOp (s : State) (sa : SReg) (mc : Bool) (entry : Focus → Ctx → Eff (VBits × Tag × Option Bool)) : Out :=
  issueOp s fun f c => (c.rdS f.ent.word sa).bind fun a =>
    trapIf (decide (s.owner (qaCluster a) ≠ c.stat.vf)) 0x11 a <|
      waitUnless (decide (c.sends.length < 16)) <|
        (entry f c).bind fun e => (c.claim f.ent.word c.remoteUsed 16).bind fun c =>
          let c := match e.2.2 with | some clamped => c.raise f.ent.id (flagIf clamped fQCL) | none => c
          .ok (s.setCtx f.ctx { c with sends := c.sends ++
            [⟨f.ent.id, f.ent.word, e.1, e.2.1, s.sendDests a mc, [], false, 0, f.ctx⟩] })

/-- The register's bytes and its tag. -/
def rawEntry (vs : VReg) (f : Focus) (c : Ctx) : Eff (VBits × Tag × Option Bool) :=
  (c.rdV f.ent.word vs).bind fun v => (c.rdVt f.ent.word vs).bind fun t => .ok (v, t, none)

def execSend (vs : VReg) (sa : SReg) (s : State) : Out := sendOp s sa false (rawEntry vs)
def execSendMc (vs : VReg) (sa : SReg) (s : State) : Out := sendOp s sa true (rawEntry vs)

/-- `send.q`: one AQ8 segment with zeros above it, or the row in BF16 where it holds an infinity or a NaN. -/
def execSendQ (vs : VReg) (sa : SReg) (s : State) : Out :=
  sendOp s sa false fun f c => (c.rdSrc f.ent.word vs).bind fun xs =>
    match aqQuantise xs with
    | some r => .ok (ofBytes r.bytes, tAQ8, some r.clamped)
    | none => .ok (bf16Row xs, tBF16, some false)

/-- Cycles from a send's departure to its arrival (R201). -/
def sendDelay (src dst : Nat) : Nat :=
  if coreCluster src = coreCluster dst then 12
  else if clusterDie (coreCluster src) = clusterDie (coreCluster dst) then 24 else 40

/-- The context key and the queue of a queue's number. When a context is spilled or reloaded, what is on its way to its
queues changes its key with it (R198). -/
def qnKey (d : Nat) : Nat := d / 8
def qnQueue (d : Nat) : Nat := d % 8

def RQueue.none : RQueue := ⟨[], 0⟩

/-- A queue reserves one entry, if fewer than 16 are held or reserved. -/
def Ctx.reserveQ (c : Ctx) (j : Nat) : Option Ctx :=
  let q := c.rq.get RQueue.none j
  if q.ents.length + q.reserved < 16 then some { c with rq := AMap.set c.rq j { q with reserved := q.reserved + 1 } } else none

/-- Whether another context's request reached queue `d` before that of send `y` of context `k`, and is still to be granted.
Requests that reach a queue in one cycle stand in the senders' order: by the Q, C, K and context that issued them. -/
def State.askedBefore (s : State) (k : Nat) (y : SendOp) (d : Nat) : Bool :=
  s.ctxs.any fun (p : Nat × Ctx) => decide (p.1 ≠ k) &&
    match p.2.sends with
    | x :: _ => decide (x.asked ≠ 0) && (decide (x.asked < y.asked) || (decide (x.asked = y.asked) && decide (x.src < y.src))) &&
        x.dests.elem d && !x.reserved.elem d
    | [] => false

/-- Reservations for the queues that have not granted one yet. -/
def State.reserveAll (s : State) : List Nat → State × List Nat
  | [] => (s, [])
  | d :: rest =>
    match (s.ctx (qnKey d)).reserveQ (qnQueue d) with
    | some c =>
      let r := (s.setCtx (qnKey d) c).reserveAll rest
      (r.1, d :: r.2)
    | none => s.reserveAll rest

/-- The head of a context's send queue, once released, asks every destination for a reservation, each queue grants in the order
in which requests reached it, and the send departs when all have granted one (R201). One that names no queue leaves at once. -/
def execSendReservation (k : Nat) (s : State) : Out :=
  match (s.ctx k).sends with
  | [] => .next s
  | x :: _ =>
    if !x.released then .next s
    else
      let x := if x.asked = 0 then { x with asked := s.now + 1 } else x
      let (s1, got) := s.reserveAll (x.dests.filter fun d => !x.reserved.elem d && !s.askedBefore k x d)
      let x' := { x with reserved := x.reserved ++ got }
      let c1 := s1.ctx k
      if x'.dests.all fun d => x'.reserved.elem d then
        let s2 := s1.setCtx k { c1 with sends := c1.sends.drop 1 }
        .next { s2 with flights := s2.flights ++ x'.dests.map fun d =>
          ⟨s2.now + sendDelay (ctxCore k) (ctxCore (qnKey d)), x'.src, d, x'.data, x'.tag⟩ }
      else .next (s1.setCtx k { c1 with sends := x' :: c1.sends.drop 1 })

/-- Whether arrival `a` comes before arrival `b` at one queue: by cycle, then by the Q, C, K and context that issued the send. -/
def Flight.before (a b : Flight) : Bool :=
  decide (a.due < b.due) || (decide (a.due = b.due) && decide (a.sender < b.sender))

/-- An entry arrives once its cycle has come and no earlier arrival for its queue stands before it. -/
def execSendArrival (i : Nat) (s : State) : Out :=
  match s.flights[i]? with
  | none => .next s
  | some a =>
    if s.now < a.due ∨ (s.flights.any fun b => decide (b.dest = a.dest) && b.before a) then .next s
    else
      let k := qnKey a.dest
      let c := s.ctx k
      let q := c.rq.get RQueue.none (qnQueue a.dest)
      let c := { c with rq := AMap.set c.rq (qnQueue a.dest) { ents := q.ents ++ [⟨a.data, a.tag, false⟩], reserved := q.reserved - 1 } }
      .next { s.setCtx k c with flights := s.flights.eraseIdx i }

/-! ## Receives (R28, R203) -/

/-- The head of queue `j` as word `n` numbers it: it waits until the entry has arrived, and an entry that its storage
cannot correct traps (R350). -/
def Ctx.head (c : Ctx) (j n : Nat) : Eff QEnt :=
  match (c.rq.get RQueue.none j).ents[c.popped j n]? with
  | none => .wait
  | some e => if e.bad then .trap 0x15 (eccVal 2 j) else .ok e

def execRecv (vd : VReg) (qj : BitVec 3) (s : State) : Out :=
  onCtx s fun f c => (c.head qj.toNat f.ent.word).bind fun e =>
    .ok ((c.putV f.ent.id vd e.data).putVt f.ent.id vd e.tag)

/-- The elements of an entry, widened exactly. -/
def QEnt.elems (e : QEnt) : List XV :=
  if e.tag = tAQ8 then segElems tAQ8 [] ((vBytes e.data).take 144)
  else (vElems (elemBits e.tag) e.data).map (decElem e.tag)

/-- One element of `recv.add`: V[i] + x[i], rounded. -/
def recvAddElem (env : FpEnv) (v : Nat) (x : XV) (r : Nat) : Nat × Flags :=
  let (y, nv) := XV.add (decide (env.rm = 3)) (dec32 env.ftz (BitVec.ofNat 32 v)) (flushXV env.ftz x)
  withNV nv (ElemFmt.f32.rnd env r y)

/-- One element of `recv.max`: −0 below +0, a NaN canonical. -/
def recvMaxElem (env : FpEnv) (v : Nat) (x : XV) : Nat × Flags :=
  let a := dec32 env.ftz (BitVec.ofNat 32 v)
  let b := flushXV env.ftz x
  if a.isNan || b.isNan then (fmt32.nanBits, flagIf (a.isSig || b.isSig) fNV) else (ElemFmt.f32.exact (a.maxv b), 0#8)

/-- `recv.add` and `recv.max`: the checks that depend on the entry are made here, entry tag first, then vd, then vd + 1. -/
def recvOp (s : State) (vd : VReg) (qj : BitVec 3) (add : Bool) : Out :=
  onCtx s fun f c =>
    let n := f.ent.word
    (c.head qj.toNat n).bind fun e =>
      trapIf (!(decide (e.tag = tF32) || decide (e.tag = tBF16) || decide (e.tag = tF16) || decide (e.tag = tAQ8))) 0x03
          (fmtVal 1 e.tag.toNat qj.toNat 7) <|
        let wide := decide (e.tag ≠ tF32)
        trapIf (wide && decide (vd.toNat % 2 = 1)) 0x03 (fmtVal 0xF e.tag.toNat vd.toNat 7) <|
          (if wide then c.need n 7 (vd + 1) tF32 else .ok ()).bind fun _ =>
          (c.rdV n vd).bind fun lo => (if wide then c.rdV n (vd + 1) else .ok 0#2048).bind fun hi =>
          (c.rdEnv n).bind fun env =>
            let st := add && env.stoch
            (c.drawsFrom f st).bind fun l =>
              let vs := (vElems 32 lo) ++ (if wide then vElems 32 hi else [])
              let el : Nat × XV → Elem := fun p =>
                ⟨true, 0, fun r => if add then recvAddElem env p.1 p.2 r else recvMaxElem env p.1 p.2⟩
              let r := runElems st ((vs.zip e.elems).map el) l
              let c1 := c.putV f.ent.id vd (ofElems 32 (r.vals.take 64))
              let c2 :=
                if wide then (c1.putV f.ent.id (vd + 1) (ofElems 32 (r.vals.drop 64))).putVt f.ent.id (vd + 1) tF32
                else if vd.toNat % 2 = 0 then c1.unputV f.ent.id (vd + 1) else c1
              .ok (c2.flagged f r.flags r.steps)

def execRecvAdd (vd : VReg) (qj : BitVec 3) (s : State) : Out := recvOp s vd qj true
def execRecvMax (vd : VReg) (qj : BitVec 3) (s : State) : Out := recvOp s vd qj false

/-! ## Collective records (R325, R326) -/

/-- Level `l` of a record: N, SS, DS and PS. -/
def collLvl (bs : List Byte) (l : Nat) : Nat × Int × Int × Int :=
  let o := 64 + 16 * l
  (rfld bs o 4, signed 32 (rfld bs (o + 4) 4), signed 32 (rfld bs (o + 8) 4), signed 32 (rfld bs (o + 12) 4))

def Coll.parse (bs : List Byte) : Coll :=
  let k := rfld bs 2 1
  let cst := bitAt k 4
  let lv := (List.range (min (rfld bs 4 1) 4)).map (collLvl bs)
  { kind := bits k 0 2, mc := bitAt k 2, strm := bitAt k 3, cst := cst, mode := rfld bs 3 1, lvls := lv,
    sstr := rfld bs 5 1 % 16, mcg := rfld bs 6 2, blk := rfld bs 8 4, slot := rfld bs 12 2, nslot := rfld bs 14 2,
    src := rfld bs 16 4, pb := rfld bs 20 4, pm := rfld bs 24 4, cid := bits (rfld bs 28 4) 0 24, dva := rfld bs 32 8,
    pstr := signed 64 (rfld bs 40 8), sva := rfld bs 48 8, barV := bitAt (rfld bs 56 8) 63,
    bar := bits (rfld bs 56 8) 0 30, ver := rfld bs 48 4, midx := rfld bs 52 2, mcnt := rfld bs 54 2, next := 0,
    total := lv.foldl (fun a l => a * l.1) 1, inflight := 0, count := 0, aborted := false, held := false,
    published := false }

/-- The indices of iteration `t`, level 0 outermost (R327). -/
def iterIdx (lv : List (Nat × Int × Int × Int)) (t : Nat) : List Nat :=
  match lv with
  | [] => []
  | _ :: rest =>
    let inner := rest.foldl (fun a l => a * l.1) 1
    t / inner :: iterIdx rest (t % inner)

/-- Sum over the levels of index times one of the three steps. -/
def Coll.dot (r : Coll) (t : Nat) (g : Nat × Int × Int × Int → Int) : Int :=
  ((r.lvls.zip (iterIdx r.lvls t)).map fun p => (p.2 : Int) * g p.1).foldl (· + ·) 0

/-- The peer, the offset, and where the destination lies from DVA (R327). -/
def Coll.peer (r : Coll) (t : Nat) : Int := (r.pb + r.dot t (·.2.2.2)) % (r.pm : Int)
def Coll.off (r : Coll) (t : Nat) : Int := r.dot t (·.2.2.1)
def Coll.dstOff (r : Coll) (t : Nat) : Int := if r.mc then r.off t else r.peer t * r.pstr + r.off t

/-- Some line of a constellation write has a member index of MCNT or more. -/
def Coll.memberOver (r : Coll) : Bool :=
  (List.range r.total).any fun t =>
    let d := r.dstOff t / 128
    decide ((r.midx : Int) + d < 0) || decide ((r.mcnt : Int) < r.midx + d + (r.blk / 128 : Nat))

/-- The byte offsets of the fields that the checks of R326 charge. An empty box, one with a level of no index, has no source bytes. -/
def Ctx.collFaults (c : Ctx) (bs : List Byte) : List Nat :=
  let r := Coll.parse bs
  let k := rfld bs 2 1
  let red := decide (r.kind = 1)
  let nl := rfld bs 4 1
  let chk : Bool → Nat → List Nat := fun b o => if b then [o] else []
  let order := bits r.mode 2 2
  let lvls := (List.range 4).map fun l => (l, collLvl bs l)
  let lo := r.lvls.foldl (fun a l => a + min 0 (((l.1 : Int) - 1) * l.2.1)) (r.src : Int)
  let hi := r.lvls.foldl (fun a l => a + max 0 (((l.1 : Int) - 1) * l.2.1)) (r.src : Int)
  chk (decide (rfld bs 0 2 ≠ 0x0100)) 0 ++
  chk (decide (2 ≤ r.kind) || decide (32 ≤ k) || ((r.mc || r.cst) && red) || (r.mc && (r.cst || r.strm)) ||
    (r.strm && r.cst)) 2 ++
  chk (if red then decide (bits r.mode 0 2 = 3) || decide (order = 3) || decide (16 ≤ r.mode) else decide (r.mode ≠ 0)) 3 ++
  chk (decide (nl < 1) || decide (4 < nl)) 4 ++
  chk (if r.strm then decide (16 ≤ rfld bs 5 1) || (c.ops.any fun o => o.coll.any fun x => x.strm && decide (x.sstr = r.sstr))
    else decide (rfld bs 5 1 ≠ 0)) 5 ++
  chk (!r.mc && decide (r.mcg ≠ 0)) 6 ++
  chk (if r.strm then decide (r.blk ≠ 528)
    else decide (r.blk < 16) || decide (65536 < r.blk) || decide (r.blk % 16 ≠ 0)) 8 ++
  chk (red && decide (r.blk % 4 ≠ 0)) 8 ++ chk (r.cst && decide (r.blk % 128 ≠ 0)) 8 ++
  chk (if red then decide (r.nslot ≤ r.slot) else decide (r.slot ≠ 0)) 12 ++
  chk (if red then decide (r.nslot < 1) || decide (4096 < r.nslot) ||
      (decide (order = 0) && decide (r.nslot ≠ 2 ^ r.nslot.log2)) else decide (r.nslot ≠ 0)) 14 ++
  chk (r.strm && decide (r.src ≠ 0)) 16 ++
  chk (!r.strm && r.lvls.all (fun l => decide (1 ≤ l.1)) && c.outside lo (hi - lo + r.blk).toNat) 16 ++
  chk (decide (r.pm < 1) || decide (65536 < r.pm)) 24 ++
  chk (if r.cst then decide (rfld bs 31 1 ≠ 0) else decide (rfld bs 28 4 ≠ 0)) 28 ++
  chk (r.cst && decide (r.dva % 128 ≠ 0)) 32 ++
  chk (r.mc && decide (r.pstr ≠ 0)) 40 ++ chk (r.cst && decide (r.pstr % 128 ≠ 0)) 40 ++
  chk (if red then decide (r.sva % 128 ≠ 0) else !r.cst && decide (r.sva ≠ 0)) 48 ++
  chk (r.cst && decide (1 ≤ r.pm) && r.memberOver) 48 ++
  chk (decide (bits (rfld bs 56 8) 30 33 ≠ 0)) 56 ++
  chk (r.barV && c.outside (barAddr r.bar) 16) 56 ++
  (lvls.map fun p =>
    let l := p.2
    let o := 64 + 16 * p.1
    if nl ≤ p.1 then chk (decide (l.1 ≠ 0)) o ++ chk (decide (l.2.1 ≠ 0)) (o + 4) ++ chk (decide (l.2.2.1 ≠ 0)) (o + 8) ++
      chk (decide (l.2.2.2 ≠ 0)) (o + 12)
    else chk (decide (l.1 < 1) || decide (65536 < l.1)) o ++ chk (r.strm && decide (l.2.1 ≠ 0)) (o + 4) ++
      chk (red && decide (r.blk ≠ 0) && decide (l.2.2.1 % (r.blk : Int) ≠ 0)) (o + 8) ++
      chk (r.cst && decide (l.2.2.1 % 128 ≠ 0)) (o + 8)).flatten ++
  chk (decide (2 ^ 32 ≤ r.total)) 64

/-- The collective-record trap for the lowest of the fields charged. -/
def collTrap {α : Type} (a : W64) (faults : List Nat) (k : Eff α) : Eff α :=
  match faults with
  | [] => k
  | o :: rest => .trap 0x12 (recTrapVal a.toNat (rest.foldl min o))

/-- `coll.start` (R208): the record's alignment, the membership, then the record; gated. A third collective beside two that are
outstanding, released or not, waits in the slot. DEDUCED (log 108). -/
def execCollStart (sd sa : SReg) (gs : BitVec 2) (s : State) : Out :=
  issueOp s fun f c => (c.rdS f.ent.word sa).bind fun a =>
    trapIf (decide (a.toNat % 64 ≠ 0)) 0x05 a <|
      trapIf (!((c.gs.get 0#64 gs.toNat).getLsbD 63)) 0x12 (recTrapVal a.toNat 0xFF) <|
        trapIf (c.outside a.toNat 128) 0x12 (recTrapVal a.toNat 0) <|
          waitUnless (!c.storesPending f.ent.word [(a.toNat, 128)]) <| s.eccCheck f.ctx a.toNat 128 <|
            let bs := s.spRead f.ctx f.ent.word a.toNat 128
            collTrap a (c.collFaults bs) <|
              let r := Coll.parse bs
              trapIf (r.barV && decide (r.bar % 16 ≠ 0)) 0x05 (BitVec.ofNat 64 r.bar) <|
                waitUnless (decide ((c.ops.filter fun o => decide (o.kind = .coll)).length < 2)) <|
                  addGated s f c { Op.of f .coll sd with coll := some r, b := bits (c.gs.get 0#64 gs.toNat).toNat 0 40 }

/-- `coll.abort` (R209): gated; it aims at the collective whose token the register is. -/
def execCollAbort (sd : SReg) (s : State) : Out :=
  issueOp s fun f c =>
    let aim := match c.s.winner c.closers sd.toNat f.ent.word with
      | some e => if e.async && e.val.isNone then e.id else 0
      | none => 0
    addGated s f c { Op.of f .collAbort 0#5 with b := aim }

end Sys2Proof.Machine
end

