-- ==== Sys2Proof/Machine/Fabric.lean ====
section
/-!
DEFINITION. The fabric as one device sees it: the polarity graph (R312 to R315), routing and lanes (R250, R251, R316, R317),
requests and their replies (R320 to R322), and writing device memory (R243, R257, R120).
-/

namespace Sys2Proof.Machine

/-! ## GF(32) and the polarity graph (R312 to R315) -/

/-- Carry-less product of `a` and the low `n` bits of `b`. -/
def clMul (a b : Nat) : Nat → Nat
  | 0 => 0
  | n + 1 => Nat.xor (clMul a b n) (if bitAt b n then a * 2 ^ n else 0)

/-- Reduction modulo x^5 + x^2 + 1 from bit `n` + 5 down. -/
def gfReduce (x : Nat) : Nat → Nat
  | 0 => if bitAt x 5 then Nat.xor x 37 else x
  | n + 1 => gfReduce (if bitAt x (n + 6) then Nat.xor x (37 * 2 ^ (n + 1)) else x) n

/-- The product of GF(32). -/
def gfMul (a b : Nat) : Nat := gfReduce (clMul a b 5) 3

/-- The inverse of a nonzero element: its 30th power. -/
def gfInv (a : Nat) : Nat := (List.range 29).foldl (fun acc _ => gfMul acc a) a

abbrev Point := Nat × Nat × Nat

/-- The point of a vertex (R312). -/
def pointOf (v : Nat) : Point :=
  if v < 1024 then (1, v / 32, v % 32) else if v < 1056 then (0, 1, v - 1024) else (0, 0, 1)

/-- The vertex of a point, once it is normalised. -/
def vertexOf (p : Point) : Nat :=
  let (a, b, c) := p
  if a ≠ 0 then let i := gfInv a; 32 * gfMul b i + gfMul c i
  else if b ≠ 0 then 1024 + gfMul c (gfInv b)
  else 1056

def dotPt (p q : Point) : Nat := Nat.xor (Nat.xor (gfMul p.1 q.1) (gfMul p.2.1 q.2.1)) (gfMul p.2.2 q.2.2)

/-- Whether two vertices are on each other's line. -/
def orthogonal (x y : Nat) : Bool := decide (dotPt (pointOf x) (pointOf y) = 0)

/-- Adjacent vertices (R312). -/
def adjacent (x y : Nat) : Bool := decide (x ≠ y) && orthogonal x y

/-- The points of a vertex's line, by rising number: port p leads to the p-th (R314). -/
def lineOf (x : Nat) : List Nat := (List.range 1057).filter (orthogonal x)

/-- The vertex that port `p` of `x` connects to; an absolute vertex's own position is idle. -/
def portPeer (x p : Nat) : Option Nat :=
  match (lineOf x)[p]? with
  | some y => if y = x then none else some y
  | none => none

/-- The port of `x` towards its neighbour `y`. -/
def portTo (x y : Nat) : Nat := (lineOf x).idxOf y

/-- The common neighbour of two vertices that are not adjacent (R315). -/
def midpoint (x y : Nat) : Nat :=
  let (a0, a1, a2) := pointOf x
  let (b0, b1, b2) := pointOf y
  vertexOf (Nat.xor (gfMul a1 b2) (gfMul a2 b1), Nat.xor (gfMul a2 b0) (gfMul a0 b2), Nat.xor (gfMul a0 b1) (gfMul a1 b0))

/-- The next vertex of the minimal path. -/
def minHop (x y : Nat) : Nat := if adjacent x y then y else midpoint x y

/-- Distance of R309: 0 to the device itself, 1 to a neighbour, 2 otherwise. -/
def dist (x y : Nat) : Nat := if x = y then 0 else if adjacent x y then 1 else 2

/-! ## Lanes and ranks (R250, R252) -/

def laneOf (a : Nat) : Nat := Nat.xor (Nat.xor (bits a 7 3) (bits a 10 3)) (bits a 13 3)

/-- Rank of a local source (R252): a port's tile-walk engine just after that port's link, then copy engines by Q, C and K,
then the host interface. -/
def engRank (eng : Nat) : Nat :=
  if eng < 256 then 100 + 16 * (eng / 8) + eng % 8
  else if eng ≤ 288 then 2 * (eng - 256) + 1
  else if eng = 289 then 100000
  else 100 + 16 * (eng - 290) + 8

/-- Rank of what a port's link brings. -/
def portRank (p : Nat) : Nat := 2 * p

/-- Engine number of the host interface, and of a port's tile-walk engine (R320). -/
def engHost : Nat := 289
def engPort (p : Nat) : Nat := 256 + p

/-! ## Operations of packets (R321) -/

def opRD : Nat := 0x01
def opWR : Nat := 0x02
def opWRM : Nat := 0x03
def opWRC : Nat := 0x04
def opRDC : Nat := 0x05
def opAT : Nat := 0x06
def opANC : Nat := 0x07
def opPUB : Nat := 0x08
def opBAR : Nat := 0x09
def opRED : Nat := 0x0A
def opQRPT : Nat := 0x0B
def opREPLY : Nat := 0x20
def opMGMT : Nat := 0x3F

/-- Whether a packet is a multicast one (R320, R323). -/
def isMulticast (p : Pkt) : Bool := decide (p.dst = 0x7FF)

/-- Field of `n` bytes of ARGS, counted from byte 21 of the header. -/
def pktArg (p : Pkt) (off n : Nat) : Nat := rfld p.args off n

/-- LEN of a packet: its payload in units of 16 bytes. -/
def pktLen (p : Pkt) : Nat := (p.data.length + 15) / 16

/-- Bytes in whole units of 16, with zeros after them (R320). -/
def padUnits (bs : List Byte) : List Byte := bs ++ List.replicate ((16 - bs.length % 16) % 16) 0#8

/-- The 32 bytes of a packet's header, as it stands on a link (R320). -/
def pktHeader (p : Pkt) : List Byte :=
  leBytes 2 p.dst ++ leBytes 2 p.src ++ leBytes 2 (p.eng + p.hops * 2 ^ 9 + b2n p.fwd * 2 ^ 12) ++
    leBytes 1 (p.vf + p.lane * 2 ^ 4 + b2n p.nm * 2 ^ 7) ++ leBytes 1 p.op ++ leBytes 2 (if p.nm then p.via else 0) ++ leBytes 2 p.mcg ++
    leBytes 2 p.tag ++ leBytes 1 (pktLen p) ++ leBytes 1 (if p.op = opREPLY then p.code else 0) ++ leBytes 5 p.addr ++
    (List.range 11).map fun i => p.args.getD i 0#8

/-- The largest payload of a packet, in bytes (R320). -/
def maxPayload : Nat := 512

/-! ## Routing at the source (R316, R317) -/

/-- Egress port of the minimal path: the table's, where firmware has written one. -/
def State.minPort (s : State) (dst : Nat) : Nat :=
  match s.routes.find? dst with
  | some r => r.1
  | none => portTo s.vertex (minHop s.vertex dst)

def LanePath.minimal : LanePath := ⟨none, 0, 0, 0, none, 0⟩

/-- Key of one destination and lane. -/
def laneKey (dst lane : Nat) : Nat := 8 * dst + lane

def State.lanePath (s : State) (dst lane : Nat) : LanePath := s.paths.get LanePath.minimal (laneKey dst lane)

/-- The path of a lane for its next packet: a change that waits takes effect once nothing of the lane is in flight (R251, R317).
A request is in flight until its reply. Whether a reply of this device has reached its destination is not known here: a free
choice, made when a change waits for it. DEDUCED (log 109). -/
def State.laneNow (s : State) (dst lane : Nat) : State × LanePath :=
  let x := s.lanePath dst lane
  match x.pend with
  | none => (s, x)
  | some v =>
    if x.inflight ≠ 0 then (s, x)
    else if x.replies = 0 then (s, { x with via := v, pend := none, since := s.now })
    else if Config.freeNat s.fresh % 2 = 1 then
      ({ s with fresh := s.fresh + 1 }, { x with via := v, pend := none, since := s.now, replies := 0 })
    else ({ s with fresh := s.fresh + 1 }, x)

/-- A packet leaves this device, by the path its lane has. -/
def State.sendOut (s : State) (p : Pkt) : State :=
  let (s, x) := s.laneNow p.dst p.lane
  let p := match x.via with | some m => { p with nm := true, via := m } | none => p
  let port := match x.via with | some m => s.minPort m | none => s.minPort p.dst
  let reply := decide (p.op = opREPLY)
  { s with egress := s.egress ++ [(port, p)],
           paths := s.paths.set (laneKey p.dst p.lane)
             { x with inflight := x.inflight + b2n (!reply), replies := x.replies + b2n reply } }

/-- A packet for this device stands in its inbox. -/
def State.deliver (s : State) (p : Pkt) (rank : Nat) : State := { s with inbox := s.inbox ++ [⟨p, s.now, rank, 0, 0, 0⟩] }

/-- The reply of a request (R321). -/
def replyOf (p : Pkt) (me code : Nat) (args data : List Byte) : Pkt :=
  { dst := p.src, src := me, eng := p.eng, hops := 0, fwd := false, vf := p.vf, lane := p.lane, nm := false, op := opREPLY,
    via := 0, mcg := 0, tag := p.tag, code := code, addr := p.addr, args := args, data := padUnits data }

/-- A reply leaves for the source of its request. -/
def State.sendReply (s : State) (r : Pkt) : State := if r.dst = s.vertex then s.deliver r 0 else s.sendOut r

/-- Whether two requests are of one source and lane, so that their replies keep their order (R250, R298). -/
def sameStream (a b : Pkt) : Bool := decide (a.src = b.src) && decide (a.eng = b.eng) && decide (a.lane = b.lane)

/-- A request is answered. Where one of its lane that this device has sent on is still to be answered, the reply waits for
that. -/
def State.answer (s : State) (p : Pkt) (code : Nat) (args data : List Byte) : State :=
  let r := replyOf p s.vertex code args data
  if s.backs.any fun b => sameStream b.pkt p then { s with backs := s.backs ++ [⟨p, some r⟩] } else s.sendReply r

/-- Replies that no earlier one of their lane holds back leave, in order. -/
def State.flushBacks (s : State) : Nat → State
  | 0 => s
  | fuel + 1 =>
    match (List.range s.backs.length).find? fun i => (s.backs[i]?).any fun b =>
        b.reply.isSome && !((s.backs.take i).any fun x => sameStream x.pkt b.pkt) with
    | none => s
    | some i =>
      match (s.backs[i]?).bind (·.reply) with
      | some r => ({ s with backs := s.backs.eraseIdx i }.sendReply r).flushBacks fuel
      | none => s

/-- A request that this device has sent on keeps its place among the replies of its lane. -/
def State.holdBack (s : State) (p : Pkt) : State := { s with backs := s.backs ++ [⟨p, none⟩] }

/-- The reply of a request that this device has sent on. -/
def State.answerBack (s : State) (p : Pkt) (code : Nat) (args data : List Byte) : State :=
  let r := replyOf p s.vertex code args data
  let mine : Back → Bool := fun b => sameStream b.pkt p && decide (b.pkt.tag = p.tag) && b.reply.isNone
  { s with backs := s.backs.map fun b => if mine b then { b with reply := some r } else b }.flushBacks s.backs.length

/-- Code of a request whose outcome is not known, by its operation (R322). -/
def lostCode (op : Nat) : Nat := if op = opAT ∨ op = opPUB then 0x05 else 0x04

/-- Whether a device is live (R352): this one, or one that the roster lists. -/
def State.live (s : State) (v : Nat) : Bool := decide (v = s.vertex) || s.roster.elem v

/-- The vertices of a path from this device after its own: the minimal one, or the one through an intermediate (R316). -/
def State.hops (s : State) (dst : Nat) : Option Nat → List Nat
  | none => [minHop s.vertex dst, dst]
  | some m => [minHop s.vertex m, m, minHop m dst, dst]

/-- Whether a path may be used: every device of it is live and not this one, its intermediate is not its end, and its first port
is not down (R352, R356). -/
def State.pathUp (s : State) (dst : Nat) (via : Option Nat) : Bool :=
  let h := s.hops dst via
  h.all (fun v => s.roster.elem v && decide (v ≠ s.vertex)) && decide (via ≠ some dst) &&
    !((s.ports.find? (portTo s.vertex (h.headD dst))).any fun p => !p.up)

/-- The outstanding requests of one engine. -/
def State.reqsOf (s : State) (eng : Nat) : List Req := s.reqs.filter fun q => decide (q.eng = eng)

/-- Whether an engine has a tag left (R320, R322): a request of it that finds none waits. DEDUCED (log 132). -/
def State.tagLeft (s : State) (eng : Nat) : Bool := decide (s.reqs.length < 65536) || decide ((s.reqsOf eng).length < 65536)

/-- The first tag from `t` on that none of the requests has. -/
def freeTag (qs : List Req) (t : Nat) : Nat → Nat
  | 0 => t % 65536
  | fuel + 1 => if qs.any fun q => decide (q.tag = t % 65536) then freeTag qs (t + 1) fuel else t % 65536

/-- A tag for a request of an engine, that no outstanding one of it has. -/
def State.newTag (s : State) (eng : Nat) : Nat := freeTag (s.reqsOf eng) s.nextTag s.reqs.length

/-- A request stands among the outstanding ones, under its packet's tag. -/
def State.await (s : State) (owner : ReqOwner) (p : Pkt) (dst : Nat) : State :=
  { s with nextTag := p.tag + 1,
           reqs := s.reqs ++ [(⟨p.tag, owner, dst, p.op, p.vf, p.addr, s.now, none, p.eng, p.lane⟩ : Req)] }

/-- Core that ENG names; a spare in service answers to the number of the core it replaces. -/
def State.engCore (s : State) (eng : Nat) : Nat :=
  if eng < 256 then s.coreFor (eng / 8) (eng % 8) else 16 * (eng - 290) + 8

/-- Rank of an engine of this device (R252): a copy engine's by its cluster and the K of its core, so that a spare ranks as 9. -/
def State.rankOf (s : State) (eng : Nat) : Nat :=
  if eng < 256 then 100 + 16 * (eng / 8) + coreK (s.engCore eng) else engRank eng

/-- A request is issued under a tag of its own. One for a device that is not live is never sent, and completes at once (R352). -/
def State.emit (s : State) (owner : ReqOwner) (dst eng vf op addr : Nat) (args data : List Byte) : State :=
  let p : Pkt := { dst := dst, src := s.vertex, eng := eng, hops := 0, fwd := false, vf := vf, lane := laneOf addr, nm := false,
                   op := op, via := 0, mcg := 0, tag := s.newTag eng, code := 0, addr := addr, args := args, data := padUnits data }
  let s := s.await owner p dst
  if dst = s.vertex then s.deliver p (s.rankOf eng)
  else if s.live dst then s.sendOut p
  else s.deliver (replyOf p dst 0x04 [] []) 0

/-- The last request issued was translated from a virtual address by a core's TLB. -/
def State.noteVa (s : State) (va : Nat) : State :=
  { s with reqs := match s.reqs.reverse with | q :: rest => (rest.reverse) ++ [{ q with va := some va }] | [] => [] }

/-! ## Device memory (R243) -/

/-- `n` bytes of device memory at `a`. -/
def State.rdMem (s : State) (a n : Nat) : List Byte := memRead s.mem a n
/-- A doubleword of device memory. -/
def State.rdMem8 (s : State) (a : Nat) : Nat := leNat (s.rdMem a 8)

/-- A watch whose line is written will fire (R120). -/
def Ctx.noteWrite (c : Ctx) (lines : List Nat) : Ctx :=
  { c with watch := c.watch.map fun w => if lines.elem w.line then { w with hit := true } else w }

/-- Bytes written to device memory: watches of their lines fire, and what the host holds of them is invalidated (R257). -/
def State.wrMem (s : State) (cells : List (Nat × Byte)) : State :=
  let lines := (cells.map fun p => p.1 / 128).eraseDups
  { s with mem := memSets s.mem cells, ctxs := s.ctxs.map fun p => (p.1, p.2.noteWrite lines),
           hostInv := s.hostInv ++ lines.filter fun l => !s.hostInv.elem l }

/-! ## The barrier unit (R139, R140) -/

/-- Bytes that an engine writes into scratchpad banks. A store still in the write queue for one of them came before. -/
def Core.land (co : Core) (cells : List (Nat × Byte)) : Core :=
  { co with sp := memSets co.sp cells, wq := co.wq.filter fun p => !(cells.any fun q => decide (q.1 = p.addr)) }

structure BarWords where
  arrive : Nat
  pend : Nat
  gen : Nat
  expect : Nat
  deriving DecidableEq, Repr

def Core.bar (co : Core) (a : Nat) : BarWords :=
  let w : Nat → Nat := fun o => leNat ((List.range 4).map fun i => co.byte (a + o + i))
  ⟨w 0, w 4, w 8, w 12⟩

def BarWords.bytes (b : BarWords) : List Byte := leBytes 4 b.arrive ++ leBytes 4 b.pend ++ leBytes 4 b.gen ++ leBytes 4 b.expect

/-- After every step: a generation in which nothing is awaited any more ends. -/
def BarWords.settle (b : BarWords) : BarWords :=
  if b.arrive = 0 ∧ b.pend = 0 then { b with gen := (b.gen + 1) % 2 ^ 32, arrive := b.expect } else b

/-- One step of the unit (R140, R321): 0 initialises, 1 arrives, 2 lands. It answers a code and GEN. -/
def BarWords.apply (b : BarWords) (op n : Nat) : BarWords × Nat × Nat :=
  if op = 0 then
    let m := max n 1 % 2 ^ 32
    (({ b with arrive := m, expect := m, pend := 0 } : BarWords).settle, 0, b.gen)
  else if op = 1 then
    if b.arrive = 0 then (b, 0x0B, b.gen)
    else (({ b with pend := (b.pend + n) % 2 ^ 32, arrive := b.arrive - 1 } : BarWords).settle, 0, b.gen)
  else (({ b with pend := (b.pend + 2 ^ 32 - n % 2 ^ 32) % 2 ^ 32 } : BarWords).settle, 0, b.gen)

/-- The core of this device that a barrier address names; a spare stands for the core it replaces. -/
def State.barHome (s : State) (a : Nat) : Nat := s.coreFor (bits a 25 5) (bits a 22 3)

/-- A context registered at a barrier notes what it waits for: another generation, or no bytes pending (R141). -/
def BarWait.note (x : BarWait) (a : Nat) (b : BarWords) : BarWait :=
  if barAddr x.addr = a ∧ (if x.byGen then b.gen ≠ x.gen else b.pend = 0) then { x with hit := true } else x

/-- The barrier unit of this device applies one step at a barrier address. -/
def State.barStep (s : State) (a op n : Nat) : State × Nat × Nat :=
  let core := s.barHome a
  let co := s.core core
  let r := (co.bar (barAddr a)).apply op n
  let co := co.land (cellsAt (barAddr a) r.1.bytes)
  (s.setCore core { co with waits := co.waits.map fun x => x.note (barAddr a) r.1 }, r.2.1, r.2.2)

/-- A landing of `n` bytes at a barrier, on this device or by a packet to another. -/
def State.landBar (s : State) (eng vf dev a n : Nat) : State :=
  if dev = s.vertex then (s.barStep a 2 n).1
  else s.emit .firmware dev eng vf opBAR (a % 2 ^ 30) ([2#8] ++ leBytes 4 n) []

end Sys2Proof.Machine
end

