-- ==== Sys2Proof/Machine/Xlat.lean ====
section
/-!
DEFINITION. Address translation (R291 to R304), the watch's arming (R120), and shoot-downs (R305 to R308).
-/

namespace Sys2Proof.Machine

/-! ## Page tables (R291 to R295) -/

inductive Acc where
  | rd | wr | at
  deriving DecidableEq, Repr

/-- The outcome of a walk: an entry for the TLB, or a fault's kind (R302). -/
inductive Walk where
  | ok (e : TlbEnt)
  | fault (kind : Nat)
  deriving DecidableEq, Repr

/-- Fields of a page-table entry (R293). -/
def pteV (e : Nat) : Bool := bitAt e 63
def pteLeaf (e : Nat) : Bool := bitAt e 62
def pteMig (e : Nat) : Nat := bits e 60 2
def pteFrame (e : Nat) : Nat := bits e 0 23

/-- Whether an entry of level `l` with V set is malformed (R293, R295, R324). -/
def pteBad (l e : Nat) : Bool :=
  let frame := pteFrame e
  if pteLeaf e then
    decide (l = 1) || decide (bits e 23 9 ≠ 0) || decide (2 ≤ pteMig e) ||
      (decide (l = 2) && (decide (frame % 8192 ≠ 0) || bitAt e 59 || bitAt e 57)) ||
      (bitAt e 57 && (bitAt e 58 || bitAt e 59 || decide (frame % 2 = 1))) ||
      (bitAt e 58 && decide (bits e 43 11 = bits e 32 11)) ||
      (decide (bits e 32 11 = 0x7FF) && (bitAt e 58 || bitAt e 57)) ||
      decide (0x5FFFFF < frame + (if l = 2 then 8191 else 0))
  else decide (l = 3) || decide (bits e 23 39 ≠ 0) || decide (0x5FFFFF < frame)

/-- ASID and root of a function's address space, where it has one (R292). -/
def Func.space (f : Func) : Option (Nat × Nat) :=
  if f.tr.getLsbD 63 then some (bits f.tr.toNat 47 16, bits f.tr.toNat 0 23) else none

/-- A leaf as a TLB holds it. A replicated-local page is at the walking device (R324). -/
def State.leafOf (s : State) (asid va l e : Nat) : TlbEnt :=
  let size := if l = 2 then 8192 else 1
  let home := bits e 32 11
  { asid := asid, page := va / 65536 / size * size, size := size, r := bitAt e 54, w := bitAt e 55, a := bitAt e 56,
    twin := bitAt e 57, rd := bitAt e 58, home := if home = 0x7FF then s.vertex else home, home2 := bits e 43 11,
    frame := pteFrame e }

/-- Whether 32 entries form a consistent 2 MiB group (R294). -/
def groupOk (es : List Nat) : Bool :=
  let f := pteFrame (es.getD 0 0)
  decide (f % 32 = 0) && (List.range es.length).all fun i =>
    let e := es.getD i 0
    pteV e && pteLeaf e && bitAt e 59 && decide (pteFrame e = f + i) && decide (e / 2 ^ 23 = es.getD 0 0 / 2 ^ 23)

/-- Die that holds a physical address (R293). -/
def dieOfPa (pa : Nat) : Nat := pa / 65536 / 0x180000

/-- Whether a line reads as lost: its error cannot be corrected, or it was retired and not yet written whole. -/
def State.badLine (s : State) (line : Nat) : Bool :=
  s.eccBad.elem line || (s.die (dieOfPa (line * 128))).retired.any fun e => decide (e.1 = line) && e.2.2

/-- An entry of a page table as a walk reads it: one whose line cannot be corrected is no valid entry. DESIGN CHOICE (log 133). -/
def State.pteRead (s : State) (a : Nat) : Nat := if s.badLine (a / 128) then 0 else s.rdMem8 a

/-- The entry at `a` of a table of level `l` as a walk takes it: in a group whose entries disagree, any one of them, for the page
that its FRAME then gives (R294). -/
def State.pteAt (s : State) (l a : Nat) : Nat :=
  let es := (List.range 32).map fun i => s.pteRead (a / 256 * 256 + 8 * i)
  if l = 3 ∧ es.any (fun e => pteV e && pteLeaf e && bitAt e 59) ∧ !groupOk es then
    let k := Config.freeEntry s.fresh (a / 8) % 32
    let e := es.getD k 0
    e - pteFrame e + (pteFrame e + a / 8 % 32 + 2 ^ 23 - k) % 2 ^ 23
  else s.pteRead a

/-- The walk below a table at `frame`, from level `l`, with `fuel` levels left. -/
def State.walkFrom (s : State) (asid va : Nat) : Nat → Nat → Nat → Walk
  | 0, _, _ => .fault 6
  | fuel + 1, l, frame =>
    let e := s.pteAt l (frame * 65536 + 8 * bits va (55 - 13 * l) 13)
    if !pteV e then .fault 0
    else if pteBad l e then .fault 6
    else if pteLeaf e then (if pteMig e = 1 then .fault 5 else .ok (s.leafOf asid va l e))
    else s.walkFrom asid va fuel (l + 1) (pteFrame e)

/-- A walk of the three levels for a function (R300). -/
def State.walk (s : State) (vf va : Nat) : Walk :=
  match (s.func vf).space with
  | none => .fault 0
  | some (asid, root) => s.walkFrom asid va 3 1 root

/-- The kind of fault that an access finds at an entry, if any (R302). -/
def TlbEnt.refuse (e : TlbEnt) (a : Acc) : Option Nat :=
  match a with
  | .rd => if e.r then none else some 1
  | .wr => if !e.w then some 2 else if e.rd then some 4 else none
  | .at => if !e.a then some 3 else if e.rd then some 4 else none

/-- Home and physical address of a virtual address under an entry; a read of a read-duplicate page goes to the nearer
home (R309). -/
def State.place (s : State) (e : TlbEnt) (va : Nat) : Nat × Nat :=
  let home := if e.rd && decide (dist s.vertex e.home2 < dist s.vertex e.home) then e.home2 else e.home
  (home, e.frame * 65536 + va % (e.size * 65536))

/-- Whether an entry maps a virtual address for a function. -/
def TlbEnt.maps (e : TlbEnt) (asid va : Nat) : Bool :=
  decide (e.asid = asid) && decide (e.page ≤ va / 65536) && decide (va / 65536 < e.page + e.size)

/-- Translation of one address outside any core, by a walk alone: the code it gives its user is 0x01 for a missing
mapping and 0x02 for a refusal (R228, R280). -/
def State.xlate (s : State) (vf va : Nat) (a : Acc) : Except Nat (Nat × Nat) :=
  match s.walk vf va with
  | .fault _ => .error 0x01
  | .ok e => match e.refuse a with
    | some _ => .error 0x02
    | none => .ok (s.place e va)

/-! ## Memory of a die that sleeps (R364) -/

/-- Where a walk reads entries. -/
def State.walkFromPas (s : State) (va : Nat) : Nat → Nat → Nat → List Nat
  | 0, _, _ => []
  | fuel + 1, l, frame =>
    let a := frame * 65536 + 8 * bits va (55 - 13 * l) 13
    let e := s.pteAt l a
    a :: if pteV e && !pteBad l e && !pteLeaf e then s.walkFromPas va fuel (l + 1) (pteFrame e) else []

def State.walkPas (s : State) (vf va : Nat) : List Nat :=
  match (s.func vf).space with
  | none => []
  | some (_, root) => s.walkFromPas va 3 1 root

/-- Where an access of `n` bytes at a virtual address reaches this device's memory: the entries of its walks, and itself. -/
def State.vaPas (s : State) (vf va n : Nat) : List Nat :=
  ((rowPieces 0 va 0 n).map fun p => s.walkPas vf p.va ++ match s.xlate vf p.va .rd with
    | .ok (home, pa) => if home = s.vertex then [pa] else []
    | .error _ => []).flatten

/-- Whether a die's memory is awake. -/
def State.dieAwake (s : State) (d : Nat) : Bool := (List.range 8).all fun i => decide ((s.cluster (8 * d + i)).power = .run)

/-- An engine of this device reaches memory at these addresses: it waits for the dies among them that sleep, which its access wakes. -/
def whenAwake (s : State) (pas : List Nat) (k : State → Out) : Out :=
  let ds := ((pas.map dieOfPa).filter fun d => !s.dieAwake d).eraseDups
  if ds.isEmpty then k s else .next { s with asks := s.asks ++ ds.filter fun d => !s.asks.elem d }

/-! ## Which accesses a piece makes -/

/-- Rows of the pieces that hold replica-table entries, and of those that hold descriptors (Expert.lean). -/
def rowEntry : Nat := 2 ^ 20
def rowDesc : Nat := 2 ^ 21

def pieceAccs (k : OpKind) (p : Piece) : List Acc :=
  match k with
  | .cpOut | .cpCst | .accSt | .gst => [.wr]
  | .at _ _ => [.at]
  | .xdisp _ | .resolve _ => if p.row < rowEntry then [.rd, .wr] else [.rd]
  | _ => [.rd]

/-! ## Passing translation (R301) -/

/-- Whether an operation may still learn addresses: entries of the replica table not yet read, or headers of `gred`. -/
def Op.mayGrow (o : Op) : Bool :=
  let open_ : Piece → Bool := fun p => decide (p.st = .fresh ∨ p.st = .ready ∨ p.st = .sent)
  match o.kind with
  | .xdisp _ | .resolve _ => o.pieces.any fun p => decide (rowEntry ≤ p.row) && decide (p.row < rowDesc) && open_ p
  | .gred => decide (o.phase = 0)
  | _ => false

def Op.settlePassed (o : Op) : Op :=
  { o with passed := o.passed || (!(o.pieces.any fun p => decide (p.st = .fresh)) && !o.mayGrow) }

/-! ## Faults (R302, R303, R213) -/

/-- An operation is given up (R303): its channel is free, and its result register receives no write. -/
def Ctx.abandon (c : Ctx) (o : Op) : Ctx :=
  { c.dropOp o.id with
    s := { c.s with log := c.s.log.filter fun e => decide (e.id ≠ o.id) || e.val.isSome },
    chans := if (c.findOp o.id).isNone then c.chans
      else match o.ch with | some j => c.chans.set j { c.chans.get Chan.reset j with busy := false } | none => c.chans }

/-- A translation fault: the operation's channel and token are given up, the context is rolled back to its latest
committed mark, and the trap is taken with the issue word as its pc. -/
def State.xlateFault (s : State) (k : Nat) (o : Op) (kind va : Nat) : State :=
  let s := { s with focus := none }
  let s := s.setCtx k { s.ctx k with run := .ready }
  let s := s.rollbackCtx k
  let s := s.setCtx k ((s.ctx k).abandon o)
  s.enterTrap k 0x14 o.pc (BitVec.ofNat 64 (kind * 2 ^ 58 + va % 2 ^ 55))

/-- The row of a `cp.pf` that met a fault is not written. The first faulting row is the lowest, since rows move in ascending
order (R132, R213), and within it the fault that came first. DEDUCED (log 111). -/
def Op.deferFault (o : Op) (row code : Nat) : Op :=
  { o with defer := true,
           fault := match o.fault with | some (c, r) => if row < r then some (code, row) else some (c, r) | none => some (code, row),
           pieces := o.pieces.map fun p => if p.row = row ∧ p.st ≠ .landed then { p with st := .failed } else p }

/-! ## Watches (R120) -/

/-- The check of the frame table for an access of this device's memory (R297): the code of a refusal, or where a
forwarding entry leads. -/
inductive FrameRes where
  | ok
  | code (n : Nat)
  | peer (dev frame : Nat)
  | pool (page : Nat)
  deriving DecidableEq, Repr

/-- What an access does to a frame: a member write is one of R145. -/
inductive FAcc where
  | read | write | atomic | member
  deriving DecidableEq, Repr

def State.frameEnt (s : State) (pa : Nat) : Nat := (AMap.get 0#64 s.frames (pa / 65536)).toNat

/-- Firmware writes an entry of the frame table, in the device's memory at the base where it has placed the table (R296). -/
def State.setFrame (s : State) (frame : Nat) (e : W64) : State :=
  { s with frames := AMap.set s.frames frame e, mem := memPut s.mem (s.conf.frameBase + 8 * frame) (leBytes 8 e.toNat) }

def State.frameCheck (s : State) (pa vf : Nat) (a : FAcc) : FrameRes :=
  let e := s.frameEnt pa
  let st := bits e 61 3
  if st = 0 ∨ 3 < st then .code 0x01
  else if st = 2 then (if s.svc = 0 then .code 0x01 else .peer (bits e 42 11) (bits e 0 23))
  else if st = 3 then .pool (bits e 0 42)
  else if bits e 57 4 ≠ vf then .code 0x02
  else
    let ok := match a with | .read => bitAt e 54 | .write | .member => bitAt e 55 | .atomic => bitAt e 56
    if !ok then .code 0x02
    else match a, bitAt e 53 with
      | .member, false => .code 0x0A
      | .write, true | .atomic, true => .code 0x0A
      | _, _ => .ok

/-- The watch of a context is given up with its token. -/
def Ctx.cancelWatch (c : Ctx) (v : Nat) : Ctx :=
  match c.watch with
  | some w => { (c.putTok w.id (BitVec.ofNat 64 v)).dropOp w.id with watch := none }
  | none => c

/-- A watch whose address has been translated: armed, or answered at once. A line that a forwarding entry leads to another
device or to the pool counts as homed there. The timeout counts from the cycle of arming. DESIGN CHOICE (log 99). -/
def State.armWatch (s : State) (k : Nat) (o : Op) (home pa : Nat) : State :=
  let c := s.ctx k
  let done : Nat → State := fun v => s.setCtx k ((c.putTok o.id (BitVec.ofNat 64 v)).dropOp o.id)
  if home ≠ s.vertex then done 4
  else match s.frameCheck pa c.stat.vf .read with
    | .code n => done (0x100 + n)
    | .peer _ _ | .pool _ => done 4
    | .ok =>
      let c := c.cancelWatch 3
      if s.rdMem8 pa ≠ o.b then s.setCtx k ((c.putTok o.id 1#64).dropOp o.id)
      else s.setCtx k { c with watch := some ⟨o.id, o.addr, pa / 128, if o.c = 0 then 0 else s.now + o.c, false⟩ }

/-- A write to the watched line has happened. -/
def execWatchFire (k : Nat) (s : State) : Out :=
  let c := s.ctx k
  .next (if c.watch.any (·.hit) then s.setCtx k (c.cancelWatch 0) else s)

def execWatchTimeout (k : Nat) (s : State) : Out :=
  let c := s.ctx k
  .next (if c.watch.any fun w => !w.hit && decide (w.until_ ≠ 0) && decide (w.until_ ≤ s.now) then s.setCtx k (c.cancelWatch 2) else s)

/-! ## Shoot-downs (R305 to R307) -/

/-- Core of bit `i` of KMASK. -/
def maskCore (cl i : Nat) : Nat := 16 * cl + (if i = 8 then 9 else i)

/-- Whether a context is quiescent for a shoot-down (R306). -/
def Ctx.quiescent (c : Ctx) : Bool :=
  c.quiet || match c.run with
    | .free | .trapped | .stopped | .halted => true
    | .waitTok _ _ | .waitBar _ _ _ true => c.ops.all (·.passed)
    | _ => false

/-- Quiescent contexts of a core stay so; the core acknowledges once all of them are (R306). -/
def State.sdAck (s : State) (cl : Nat) : List Nat → State
  | [] => s
  | i :: rest =>
    let core := maskCore cl i
    let keys := (List.range 8).map fun j => 8 * core + j
    let s := keys.foldl (fun s k => if (s.ctx k).quiescent then s.setCtx k { s.ctx k with quiet := true } else s) s
    let s := if keys.all fun k => (s.ctx k).quiet then
        let q := s.cluster cl
        s.setCluster cl { q with sd := { q.sd with ack := q.sd.ack + 2 ^ i, pending := q.sd.pending.filter fun j => decide (j ≠ i) } }
      else s
    s.sdAck cl rest

/-- Whether pages [page, page + size) of an address space lie in the shoot-down's range. -/
def Shoot.covers (d : Shoot) (asid page size : Nat) : Bool :=
  decide (d.asid = asid) && (decide (d.npg = 0) || (decide (page < d.va / 65536 + d.npg) && decide (d.va / 65536 < page + size)))

def State.asidOf (s : State) (vf : Nat) : Nat := ((s.func vf).space.map (·.1)).getD 0

/-- The cores of a shoot-down. -/
def Shoot.cores (d : Shoot) (cl : Nat) : List Nat := ((List.range 9).filter fun i => bitAt d.kmask i).map (maskCore cl)

/-- The effect (R307): the entries go, ICNT rises, and watches of the range are cancelled. -/
def State.sdEffect (s : State) (cl : Nat) : State :=
  let d := (s.cluster cl).sd
  let gone := ((d.cores cl).map fun core => (s.core core).tlb.filterMap fun e =>
    if d.covers e.asid e.page e.size then some (e.page, e.size) else none).flatten
  let s := (d.cores cl).foldl (fun s core =>
    let co := s.core core
    s.setCore core { co with tlb := co.tlb.filter fun e => !d.covers e.asid e.page e.size, icnt := (co.icnt + 1) % 2 ^ 32 }) s
  let s := { s with ctxs := s.ctxs.map fun (p : Nat × Ctx) =>
    (p.1, if p.2.watch.any fun (w : Watch) => d.covers (s.asidOf p.2.stat.vf) (w.va / 65536) 1 then p.2.cancelWatch 3 else p.2) }
  s.setCluster cl { s.cluster cl with sd := { (s.cluster cl).sd with effect := true, gone := gone } }

/-- What the cores have done for a shoot-down in progress. -/
def State.sdUpdate (s : State) (cl : Nat) : State :=
  let d := (s.cluster cl).sd
  if !d.busy || d.effect then s
  else
    let s := s.sdAck cl d.pending
    if (s.cluster cl).sd.pending.isEmpty then s.sdEffect cl else s

def execShootdownStart (cl : Nat) (s : State) : Out := .next (s.sdUpdate cl)

/-- The watchdog (R307): contexts that are not quiescent are stopped, their untranslated operations abandoned, and rolled
back to their mark. No trap is taken. -/
def State.sdStop (s : State) (k : Nat) : State :=
  if (s.ctx k).quiescent then s
  else
    let s := s.rollbackCtx k
    let s := s.setCtx k { (s.ctx k).syncTags with run := .stopped, quiet := true }
    s.setCore (ctxCore k) ((s.core (ctxCore k)).release k)

def execShootdownWatchdog (cl : Nat) (s : State) : Out :=
  let d := (s.cluster cl).sd
  if d.busy && !d.effect && !d.pending.isEmpty && decide (d.start + 210000 ≤ s.now) then
    let keys := (d.pending.map fun i => (List.range 8).map fun j => 8 * maskCore cl i + j).flatten
    let caught := keys.filter fun k => !(s.ctx k).quiescent
    let s := keys.foldl State.sdStop { s with focus := none }
    let q := s.cluster cl
    .next ((s.setCluster cl { q with sd := { q.sd with forced := true, stopped := caught } }).sdUpdate cl)
  else .next s

/-- Whether an invalidated entry of a shoot-down may have translated an address. -/
def Shoot.translated (d : Shoot) (asid va : Nat) : Bool :=
  d.covers asid (va / 65536) 1 ||
    (decide (d.asid = asid) && d.gone.any fun g => decide (g.1 ≤ va / 65536) && decide (va / 65536 < g.1 + g.2))

/-- Whether piece `p` of an operation was translated by an invalidated entry and is still to be performed. A reduction's arrival
stands under its staging address, and carries its result's, which was translated with it; where a write of its transfer was refused
it waits for firmware, and is translated anew (R308, R329). -/
def Shoot.holdsPiece (d : Shoot) (asid : Nat) (o : Op) (p : Piece) : Bool :=
  let arr := decide (o.kind = .coll) && p.twin
  p.pa.isSome && decide (p.st = .fresh ∨ p.st = .ready ∨ p.st = .sent) && (d.translated asid p.va || (arr && d.translated asid p.sp)) &&
    !(arr && decide (p.st = .ready) && o.pieces.any fun q => decide (q.row = p.row) && decide (q.st = .failed))

/-- Whether an access that an invalidated entry may have translated is still on its way: translated and not yet sent, sent and
not answered, be its operation still there or not, or in the combining buffer. -/
def State.sdInflight (s : State) (cl : Nat) : Bool :=
  let d := (s.cluster cl).sd
  let cores := d.cores cl
  (cores.any fun core =>
    (coreKeys core).any (fun k =>
      let c := s.ctx k
      c.ops.any fun o => o.pieces.any (d.holdsPiece (s.asidOf c.stat.vf) o)) ||
    (s.core core).cb.any fun e => d.translated (s.asidOf e.vf) (128 * e.line)) ||
  s.reqs.any fun q => match q.owner, q.va with
    | .piece k _ _, some va => cores.elem (ctxCore k) && d.translated (s.asidOf q.vf) va
    | _, _ => false

/-- A shoot-down ends (R307): the stalled C slots proceed, and the contexts that the watchdog stopped restart, unless a
function-level reset has stopped them as well (R354). -/
def execShootdownEnd (cl : Nat) (s : State) : Out :=
  let q := s.cluster cl
  if q.sd.busy && q.sd.effect && !s.sdInflight cl then
    let keys := ((q.sd.cores cl).map fun core => (List.range 8).map fun j => 8 * core + j).flatten
    let s := keys.foldl (fun s k =>
      let c := s.ctx k
      let restart := decide (c.run = .stopped) && q.sd.stopped.elem k && decide ((s.func c.stat.vf).flr = 0)
      s.setCtx k { c with quiet := false, cHold := false, run := if restart then .ready else c.run }) s
    .next (s.setCluster cl { q with sd := { q.sd with busy := false } })
  else .next s

/-! ## Translating one piece (R299, R300) -/

/-- A core's TLB holds at most 512 entries. -/
def Core.fillTlb (co : Core) (e : TlbEnt) : Core :=
  { co with tlb := (if co.tlb.length < 512 then co.tlb else co.tlb.drop 1) ++ [e] }

/-- The refusal that some access meets at an entry (R302). -/
def TlbEnt.refuses (e : TlbEnt) (accs : List Acc) : Option Nat := accs.findSome? fun a => e.refuse a

/-- An address translated for a context: through the TLB, or by a walk that fills it. A walk that began under an older
ICNT starts again. -/
inductive Lookup where
  | hit (e : TlbEnt)
  | filled (s : State) (e : TlbEnt)
  | again
  | fault (s : State) (kind : Nat)

/-- The translation of an address for some accesses. The TLB keeps nothing of a walk that faulted, a refused permission among the
faults, so an entry that refuses is walked for anew, which finds what software has widened since (R292, R299). -/
def State.lookup (s : State) (k vf va icnt : Nat) (accs : List Acc) : Lookup :=
  match (s.func vf).space with
  | none => .fault s 0
  | some (asid, _) =>
    let core := ctxCore k
    let co := s.core core
    match co.tlb.find? fun e => e.maps asid va && (e.refuses accs).isNone with
    | some e => .hit e
    | none =>
      let co := { co with tlb := co.tlb.filter fun e => !e.maps asid va }
      let s := s.setCore core co
      if icnt ≠ co.icnt then .again
      else match s.walk vf va with
        | .fault kind => .fault s kind
        | .ok e => match e.refuses accs with
          | some kind => .fault s kind
          | none => .filled (s.setCore core (co.fillTlb e)) e

/-- Piece `i` of a list changed. -/
def updPiece (ps : List Piece) (i : Nat) (g : Piece → Piece) : List Piece :=
  match ps, i with
  | [], _ => []
  | p :: rest, 0 => g p :: rest
  | p :: rest, n + 1 => p :: updPiece rest n g

/-- Whether an operation's translation may proceed: no trap can take its word back, its context has not been stopped, and
no shoot-down holds the C slot (R306). -/
def State.mayWalk (s : State) (k : Nat) (o : Op) : Bool :=
  let c := s.ctx k
  c.wordDone o.word && !(c.quiet && s.sdPending (ctxCore k)) &&
    match c.run with | .stopped | .halted | .free => false | _ => true

end Sys2Proof.Machine
end

