-- ==== Sys2Proof/Machine/Engine.lean ====
section
/-!
DEFINITION. The engines of the C slot after issue (R132 to R151, R213 to R218, R279 to R283): sending translated pieces,
the combining buffer, what replies bring, landings, completions, and rows on their way to receive buffers.
-/

namespace Sys2Proof.Machine

/-! ## Requests of pieces (R321) -/

/-- The 16-byte units that cover [pa, pa + len). -/
def unitsOf (pa len : Nat) : Nat := (pa + len + 15) / 16 - pa / 16

/-- The mask of a partial write: bytes [off, off + len) of the line, without those that `skip` names. -/
def lineMask (off len : Nat) (skip : Nat → Bool) : List Byte :=
  leBytes 16 ((List.range len).foldl (fun a i => if skip i then a else a + 2 ^ (off + i)) 0)

/-- The payload of WRM: mask, then the line's bytes. -/
def wrmData (off : Nat) (bs : List Byte) (skip : Nat → Bool) : List Byte :=
  lineMask off bs.length skip ++ List.replicate off 0#8 ++ bs ++ List.replicate (128 - off - bs.length) 0#8

/-- Whether a piece reads through a horizon, or rereads a line at one version (R148, R150): its CID and version. -/
def Op.readsAt (o : Op) (p : Piece) : Option (Nat × Nat) :=
  match o.kind with
  | .cld _ _ => some (o.c, o.b)
  | .cpIn | .cpPf | .cpGat | .gred => if o.shape.hz then some (o.c, o.b) else p.ver
  | .accLd => p.ver
  | _ => none

/-- Whether an operation reads its source lines through a horizon: `acc.ld` does not use FLAGS.HZ (R134, R148). -/
def Op.throughHz (o : Op) : Bool := o.shape.hz && (match o.kind with | .cpIn | .cpPf | .cpGat | .gred => true | _ => false)

/-- Whether a piece writes, with its data; a header piece of `xdisp` or `resolve` writes once `ver` marks it so. -/
def Op.writes (o : Op) (p : Piece) : Bool :=
  match o.kind with
  | .cpOut | .accSt => true
  | .xdisp _ | .resolve _ => p.ver.isSome
  | _ => false

/-- The request of piece `i` of an operation. -/
def State.emitPiece (s : State) (k : Nat) (o : Op) (i : Nat) (p : Piece) : State :=
  match p.pa with
  | none => s
  | some (home, pa) =>
    let c := s.ctx k
    let eng := s.eng (ctxCore k)
    let s := s.setCtx k (c.updOp o.id fun x => { x with pieces := updPiece x.pieces i fun q => { q with st := .sent } })
    let go : Nat → Nat → List Byte → List Byte → State := fun op a args data =>
      (s.emit (.piece k o.id i) home eng c.stat.vf op a args data).noteVa p.va
    match o.kind with
    | .cpCst =>
      let v := p.ver.getD (0, 0)
      go opWRC pa (leBytes 3 o.c ++ leBytes 4 v.1 ++ leBytes 2 v.2 ++ leBytes 2 o.shape.mcnt) p.data
    | .at n w => go opAT pa [BitVec.ofNat 8 (n + 128 * b2n w)] (leBytes 8 o.b ++ leBytes 8 o.c)
    | _ =>
      if o.writes p then
        let skip : Nat → Bool := fun j => match o.kind with
          | .resolve _ => decide (p.sp + j = 14 ∨ p.sp + j = 15)
          | _ => false
        let whole := decide (pa % 16 = 0 ∧ p.len % 16 = 0) && !(List.range p.len).any skip
        if whole then go opWR pa [] p.data else go opWRM (pa / 128 * 128) [] (wrmData (pa % 128) p.data skip)
      else match o.readsAt p with
        | some (cid, v) => go opRDC (pa / 128 * 128) (leBytes 3 cid ++ leBytes 4 v) []
        | none => go opRD (pa / 16 * 16) [BitVec.ofNat 8 (unitsOf pa p.len)] []

/-- A code of 1 to 4 enters the long-term error records (R133, R349). -/
def State.recordCode (s : State) (code eng vf addr : Nat) : State :=
  if 1 ≤ code ∧ code ≤ 4 then s.record 4 code eng vf addr else s

/-! ## Rows to receive buffers (R279 to R282) -/

/-- The bytes of a group of pieces with one row number, in order, once all have been read. -/
def Op.rowData (o : Op) (row : Nat) : Option (List Byte) :=
  let ps := o.pieces.filter fun p => decide (p.row = row)
  if !ps.isEmpty && ps.all fun p => decide (p.st = .replied) then some ((ps.map (·.data)).flatten) else none

def Op.rowFailed (o : Op) (row : Nat) : Bool := o.pieces.any fun p => decide (p.row = row) && decide (p.st = .failed)

/-- Virtual addresses of the replicas of an expert, none where it counts as not placed (R279). -/
def replicaVas (e : Option (List Byte)) : List Nat :=
  match e with
  | none => []
  | some bs =>
    let n := rfld bs 0 1
    if 4 < n ∨ rfld bs 1 7 ≠ 0 ∨ rfld bs 40 24 ≠ 0 then [] else (List.range n).map fun i => rfld bs (8 + 8 * i) 8 % 2 ^ 55

def RingKnown.isOf (x : RingKnown) (core dev desc : Nat) : Bool := decide (x.core = core) && decide (x.dev = dev) && decide (x.desc = desc)

/-- What a core knows of a buffer's occupancy (R281): the last report, or what it read in the descriptor before any, and the rows
that it has sent since. -/
def State.knownOcc (s : State) (core dev desc : Nat) (d : List Byte) : Nat :=
  match s.known.find? (·.isOf core dev desc) with
  | some x => x.occ + (x.sent - x.had)
  | none => (rfld d 16 8 + 2 ^ 64 - rfld d 24 8) % 2 ^ 64

/-- What a core knows of a buffer, changed; `first` is the occupancy that it has read in the descriptor. -/
def updKnown (xs : List RingKnown) (core dev desc first : Nat) (g : RingKnown → RingKnown) : List RingKnown :=
  (xs.filter fun x => !x.isOf core dev desc) ++ [g ((xs.find? (·.isOf core dev desc)).getD ⟨core, dev, desc, first, 0, 0⟩)]

/-- Whether each descriptor of an expert's replicas has been read, or cannot be. -/
def Op.descsRead (o : Op) (expert : Nat) : Bool :=
  !(o.pieces.any fun p => decide (rowDesc ≤ p.row) && decide ((p.row - rowDesc) / 4 = expert) &&
    decide (p.st = .fresh ∨ p.st = .ready ∨ p.st = .sent))

/-- A replica as the source sees it: device, descriptor, known occupancy and CAP. One whose descriptor could not be read
counts as having room, so that its home answers the row. -/
def State.replicas (s : State) (k : Nat) (o : Op) (expert : Nat) : List (Nat × Nat × Nat × Nat) :=
  let vas := replicaVas (o.rowData (rowEntry + expert))
  (List.range vas.length).filterMap fun i =>
    let row := rowDesc + 4 * expert + i
    match o.pieces.find? fun p => decide (p.row = row) with
    | some ⟨_, _, _, _, some (dev, pa), _, _, _, _⟩ =>
      match o.rowData row with
      | some d => some (dev, pa, s.knownOcc (ctxCore k) dev pa d, rfld d 8 4)
      | none => some (dev, pa, 0, 1)
    | _ => none

/-- The choice of R281: the primary if it has room, else the least occupied of the others with room, the lowest first. -/
def chooseReplica (rs : List (Nat × Nat × Nat × Nat)) : Option (Nat × Nat × Nat × Nat) :=
  match rs with
  | [] => none
  | r0 :: rest =>
    if r0.2.2.1 < r0.2.2.2 then some r0
    else (rest.filter fun r => decide (r.2.2.1 < r.2.2.2)).foldl (fun acc r =>
      match acc with
      | some b => if r.2.2.1 < b.2.2.1 then some r else acc
      | none => some r) none

/-! ## Fabric bursts (R366) -/

/-- Bytes that an operation sends to other devices. A row of an `xdisp` or a repair of a `resolve` counts where any of its
replicas is on another device, since its destination is chosen when it leaves. DESIGN CHOICE (log 110). -/
def State.burstBytes (s : State) (k : Nat) (o : Op) : Nat :=
  let away : Piece → Nat := fun p => match p.pa with | some (h, _) => if h = s.vertex then 0 else p.len | none => 0
  let rowAway : Nat → Nat → Nat := fun e n => if (s.replicas k o e).any fun r => decide (r.1 ≠ s.vertex) then 128 + n else 0
  match o.kind with
  | .cpOut | .cpCst | .accSt => o.pieces.foldl (fun a p => a + away p) 0
  | .xdisp _ => (o.pieces.foldl (fun a p => a + (if p.row < rowEntry then away p else 0)) 0) +
      o.rows.foldl (fun a x => a + rowAway x.expert x.data.length) 0
  | .resolve n => (o.pieces.foldl (fun a p => a + (if p.row < rowEntry then away p else 0)) 0) +
      (List.range o.shape.rows).foldl (fun a t => a + ((trueExperts o.list n t).foldl (fun b e =>
        b + rowAway e.1 (((o.rows[t]?).map fun x => x.data.length).getD 0)) 0)) 0
  | _ => 0

/-- Whether every address is known by which the size of a burst is counted. -/
def Op.sizeKnown (o : Op) : Bool := o.passed && !(o.pieces.any fun p => decide (p.st = .fresh))

/-- Whether an operation may send to other devices: it sends no more than 1 MiB there, or it holds a unit of the fabric
governor. One whose size is not yet known waits. -/
def State.burstOk (s : State) (k : Nat) (o : Op) : Bool :=
  decide (o.burst = 2) || (match o.kind with
    | .cpOut | .cpCst | .accSt => decide (o.shape.rows * o.shape.bytes ≤ 2 ^ 20)
    | _ => false) || (o.sizeKnown && decide (s.burstBytes k o ≤ 2 ^ 20))

/-! ## When a piece may leave -/

/-- An access to one line that an earlier load or atomic of the context has still to leave before: loads keep word order among
themselves too (R245). -/
def Ctx.lineHeld (c : Ctx) (o : Op) : Bool :=
  let line := o.addr % 2 ^ 55 / 128
  let earlier := c.ops.takeWhile fun x => decide (x.id ≠ o.id)
  earlier.any fun x =>
    let blocks := match x.kind, o.kind with
      | .at _ _, _ => true
      | .gld _ _, _ | .cld _ _, _ => true
      | _, _ => false
    blocks && decide (x.addr % 2 ^ 55 / 128 = line) && x.pieces.any fun p => decide (p.st = .fresh ∨ p.st = .ready)

/-- Stores of the context to an atomic's line that have not been sent (R136). -/
def State.storesAhead (s : State) (k : Nat) (o : Op) : Bool :=
  let line := o.addr % 2 ^ 55 / 128
  let earlier := (s.ctx k).ops.takeWhile fun x => decide (x.id ≠ o.id)
  (earlier.any fun x => decide (x.kind = .gst) && decide (x.addr % 2 ^ 55 / 128 = line)) ||
    (s.core (ctxCore k)).cb.any fun e => decide (e.ctx = k) && !e.sent && decide (e.line = line)


/-- Whether a piece is homed at a device. -/
def Piece.homeIs (p : Piece) (dev : Nat) : Bool := p.pa.any fun h => decide (h.1 = dev)

/-- The lines that hold the headers of a token of a `resolve`. -/
def Op.tokenLines (o : Op) (t : Nat) : List (Nat × Nat) :=
  (o.pieces.filter fun p => decide (p.row < rowEntry) && decide (p.row / o.shape.ks = t)).filterMap fun p => p.pa.map fun h => (h.1, h.2 / 128)

/-- The lines that a `resolve` is at work on: those of its token, from the first header that it asks for until it has written them. -/
def Op.linesHeld (o : Op) : List (Nat × Nat) :=
  match o.kind with
  | .resolve _ =>
    let t := (o.phase - 1) / 2
    let begun := o.pieces.any fun p => decide (p.row < rowEntry) && decide (p.row / o.shape.ks = t) && decide (p.st ≠ .ready)
    if o.phase ≠ 0 ∧ (o.phase % 2 = 0 ∨ begun) then o.tokenLines t else []
  | _ => []

/-- Whether a header of the token of a `resolve` may be asked for or written: its turn has come, and no other `resolve` of the
device is at work on it, so that two that overlap on a token take it one after the other (R218, log 89). -/
def State.tokenFree (s : State) (k : Nat) (o : Op) (p : Piece) : Bool :=
  let t := (o.phase - 1) / 2
  decide (o.phase ≠ 0) && decide (p.row / o.shape.ks = t) &&
    !(s.ctxs.any fun (c : Nat × Ctx) => c.2.ops.any fun x => !(decide (c.1 = k) && decide (x.id = o.id)) &&
      x.linesHeld.any (o.tokenLines t).elem)

/-- Whether piece `p` of an operation may leave now. -/
def State.pieceMay (s : State) (k : Nat) (o : Op) (p : Piece) : Bool :=
  let c := s.ctx k
  decide (p.st = .ready) && s.tagLeft (s.eng (ctxCore k)) && match o.kind with
    | .gst | .watch => false
    | .at _ _ => o.released && !c.lineHeld o && !s.storesAhead k o
    | .gld _ _ | .cld _ _ => !c.lineHeld o
    | .xdisp _ => decide (rowEntry ≤ p.row) || (o.passed && decide (p.row = o.phase) && (p.ver.isNone || p.homeIs s.vertex || s.burstOk k o))
    | .resolve _ => decide (rowEntry ≤ p.row) || (o.passed && s.tokenFree k o p && (p.ver.isNone || p.homeIs s.vertex || s.burstOk k o))
    | .cpOut | .cpCst | .accSt => p.pa.isSome && (p.homeIs s.vertex || s.burstOk k o)
    | _ => true

/-- Pieces of an operation from number `i` on, sent as far as they may. -/
def State.emitFrom (s : State) (k id : Nat) : Nat → Nat → State
  | 0, _ => s
  | fuel + 1, i =>
    match (s.ctx k).findOp id with
    | none => s
    | some o =>
      match o.pieces[i]? with
      | none => s
      | some p => (if s.pieceMay k o p then s.emitPiece k o i p else s).emitFrom k id fuel (i + 1)

/-! ## Operations without an address to translate -/

/-- `anchor`, `publish` and the barrier instructions send one request, once no trap can take their word back and, if
gated, once they are released. Phase 1 says that it has left. -/
def State.emitPlain (s : State) (k : Nat) (o : Op) : State :=
  let c := s.ctx k
  if o.phase ≠ 0 ∨ !c.wordDone o.word ∨ (o.gated && !o.released) ∨ !s.tagLeft (s.eng (ctxCore k)) then s
  else
    let sent := s.setCtx k (c.updOp o.id fun x => { x with phase := 1 })
    let go := sent.emit (.piece k o.id 0)
    let eng := s.eng (ctxCore k)
    let cidAddr := 16 * (o.c % 8192)
    match o.kind with
    | .anchor _ => go (o.c / 8192) eng c.stat.vf opANC cidAddr (leBytes 3 o.c) []
    | .publish => go (o.c / 8192) eng c.stat.vf opPUB cidAddr (leBytes 3 o.c ++ leBytes 4 o.b) []
    | .barInit => go (barDev o.addr) eng c.stat.vf opBAR (o.addr % 2 ^ 30) ([0#8] ++ leBytes 4 o.b) []
    | .barArr => go (barDev o.addr) eng c.stat.vf opBAR (o.addr % 2 ^ 30) ([1#8] ++ leBytes 4 o.b) []
    | _ => s

/-! ## The combining buffer (R136) -/

/-- The place of the entry that a store may join: the last unsent one of its context and line, with no later unsent
entry of its lane. -/
def cbJoin (cb : List CbEnt) (k line lane : Nat) : Option Nat :=
  let idx := (List.range cb.length).filter fun i => (cb[i]?).any fun e => decide (e.ctx = k) && decide (e.line = line) && !e.sent
  match idx.getLast? with
  | none => none
  | some i => if (cb.drop (i + 1)).any fun e => !e.sent && decide (e.lane = lane) then none else some i

/-- Whether an earlier store of the core is still to enter the buffer before one in its lane: of the same context any of an earlier
word, of another one that was let go and had issued before (R255). -/
def State.storeFirst (s : State) (k : Nat) (o : Op) (lane : Nat) : Bool :=
  let same : Op → Bool := fun x => decide (x.kind = .gst) && decide (laneOf x.addr = lane)
  (((s.ctx k).ops.takeWhile fun x => decide (x.id ≠ o.id)).any fun x => same x && (x.released || !x.abandoned)) ||
    (coreKeys (ctxCore k)).any fun j => decide (j ≠ k) && (s.ctx j).ops.any fun x => same x && x.released && decide (x.issued < o.issued)

/-- A released, translated `gst` enters the combining buffer, if it finds a place. -/
def State.combine (s : State) (k : Nat) (o : Op) : Option State :=
  match o.pieces with
  | [⟨_, va, _, _, some (home, pa), _, bs, _, _⟩] =>
    let core := ctxCore k
    let co := s.core core
    let c := s.ctx k
    let lane := laneOf pa
    if c.lineHeld o || s.storeFirst k o lane then none
    else
      let line := va / 128
      let cells := cellsAt (va % 128) bs
      match cbJoin co.cb k line lane with
      | some i =>
        let cb := (List.range co.cb.length).filterMap fun j => (co.cb[j]?).map fun e => if j = i then { e with cells := e.cells ++ cells, stores := e.stores + 1 } else e
        some ((s.setCore core { co with cb := cb }).setCtx k (c.dropOp o.id))
      | none =>
        if co.cb.length < 32 then
          some ((s.setCore core { co with cb := co.cb ++ [⟨k, o.word, c.stat.vf, home, line, pa / 128 * 128, lane, cells, false, 0, 1⟩] }).setCtx k
            (c.dropOp o.id))
        else none
  | _ => none

/-- The line of an entry as its latest bytes leave it, and the mask of the bytes it holds. -/
def CbEnt.payload (e : CbEnt) : List Byte :=
  let has : Nat → Bool := fun i => e.cells.any fun p => decide (p.1 = i)
  leBytes 16 ((List.range 128).foldl (fun a i => if has i then a + 2 ^ i else a) 0) ++
    (List.range 128).map fun i => (lastByte e.cells i).getD 0#8

/-! ## Rows that leave (R280 to R282) -/

/-- An entry of a receive buffer (R280): the header of 128 bytes, then the row. -/
def XRow.entry (x : XRow) : List Byte :=
  leBytes 8 x.slotVa ++ leBytes 4 x.token ++ leBytes 4 x.pid ++ leBytes 2 x.expert ++ leBytes 1 x.tag ++ leBytes 1 x.grade ++
    leBytes 1 (b2n x.rf) ++ List.replicate 107 0#8 ++ x.data

/-- Row number of a row in an operation's requests, above those of its pieces. -/
def rowReq : Nat := 2 ^ 22

def updRow (xs : List XRow) (i : Nat) (g : XRow → XRow) : List XRow :=
  match xs, i with
  | [], _ => []
  | x :: rest, 0 => g x :: rest
  | x :: rest, n + 1 => x :: updRow rest n g

/-- The payloads of the packets that carry `bs`: at most 512 bytes each (R320). -/
def chunksOf (bs : List Byte) : List (List Byte) :=
  (List.range ((bs.length + maxPayload - 1) / maxPayload)).map fun i => (bs.drop (maxPayload * i)).take maxPayload

/-- The packets of a row for a receive buffer: WR with ARGS `kind`, part, parts and the bytes of them all, the first of them
answered as the row is. R320 bounds a payload, and R321 does not say how a longer row travels. DESIGN CHOICE (log 112). -/
def State.emitRow (s : State) (owner : ReqOwner) (dev eng vf desc kind : Nat) (bs : List Byte) : State :=
  let ps := chunksOf bs
  (List.range ps.length).foldl (fun s i =>
    s.emit (if i = 0 then owner else .firmware) dev eng vf opWR desc
      ([BitVec.ofNat 8 kind, BitVec.ofNat 8 i, BitVec.ofNat 8 ps.length] ++ leBytes 4 bs.length) (ps.getD i [])) s

/-- Row `i` leaves for a descriptor, for its overflow ring if `ovf`. -/
def State.shipRow (s : State) (k : Nat) (o : Op) (i : Nat) (x : XRow) (dev desc occ : Nat) (ovf : Bool) : State :=
  let c := s.ctx k
  let core := ctxCore k
  let s := s.setCtx k (c.updOp o.id fun y => { y with rows := updRow y.rows i fun r => { r with st := 5 } })
  let s := { s with known := updKnown s.known core dev desc occ fun x => { x with sent := x.sent + 1 } }
  s.emitRow (.piece k o.id (rowReq + i)) dev (s.eng core) c.stat.vf desc (if ovf then 2 else 1) x.entry

/-- The first row that waits to leave makes its choice (R281); one that finds no room keeps the cycle it began to wait. -/
def State.chooseRow (s : State) (k : Nat) (o : Op) (ovf : Bool) : State :=
  match (List.range o.rows.length).find? fun i => (o.rows[i]?).any fun x => decide (x.st = 4) with
  | none => s
  | some i =>
    match o.rows[i]? with
    | none => s
    | some x =>
      let rs := s.replicas k o x.expert
      let upd : (XRow → XRow) → (Nat → Nat) → State := fun g h =>
        s.setCtx k ((s.ctx k).updOp o.id fun y => { y with rows := updRow y.rows i g, code := h y.code })
      let may : Nat → Bool := fun dev => s.tagLeft (s.eng (ctxCore k)) && (decide (dev = s.vertex) || s.burstOk k o)
      if !o.descsRead x.expert then s
      else match chooseReplica rs, rs with
      | some r, _ => if may r.1 then s.shipRow k o i x r.1 r.2.1 r.2.2.1 false else s
      | none, [] => upd (fun r => { r with st := 6 }) fun n => if n = 0 then 8 else n
      | none, r0 :: _ =>
        if ovf then if !may r0.1 then s else s.shipRow k o i x r0.1 r0.2.1 r0.2.2.1 true
        else if x.waited = 0 then upd (fun r => { r with waited := s.now + 1 }) id else s

/-- After 4,096 cycles at full replicas a row goes to the overflow ring of the primary (R282). -/
def execOverflowAfterWait (k id : Nat) (s : State) : Out :=
  match (s.ctx k).findOp id with
  | none => .next s
  | some o =>
    if o.rows.any fun x => decide (x.st = 4) && decide (x.waited ≠ 0) && decide (x.waited + 4095 ≤ s.now) then
      .next (s.chooseRow k o true)
    else .next s

/-! ## Views of a constellation (R150) -/

/-- Versions of one constellation that an operation's pieces were read at. -/
def Op.versions (o : Op) (cid : Nat) : List Nat :=
  o.pieces.filterMap fun p => match p.ver with | some (x, v) => if x = cid then some v else none | none => none

/-- Version order modulo 2^32 (R144): a ≤ b. -/
def verLe (a b : Nat) : Bool := decide ((b + 2 ^ 32 - a % 2 ^ 32) % 2 ^ 32 < 2 ^ 31)

def maxVer (xs : List Nat) : Nat := match xs with | [] => 0 | x :: rest => rest.foldl (fun m v => if verLe m v then v else m) x

/-- Lines read at an older version than the greatest seen are reread at that one, and FRAC is set (R150). -/
def Op.repairView (o : Op) (cid : Nat) : Op :=
  let w := maxVer (o.versions cid)
  { o with frac := true, pieces := o.pieces.map fun p =>
      match p.ver with
      | some (x, v) => if x = cid ∧ v ≠ w then { p with st := .ready, ver := some (cid, w) } else p
      | none => p }

/-- Whether a piece has still to be read. -/
def Op.reading (o : Op) : Bool := o.pieces.any fun q => decide (q.st = .fresh ∨ q.st = .ready ∨ q.st = .sent)

/-- Whether a read piece may land: one of a constellation waits until the copy has read everything at one version, and one of a
`cp.pf` until its row has been read whole, as a faulting row is not written (R213). -/
def Op.mayLand (o : Op) (p : Piece) : Bool :=
  decide (p.st = .replied) &&
    (decide (o.kind ≠ .cpPf) || o.pieces.all fun q => decide (q.row ≠ p.row) || decide (q.st = .replied ∨ q.st = .landed)) &&
    match p.ver with
    | none => true
    | some (cid, v) => o.throughHz || (!o.reading && (o.versions cid).all fun x => decide (x = v))

/-- Whether everything that a view of constellations needs has been read. -/
def Op.viewRead (o : Op) : Bool := o.throughHz || !o.reading || o.pieces.all fun p => p.ver.isNone

/-- A CID whose lines were read at different versions, once every piece has been read. -/
def Op.fractured (o : Op) : Option Nat :=
  if o.throughHz || o.reading then none
  else o.pieces.findSome? fun p => match p.ver with
    | some (cid, v) => if p.st = .replied ∧ !((o.versions cid).all fun x => decide (x = v)) then some cid else none
    | none => none

/-! ## Steps of `xdisp`, `resolve` and `gred` between replies -/

/-- Descriptor pieces of the experts whose table entry has been read, not made before. -/
def Op.addDescs (o : Op) : Op :=
  let rows := (o.pieces.map (·.row)).eraseDups.filter fun r => decide (rowEntry ≤ r) && decide (r < rowDesc)
  let new := rows.filter fun r => (o.rowData r).isSome && !(o.pieces.any fun p => decide (p.row / 4 = (rowDesc + 4 * (r - rowEntry)) / 4) && decide (rowDesc ≤ p.row))
  let ps := (new.map fun r =>
    let vas := replicaVas (o.rowData r)
    ((List.range vas.length).map fun i => rowPieces (rowDesc + 4 * (r - rowEntry) + i) (vas.getD i 0 : Nat) 0 128).flatten).flatten
  { o with pieces := o.pieces ++ ps }

/-- The code of an operation: where its parts fail with different codes, that of the first failure to be known. DESIGN CHOICE
(log 102). -/
def Op.fail (o : Op) (code : Nat) : Op := if o.code = 0 then { o with code := code } else o

/-- Pieces of one row get new bytes to write. -/
def Op.writeRow (o : Op) (row : Nat) (bs : List Byte) : Op :=
  { o with pieces := o.pieces.map fun p =>
      if p.row = row then { p with data := (bs.drop p.sp).take p.len, st := .ready, ver := some (0, 1) } else p }

/-- The header that `xdisp` writes (R215, R276). -/
def XRow.header (x : XRow) : List Byte :=
  (⟨x.token, x.pid, x.expert, hTentative, x.j, 0⟩ : Hdr).bytes ++ List.replicate 114 0#8

/-- One advance of an `xdisp`: its current row's header has been read, or written. -/
def Op.xdispStep (o : Op) : Op :=
  let r := o.phase
  match o.rows[r]? with
  | none => o
  | some x =>
    let set : Nat → Op → Op := fun n y => { y with rows := updRow y.rows r fun z => { z with st := n } }
    if x.st = 6 then { o with phase := r + 1 }
    else if x.st = 0 ∨ x.st = 2 then
      if o.rowFailed r then set 6 o
      else match o.rowData r with
        | none => o
        | some bs =>
          if x.st = 2 then set 4 o
          else
            let h := Hdr.parse bs
            if h.state = hTentative ∧ h.token = x.token ∧ h.expert = x.expert ∧ h.pid = x.pid then set 6 o
            else if h.state ≠ hEmpty then set 6 (o.fail 8)
            else if (replicaVas (o.rowData (rowEntry + x.expert))).isEmpty then set 6 (o.fail 8)
            else set 2 (o.writeRow r x.header)
    else o

/-- Headers of token `t`, once all have been read; none if one failed. -/
def Op.tokenHdrs (o : Op) (t : Nat) : Option (List Hdr) :=
  (List.range o.shape.ks).foldr (fun j acc =>
    match o.rowData (t * o.shape.ks + j), acc with
    | some bs, some hs => some (Hdr.parse bs :: hs)
    | _, _ => none) (some [])

/-- Whether every header piece of token `t` has been answered. -/
def Op.tokenDone (o : Op) (t : Nat) : Bool :=
  o.pieces.all fun p => decide (rowEntry ≤ p.row) || decide (p.row / o.shape.ks ≠ t) || decide (p.st = .replied ∨ p.st = .failed)

/-- Whether some header piece of token `t` failed. -/
def Op.tokenFailed (o : Op) (t : Nat) : Bool :=
  o.pieces.any fun p => decide (p.row < rowEntry) && decide (p.row / o.shape.ks = t) && decide (p.st = .failed)

/-- The repair rows of a token, to the slots the plan names. -/
def Op.repairRows (o : Op) (t : Nat) (reps : List (Nat × Nat)) : List XRow :=
  match o.rows[t]? with
  | none => []
  | some base => if base.waited = 1 then [] else reps.map fun p =>
    { base with slotVa := slotVa o.shape t p.2, token := t, pid := 0, expert := p.1, j := p.2, waited := 0, st := 3 }

/-- The header bytes that a `resolve` writes to slot `j` of token `t`: free ones where software has written the token's headers
meanwhile (R277). -/
def State.headerOut (s : State) (o : Op) (t j : Nat) (h : Hdr) : List Byte :=
  if o.spoiled.elem t then (List.range 14).map fun i => Config.freeByte (s.fresh + 14 * j + i) else h.bytes

/-- One advance of a `resolve`: phase 2t + 1 plans token t once its headers have been read; phase 2t + 2 waits for its
header writes, after which its repairs may leave. -/
def State.resolveStep (s : State) (k : Nat) (o : Op) : State :=
  let c := s.ctx k
  let put : Op → State := fun y => s.setCtx k (c.updOp o.id fun _ => y)
  if o.phase = 0 then (if o.passed then put { o with phase := 1 } else s)
  else
    let t := (o.phase - 1) / 2
    if o.shape.rows ≤ t then s
    else if !o.tokenDone t || !o.lost.isEmpty then s
    else if (o.rows[t]?).any fun x => decide (x.st = 7) then
      put { o with phase := o.phase + 2, rows := updRow o.rows t fun x => { x with st := 6 } }
    else if o.phase % 2 = 0 then
      put { o with phase := o.phase + 1, rows := o.rows.map fun x => if x.st = 3 then { x with st := 4 } else x }
    else match o.tokenFailed t, o.tokenHdrs t with
      | false, some hs =>
        let base := rfld o.list 0 4 % 16384
        let pl := planToken t base (trueExperts o.list o.tile t) hs
        let named : List (Nat × Bool) := if pl.write then hs.map (fun h =>
            (h.pid, (pl.named.any fun g => decide (g.pid = h.pid) && decide (g.state = hConfirmed))))
          else pl.named.map fun h => (h.pid, decide (h.state = hConfirmed))
        let unread := pl.write && !pl.repairs.isEmpty && (o.rows[t]?).any fun x => decide (x.waited = 1)
        let o := { o.fail (if unread then 3 else pl.code) with pids := o.pids ++ named.filter fun (p : Nat × Bool) => decide (p.1 ≠ 0) }
        if pl.write then
          let o := (List.range pl.named.length).foldl (fun o j =>
            o.writeRow (t * o.shape.ks + j) (s.headerOut o t j (pl.named.getD j ⟨0, 0, 0, 0, 0, 0⟩) ++ List.replicate 114 0#8)) o
          let s := { s with fresh := if o.spoiled.elem t then s.fresh + 14 * pl.named.length else s.fresh }
          let put : Op → State := fun y => s.setCtx k (c.updOp o.id fun _ => y)
          let o := { o with rows := o.rows ++ o.repairRows t pl.repairs, phase := o.phase + 1, c := o.c + pl.upds.length }
          let q := s.cluster (ctxCluster k)
          (put o).setCluster (ctxCluster k) { q with ptq := q.ptq ++ pl.upds.map fun e => ⟨k, o.id, true, e, s.now⟩ }
        else put { o with phase := o.phase + 2 }
      | _, _ => put { o with phase := o.phase + 2 }

/-- PFMT of slot `j` of token `t`: it belongs to the slot (R276). -/
def Op.pfmtOf (o : Op) (t j : Nat) : Nat :=
  match o.rowData (t * o.shape.ks + j) with | some bs => rfld bs 15 1 | none => 0

/-- Rows of payload pieces: above those of headers. -/
def rowPay : Nat := 2 ^ 18

/-- The confirmed headers of token `t`, where none is Empty or Tentative. -/
def Op.gredConf (o : Op) (t : Nat) : Option (List Hdr) :=
  match o.tokenHdrs t with
  | none => none
  | some hs => if hs.any fun h => decide (h.state < hConfirmed) then none else some (hs.filter fun h => decide (h.state = hConfirmed))

/-- Whether `gred` reads the payload of row `row`: that of a confirmed header. -/
def Op.gredNeeds (o : Op) (row : Nat) : Bool :=
  match o.gredConf ((row - rowPay) / 16) with
  | none => false
  | some hs => hs.any fun h => decide (h.pay = (row - rowPay) % 16)

/-- The slots of token `t` whose payload addresses `gred` translates: every slot whose header has been read, for its length, and
whichever a confirmed header names (R301). -/
def Op.gredSlots (o : Op) (t : Nat) : List Nat :=
  let own := (List.range o.shape.ks).filter fun j => (o.rowData (t * o.shape.ks + j)).isSome
  let named := ((o.gredConf t).getD []).map (·.pay)
  own ++ (named.filter fun j => !own.elem j).eraseDups

/-- The payload pieces of `gred`, made once its headers have been read. -/
def Op.gredPays (o : Op) : List Piece :=
  ((List.range o.shape.rows).map fun t => ((o.gredSlots t).map fun j =>
    rowPieces (rowPay + 16 * t + j) ((slotVa o.shape t j + 128 : Nat) : Int) 0 (payBytes (o.pfmtOf t j) (o.shape.bytes / 4))).flatten).flatten

/-- One advance of a `gred`: its headers read, at one version of each constellation (R150), it goes for the payloads; one that it
translates and does not read is done with. -/
def Op.gredStep (o : Op) : Op :=
  if o.phase = 0 then
    if o.reading then o
    else match o.fractured with
      | some cid => o.repairView cid
      | none => { o with phase := 1, pieces := o.pieces ++ o.gredPays }
  else { o with pieces := o.pieces.map fun p =>
    if rowPay ≤ p.row ∧ p.st = .ready ∧ !o.gredNeeds p.row then { p with st := .landed } else p }

/-- A view repaired after payloads were read: where a header is read again, the payloads are found anew. -/
def Op.gredRepair (o : Op) (cid : Nat) : Op :=
  let y := o.repairView cid
  if y.pieces.any fun p => decide (p.row < rowPay) && decide (p.st = .ready) then
    { y with phase := 0, pieces := y.pieces.filter fun p => decide (p.row < rowPay) }
  else y

/-! ## Channels (R48) -/

/-- The watermark once some pieces have landed: just below the lowest byte that has not. -/
def Ctx.markLanded (c : Ctx) (o : Op) : Ctx :=
  match o.ch with
  | none => c
  | some j =>
    let h := c.chans.get Chan.reset j
    let src := match o.kind with | .cpOut | .cpCst | .accSt | .accLd | .xdisp _ | .resolve _ => true | _ => false
    if src then c
    else
      let open_ := match o.kind with
        | .gred => if o.shape.rows ≤ o.issued then [] else [o.shape.sp + o.issued * o.shape.spstride]
        | _ => (o.pieces.filter fun p => !decide (p.st = .landed ∨ p.st = .failed)).map (·.sp)
      let wm := match open_ with
        | [] => h.limit + 1
        | x :: rest => rest.foldl min x
      if wm ≤ h.base then c
      else { c with chans := c.chans.set j { h with empty := false, wm := wm - 1 } }

/-- The watermark of an operation's channel follows what has landed, or is known to fail (R133). -/
def State.markOp (s : State) (k id : Nat) : State :=
  let c := s.ctx k
  match c.findOp id with | some o => s.setCtx k (c.markLanded o) | none => s

/-- Rows whose bytes the engine could not read have failed (R133, R350). -/
def State.failLost (s : State) (k : Nat) (o : Op) : State :=
  let c := s.ctx k
  if o.lost.isEmpty || !c.wordDone o.word then s
  else ((s.setCtx k (c.updOp o.id fun y => { y.fail 3 with lost := [] })).markOp k o.id).recordCode 3 (s.eng (ctxCore k)) c.stat.vf 0

/-- One advance of whichever of the three an operation is. -/
def State.advance (s : State) (k id : Nat) : State :=
  let s := match (s.ctx k).findOp id with | some o => s.failLost k o | none => s
  match (s.ctx k).findOp id with
  | none => s
  | some o =>
    let put : Op → State := fun y => s.setCtx k ((s.ctx k).updOp id fun _ => y)
    match o.kind with
    | .xdisp _ =>
      let s := put ((o.addDescs).settlePassed.xdispStep)
      match (s.ctx k).findOp id with | some o => s.chooseRow k o false | none => s
    | .resolve _ =>
      let s := put (o.addDescs.settlePassed)
      match (s.ctx k).findOp id with
      | none => s
      | some o =>
        let s := s.resolveStep k o
        match (s.ctx k).findOp id with | some o => s.chooseRow k o false | none => s
    | .gred => put (o.gredStep.settlePassed)
    | _ => put o.settlePassed

/-! ## The pump -/

/-- A fabric-burst permit is asked for once the size is known (R366). -/
def State.askBurst (s : State) (k : Nat) (o : Op) : State :=
  if o.burst = 0 ∧ o.sizeKnown ∧ 2 ^ 20 < s.burstBytes k o then
    { s.setCtx k ((s.ctx k).updOp o.id fun x => { x with burst := 1 }) with burstQ := s.burstQ ++ [(k, o.id)] }
  else s

/-- Everything of one operation that may leave, leaves. -/
def State.pumpOp (s : State) (k id : Nat) : State :=
  match (s.ctx k).findOp id with
  | none => s
  | some o =>
    match o.kind with
    | .anchor _ | .publish | .barInit | .barArr => s.emitPlain k o
    | .gst => if o.released && o.passed then (s.combine k o).getD s else s
    | .watch | .launch | .ptWr | .ptUpd | .ptClr | .demand | .redem | .coll | .collAbort => s
    | _ =>
      let s := (s.askBurst k o).advance k id
      match (s.ctx k).findOp id with
      | none => s
      | some o => s.emitFrom k id o.pieces.length 0

/-- The operations of a context, in word order; and rows of its port that no stream takes go. -/
def State.pump (s : State) (k : Nat) : State :=
  ((s.ctx k).ops.map (·.id)).foldl (fun s id => s.pumpOp k id) (s.setCtx k (s.ctx k).dropRows)

/-- All contexts of a core, those that are spilled among them. -/
def State.pumpCore (s : State) (core : Nat) : State := (coreKeys core).foldl (fun s k => s.pump k) s

/-- Number of the I/O-and-fabric die, after the four compute dies. -/
def ioDie : Nat := 4

/-- The fabric governor grants the head of its queue while units are left (R366), and its die is not hot (R367). -/
def execFabricBurstPermit (s : State) : Out :=
  match s.burstQ with
  | [] => .next s
  | (k, id) :: rest =>
    if 32 ≤ s.burstHeld ∨ (s.die ioDie).hold then .next s
    else
      let s := { s with burstQ := rest, burstHeld := s.burstHeld + 1 }
      .next ((s.setCtx k ((s.ctx k).updOp id fun x => { x with burst := 2 })).pump k)

/-- The oldest unsent entry of a lane leaves (R136). -/
def execCombiningBufferSend (core lane : Nat) (s : State) : Out :=
  let co := s.core core
  match (List.range co.cb.length).find? fun i => (co.cb[i]?).any fun e => !e.sent && decide (e.lane = lane) with
  | none => .next s
  | some i =>
    match co.cb[i]? with
    | none => .next s
    | some e =>
      if !s.tagLeft (s.eng core) then .next s
      else
      let tag := s.newTag (s.eng core)
      let cb := (List.range co.cb.length).filterMap fun j => (co.cb[j]?).map fun x => if j = i then { x with sent := true, tag := tag } else x
      let s := s.setCore core { co with cb := cb }
      let s := s.emit (.combine core e.ctx e.word e.line) e.home (s.eng core) e.vf opWRM e.pa [] e.payload
      .next (s.pumpCore core)

/-! ## PAGE_WALK (R299 to R303) -/

/-- Piece `i` of an operation has its physical address. -/
def State.translated (s : State) (k : Nat) (o : Op) (i : Nat) (home pa : Nat) (twin : Bool) : State :=
  match o.kind with
  | .watch => s.armWatch k o home pa
  | _ =>
    let s := s.setCtx k ((s.ctx k).updOp o.id fun x =>
      ({ x with pieces := updPiece x.pieces i fun p => { p with pa := some (home, pa), twin := twin, st := .ready } } : Op).settlePassed)
    s.pump k

/-- A translation that failed: deferred for `cp.pf`; else a fault of the context, unless a trap has already stopped it, when
the operation waits for what becomes of the context. -/
def State.failWalk (s : State) (k : Nat) (o : Op) (p : Piece) (kind : Nat) : State :=
  match o.kind with
  | .cpPf => (s.setCtx k ((s.ctx k).updOp o.id fun x => (x.deferFault p.row 0).settlePassed)).markOp k o.id
  | _ => if (s.ctx k).run = .trapped then s else s.xlateFault k o kind p.va

/-- The next address of an operation is translated. -/
def execPageWalk (k id : Nat) (s : State) : Out :=
  match (s.ctx k).findOp id with
  | none => .next s
  | some o =>
    match (List.range o.pieces.length).find? fun i => (o.pieces[i]?).any fun p => decide (p.st = .fresh) with
    | none => .next s
    | some i =>
      match o.pieces[i]? with
      | none => .next s
      | some p =>
        if !s.mayWalk k o then .next s
        else
          let vf := (s.ctx k).stat.vf
          let use : State → TlbEnt → State := fun s e => let d := s.place e p.va; s.translated k o i d.1 d.2 e.twin
          match s.lookup k vf p.va o.icnt (pieceAccs o.kind p) with
          | .hit e => .next (use s e)
          | .filled s' e => whenAwake s (s.walkPas vf p.va) fun _ => .next (use s' e)
          | .again => .next (s.setCtx k ((s.ctx k).updOp id fun x => { x with icnt := (s.core (ctxCore k)).icnt }))
          | .fault s' kind => whenAwake s (s.walkPas vf p.va) fun _ => .next (s'.failWalk k o p kind)

/-! ## Completion of a channel (R48) -/

/-- The channel of a completed copy (R48). -/
def Ctx.freeChan (c : Ctx) (o : Op) : Ctx :=
  match o.ch with
  | none => c
  | some j =>
    let h := c.chans.get Chan.reset j
    { c with chans := c.chans.set j { h with busy := false, empty := false, wm := h.limit } }

/-! ## Landing (R132, R150) -/

/-- The barrier that a copy names hears of a landing of `n` bytes. -/
def State.copyBar (s : State) (k : Nat) (o : Op) (n : Nat) : State :=
  if o.shape.barV then s.landBar (s.eng (ctxCore k)) (s.ctx k).stat.vf (barDev o.shape.bar) o.shape.bar n else s

/-- Bytes of a copy that land in its context's scratchpad take the place, in word order, of what the context's earlier words have
stored there and have not released (R128). -/
def State.landSp (s : State) (k : Nat) (o : Op) (cells : List (Nat × Byte)) : State :=
  let core := ctxCore k
  let s := s.setCore core ((s.core core).land cells)
  let c := s.ctx k
  s.setCtx k { c with gstores := c.gstores.map fun g =>
    if g.word < o.word then { g with cells := g.cells.filter fun p => !(cells.any fun q => decide (q.1 = p.1)) } else g }

/-- The next row of `gred`: summed and written, or passed over with its code (R151). -/
def State.gredLand (s : State) (k : Nat) (o : Op) : State :=
  let t := o.issued
  let r := o.shape
  let row := r.sp + t * r.spstride
  let next : Op → Op := fun y => { y with issued := t + 1 }
  let skip : Nat → State := fun code => (s.setCtx k ((s.ctx k).updOp o.id fun y => next (y.fail code))).markOp k o.id
  if o.phase = 0 ∨ r.rows ≤ t then s
  else if o.tokenFailed t then skip 0
  else match o.gredConf t with
    | none => skip 8
    | some hs =>
      let pays := hs.map fun h => (h, rowPay + 16 * t + h.pay)
      if pays.any fun p => o.rowFailed p.2 then skip 0
      else if pays.all fun p => (o.rowData p.2).isSome then
        let slots := pays.map fun p => (p.1.gate, o.pfmtOf t p.1.pay, (o.rowData p.2).getD [])
        let s := s.landSp k o (cellsAt row (gredRow slots (r.bytes / 4)))
        ((s.setCtx k ((s.ctx k).updOp o.id next)).markOp k o.id).copyBar k o r.bytes
      else s

/-- A tile row whose bytes have all been read is written (R134). -/
def State.tileLand (s : State) (k : Nat) (o : Op) (row : Nat) : State :=
  match o.rowData row with
  | none => s
  | some bs =>
    let c := s.ctx k
    let t := AMap.get ([] : AMap (List W32)) c.tiles o.tile
    let c := { c with tiles := AMap.set c.tiles o.tile (AMap.set t row (rowFromBytes o.shape.cvt bs)) }
    (s.setCtx k (c.updOp o.id fun y =>
      { y with pieces := y.pieces.map fun p => if p.row = row then { p with st := .landed } else p })).copyBar k o bs.length

/-- Piece `i` lands: its bytes in scratchpad, or a write's reply taken note of; the watermark moves and the barrier hears. -/
def State.landPiece (s : State) (k : Nat) (o : Op) (i : Nat) (p : Piece) : State :=
  let dest := match o.kind with | .cpIn | .cpPf | .cpGat => true | _ => false
  let s := if dest then s.landSp k o (cellsAt p.sp p.data) else s
  let s := s.setCtx k ((s.ctx k).updOp o.id fun y => { y with pieces := updPiece y.pieces i fun q => { q with st := .landed } })
  (s.markOp k o.id).copyBar k o p.len

/-- The next bytes of a copy land (R132 step 3, R150). -/
def execCopyRowLanding (k id : Nat) (s : State) : Out :=
  match (s.ctx k).findOp id with
  | none => .next s
  | some o =>
    match o.kind with
    | .gred =>
      match (if o.phase = 1 then o.fractured else none) with
      | some cid => .next ((s.setCtx k ((s.ctx k).updOp id fun y => y.gredRepair cid)).pump k)
      | none => .next (if o.viewRead then s.gredLand k o else s)
    | .cpIn | .cpPf | .cpGat | .accLd | .cpOut | .cpCst | .accSt =>
      let dest := match o.kind with | .cpIn | .cpPf | .cpGat | .accLd => true | _ => false
      match (if dest then o.fractured else none) with
      | some cid => .next ((s.setCtx k ((s.ctx k).updOp id fun y => y.repairView cid)).pump k)
      | none =>
        let ok : Piece → Bool := fun p => if dest then o.mayLand p else decide (p.st = .replied)
        if o.kind = .accLd then
          match (List.range o.shape.rows).find? fun r => (o.rowData r).isSome && (o.pieces.all fun p => decide (p.row ≠ r) || ok p) with
          | some r => .next (s.tileLand k o r)
          | none => .next s
        else match (List.range o.pieces.length).find? fun i => (o.pieces[i]?).any ok with
          | none => .next s
          | some i => match o.pieces[i]? with | some p => .next (s.landPiece k o i p) | none => .next s
    | _ => .next s

/-! ## Completion (R133, R213, R214, R218) -/

/-- Whether a copy has nothing left to do: rows that it could not read in scratchpad have been failed too. A row of `acc.ld` that
could not be read whole is not written. -/
def Op.finished (o : Op) : Bool :=
  o.passed && o.lost.isEmpty && match o.kind with
    | .gred => decide (o.phase = 1) && decide (o.shape.rows ≤ o.issued)
    | .xdisp _ => decide (o.rows.length ≤ o.phase)
    | .resolve _ => decide (2 * o.shape.rows + 1 ≤ o.phase) && o.rows.all (fun x => decide (x.st = 6)) && decide (o.c = 0)
    | .accLd => o.pieces.all fun p => decide (p.st = .landed ∨ p.st = .failed) || (decide (p.st = .replied) && o.rowFailed p.row)
    | .cpIn | .cpPf | .cpGat | .cpOut | .cpCst | .accSt => o.pieces.all fun p => decide (p.st = .landed ∨ p.st = .failed)
    | _ => false

/-- A copy's token (R133), with the code of the first faulting row of a `cp.pf` (R213). -/
def Op.token (o : Op) : W64 :=
  let code := if o.defer then (o.fault.map (·.1)).getD 0 else o.code
  BitVec.ofNat 64 (tokDone + b2n o.frac * 2 ^ 62 + b2n o.defer * 2 ^ 61 + code * 2 ^ 48)

/-- The deferred-fault table after a copy (R213, R214). -/
def Op.settleDft (o : Op) (t : DefTable) (open_ : Nat → Bool) : DefTable :=
  match o.kind, o.fault with
  | .cpPf, some (code, row) =>
    if o.defer then t.add ⟨o.shape.aux, decide (code = 0), code, vaOf (o.shape.va + row * o.shape.vstride), false, none⟩ else t
  | .resolve _, _ =>
    let conf := (o.pids.filter (·.2)).map (·.1)
    t.settle o.id conf ((o.pids.map (·.1)).filter fun x => !conf.elem x) open_
  | _, _ => t

def execCopyCompletion (k id : Nat) (s : State) : Out :=
  match (s.ctx k).findOp id with
  | none => .next s
  | some o =>
    if !o.lost.isEmpty then .next (s.failLost k o)
    else if !o.finished then .next s
    else
      let c := s.ctx k
      let dft := o.settleDft c.dft fun x => c.s.log.any fun e => decide (e.id = x)
      let note := match o.kind with
        | .resolve _ => if (dft.raisedVal id).isSome then Note.resolveTok else .plain
        | _ => .plain
      let c := (({ c with dft := dft }.freeChan o).putTokNote id o.token note).dropOp id
      let s := s.setCtx k c
      let s := if o.burst = 2 then { s with burstHeld := s.burstHeld - 1 }
        else { s with burstQ := s.burstQ.filter fun q => decide (q ≠ (k, id)) }
      .next (s.pump k)

/-! ## Replies (R133, R137, R147, R149) -/

/-- The bytes of a load with the context's own stores laid over them (R136). -/
def overlaid (list bs : List Byte) : List Byte :=
  (List.range bs.length).map fun i => if list.getD (2 * i) 0#8 = 0#8 then bs.getD i 0#8 else list.getD (2 * i + 1) 0#8

/-- The horizon's write is given up: the home was lost (R147). -/
def Ctx.unanchor (c : Ctx) (id : Nat) : Ctx := { c with u := { c.u with log := c.u.log.filter fun e => decide (e.id ≠ id) } }

/-- What the reply of a register-writing operation does. -/
def Ctx.replyReg (c : Ctx) (o : Op) (code : Nat) (args data : List Byte) : Ctx :=
  let done : Ctx → Ctx := fun x => x.dropOp o.id
  match o.kind with
  | .gld n sx | .cld n sx =>
    if code = 7 then done (c.putTokNote o.id 0#64 (.overrun o.c))
    else if code ≠ 0 then done (c.putTokNote o.id 0#64 (.remote code))
    else
      let v := leNat (overlaid o.list (data.take n))
      done (c.putTok o.id (if sx then w64 (signed (8 * n) v) else BitVec.ofNat 64 v))
  | .at _ w =>
    if code ≠ 0 then done (c.putTokNote o.id 0#64 (.remote code))
    else done (c.putTok o.id (BitVec.ofNat 64 (rfld data 0 (if w then 8 else 4))))
  | .anchor hj =>
    if code ≠ 0 then done ((c.unanchor o.id).putTok o.id (token code 0))
    else done ((c.putU o.id (uHzn + hj) (BitVec.ofNat 64 (2 ^ 63 + o.c * 2 ^ 32 + rfld args 0 4))).putTok o.id (token 0 0))
  | .publish => done (c.putTok o.id (token code 0))
  | .barArr =>
    if code ≠ 0 then done (c.putTok o.id (token code 0))
    else done { c.putTok o.id (BitVec.ofNat 64 (rfld args 0 4)) with barRec := some (o.addr, rfld args 0 4) }
  | _ => done c

/-- A piece of a copy has its reply. -/
def Op.replyPiece (o : Op) (i code pa : Nat) (args data : List Byte) : Op :=
  match o.pieces[i]? with
  | none => o
  | some p =>
    if p.st = .failed then o else
    let put : Piece → Op := fun q => { o with pieces := updPiece o.pieces i fun _ => q }
    let off := match o.readsAt p with | some _ => pa % 128 | none => pa % 16
    let lineVer := if 7 ≤ args.length then some (rfld args 0 3, rfld args 3 4) else none
    let keeps := match o.kind with | .xdisp _ | .resolve _ | .cpCst => true | _ => false
    if code = 0 then
      if o.writes p then put { p with st := .replied }
      else match o.kind with
        | .cpCst => put { p with st := .replied }
        | _ => put { p with st := .replied, data := (data.drop off).take p.len, ver := if keeps then p.ver else lineVer }
    else if code = 7 ∧ p.ver.isSome ∧ !o.throughHz ∧ !keeps then put { p with st := .ready, ver := none }
    else match o.kind with
      | .cpPf => if code ≤ 4 then o.deferFault p.row code else (put { p with st := .failed }).fail code
      | .coll => put { p with st := .failed, ver := some (code, 0) }
      -- a replica entry that cannot be read leaves its expert unplaced (R279); a descriptor's home answers the row (R283)
      | .xdisp _ | .resolve _ => if rowEntry ≤ p.row then put { p with st := .failed } else (put { p with st := .failed }).fail code
      | _ => (put { p with st := .failed }).fail code

/-- A row of `xdisp` or `resolve` has its answer (R280, R282): taken, refused with a code, or no room. -/
def State.rowAnswer (s : State) (k id i code : Nat) (room : Bool) : State :=
  match (s.ctx k).findOp id with
  | none => s
  | some o =>
    let set : Nat → Op → Op := fun n y => { y with rows := updRow y.rows i fun r => { r with st := n } }
    let s := s.recordCode code (s.eng (ctxCore k)) (s.ctx k).stat.vf 0
    if !room then s.setCtx k ((s.ctx k).updOp id (set 4))
    else
      let s := s.setCtx k ((s.ctx k).updOp id fun y => set 6 (if code = 0 then y else y.fail code))
      (if code = 0 then s.copyBar k o o.b else s).pump k

/-- A reply for a piece, or for the one request of an operation without pieces. -/
def State.pieceReply (s : State) (k id i code : Nat) (args data : List Byte) : State :=
  let rows := ((s.ctx k).findOp id).any fun o => match o.kind with | .xdisp _ | .resolve _ => true | _ => false
  if rows && decide (rowReq ≤ i) then s.rowAnswer k id (i - rowReq) code (args.isEmpty)
  else match (s.ctx k).findOp id with
  | none => s
  | some o =>
    let c := s.ctx k
    let pa := match o.pieces[i]? with | some ⟨_, _, _, _, some (_, a), _, _, _, _⟩ => a | _ => 0
    let s := s.recordCode code (s.eng (ctxCore k)) c.stat.vf pa
    let c := s.ctx k
    match o.kind with
    | .gld _ _ => (s.setCtx k (c.replyReg o code args (data.drop (pa % 16)))).pump k
    | .cld _ _ => (s.setCtx k (c.replyReg o code args (data.drop (pa % 128)))).pump k
    | .at _ _ | .anchor _ | .publish | .barArr | .barInit => (s.setCtx k (c.replyReg o code args data)).pump k
    | _ =>
      let s := s.setCtx k (c.updOp id fun y => y.replyPiece i code pa args data)
      (s.markOp k id).pump k

/-- An entry of the combining buffer has been performed at its home; a code is kept for the drain or `exit` that waits for
it (R137). -/
def State.combineReply (s : State) (core k tag code : Nat) : State :=
  let co := s.core core
  let s := s.setCore core { co with cb := co.cb.filter fun e => !(e.sent && decide (e.tag = tag)) }
  let s := s.recordCode code (s.eng core) (s.ctx k).stat.vf 0
  let s := if code = 0 then s else s.setCtx k { s.ctx k with gstErr := (s.ctx k).gstErr ++ [code] }
  s.pumpCore core

end Sys2Proof.Machine
end

