-- ==== Sys2Proof/Machine/Home.lean ====
section
/-!
DEFINITION. The home of device memory and of commit records: what each arriving request does and answers (R144 to R150,
R242, R252, R280 to R282, R296 to R298, R321, R330, R331, R336 to R338, R350, R351), replies, and barriers' answers (R141).
-/

namespace Sys2Proof.Machine

/-! ## Lines with errors (R350, R351) -/

/-- Lines that bytes [pa, pa + n) touch. -/
def linesAt (pa n : Nat) : List Nat := (List.range (linesOf pa n)).map fun i => pa / 128 + i

/-- An access has found an error that cannot be corrected: it enters the records (R349). -/
def State.noteBad (s : State) (line vf : Nat) : State := s.record 2 0x03 0 vf (line * 128)

/-- Cycles of an hour: 210,000 are 100 µs (R307). -/
def hour : Nat := 210000 * 10000 * 3600

/-- A corrected error enters the records; errors of one line within one hour share an entry (R349). -/
def State.noteCorrected (s : State) (addr : Nat) : State :=
  let same : ErrRec → Bool := fun e => decide (e.kind = 1) && decide (e.addr = addr) && decide (s.now < e.time + hour)
  if s.errs.any same then { s with errs := s.errs.map fun e => if same e then { e with count := e.count + 1 } else e }
  else s.record 1 0 0 0 addr

/-- An access has met lines of which some hold an error that it corrects: those enter the records (R349). -/
def State.noteFixes (s : State) (lines : List Nat) : State :=
  (lines.filter s.eccFix.elem).foldl (fun s l => s.noteCorrected (128 * l)) s

/-- A write of a whole line with its sideband makes it good again, in the service record too (R351). -/
def State.heal (s : State) (line : Nat) : State :=
  let d := dieOfPa (line * 128)
  let g := s.die d
  let good : Nat × Nat × Bool → Nat × Nat × Bool := fun e => if e.1 = line then (e.1, e.2.1, false) else e
  { s.setDie d { g with retired := g.retired.map good } with
    conf := { s.conf with lost := s.conf.lost.map good },
    eccBad := s.eccBad.filter fun l => decide (l ≠ line), eccFix := s.eccFix.filter fun l => decide (l ≠ line) }

/-! ## The order in which a home applies requests (R250, R252) -/

/-- What an access is to: a device-memory line, a commit record, a barrier, or nothing that others reach. -/
def Pkt.place (p : Pkt) : Nat × Nat :=
  if p.op = opANC ∨ p.op = opPUB then (1, p.addr / 16) else if p.op = opBAR then (2, p.addr / 16) else (0, p.addr / 128)

def Arr.isReply (a : Arr) : Bool := decide (a.pkt.op = opREPLY)

/-- Whether two packets travel in one ordered stream. -/
def Arr.sameLane (a b : Arr) : Bool :=
  a.isReply == b.isReply && decide (a.pkt.src = b.pkt.src) && decide (a.pkt.eng = b.pkt.eng) && decide (a.pkt.lane = b.pkt.lane)

/-- Whether request `b` reaches its line before `a`: an earlier cycle, or the lower rank in the same one. -/
def Arr.ranksBefore (b a : Arr) : Bool := decide (b.cyc < a.cyc) || (decide (b.cyc = a.cyc) && decide (b.rank < a.rank))

/-- Whether the die whose memory a request is for is awake: the access that wakes it waits (R364). -/
def State.awake (s : State) (p : Pkt) : Bool :=
  decide ((Pkt.place p).1 ≠ 0) || s.dieAwake (dieOfPa p.addr)

/-- Whether arrival `i` may be applied now: no earlier one of its lane is left, all that reach its line in its cycle are there,
none of them ranks before it, and no access has reached its line in this cycle (R252). A row whose turn has come at a receive buffer
stands before both. -/
def State.mayApply (s : State) (i : Nat) (a : Arr) : Bool :=
  !((s.inbox.take i).any fun b => b.sameLane a) &&
    (a.isReply || (decide (a.cyc < s.now) && !s.touched.elem (Pkt.place a.pkt) && s.awake a.pkt &&
      !(s.inbox.any fun b => !b.isReply && decide (Pkt.place b.pkt = Pkt.place a.pkt) && b.ranksBefore a) &&
      !(s.expRows.any fun e => e.src.any fun p => sameStream p a.pkt || decide (Pkt.place p = Pkt.place a.pkt))))

/-- An access has reached these lines of device memory in this cycle. -/
def State.touch (s : State) (lines : List Nat) : State := { s with touched := s.touched ++ lines.map fun l => (0, l) }

/-- Whether a line of device memory is another access's in this cycle: one has reached it, or one that came earlier waits. -/
def State.lineBusy (s : State) (line : Nat) : Bool :=
  s.touched.elem (0, line) || s.inbox.any fun a => !a.isReply && decide (Pkt.place a.pkt = (0, line)) && decide (a.cyc < s.now)

/-- Arrival `i` leaves the inbox; its line is its own in this cycle. -/
def State.take (s : State) (i : Nat) : State :=
  let here := ((s.inbox[i]?).map fun a => if a.isReply then [] else [Pkt.place a.pkt]).getD []
  { s with inbox := s.inbox.eraseIdx i, touched := s.touched ++ here }

/-- Whether requests of a function are turned away (R354, steps 1 to 4). -/
def State.resetting (s : State) (vf : Nat) : Bool := decide ((s.func vf).flr ≠ 0)

/-! ## Twin pages (R144 to R146, R336, R338) -/

/-- Distance between the two slots of a twin page's line: slot B lies one frame higher. -/
def slotB : Nat := 65536

def State.sideOf (s : State) (pa : Nat) : Side := AMap.get (Side.mk 0 0 0 0) s.side (pa / 128)

/-- The version of constellation `cid` that the slot at `pa` holds. -/
def State.slotVer (s : State) (pa cid : Nat) : Nat := if (s.sideOf pa).cid = cid then (s.sideOf pa).ver else 0

/-- The constellation that a line of a twin page belongs to: the one a slot names. -/
def State.lineCid (s : State) (pa : Nat) : Nat :=
  if (s.sideOf pa).cid ≠ 0 then (s.sideOf pa).cid else (s.sideOf (pa + slotB)).cid

/-- The slot with the greatest version not above `v`: none is an overrun (R146). -/
def State.slotAt (s : State) (pa cid v : Nat) : Option Nat :=
  let a := s.slotVer pa cid
  let b := s.slotVer (pa + slotB) cid
  if verLe a v then (if verLe b v && !verLe b a then some (pa + slotB) else some pa)
  else if verLe b v then some (pa + slotB) else none

/-- The slot that a member write of version `v` goes to (R145): one of another constellation counts as holding version 0 (R144). -/
def State.slotFor (s : State) (pa cid v : Nat) : Nat :=
  let a := s.slotVer pa cid
  let b := s.slotVer (pa + slotB) cid
  if a = v then pa
  else if b = v then pa + slotB
  else if verLe b a then pa + slotB else pa

/-- C of a constellation as its home answers. -/
inductive CVal where
  | got (c : Nat)
  | code (n : Nat)
  | away
  deriving DecidableEq, Repr

/-- C in this device's table of commit records (R336). -/
def State.commitOf (s : State) (cid vf : Nat) : CVal :=
  match s.commits.find? (cid % 8192) with
  | none => .code 0x01
  | some r => if r.vf ≠ vf then .code 0x02 else .got r.c

/-- C for arrival `a`: from this device's table, from the answer that came, or still to be fetched (R338). -/
def State.cFor (s : State) (a : Arr) (cid : Nat) : CVal :=
  if cid / 8192 = s.vertex then s.commitOf cid a.pkt.vf
  else if a.fetch = 2 then (if a.ccode ≠ 0 then .code a.ccode else .got a.cver)
  else .away

/-- Engine number of the fetches that memory controllers make (log 13). -/
def engHome : Nat := 511

/-- The home asks the commit record's home for C, once. -/
def State.fetchC (s : State) (i : Nat) (a : Arr) (cid : Nat) : State :=
  if a.fetch ≠ 0 then s
  else
    let s := { s with inbox := (List.range s.inbox.length).filterMap fun j => (s.inbox[j]?).map fun (b : Arr) => if j = i then { b with fetch := 1 } else b }
    s.emit (.fetchC a.pkt.src a.pkt.eng a.pkt.tag) (cid / 8192) engHome a.pkt.vf opANC (16 * (cid % 8192)) (leBytes 3 cid) []

/-! ## Receive buffers at their home (R280 to R282) -/

/-- The fields of a descriptor line. -/
structure Desc where
  base : Nat
  cap : Nat
  esz : Nat
  tail : Nat
  head : Nat
  obase : Nat
  ocap : Nat
  ocnt : Nat
  deriving DecidableEq, Repr

def Desc.parse (bs : List Byte) : Desc :=
  ⟨rfld bs 0 8 % 2 ^ 55, rfld bs 8 4, rfld bs 12 4, rfld bs 16 8, rfld bs 24 8, rfld bs 32 8 % 2 ^ 55, rfld bs 40 4, rfld bs 44 4⟩

def Desc.occ (d : Desc) : Nat := (d.tail + 2 ^ 64 - d.head) % 2 ^ 64
def Desc.full (d : Desc) : Bool := decide (d.cap ≤ d.occ)

/-- Where bytes of a virtual range lie in this device, in frames that the home may write; else the code it answers. -/
def State.ringPlace (s : State) (vf va len : Nat) : Except Nat (List Nat) :=
  let frames := (List.range ((va + len - 1) / 65536 - va / 65536 + 1)).map fun i => (va / 65536 + i) * 65536
  frames.foldl (fun acc f =>
    match acc with
    | .error c => .error c
    | .ok ps =>
      match s.xlate vf f .wr with
      | .error c => .error c
      | .ok (home, pa) =>
        if home ≠ s.vertex then .error 0x01
        else match s.frameCheck pa vf .write with
          | .ok => .ok (ps ++ [pa])
          | .code n => .error (if n = 0x02 then 0x02 else 0x01)
          | _ => .error 0x01) (.ok [])

/-- Physical address of byte `i` of a range whose frames are known. -/
def ringPa (va : Nat) (frames : List Nat) (i : Nat) : Nat := frames.getD ((va + i) / 65536 - va / 65536) 0 + (va + i) % 65536

/-- Bytes written at physical addresses, with a code: a partial write of a bad line is refused (R351); a whole one makes it
good. -/
def State.putCells (s : State) (vf : Nat) (cells : List (Nat × Byte)) : State × Nat :=
  let lines := (cells.map fun p => p.1 / 128).eraseDups
  let whole : Nat → Bool := fun l => (List.range 128).all fun i => cells.any fun p => decide (p.1 = 128 * l + i)
  match lines.find? fun l => s.badLine l && !whole l with
  | some l => (s.noteBad l vf, 0x03)
  | none => ((((lines.filter whole).foldl State.heal s).noteFixes (lines.filter fun l => !whole l)).wrMem cells, 0)

def State.wrRange (s : State) (vf va : Nat) (frames : List Nat) (bs : List Byte) : State × Nat :=
  s.putCells vf ((List.range bs.length).map fun i => (ringPa va frames i, bs.getD i 0#8))

/-- The ring that this home keeps for a descriptor. -/
def State.ringOf (s : State) (desc : Nat) : Ring :=
  (s.rings.find? fun r => decide (r.desc = desc)).getD ⟨desc, 0, [], 0, 0, false, 0⟩

def State.setRing (s : State) (r : Ring) : State :=
  if s.rings.any fun x => decide (x.desc = r.desc) then
    { s with rings := s.rings.map fun x => if x.desc = r.desc then r else x }
  else { s with rings := s.rings ++ [r] }

/-- The home notes a change of a buffer's occupancy, for its next report (R281). -/
def State.ringChanged (s : State) (desc : Nat) : State := s.setRing { s.ringOf desc with changed := true }

/-- An entry enters the main ring and TAIL advances, or the overflow ring and OCNT does (R280, R282). -/
def State.ringPut (s : State) (vf desc : Nat) (ovf : Bool) (bs : List Byte) : Except Nat State :=
  let d := Desc.parse (s.rdMem desc 128)
  let r := s.ringOf desc
  let va := if ovf then d.obase + (r.pos + d.ocnt) % max d.ocap 1 * d.esz else d.base + d.tail % max d.cap 1 * d.esz
  match s.ringPlace vf va bs.length with
  | .error c => .error c
  | .ok fs =>
    let w := s.wrRange vf va fs bs
    if w.2 ≠ 0 then .error w.2
    else .ok (if ovf then w.1.wrMem (cellsAt (desc + 44) (leBytes 4 (d.ocnt + 1)))
      else (w.1.wrMem (cellsAt (desc + 16) (leBytes 8 (d.tail + 1)))).ringChanged desc)

/-- Overflow entries go into the freed room of the main ring, in arrival order (R282). One that lies in a line that cannot be
read is lost, and enters the records (R351). DESIGN CHOICE (log 134). -/
def State.overflowReturn (s : State) (vf desc : Nat) : Nat → State
  | 0 => s
  | fuel + 1 =>
    let d := Desc.parse (s.rdMem desc 128)
    let r := s.ringOf desc
    if d.ocnt = 0 ∨ d.full then s
    else
      let va := d.obase + r.pos % max d.ocap 1 * d.esz
      match s.ringPlace vf va d.esz with
      | .error _ => s
      | .ok fs =>
        let past : State → State := fun s =>
          (s.wrMem (cellsAt (desc + 44) (leBytes 4 (d.ocnt - 1)))).setRing { s.ringOf desc with pos := r.pos + 1 }
        let pas := (List.range d.esz).map fun i => ringPa va fs i
        match pas.find? fun a => s.badLine (a / 128) with
        | some a => (past (s.noteBad (a / 128) vf)).overflowReturn vf desc fuel
        | none =>
          match s.ringPut vf desc false (pas.map fun a => memGet s.mem a) with
          | .error _ => s
          | .ok s => (past s).overflowReturn vf desc fuel

/-- After a write of a line that a receive buffer's home knows as a descriptor, whose occupancy was `occ` before. -/
def State.afterWrite (s : State) (vf line occ : Nat) : State :=
  if s.rings.any fun r => decide (r.desc = line * 128) then
    let s := if (Desc.parse (s.rdMem (line * 128) 128)).occ = occ then s else s.ringChanged (line * 128)
    s.overflowReturn vf (line * 128) (rfld (s.rdMem (line * 128) 128) 44 4)
  else s

/-! ## Reads (R146, R243) -/

/-- What a home answers: a code, ARGS and data; or it waits for C. -/
inductive HomeAns where
  | done (s : State) (code : Nat) (args data : List Byte)
  | needC (cid : Nat)

/-- Bytes read at `pa` from slot A's place or slot B's. -/
def State.readBytes (s : State) (vf pa n : Nat) : HomeAns :=
  match (linesAt pa n).find? s.badLine with
  | some l => .done (s.noteBad l vf) 0x03 [] []
  | none => .done (s.noteFixes (linesAt pa n)) 0 [] (s.rdMem pa n)

/-- A read of a line of a twin page at version `v` of `cid`; its reply names both. -/
def State.readAt (s : State) (vf pa n cid v : Nat) : HomeAns :=
  let line := pa / 128 * 128
  match s.slotAt line cid v with
  | none => .done s 0x07 [] []
  | some slot =>
    match s.readBytes vf (slot + pa % 128) n with
    | .done s 0 _ data => .done s 0 (leBytes 3 cid ++ leBytes 4 v) data
    | r => r

/-- A plain read (R146): of a constellation line at C, else of what stands there. -/
def State.plainRead (s : State) (a : Arr) (pa n : Nat) : HomeAns :=
  let vf := a.pkt.vf
  let line := pa / 128 * 128
  if bitAt (s.frameEnt pa) 53 ∧ s.lineCid line ≠ 0 then
    match s.cFor a (s.lineCid line) with
    | .away => .needC (s.lineCid line)
    | .code c => .done s c [] []
    | .got c => s.readAt vf pa n (s.lineCid line) c
  else s.readBytes vf pa n

/-- The host has read a line afresh: what it holds of it is good again (R257). -/
def State.hostHas (s : State) (p : Pkt) : State :=
  if p.eng = engHost ∧ p.src = s.vertex then { s with hostInv := s.hostInv.filter fun l => decide (l ≠ p.addr / 128) } else s

def State.homeRD (s : State) (a : Arr) : HomeAns :=
  match s.plainRead a a.pkt.addr (16 * pktArg a.pkt 0 1) with
  | .done s' 0 args data => .done (s'.hostHas a.pkt) 0 args data
  | r => r

/-- A read through a horizon, or at a version (R146, R148): of a line whose slots carry the CID, else a plain read. -/
def State.homeRDC (s : State) (a : Arr) : HomeAns :=
  let cid := pktArg a.pkt 0 3
  let line := a.pkt.addr / 128 * 128
  if bitAt (s.frameEnt line) 53 ∧ cid ≠ 0 ∧ ((s.sideOf line).cid = cid ∨ (s.sideOf (line + slotB)).cid = cid) then
    s.readAt a.pkt.vf line 128 cid (pktArg a.pkt 3 4)
  else s.plainRead a line 128

/-! ## Writes and atomics (R145, R252, R321) -/

/-- Occupancy that a line gives as a descriptor. -/
def State.occAt (s : State) (line : Nat) : Nat := (Desc.parse (s.rdMem (line * 128) 128)).occ

/-- Bytes applied at physical addresses. -/
def State.applyWrite (s : State) (vf : Nat) (cells : List (Nat × Byte)) : HomeAns :=
  let r := s.putCells vf cells
  let lines := (cells.map fun p => p.1 / 128).eraseDups
  .done (if r.2 = 0 then lines.foldl (fun t l => t.afterWrite vf l (s.occAt l)) r.1 else r.1) r.2 [] []

/-! ## Headers that software writes while a `resolve` is outstanding (R277) -/

/-- Outstanding `resolve`s of this device's contexts, by context. -/
def State.resolves (s : State) : List (Nat × Op) :=
  (s.ctxs.map fun (p : Nat × Ctx) => (p.2.ops.filter fun o => match o.kind with | .resolve _ => true | _ => false).map fun o => (p.1, o)).flatten

/-- Whether a write is one that a `resolve` or an `xdisp` of this device makes. -/
def State.byExpert (s : State) (p : Pkt) : Bool :=
  decide (p.src = s.vertex) && s.reqs.any fun q => decide (q.tag = p.tag) && decide (q.eng = p.eng) && match q.owner with
    | .piece k id _ => ((s.ctx k).findOp id).any fun o => match o.kind with | .resolve _ | .xdisp _ => true | _ => false
    | _ => false

/-- Bytes 0 to 13 of the headers of token `t` that lie at this device. -/
def State.headerCells (s : State) (k : Nat) (o : Op) (t : Nat) : List Nat :=
  (o.pieces.map fun p =>
    if p.row < rowEntry ∧ p.row / o.shape.ks = t then
      (match p.pa, s.xlate (s.ctx k).stat.vf p.va .wr with
       | some (d, x), _ | none, .ok (d, x) => if d = s.vertex then ((List.range p.len).filter fun i => p.sp + i < 14).map (x + ·) else []
       | none, .error _ => [])
    else []).flatten

/-- A write by software to one of them leaves the token's headers free. -/
def State.spoilToken (s : State) (cells : List (Nat × Byte)) (k : Nat) (o : Op) (t : Nat) : State :=
  let hs := s.headerCells k o t
  if hs.any fun x => cells.any fun c => decide (c.1 = x) then
    let s := s.wrMem ((List.range hs.length).map fun i => (hs.getD i 0, Config.freeByte (s.fresh + i)))
    let s := { s with fresh := s.fresh + hs.length }
    s.setCtx k ((s.ctx k).updOp o.id fun x => { x with spoiled := x.spoiled ++ [t] })
  else s

def State.spoil (s : State) (p : Pkt) (cells : List (Nat × Byte)) : State :=
  let rs := s.resolves
  if rs.isEmpty || s.byExpert p then s
  else rs.foldl (fun s r => (List.range r.2.shape.rows).foldl (fun s t => s.spoilToken cells r.1 r.2 t) s) s

/-- A write that has been made, with what it does to such headers. -/
def HomeAns.spoiling (p : Pkt) (cells : List (Nat × Byte)) : HomeAns → HomeAns
  | .done s 0 args data => .done (s.spoil p cells) 0 args data
  | r => r

def State.homeWR (s : State) (a : Arr) : HomeAns :=
  let cells := cellsAt a.pkt.addr a.pkt.data
  (s.applyWrite a.pkt.vf cells).spoiling a.pkt cells

/-- The bytes of a masked write: mask of 16 bytes, then the line. -/
def maskedCells (line : Nat) (data : List Byte) : List (Nat × Byte) :=
  ((List.range 128).filter fun i => bitAt (rfld data 0 16) i).map fun i => (line + i, data.getD (16 + i) 0#8)

def State.homeWRM (s : State) (a : Arr) : HomeAns :=
  let cells := maskedCells (a.pkt.addr / 128 * 128) a.pkt.data
  (s.applyWrite a.pkt.vf cells).spoiling a.pkt cells

/-- A member write (R145): the version is checked against C, then the line goes into its slot with its sideband. What the host
holds of the line, whichever slot it had read, is invalidated (R257). -/
def State.homeWRC (s : State) (a : Arr) : HomeAns :=
  let cid := pktArg a.pkt 0 3
  let v := pktArg a.pkt 3 4
  let line := a.pkt.addr / 128 * 128
  match s.cFor a cid with
  | .away => .needC cid
  | .code c => .done s c [] []
  | .got c =>
    if v ≠ (c + 1) % 2 ^ 32 then .done s 0x06 [] []
    else
      let slot := s.slotFor line cid v
      let s := s.heal (slot / 128)
      let s := s.wrMem (cellsAt slot a.pkt.data)
      let s := { s with ctxs := s.ctxs.map fun (p : Nat × Ctx) => (p.1, p.2.noteWrite [line / 128]),
                        hostInv := if s.hostInv.elem (line / 128) then s.hostInv else s.hostInv ++ [line / 128] }
      .done { s with side := AMap.set s.side (slot / 128) ⟨cid, v, pktArg a.pkt 7 2, pktArg a.pkt 9 2⟩ } 0 [] []

/-- An atomic (R138, R252): its old value is answered, and the new one written, in one step. -/
def State.homeAT (s : State) (a : Arr) : HomeAns :=
  let n := pktArg a.pkt 0 1 % 16
  let w := if bitAt (pktArg a.pkt 0 1) 7 then 8 else 4
  let pa := a.pkt.addr
  if s.badLine (pa / 128) then .done (s.noteBad (pa / 128) a.pkt.vf) 0x03 [] []
  else
    let s := s.noteFixes [pa / 128]
    let x := leNat (s.rdMem pa w)
    let y := atomicNew n (8 * w) x (rfld a.pkt.data 0 8 % 2 ^ (8 * w)) (rfld a.pkt.data 8 8 % 2 ^ (8 * w))
    let cells := cellsAt pa (leBytes w y)
    .done (((s.wrMem cells).afterWrite a.pkt.vf (pa / 128) (s.occAt (pa / 128))).spoil a.pkt cells) 0 [] (leBytes w x)

/-! ## Commit records (R147, R149, R336) -/

def State.homeANC (s : State) (a : Arr) : HomeAns :=
  match s.commitOf (pktArg a.pkt 0 3) a.pkt.vf with
  | .got c => .done s 0 (leBytes 4 c) []
  | .code n => .done s n [] []
  | .away => .done s 0x01 [] []

def State.homePUB (s : State) (a : Arr) : HomeAns :=
  let cid := pktArg a.pkt 0 3
  let v := pktArg a.pkt 3 4
  match s.commitOf cid a.pkt.vf with
  | .got c =>
    if (c + 1) % 2 ^ 32 = v then
      .done { s with commits := AMap.set s.commits (cid % 8192) ⟨a.pkt.vf, v⟩ } 0 [] []
    else .done s 0x09 [] []
  | .code n => .done s n [] []
  | .away => .done s 0x01 [] []

def State.homeBAR (s : State) (a : Arr) : HomeAns :=
  let r := s.barStep a.pkt.addr (pktArg a.pkt 0 1) (pktArg a.pkt 1 4)
  .done r.1 r.2.1 (leBytes 4 r.2.2) []

/-! ## Reductions (R330, R331) -/

/-- Combining two elements (R331). -/
def redComb (op a b : Nat) : Nat :=
  if op = 2 then (a + b) % 2 ^ 32
  else
    let x := fmt32.decode a
    let y := fmt32.decode b
    if op = 1 then (if x.isNan || y.isNan then fmt32.nanBits else ElemFmt.f32.exact (x.maxv y))
    else (fmt32.round 0 0 (XV.add false x y).1).1

/-- One level of the tree: neighbours combined. -/
def gatherLevel (op : Nat) : List Nat → List Nat
  | a :: b :: rest => redComb op a b :: gatherLevel op rest
  | xs => xs

/-- The tree over a list, level by level. -/
def gatherTree (op : Nat) : Nat → List Nat → Nat
  | 0, xs => xs.getD 0 0
  | n + 1, xs => gatherTree op n (gatherLevel op xs)

/-- One element of the result, from the slots' elements in slot order and the order of arrival (R331). -/
def redElem (mode : Nat) (order : List Nat) (xs : List Nat) : Nat :=
  let op := mode % 4
  let chain : List Nat → Nat := fun ys => match ys with | [] => 0 | y :: rest => rest.foldl (redComb op) y
  if mode / 4 % 4 = 0 then gatherTree op xs.length.log2 xs
  else if mode / 4 % 4 = 1 then chain xs
  else chain (order.map fun i => xs.getD i 0)

/-- Whether one payload of an arrival agrees with another in all but SLOT. -/
def redAgree (a b : List Byte) : Bool := decide (a.take 16 = b.take 16) && decide (a.drop 18 = b.drop 18)

/-- The device and the address that bytes 0 to 7 of a payload name (log 14). -/
def redDst (pl : List Byte) : Nat × Nat := (bits (rfld pl 0 8) 39 11, bits (rfld pl 0 8) 0 39)

/-- The code of the first slot read that fails, for `vf`. -/
def State.redCode (s : State) (vf hdr nslot blk : Nat) : Nat :=
  let bad := (List.range nslot).findSome? fun i =>
    let a := hdr + 128 + i * blk
    let frames := (List.range ((a + blk - 1) / 65536 - a / 65536 + 1)).map fun j => (a / 65536 + j) * 65536
    match frames.findSome? fun f => match s.frameCheck f vf .read with | .code c => some c | .ok => none | _ => some 0x01 with
    | some c => some c
    | none => if (linesAt a blk).any s.badLine then some 0x03 else none
  bad.getD 0

/-- The bytes of the slots that the engine reads. -/
def State.redSlots (s : State) (r : Redn) : List Byte :=
  match r.pool with
  | some p => p.2
  | none => s.rdMem (r.hdr + 128) (rfld r.args 18 2 * rfld r.args 24 4)

/-- The result bytes of a reduction; unspecified where the arrivals disagreed. -/
def State.redResult (s : State) (r : Redn) : List Byte :=
  let blk := rfld r.args 24 4
  let ns := rfld r.args 18 2
  if r.mixed then (List.range blk).map fun i => Config.freeByte (s.fresh + i)
  else
    let xs := s.redSlots r
    ((List.range (blk / 4)).map fun e =>
      leBytes 4 (redElem (rfld r.args 20 1) r.order ((List.range ns).map fun i => rfld xs (i * blk + 4 * e) 4))).flatten

/-- Pieces of a write that lie in one line each: their addresses and lengths. -/
def linePieces (pa n : Nat) : List (Nat × Nat) :=
  (linesAt pa n).map fun l =>
    let lo := max pa (128 * l)
    (lo, min (pa + n) (128 * l + 128) - lo)

/-- The lines of this device's memory that the engine reads for a reduction. -/
def Redn.lines (r : Redn) : List Nat :=
  if r.pool.isSome then [] else linesAt (r.hdr + 128) (rfld r.args 18 2 * rfld r.args 24 4)

/-- The reduction starts: the engine of port 32 reads the slots and writes the result (R330). -/
def State.redStart (s : State) (r : Redn) : State :=
  let blk := rfld r.args 24 4
  let ns := rfld r.args 18 2
  let code := if r.pool.isSome then 0 else s.redCode r.vf r.hdr ns blk
  let out := s.redResult r
  let s := { s with redns := s.redns.map fun x => if x = r then { r with started := true, code := code } else x,
                    fresh := if r.mixed then s.fresh + blk else s.fresh }
  let s := (s.noteFixes r.lines).touch r.lines
  if code ≠ 0 then s
  else
    let (dev, pa) := redDst r.args
    (linePieces pa blk).foldl (fun (s : State) (p : Nat × Nat) =>
      let bs := (out.drop (p.1 - pa)).take p.2
      if p.1 % 16 = 0 ∧ p.2 % 16 = 0 then s.emit (.reduce r.hdr) dev (engPort 32) r.vf opWR p.1 [] bs
      else s.emit (.reduce r.hdr) dev (engPort 32) r.vf opWRM (p.1 / 128 * 128) [] (wrmData (p.1 % 128) bs fun _ => false)) s

/-- An arrival that makes COUNT `n`: the reduction is due with the last one. The first arrival after software has cleared the
header begins the block afresh (R333). -/
def State.redArrive (s : State) (hdr vf n : Nat) (pl : List Byte) (pool : Option (Nat × List Byte)) : State :=
  let old := if n = 1 then none else s.redns.find? fun r => decide (r.hdr = hdr) && !r.due
  let last := decide (n = rfld pl 18 2)
  let r : Redn := match old with
    | some r => { r with order := r.order ++ [rfld pl 16 2], args := pl, vf := vf, mixed := r.mixed || !redAgree r.args pl,
                         due := last, pool := pool }
    | none => ⟨hdr, false, [rfld pl 16 2], pl, vf, last, 0, false, pool⟩
  { s with redns := (s.redns.filter fun r => !(decide (r.hdr = hdr) && !r.due)) ++ [r] }

/-- An arrival at a header of this device's memory: COUNT rises by one. -/
def State.homeRED (s : State) (a : Arr) : HomeAns :=
  let hdr := a.pkt.addr
  if s.badLine (hdr / 128) then .done (s.noteBad (hdr / 128) a.pkt.vf) 0x03 [] []
  else
    let s := s.noteFixes [hdr / 128]
    let n := (leNat (s.rdMem hdr 4) + 1) % 2 ^ 32
    .done ((s.wrMem (cellsAt hdr (leBytes 4 n))).redArrive hdr a.pkt.vf n a.pkt.data none) 0 [] []

/-- COUNT set to 0: a partial write of the header's line, which a lost line refuses (R351); in the pool, a write there. -/
def State.clearCount (s : State) (r : Redn) : State :=
  match r.pool with
  | some p =>
    let q : Pkt := { dst := s.vertex, src := s.vertex, eng := engPort 32, hops := 0, fwd := false, vf := r.vf, lane := laneOf p.1, nm := false,
                     op := opWRM, via := 0, mcg := 0, tag := s.newTag (engPort 32), code := 0, addr := p.1 / 128 * 128, args := [],
                     data := wrmData (p.1 % 128) (leBytes 4 0) fun _ => false }
    { (s.await .firmware q s.vertex).holdBack q with poolOut := s.poolOut ++ [⟨q, q.addr⟩] }
  | none => (s.putCells r.vf (cellsAt r.hdr (leBytes 4 0))).1.touch [r.hdr / 128]

/-- The engine of port 32 takes a reduction on: it reads the slots, once its earlier requests have been performed and the lines are
its own in this cycle (R250, R252). Once the result has been written, COUNT is 0 again and the landing is made; a failure is recorded
instead. -/
def execReductionComplete (i : Nat) (s : State) : Out :=
  match s.redns[i]? with
  | none => .next s
  | some r =>
    if !r.due then .next s
    else if !r.started then
      .next (if !(s.reqsOf (engPort 32)).isEmpty || r.lines.any s.lineBusy then s else s.redStart r)
    else if s.reqs.any (fun q => decide (q.owner = .reduce r.hdr)) || (r.pool.isNone && s.lineBusy (r.hdr / 128)) then .next s
    else
      let s := ({ s with redns := s.redns.eraseIdx i } : State).clearCount r
      let bar := rfld r.args 8 8
      .next (if r.code ≠ 0 then s.record 9 r.code (engPort 32) r.vf r.hdr
        else if bitAt bar 63 then s.landBar (engPort 32) r.vf (redDst r.args).1 (bar % 2 ^ 30) (rfld r.args 24 4)
        else s)

/-! ## Serving one arrival -/

/-- The bytes of a multicast write: byte 26 of its header says how many of its payload's units they fill (log 15). -/
def mcBytes (p : Pkt) : List Byte := p.data.take (pktArg p 5 1)

/-- A multicast write as a device that forwards its frame sends it on: a write of the same bytes. -/
def mcUnicast (p : Pkt) : Pkt :=
  if !isMulticast p then p
  else if p.addr % 16 = 0 ∧ (mcBytes p).length % 16 = 0 then { p with mcg := 0, args := [], data := mcBytes p }
  else { p with mcg := 0, args := [], op := opWRM, addr := p.addr / 128 * 128, data := wrmData (p.addr % 128) (mcBytes p) fun _ => false }

/-- The landing of a multicast write at this device's own barrier, once it has been performed (R328). -/
def State.mcLand (s : State) (p : Pkt) (code : Nat) : State :=
  if isMulticast p ∧ code = 0 ∧ pktArg p 0 1 = 1 then (s.barStep (pktArg p 1 4) 2 (mcBytes p).length).1 else s

/-- A request is sent on to the peer that holds its frame (R298, R318). -/
def State.sendOn (s : State) (p : Pkt) (dev addr : Nat) : State :=
  let q : Pkt := { (mcUnicast p) with dst := dev, src := s.vertex, fwd := true, hops := 0, nm := false, via := 0, tag := s.newTag p.eng,
                                      addr := addr + (mcUnicast p).addr - p.addr }
  let s := (s.await (.forward p) q dev).holdBack p
  if s.live dev then s.sendOut q else s.deliver (replyOf q dev 0x04 [] []) 0

/-- What the frame table lets a request do: perform, be answered with a code, or be sent on. A request that a peer has
sent on is not sent on again. -/
def State.checkFrame (s : State) (p : Pkt) (acc : FAcc) : FrameRes :=
  match s.frameCheck p.addr p.vf acc with
  | .peer d f => if p.fwd then .code 0x01 else .peer d f
  | .pool g => if p.fwd then .code 0x01 else .pool g
  | r => r

/-- The answer of a home is given, or C is asked for. -/
def State.finish (s : State) (i : Nat) (a : Arr) (r : HomeAns) : State :=
  match r with
  | .done s' code args data => (s'.take i).answer a.pkt code args data
  | .needC cid => s.fetchC i a cid

/-- Arrival `i`, if it is a unicast request of operation `op` whose turn it is. -/
def State.arrival (s : State) (i op : Nat) : Option Arr :=
  match s.inbox[i]? with
  | some a => if a.pkt.op = op ∧ !isMulticast a.pkt ∧ s.mayApply i a then some a else none
  | none => none

/-- A request for device memory. One whose frame is forwarded is left to FORWARDED_REQUEST. -/
def State.serveMem (s : State) (i op : Nat) (acc : FAcc) (go : State → Arr → HomeAns) : Out :=
  match s.arrival i op with
  | none => .next s
  | some a =>
    if s.resetting a.pkt.vf then .next ((s.take i).answer a.pkt 0x02 [] [])
    else match s.checkFrame a.pkt acc with
      | .code c => .next ((s.take i).answer a.pkt c [] [])
      | .ok => .next (s.finish i a (go s a))
      | _ => .next s

/-- A request for something else of this device. -/
def State.serveUnit (s : State) (i op : Nat) (go : State → Arr → HomeAns) : Out :=
  match s.arrival i op with
  | none => .next s
  | some a =>
    if s.resetting a.pkt.vf then .next ((s.take i).answer a.pkt 0x02 [] [])
    else .next (s.finish i a (go s a))

def execRdPkt (i : Nat) (s : State) : Out := s.serveMem i opRD .read State.homeRD
def execRdcPkt (i : Nat) (s : State) : Out := s.serveMem i opRDC .read State.homeRDC
def execWrmPkt (i : Nat) (s : State) : Out := s.serveMem i opWRM .write State.homeWRM
def execWrcPkt (i : Nat) (s : State) : Out := s.serveMem i opWRC .member State.homeWRC
def execAtPkt (i : Nat) (s : State) : Out := s.serveMem i opAT .atomic State.homeAT

def execRedPkt (i : Nat) (s : State) : Out := s.serveMem i opRED .atomic State.homeRED

def execAncPkt (i : Nat) (s : State) : Out := s.serveUnit i opANC State.homeANC
def execPubPkt (i : Nat) (s : State) : Out := s.serveUnit i opPUB State.homePUB
def execBarPkt (i : Nat) (s : State) : Out := s.serveUnit i opBAR State.homeBAR

/-- The further packets of a row whose first one is arrival `i`, with the inbox without them all, once they are there: they
follow it in its lane. -/
def State.rowParts (s : State) (i : Nat) (a : Arr) : Option (List Arr × List Arr) :=
  let n := pktArg a.pkt 2 1 - 1
  let mine := ((List.range s.inbox.length).filter fun j => decide (i < j) && (s.inbox[j]?).any fun b => b.sameLane a).take n
  if mine.length < n then none
  else some (mine.filterMap fun j => s.inbox[j]?, (List.range s.inbox.length).filterMap fun j => if j = i ∨ mine.elem j then none else s.inbox[j]?)

/-- A write of whole units. One that carries a row for a receive buffer takes its turn there, once the row is whole (R280). A row
of a function that is being reset is refused like any other request (R354). -/
def execWrPkt (i : Nat) (s : State) : Out :=
  match s.arrival i opWR with
  | none => .next s
  | some a =>
    if pktArg a.pkt 0 1 ≠ 1 ∧ pktArg a.pkt 0 1 ≠ 2 then s.serveMem i opWR .write State.homeWR
    else
      match s.rowParts i a with
      | none => .next s
      | some (ps, left) =>
      let s := { s with inbox := left }
      if s.resetting a.pkt.vf then .next ((a :: ps).foldl (fun s b => s.answer b.pkt 0x02 [] []) s)
      else
      let e := (a.pkt.data ++ (ps.map fun b => b.pkt.data).flatten).take (pktArg a.pkt 3 4)
      let x : XRow := { slotVa := rfld e 0 8, token := rfld e 8 4, pid := rfld e 12 4, expert := rfld e 16 2, j := 0, tag := rfld e 18 1,
                        grade := rfld e 19 1, rf := bitAt (rfld e 20 1) 0, data := e.drop 128, waited := 0, st := 5 }
      .next { s with expRows := s.expRows ++
        [⟨0, 0, 0, a.pkt.addr, a.pkt.vf, some a.pkt, decide (pktArg a.pkt 0 1 = 2), x, ps.map fun b => b.pkt⟩] }

/-- A report from another home (R281): its occupancy, and in its payload how many rows of this source it had had (log 61). -/
def execQrptPkt (i : Nat) (s : State) : Out :=
  s.serveUnit i opQRPT fun s a =>
    let occ := pktArg a.pkt 0 8
    .done { s with known := updKnown s.known (s.engCore (pktArg a.pkt 8 2)) a.pkt.src a.pkt.addr occ fun x =>
      { x with occ := occ, had := rfld a.pkt.data 0 8 } } 0 [] []

/-- The operations that R321 names. -/
def knownOps : List Nat := [opRD, opWR, opWRM, opWRC, opRDC, opAT, opANC, opPUB, opBAR, opRED, opQRPT, opREPLY, opMGMT]

/-- A packet of any other operation is dropped and recorded. -/
def execUnknownOpPacket (i : Nat) (s : State) : Out :=
  match s.inbox[i]? with
  | none => .next s
  | some a =>
    if knownOps.elem a.pkt.op then .next s
    else .next ((s.take i).record 5 0 a.pkt.eng a.pkt.vf a.pkt.src)

/-- What kind of access an operation is, for those that go to a frame. -/
def frameAcc (op : Nat) : Option FAcc :=
  if op = opRD ∨ op = opRDC then some .read
  else if op = opWR ∨ op = opWRM then some .write
  else if op = opWRC then some .member
  else if op = opAT ∨ op = opRED then some .atomic
  else none

/-- A request for a forwarded frame goes on to its peer, or to the pool (R298). -/
def execForwardedRequest (i : Nat) (s : State) : Out :=
  match s.inbox[i]? with
  | none => .next s
  | some a =>
    match frameAcc a.pkt.op with
    | none => .next s
    | some acc =>
      if isMulticast a.pkt ∨ !s.mayApply i a ∨ s.resetting a.pkt.vf then .next s
      else match s.checkFrame a.pkt acc with
        | .peer d f => .next ((s.take i).sendOn a.pkt d (f * 65536 + a.pkt.addr % 65536))
        | .pool g =>
          let s := s.take i
          if a.pkt.op = opWRC then .next (s.answer a.pkt 0x0A [] [])
          else .next { s.holdBack a.pkt with poolOut := s.poolOut ++ [⟨a.pkt, g * 65536 + a.pkt.addr % 65536⟩] }
        | _ => .next s

/-- Bytes that an event brings, read at an address. One that it does not bring is free: what another memory holds is not this
device's to know. -/
def extRead (ext : ExtBytes) (a n : Nat) : List Byte := (List.range n).map fun i => (lastByte ext (a + i)).getD (Config.freeByte (a + i))

/-- The pooled memory has performed a request (R298): `ext` holds its bytes at the request's addresses. An atomic, or an arrival of
a reduction, reads first, and its write follows in the same place, marked by CODE 1; requests for its line wait meanwhile, as at a home
(R252). -/
def execPooledMemoryReply (i : Nat) (ext : ExtBytes) (s : State) : Out :=
  match s.poolOut[i]? with
  | none => .next s
  | some r =>
    let p := r.pkt
    if (s.poolOut.take i).any fun q => sameStream q.pkt p || decide (q.addr / 128 = r.addr / 128) then .next s
    else
      let w := if bitAt (pktArg p 0 1) 7 then 8 else 4
      if p.op = opAT ∧ p.code = 0 then
        let x := leNat (extRead ext r.addr w)
        let y := atomicNew (pktArg p 0 1 % 16) (8 * w) x (rfld p.data 0 8 % 2 ^ (8 * w)) (rfld p.data 8 8 % 2 ^ (8 * w))
        let q : PoolReq := ⟨{ p with code := 1, args := leBytes w x, data := leBytes w y }, r.addr⟩
        .next { s with poolOut := s.poolOut.take i ++ q :: s.poolOut.drop (i + 1) }
      else
      if p.op = opRED ∧ p.code = 0 then
        let n := (leNat (extRead ext r.addr 4) + 1) % 2 ^ 32
        .next { s with poolOut := s.poolOut.take i ++ ⟨{ p with code := 1, args := leBytes 4 n }, r.addr⟩ :: s.poolOut.drop (i + 1) }
      else
      let s := { s with poolOut := s.poolOut.eraseIdx i }
      if p.op = opRED then
        let slots := extRead ext (r.addr + 128) (rfld p.data 18 2 * rfld p.data 24 4)
        .next ((s.redArrive p.addr p.vf (rfld p.args 0 4) p.data (some (r.addr, slots))).answerBack p 0 [] [])
      else if p.op = opRD then .next (s.answerBack p 0 [] (extRead ext r.addr (16 * pktArg p 0 1)))
      else if p.op = opRDC then .next (s.answerBack p 0 [] (extRead ext (r.addr / 128 * 128) 128))
      else if p.op = opAT then .next (s.answerBack p 0 [] p.args)
      else .next ((s.mcLand p 0).answerBack p 0 [] [])

/-! ## Replies (R321, R322) -/

/-- What a pipeline's engine or the scheduler's completion write learns from a reply. -/
def State.recReply (s : State) (r : Nat) (code eng vf addr : Nat) : State :=
  let s := if code = 0 then s else s.record 4 code eng vf addr
  match s.recs.find? r with
  | some x => { s with recs := AMap.set s.recs r { x with done := true } }
  | none => s

/-- What stands for the context in a fault of a pipeline's engine, whose operation number is the record's. -/
def pipeKey : Nat := 8192

/-- A walker fault is posted to the control core of a cluster (R329, R347). -/
def State.walkerFault (s : State) (cl k op cause val port xfer : Nat) : State :=
  let q := s.cluster cl
  if s.resetting (s.owner cl) then s
  else s.setCluster cl { q with faults := q.faults ++ [⟨k, op, true, cause, 0, val, port, xfer⟩] }

/-- A tile's write back, or the publish of a pipeline (`tile` 2^48), has its reply: a failure is a walker fault (R335, R329),
and holds the transfer. -/
def State.pipeReply (s : State) (r tile vf addr code : Nat) : State :=
  match s.recs.find? r with
  | none => s
  | some x =>
    match x.pipe with
    | none => s
    | some p =>
      if code = 0 then (if tile = 2 ^ 48 then { s with recs := AMap.set s.recs r { x with pipe := some { p with publish := 2 } } } else s)
      else
        let cl := (nthSet 32 x.place 0).getD 0
        let p : Pipe := { p with held := p.held ++ [(tile, true)] }
        let s : State := { s with recs := AMap.set s.recs r { x with pipe := some p } }
        (s.recordCode code (engPort cl) vf addr).walkerFault cl pipeKey r code addr cl (tile % 2 ^ 32)

/-- Every outcome of a request, by whose it is. -/
def State.complete (s : State) (q : Req) (code : Nat) (args data : List Byte) : State :=
  match q.owner with
  | .piece k op i => s.pieceReply k op i code args data
  | .combine core k _ _ => s.combineReply core k q.tag code
  | .reduce h => { s with redns := s.redns.map fun r => if r.hdr = h ∧ r.due ∧ r.code = 0 then { r with code := code } else r }
  | .forward p => (s.mcLand p code).answerBack p code args data
  | .fetchC src eng tag =>
    { s with inbox := s.inbox.map fun a =>
        if a.pkt.src = src ∧ a.pkt.eng = eng ∧ a.pkt.tag = tag ∧ a.fetch = 1 then
          { a with fetch := 2, ccode := code, cver := rfld args 0 4 } else a }
  | .compl r => s.recReply r code engHost q.vf q.addr
  | .pipe r tile => s.pipeReply r tile q.vf q.addr code
  | .host a n =>
    -- a host write to a twin frame is entered in the records (R145)
    let s := if code = 0x0A then s.record 4 0x0A engHost q.vf q.addr else s
    { s with hostOut := s.hostOut ++ [(code, (data.drop (a % 16)).take n)] }
  | .firmware => if 1 ≤ code ∧ code ≤ 4 then s.record 4 code engHost q.vf q.addr else s

/-- One packet fewer is in flight to a destination in a lane. -/
def State.laneBack (s : State) (dst lane : Nat) : State :=
  let x := s.lanePath dst lane
  { s with paths := AMap.set s.paths (laneKey dst lane) { x with inflight := x.inflight - 1 } }

/-- A request ends with a code. -/
def State.endReq (s : State) (q : Req) (code : Nat) (args data : List Byte) : State :=
  let s := { s with reqs := s.reqs.filter fun x => !(decide (x.tag = q.tag) && decide (x.eng = q.eng)) }
  let s := if q.dst = s.vertex then s else s.laneBack q.dst q.lane
  s.complete q code args data

/-- A reply completes its request; one whose request has ended is discarded. -/
def execReplyPkt (i : Nat) (s : State) : Out :=
  match s.inbox[i]? with
  | none => .next s
  | some a =>
    if !a.isReply || !s.mayApply i a then .next s
    else
      let s := s.take i
      match s.reqs.find? fun q => decide (q.tag = a.pkt.tag) && decide (q.eng = a.pkt.eng) with
      | none => .next s
      | some q => .next (s.endReq q a.pkt.code a.pkt.args a.pkt.data)

/-- A request without a reply for 8,388,608 cycles completes (R322). -/
def execRequestTimeout (tag : Nat) (s : State) : Out :=
  match s.reqs.find? fun q => decide (q.tag = tag) && decide (q.sentAt + 8388608 ≤ s.now) with
  | none => .next s
  | some q => .next (s.endReq q (lostCode q.op) [] [])

/-! ## Rows at a receive buffer (R280 to R282) -/

/-- A row is answered: `room` says that it was taken, with its code. -/
def State.rowDone (s : State) (e : ExpRow) (code : Nat) (room : Bool) : State :=
  match e.src with
  | none => s.rowAnswer e.ctx e.op e.row code room
  | some p => e.rest.foldl (fun s q => s.answer q 0 [] []) (s.answer p code (if room then [] else [1#8]) [])

/-- The source of a row, as reports name it. -/
def State.rowSrc (s : State) (e : ExpRow) : Nat × Nat :=
  match e.src with
  | none => (s.vertex, s.eng (ctxCore e.ctx))
  | some p => (p.src, p.eng)

/-- One more row of a source has reached the buffer. -/
def countRow (xs : List RingSrc) (src : Nat × Nat) : List RingSrc :=
  let mine : RingSrc → Bool := fun x => decide (x.dev = src.1) && decide (x.eng = src.2)
  if xs.any mine then xs.map fun x => if mine x then { x with rows := x.rows + 1 } else x else xs ++ [⟨src.1, src.2, 1⟩]

/-- A row reaches its buffer's home. -/
def execExpertRowArrival (i : Nat) (s : State) : Out :=
  match s.expRows[i]? with
  | none => .next s
  | some e =>
    if (s.expRows.take i).any (fun x => decide (x.desc = e.desc)) || s.touched.elem (0, e.desc / 128) then .next s
    else
      let d := Desc.parse (s.rdMem e.desc 128)
      whenAwake s (e.desc :: s.walkPas e.vf d.base ++ s.walkPas e.vf d.obase) fun s =>
      let s := ({ s with expRows := s.expRows.eraseIdx i } : State).touch [e.desc / 128]
      if s.resetting e.vf then .next (s.rowDone e 0x02 true)
      else match s.frameCheck e.desc e.vf .write with
      | .code c => .next (s.rowDone e c true)
      | .peer _ _ | .pool _ => .next (s.rowDone e 0x01 true)
      | .ok =>
        if s.badLine (e.desc / 128) then .next ((s.noteBad (e.desc / 128) e.vf).rowDone e 0x03 true)
        else
          let d := Desc.parse (s.rdMem e.desc 128)
          let r := s.ringOf e.desc
          let s := s.setRing { r with srcs := countRow r.srcs (s.rowSrc e), vf := e.vf }
          let ovf := e.ovf || d.full
          if ovf && decide (d.ocap ≤ d.ocnt) then .next (s.rowDone e 0 false)
          else match s.ringPut e.vf e.desc ovf e.x.entry with
            | .error c => .next (s.rowDone e c true)
            | .ok s => .next ((s.overflowReturn e.vf e.desc (d.ocnt + 1)).rowDone e 0 true)

/-- A home reports to every source after each change of occupancy (R281), at most once every 64 cycles, under the function whose
rows the buffer takes. With the occupancy it says how many rows of the source it has had. -/
def execOccupancyReport (i : Nat) (s : State) : Out :=
  match s.rings[i]? with
  | none => .next s
  | some r =>
    let occ := (Desc.parse (s.rdMem r.desc 128)).occ
    if !r.changed ∨ s.now < r.cyc + 64 ∨ s.badLine (r.desc / 128) then .next s
    else whenAwake s [r.desc] fun s =>
      let s := s.setRing { r with last := occ, cyc := s.now, changed := false }
      .next (r.srcs.foldl (fun s src =>
        if src.dev = s.vertex then
          { s with known := updKnown s.known (s.engCore src.eng) s.vertex r.desc occ fun x => { x with occ := occ, had := src.rows } }
        else s.emit .firmware src.dev engHost r.vf opQRPT r.desc (leBytes 8 occ ++ leBytes 2 src.eng) (leBytes 8 src.rows)) s)

/-! ## Barriers' answers (R141) -/

/-- A context whose condition has come is ready (R141, R236). -/
def Ctx.wakeBar (c : Ctx) : Ctx := match c.run with | .waitBar _ _ _ _ => { c with run := .ready } | _ => c

/-- The home of a barrier notifies the contexts for which what they wait for has come. -/
def execBarrierNotify (core : Nat) (s : State) : Out :=
  let co := s.core core
  match co.waits.find? (·.hit) with
  | none => .next s
  | some w =>
    let s := s.setCore core { co with waits := co.waits.filter fun x => !(decide (x.who = w.who) && x.hit) }
    .next (s.setCtx w.who (s.ctx w.who).wakeBar)

/-- The answer to a query of another device's barrier is not this device's to know: a free bit. -/
def State.freeBit (s : State) : Bool × State := (decide (Config.freeNat s.fresh % 2 = 1), { s with fresh := s.fresh + 1 })

/-- The query's answer fixes whether the context yields. Where the barrier lies on another device, the same event brings
its notification later. -/
def execBarrierQueryAnswer (k : Nat) (s : State) : Out :=
  let c := s.ctx k
  match c.run with
  | .waitBar a g byGen known =>
    let dev := barDev a
    if dev = s.vertex then
      if known then .next s
      else
        let home := s.barHome a
        let co := s.core home
        let b := co.bar (barAddr a)
        let holds := if byGen then decide (b.gen = g) else decide (b.pend ≠ 0)
        if holds then
          let s := s.setCore home { co with waits := co.waits ++ [⟨a, g, byGen, k, false⟩] }
          .next ((s.setCtx k { s.ctx k with run := .waitBar a g byGen true, yields := true }).afterIssue k)
        else .next ((s.setCtx k c.wakeBar).afterIssue k)
    else if !s.live dev then .next ((s.setCtx k c.wakeBar).afterIssue k)
    else
      let (holds, s) := s.freeBit
      if holds then
        if known then .next s
        else .next ((s.setCtx k { c with run := .waitBar a g byGen true, yields := true }).afterIssue k)
      else .next ((s.setCtx k c.wakeBar).afterIssue k)
  | _ => .next s

/-! ## Multicast (R323, R324) -/

/-- Ports of a multicast entry. -/
def mcPorts (e : Nat) : List Nat := (List.range 33).filter fun p => bitAt e p

/-- Ingress port of an arrival that a link brought. -/
def Arr.ingress (a : Arr) : Option Nat := if a.rank % 2 = 0 ∧ a.rank ≤ 64 then some (a.rank / 2) else none

/-- A multicast write at a router: copies to the group's other ports, and a delivery here if LOCAL is set. ARGS bytes 22 to
25 carry the barrier of its landing, valid if byte 21 is 1 (log 15). A packet of another operation has no multicast meaning and is
dropped like one of an undefined group. DESIGN CHOICE (log 113). -/
def execMulticastWr (i : Nat) (s : State) : Out :=
  match s.inbox[i]? with
  | none => .next s
  | some a =>
    let p := a.pkt
    if !isMulticast p ∨ !s.mayApply i a then .next s
    else
      let e := (AMap.get 0#64 s.mcast p.mcg).toNat
      let s := s.take i
      if !bitAt e 63 ∨ p.op ≠ opWR then .next (s.record 5 0 p.eng p.vf p.src)
      else
        let outs := (mcPorts e).filter fun q => decide (some q ≠ a.ingress)
        let hops := if a.ingress.isNone then p.hops else p.hops + 1
        let s := { s with egress := s.egress ++ outs.map fun q => (q, { p with hops := hops }) }
        if !bitAt e 33 then .next s
        else if s.resetting p.vf then .next (s.answer p 0x02 [] [])
        else match s.frameCheck p.addr p.vf .write with
          | .code c => .next (s.answer p c [] [])
          | .ok =>
            match s.homeWR { a with pkt := { p with data := mcBytes p } } with
            | .done s code _ _ => .next ((s.mcLand p code).answer p code [] [])
            | .needC _ => .next s
          | .peer d f => .next (s.sendOn p d (f * 65536 + p.addr % 65536))
          | .pool g => .next { s.holdBack p with poolOut := s.poolOut ++ [⟨p, g * 65536 + p.addr % 65536⟩] }

/-! ## Routing (R251, R316 to R318) -/

/-- A packet from a link. One from a device that the roster does not list is dropped (R352). -/
def execPacketRoute (port : Nat) (p : Pkt) (s : State) : Out :=
  if !s.live p.src then .next (s.record 5 0 p.eng p.vf p.src)
  else if isMulticast p then .next (s.deliver p (portRank port))
  else
    let p := if p.nm ∧ p.via = s.vertex then { p with nm := false, via := 0 } else p
    if !p.nm ∧ p.dst = s.vertex then .next (s.deliver p (portRank port))
    else
      let next := if p.nm then p.via else p.dst
      .next { s with egress := s.egress ++ [(s.minPort next, { p with hops := p.hops + 1 })] }

/-- The next intermediate of a destination, in rotation. -/
def State.nextVia (s : State) (dst : Nat) (x : LanePath) : Option Nat :=
  match s.routes.find? dst with
  | none => none
  | some r => if r.2.isEmpty then none else r.2[x.idx % r.2.length]?

/-- A packet of the lane has waited 1,024 cycles for credit at the minimal port: the lane moves with its next packet that finds nothing in flight. -/
def execLaneNonminimalMove (dst lane : Nat) (s : State) : Out :=
  let x := s.lanePath dst lane
  match (if x.via.isNone then s.nextVia dst x else none) with
  | none => .next s
  | some m =>
    .next { s with paths := AMap.set s.paths (laneKey dst lane) { x with idx := x.idx + 1, pend := some (some m) } }

/-- After 65,536 cycles on a non-minimal path the lane goes back, in the same way, if the minimal path still stands. -/
def execLaneMinimalReturn (dst lane : Nat) (s : State) : Out :=
  let x := s.lanePath dst lane
  if x.via.isNone ∨ s.now < x.since + 65536 ∨ !s.pathUp dst none then .next s
  else
    .next { s with paths := AMap.set s.paths (laneKey dst lane) { x with pend := some none } }

end Sys2Proof.Machine
end

