-- ==== Sys2Proof/Machine/Predict.lean ====
section
/-!
DEFINITION. The meanings of the K slot's scale-table, predictor and tolerance instructions (R194, R211, R212, R219 to R221)
and of the event that applies predictor updates.
-/

namespace Sys2Proof.Machine

/-! ## Scale table (R194) -/

/-- A load of the scale table issues: from now on it counts as R71 says. -/
def State.loadScale (s : State) (f : Focus) (ent : Option Nat) (vals : List W32) : State :=
  let core := ctxCore f.ctx
  let co := s.core core
  s.setCore core { co with scale := co.scale ++ [⟨f.ctx, f.ent.word, f.ent.id, ent, vals⟩] }

def execSctl (aj : AReg) (off : BitVec 13) (s : State) : Out :=
  issueOp s fun f c => (c.rdA f.ent.word aj).bind fun p =>
    let a : Int := p.1.toNat + 64 * off.toNat
    checkAligned c a 64 64 <|
      waitUnless (!c.storesPending f.ent.word [(a, 64)] && !c.wmStall a.toNat 64) <| s.eccCheck f.ctx a.toNat 64 <|
        let bs := s.spRead f.ctx f.ent.word a.toNat 64
        .ok (s.loadScale f none ((List.range 16).map fun k => BitVec.ofNat 32 (rfld bs (4 * k) 4)))

def execSctlEnt (k : BitVec 4) (sa : SReg) (s : State) : Out :=
  issueOp s fun f c => (c.rdS f.ent.word sa).bind fun v => .ok (s.loadScale f (some k.toNat) [v.setWidth 32])

/-! ## Predictor table (R210 to R212) -/

/-- Hit, Miss and Unseen of R211. -/
def ptHit (x : W32) : W32 :=
  let n := x.toNat
  BitVec.ofNat 32 (min (bits n 29 3 + 1) 7 * 2 ^ 29 + min (bits n 16 13 + 1) 8191 * 2 ^ 16 + bits n 3 13 * 2 ^ 3)
def ptMiss (x : W32) : W32 :=
  let n := x.toNat
  BitVec.ofNat 32 ((bits n 29 3 - 1) * 2 ^ 29 + bits n 16 13 * 2 ^ 16 + min (bits n 3 13 + 1) 8191 * 2 ^ 3)
def ptUnseen (x : W32) : W32 :=
  let n := x.toNat
  BitVec.ofNat 32 (bits n 29 3 * 2 ^ 29 + bits n 16 13 * 2 ^ 16 + min (bits n 3 13 + 1) 8191 * 2 ^ 3)

/-- A table entry set; an entry of zero is not listed, since an unlisted one reads 0. -/
def ptPut (t : AMap W32) (i : Nat) (v : W32) : AMap W32 := if v = 0#32 then t.erase i else t.set i v

/-- One update of the table, applied whole (R212). -/
def ptApply (t : AMap W32) : PtEv → AMap W32
  | .put i v => ptPut t i v
  | .hit i => ptPut t i (ptHit (t.get 0#32 i))
  | .miss i => ptPut t i (ptMiss (t.get 0#32 i))
  | .unseen i => ptPut t i (ptUnseen (t.get 0#32 i))
  | .clr i n => t.filter fun p => !decide ((p.1 + 16384 - i) % 16384 < n)

/-- Table index of a register value. -/
def ptIdx (x : W64) : Nat := x.toNat % 16384

/-- `pt.rd` reads the table as it stands two cycles after its slot reaches it (R212): the entry waits that long. -/
def execPtRd (sd sa : SReg) (s : State) : Out :=
  match s.focus with
  | none => .next s
  | some f =>
    if f.ent.checked then
      if s.now < f.ent.cyc + 2 then .next { s with focus := none }
      else issueOp s fun f c => (c.rdS f.ent.word sa).bind fun x =>
        .ok (s.setCtx f.ctx (c.putS f.ent.id sd (((s.cluster (ctxCluster f.ctx)).pt.get 0#32 (ptIdx x)).setWidth 64)))
    else
      let c := s.ctx f.ctx
      match c.rdS f.ent.word sa with
      | .ok _ => .next ({ s with focus := none }.setCtx f.ctx (c.stampQ f.slot f.ent.id s.now))
      | .wait => .next { s with focus := none }
      | .late => .next (s.holdLate f)
      | .trap cause val => .next (s.issueTrap f cause val)

def execPtWr (sa sb : SReg) (s : State) : Out :=
  issueOp s fun f c => (c.rdS f.ent.word sa).bind fun x => (c.rdS f.ent.word sb).bind fun v =>
    addGated s f c { Op.of f .ptWr 0#5 with addr := ptIdx x, b := v.toNat % 2 ^ 32 / 8 * 8 }

/-- `pt.upd`: `b` is 1 for a hit. -/
def execPtUpd (sa : SReg) (pc : PReg) (s : State) : Out :=
  issueOp s fun f c => (c.rdS f.ent.word sa).bind fun x => (c.rdP f.ent.word pc).bind fun p =>
    addGated s f c { Op.of f .ptUpd 0#5 with addr := ptIdx x, b := b2n p }

def execPtClr (sa sb : SReg) (s : State) : Out :=
  issueOp s fun f c => (c.rdS f.ent.word sa).bind fun x => (c.rdS f.ent.word sb).bind fun v =>
    addGated s f c { Op.of f .ptClr 0#5 with addr := ptIdx x, b := min v.toNat 16384 }

/-- Whether a `resolve` has updates that it has still to send to the table, or that stand before the table (R217). -/
def Op.updatesDue (o : Op) : Bool :=
  match o.kind with
  | .resolve _ => decide (o.phase < 2 * o.shape.rows + 1) || decide (o.c ≠ 0)
  | _ => false

/-- Whether the update of a request must wait for one of an earlier instruction of its core (R285): a table operation for
every earlier `resolve`; an update of a `resolve` for every earlier `resolve`, and for every earlier table operation, those of its
own word among them. Within a context the words tell which is the earlier, between contexts the cycle of issue (log 116). -/
def State.ptHeld (s : State) (r : PtReq) : Bool :=
  match (s.ctx r.ctx).findOp r.op with
  | none => false
  | some o => (coreKeys (ctxCore r.ctx)).any fun k => (s.ctx k).ops.any fun x =>
      let first := if k = r.ctx then decide (x.word < o.word) else decide (x.issued < o.issued)
      (x.updatesDue && first) || (r.byResolve && x.ptEv.isSome && (first || (decide (k = r.ctx) && decide (x.word = o.word))))

/-- Place of a request among those that may go: by its cycle, then K-slot operations before a `resolve`, then by core (R212). -/
def PtReq.before (a b : PtReq) : Bool :=
  let key : PtReq → Nat := fun r => (2 * r.cyc + b2n r.byResolve) * 2 ^ 16 + ctxCore r.ctx
  decide (key a < key b)

/-- The next update that reaches the table, with its place in the queue. A table operation does not pass an earlier one of its
core. -/
def State.nextPt (s : State) (cl : Nat) : Option (Nat × PtReq) :=
  let q := (s.cluster cl).ptq
  (List.range q.length).foldl (fun best i =>
    match q[i]? with
    | none => best
    | some r =>
      let passes := !r.byResolve && (q.take i).any fun x => !x.byResolve && decide (ctxCore x.ctx = ctxCore r.ctx)
      if passes || s.ptHeld r then best
      else match best with
        | some (j, b) => if r.before b then some (i, r) else some (j, b)
        | none => some (i, r)) none

/-- An update is applied to the table, whole (R212). -/
def execPredictorTableApply (cl : Nat) (s : State) : Out :=
  match s.nextPt cl with
  | none => .next s
  | some (i, r) =>
    let q := s.cluster cl
    let s := s.setCluster cl { q with pt := ptApply q.pt r.ev, ptq := q.ptq.eraseIdx i }
    .next (s.setCtx r.ctx (if r.byResolve then (s.ctx r.ctx).updOp r.op fun o => { o with c := o.c - 1 }
      else (s.ctx r.ctx).dropOp r.op))

/-! ## Tolerance (R219 to R221) -/

/-- `demand` and `redem`, gated (R219): the node, the grade, and the task's record, whose graph is meant. -/
def demandOp (s : State) (k : OpKind) (sd sa sb : SReg) : Out :=
  issueOp s fun f c => (c.rdS f.ent.word sa).bind fun x => (c.rdS f.ent.word sb).bind fun g =>
    addGated s f c { Op.of f k sd with addr := x.toNat % 65536, b := g.toNat % 256, c := c.record }

def execDemand (sd sa sb : SReg) (s : State) : Out := demandOp s .demand sd sa sb
def execRedem (sd sa sb : SReg) (s : State) : Out := demandOp s .redem sd sa sb

/-- The share of R220: demand, signed sensitivity and unsigned slack. -/
def tolShare (a b : W64) : Nat :=
  (clampInt 0 255 ((a.toNat % 256 : Nat) + signed 8 b.toNat + (bits b.toNat 8 8 : Nat))).toNat

def execTolShare (sd sa sb : SReg) (s : State) : Out :=
  onCtx s fun f c => (c.rdS f.ent.word sa).bind fun a => (c.rdS f.ent.word sb).bind fun b =>
    .ok (c.putS f.ent.id sd (BitVec.ofNat 64 (tolShare a b)))

def execTolMin (sd sa : SReg) (cls : Bool) (s : State) : Out :=
  onCtx s fun f c => (c.rdS f.ent.word sa).bind fun a =>
    .ok (c.putS f.ent.id sd (BitVec.ofNat 64 (gradeOf (fitChoice cls (a.toNat % 256)))))

def execItrDef (it : BitVec 2) (sa : SReg) (s : State) : Out :=
  onCtx s fun f c => (c.rdS f.ent.word sa).bind fun v => .ok (c.putU f.ent.id (uItr + it.toNat) v)

/-- `itr.fit` (R221): the least iteration count whose grade reaches tol, or 2^63 + 7. -/
def itrFit (table : W64) (tol : Nat) : Nat :=
  match (List.range 8).find? fun i => decide (tol ≤ bits table.toNat (8 * i) 8) with
  | some i => i
  | none => 2 ^ 63 + 7

def execItrFit (sd : SReg) (it : BitVec 2) (s : State) : Out :=
  onCtx s fun f c => (c.rdU f.ent.word uTol).bind fun tol => (c.rdU f.ent.word (uItr + it.toNat)).bind fun t =>
    .ok (c.putS f.ent.id sd (BitVec.ofNat 64 (itrFit t (tol.toNat % 256))))

end Sys2Proof.Machine
end

