-- ==== Sys2Proof/Machine/Front.lean ====
section
/-!
DEFINITION. Dispatch (R16, R19 to R28, R45, R47, R97, R102, R103, R106, R110): the next word of the context that holds a
core, its checks in the order of R21, and its entries in the eight slot queues; issue turns (R233); the commit of marks
(R107); and the write queue of a core (R247).
-/

namespace Sys2Proof.Machine

/-! ## What a word is, before any slot performs -/

/-- An X-slot operation that writes an accumulator tile (R106). -/
def isAccOp : Instr → Bool
  | .mxRun _ _ _ _ | .mxRunSet _ _ _ _ | .mxClr _ _ => true
  | _ => false

/-- An irrevocable operation (R106). -/
def isIrrevocable : Instr → Bool
  | .ntreq | .launch _ _ _ | .watch _ _ _ _ | .spec _ => true
  | _ => false

/-- Whether an operation waits in its slot for the commit of its word's mark (R107). -/
def waitsForMark (i : Instr) : Bool := isAccOp i || isIrrevocable i || i.isFeed

def isYieldOp : Instr → Bool
  | .yieldT _ | .yieldB _ => true
  | _ => false

def isExit : Instr → Bool
  | .exit => true
  | _ => false

/-- Operations of the S slot after which no word follows in order. -/
def endsRun : Instr → Bool
  | .exit | .specAbort | .trap _ | .rti _ => true
  | _ => false

def wordOps (w : LongWord) : List Instr := w.slots.map (·.op)

/-- A mark of the Explicit, Accumulator or Irrevocable cause, whatever the guards read (R106). -/
def wordMarks (w : LongWord) : Bool := w.mark || (wordOps w).any fun i => isAccOp i || isIrrevocable i

/-- A yield word, whether or not it yields (R26). -/
def wordYields (w : LongWord) : Bool := w.yld || (wordOps w).any isYieldOp

/-- A slot's place, operation and whether its guard read true. -/
structure Act where
  slot : Nat
  op : Instr
  on : Bool
  deriving DecidableEq, Repr

/-- The guards of a word, as it reads them (R16). -/
def Ctx.guards (c : Ctx) (n : Nat) : Nat → List SlotOp → Eff (List Act)
  | _, [] => .ok []
  | j, x :: rest =>
    (c.rdP n x.guard).bind fun g => (c.guards n (j + 1) rest).bind fun as => .ok (⟨j, x.op, g⟩ :: as)

/-- Whether the word holds a `spec.commit` that commits (R106). -/
def Ctx.commits (c : Ctx) (n : Nat) : List SlotOp → Eff Bool
  | [] => .ok false
  | x :: rest =>
    match x.op with
    | .specCommit p => (c.rdP n x.guard).bind fun g => (c.rdP n p).bind fun v => .ok (g && v)
    | _ => c.commits n rest

/-- The operations that perform: a guard that read false leaves its slot idle. -/
def performing (as : List Act) : List Act := as.filter (·.on)

/-! ## The traps of dispatch, in the order of R21 -/

/-- Uses that the context may not make (R20, R71). -/
def Ctx.privFault (c : Ctx) : Instr → Bool
  | .csrw m _ | .csrs m _ | .csrc m _ => !isOwnCsr m && !c.stat.priv
  | .launch _ _ _ => !c.stat.launch
  | .rti _ => !c.stat.inTrap
  | .sctl _ _ | .sctlEnt _ _ => !c.stat.scale && !c.stat.priv
  | _ => false

/-- The speculation trap (R109, R110). DEDUCED (log 96): a word that holds `exit` raises it whatever the guard reads. -/
def Ctx.specFault (c : Ctx) (w : LongWord) (as : List Act) : Bool :=
  (c.dspec && (wordMarks w || wordYields w || (wordOps w).any isExit)) ||
    (!c.dspec && (performing as).any fun a => match a.op with | .specCommit _ | .specAbort => true | _ => false)

/-- Tag and CSV bit of a weight register as word order leaves them (R45). -/
def Ctx.wtag (c : Ctx) (w : Nat) : WTag := AMap.get ⟨tRAW, false⟩ c.wt w

/-- The local units that an operation names, with their kinds: 0 weight register, 1 tile, 2 channel (R47, R346). -/
def Ctx.named (c : Ctx) : Instr → List (Nat × Nat)
  | .mxLd w _ t _ | .mxLdT w _ t _ => (wTouched w.toNat t).map fun x => (0, x)
  | .mxLdr w _ t _ _ _ => (wTouched w.toNat t).map fun x => (0, x)
  | .mxWsel wd ws _ => (0, wd.toNat) :: (0, ws.toNat) :: (if (c.wtag ws.toNat).tag = tF32 ∧ wd.toNat % 2 = 0 then [(0, wd.toNat + 1)] else [])
  | .mxCsum ws => [(0, ws.toNat)]
  | .mxRun a w _ _ | .mxRunSet a w _ _ =>
    (1, a.toNat) :: (0, w.toNat) :: (if (c.wtag w.toNat).tag = tF32 then [(0, w.toNat + 1)] else [])
  | .mxClr a _ => [(1, a.toNat)]
  | .mxDrain _ a _ _ _ => [(1, a.toNat)]
  | .cpIn _ ch _ | .cpOut _ ch _ | .cpPf _ ch _ | .cpGat _ ch _ | .cpCst _ ch _ | .gred _ ch _ => [(2, ch.toNat)]
  | .xdisp _ ch _ _ => [(2, ch.toNat)]
  | .resolve _ ch _ _ => [(2, ch.toNat)]
  | .accLd _ ch a _ | .accSt _ ch a _ => [(2, ch.toNat), (1, a.toNat)]
  | .csrd _ m => if m.toNat / 32 = 2 then [(2, m.toNat % 16)] else []
  | _ => []

/-- Units of a kind that the context holds. -/
def Ctx.allocated (c : Ctx) (kind : Nat) : Nat :=
  ((List.range 16).filter fun i => bitAt (if kind = 0 then c.wmap else if kind = 1 then c.amap else c.cmap) i).length

/-- The resource fault of one slot (R47). -/
def Ctx.resFault {α : Type} (c : Ctx) (a : Act) (k : Eff α) : Eff α :=
  match (c.named a.op).find? fun p => decide (c.allocated p.1 ≤ p.2) with
  | some p => .trap 0x06 (BitVec.ofNat 64 (p.2 % 32 + p.1 * 32 + a.slot * 256))
  | none => k

/-- Whether an A format and a weight format make a pass (R175). -/
def pairOk (w a : Tag) : Bool :=
  let small : Tag → Bool := fun t =>
    decide (t = tF16 ∨ t = tBF16 ∨ t = tE4M3 ∨ t = tE5M2 ∨ t = tSX7 ∨ t = tSX4 ∨ t = tSX2)
  if w = tF32 then decide (a = tF32)
  else if w = tI8 then decide (a = tI8 ∨ a = tAQ8)
  else small w && (small a || decide (a = tAQ8))

/-- The A format that the feed of a word names, the weight register's where it names none (R188). -/
def feedFmtOf (w : Tag) : Instr → Option Tag
  | .fdA _ _ t | .fdAr _ _ t _ | .fdAMc _ _ t _ _ | .fdWin _ _ _ t _ | .fdTap _ _ _ t _ => some (feedTag t w)
  | .fdZ => some w
  | _ => none

/-- The format faults of weight registers (R182, R183, R185). -/
def Ctx.wtagCheck (c : Ctx) (as : List Act) : Instr → Eff Unit
  | .mxWsel wd ws _ =>
    let t := (c.wtag ws.toNat).tag
    if t = tRAW then .trap 0x03 (fmtVal 0 0 ws.toNat 4)
    else if t = tF32 ∧ wd.toNat % 2 = 1 then .trap 0x03 (fmtVal 0xF 1 wd.toNat 4) else .ok ()
  | .mxCsum ws =>
    let t := (c.wtag ws.toNat).tag
    if t = tRAW ∨ t = tF32 then .trap 0x03 (fmtVal 6 t.toNat ws.toNat 4) else .ok ()
  | .mxRun _ w _ _ | .mxRunSet _ w _ _ =>
    let g := c.wtag w.toNat
    match as.findSome? fun a => if a.on then feedFmtOf g.tag a.op else none with
    | some t =>
      if !pairOk g.tag t || (decide (t = tAQ8) && !g.csv) then .trap 0x03 (fmtVal g.tag.toNat t.toNat w.toNat 4) else .ok ()
    | none => .ok ()
  | _ => .ok ()

/-- What a check in every performing slot answers, slot by slot. -/
def eachSlot (chk : Act → Eff Unit) (as : List Act) : Eff Unit := needAll ((performing as).map chk)

/-- The predicates that an operation reads as operands, beside its guard (R22, condition 2). -/
def predOps : Instr → List PReg
  | .pand _ a b | .por _ a b => [a, b]
  | .sel _ _ p _ => [p]
  | .ptUpd _ p => [p]
  | .specCommit p => [p]
  | _ => []

/-- A word is held while a predicate operand of it has a write pending (R22, condition 2). -/
def Ctx.predsKnown (c : Ctx) (n : Nat) (as : List Act) : Eff Unit :=
  eachSlot (fun a => needAll ((predOps a.op).map fun p => (c.rdP n p).bind fun _ => .ok ())) as

/-- The checks of items 2 to 5 of R21. -/
def Ctx.dispatchChecks (c : Ctx) (n : Nat) (w : LongWord) (as : List Act) : Eff Unit :=
  (eachSlot (fun a => trapIf (c.privFault a.op) 0x02 (BitVec.ofNat 64 a.slot) (.ok ())) as).bind fun _ =>
    trapIf (c.specFault w as) 0x08 0#64 <|
      (eachSlot (fun a => c.resFault a (.ok ())) as).bind fun _ =>
        eachSlot (fun a => (c.tagCheck n a.op).bind fun _ => c.wtagCheck as a.op) as

/-! ## Where the context goes next (R97, R102) -/

/-- A loop frame's fields (R100). -/
def frLast (f : W64) : Nat := bits f.toNat 56 8
def frBegin (f : W64) : Nat := bits f.toNat 24 32
def frCount (f : W64) : Nat := bits f.toNat 0 24

/-- The loop frames at a word that takes no branch: the frame writes, and the next word. -/
def Ctx.closeLoops (c : Ctx) (n pc : Nat) : List Bool → Eff (List (Nat × W64) × Nat)
  | [] => .ok ([], pc + 32)
  | fr :: rest =>
    (c.rdS n (frameReg fr)).bind fun f =>
      if frCount f ≠ 0 ∧ pc = frBegin f + 32 * frLast f then
        if 1 < frCount f then .ok ([((frameReg fr).toNat, mkFrame (frLast f) (frBegin f) (frCount f - 1))], frBegin f)
        else (c.closeLoops n pc rest).bind fun r =>
          .ok (((frameReg fr).toNat, mkFrame (frLast f) (frBegin f) 0) :: r.1, r.2)
      else c.closeLoops n pc rest

/-- Where a word leads: the frame writes, the next word's offset, and whether it takes a branch. -/
structure Way where
  frames : List (Nat × W64)
  next : Nat
  taken : Bool
  deriving DecidableEq, Repr

/-- The S slot's performing operation. -/
def sOp (as : List Act) : Instr := match (performing as).find? fun a => decide (a.slot = 0) with | some a => a.op | none => .nop

/-- A branch whose target is no word is held until every earlier word has issued: its meaning then traps. -/
def Ctx.wayOf (c : Ctx) (n pc : Nat) (as : List Act) (commits : Bool) : Eff Way :=
  (c.target n pc (sOp as)).bind fun t =>
    match t with
    | some t => waitUnless (c.legalTarget t || c.allIssuedBefore n) (.ok ⟨[], t.toNat, true⟩)
    | none => (c.closeLoops n pc [false, true]).bind fun r =>
      let stops := endsRun (sOp as) || (match sOp as with | .specCommit _ => !commits | _ => false)
      trapIf (!stops && !c.legalTarget r.2) 0x07 (BitVec.ofNat 64 r.2) (.ok ⟨r.1, r.2, false⟩)

/-! ## Placing a word in the queues (R22, R24 to R28) -/

def wrAt {α : Type} (id n slot : Nat) (d : Dest) : Wr α := ⟨id, d.idx, n, n + d.lat, slot, d.async, d.gated, none, .plain⟩

def RegFile.expect {α : Type} (f : RegFile α) (w : Wr α) : RegFile α := { f with log := f.log ++ [w] }

/-- The place of one register write, from the dispatch of its word. s0, p0 and m0 discard writes (R39). -/
def Ctx.expect (c : Ctx) (id n slot : Nat) (d : Dest) : Ctx :=
  match d.rf with
  | .s => if d.idx = 0 then c else { c with s := c.s.expect (wrAt id n slot d) }
  | .p => if d.idx = 0 then c else { c with p := c.p.expect (wrAt id n slot d) }
  | .v => { c with v := c.v.expect (wrAt id n slot d) }
  | .m => if d.idx = 0 then c else { c with m := c.m.expect (wrAt id n slot d) }
  | .a => { c with a := c.a.expect (wrAt id n slot d) }
  | .fo => { c with fo := c.fo.expect (wrAt id n slot d) }
  | .fi => { c with fi := c.fi.expect (wrAt id n slot d) }
  | .u => { c with u := c.u.expect (wrAt id n slot d) }
  | .w => { c with w := c.w.expect (wrAt id n slot d) }

/-- The tags an operation writes, at the words of its data (R45). Under `opt`, a tag that its issue fixes may also not be
written at all. -/
def Ctx.expectTags (c : Ctx) (id n slot : Nat) (opt : Bool) (ds : List Dest) (ts : List (VReg × Option Tag)) : Ctx :=
  { c with vt := ts.foldl (fun (f : RegFile Tag) t =>
      let lat := ((ds.find? fun d => decide (d.rf = .v) && decide (d.idx = t.1.toNat)).map (·.lat)).getD 1
      f.expect ⟨id, t.1.toNat, n, n + lat, slot, false, opt && t.2.isNone, t.2, .plain⟩) c.vt }

/-- `recv.add` and `recv.max`, which write vd + 1 only from an entry of 128 elements (R203). -/
def mayLeavePair : Instr → Bool
  | .recvAdd _ _ | .recvMax _ _ => true
  | _ => false

/-- Tag and CSV bit of the weight registers after an operation (R173, R180, R182, R183). -/
def Ctx.wtWrite (c : Ctx) (w : Nat) (t : Tag) : Ctx :=
  let m := AMap.set c.wt w ⟨t, false⟩
  { c with wt :=
      if t = tF32 then AMap.set m (w + 1) ⟨tRAW, false⟩
      else if w % 2 = 1 ∧ (c.wtag (w - 1)).tag = tF32 then AMap.set m (w - 1) ⟨tRAW, false⟩ else m }

def Ctx.noteWeights (c : Ctx) : Instr → Ctx
  | .mxLd w _ t _ | .mxLdT w _ t _ => c.wtWrite w.toNat t
  | .mxLdr w _ t _ _ _ => c.wtWrite w.toNat t
  | .mxWsel wd ws _ => c.wtWrite wd.toNat (c.wtag ws.toNat).tag
  | .mxCsum ws => { c with wt := AMap.set c.wt ws.toNat ⟨(c.wtag ws.toNat).tag, true⟩ }
  | _ => c

/-- What a control-register instruction does to fstat and lfsr, in their order (R56, R80). -/
def csrEffect : Instr → Option (BitVec 12 × FlagOp × LfsrOp)
  | .csrw m _ => some (m, .put, .put)
  | .csrs m _ => some (m, .set, .set)
  | .csrc m _ => some (m, .clear, .clear)
  | _ => none

/-- An event of lfsr put into its place: by its word, and within a word by its slot, a control-register write last (R80, R118). -/
def insertLEv (e : LEv) : List LEv → List LEv
  | [] => [e]
  | x :: rest => if e.word < x.word ∨ (e.word = x.word ∧ e.slot < x.slot) then e :: x :: rest else x :: insertLEv e rest

def Ctx.expectFlags (c : Ctx) (id n slot : Nat) (i : Instr) : Ctx :=
  let c := match flagLat i with
    | some l => { c with fstat := c.fstat ++ [⟨id, n, n + l, slot, .raise, none⟩] }
    | none => c
  let c := if mayStep i then { c with lfsr := insertLEv ⟨id, n, slot, .steps, none⟩ c.lfsr } else c
  match csrEffect i with
  | some (m, fo, lo) =>
    if m = 0x011#12 then { c with fstat := c.fstat ++ [⟨id, n, n + 1, slot, fo, none⟩] }
    else if m = 0x012#12 then { c with lfsr := insertLEv ⟨id, n, 8, lo, none⟩ c.lfsr } else c
  | none => c

/-- One slot's entry, with the places of everything its operation writes. -/
def Ctx.place (c : Ctx) (n now : Nat) (pc : Nat) (sync : BitVec 8) (closes : Bool) (ts : List (VReg × Option Tag)) (a : Act) : Ctx :=
  let op := if a.on then a.op else .nop
  let id := c.serial + a.slot
  let ds := dests op
  let c := ds.foldl (fun c d => c.expect id n a.slot d) c
  let c := ((c.expectTags id n a.slot (mayLeavePair op) ds ts).expectFlags id n a.slot op).noteWeights op
  { c with queues := AMap.set c.queues a.slot (c.queue a.slot ++ [⟨id, n, pc, op, sync, now, closes, false, false⟩]) }

/-- The tags of every performing slot, held while one is not known (R45). -/
def Ctx.allTags (c : Ctx) (n : Nat) : List Act → Eff (List (Act × List (VReg × Option Tag)))
  | [] => .ok []
  | a :: rest =>
    (if a.on then c.tagsOf n a.op else .ok []).bind fun ts => (c.allTags n rest).bind fun r => .ok ((a, ts) :: r)

/-- Registers of the S file that the word writes explicitly. -/
def writtenS (as : List Act) : List Nat :=
  ((performing as).map fun a => ((dests a.op).filter fun d => decide (d.rf = .s)).map (·.idx)).flatten

def writtenA (as : List Act) : List Nat :=
  ((performing as).map fun a => ((dests a.op).filter fun d => decide (d.rf = .a)).map (·.idx)).flatten

/-- Frame writes of R102, and the steps of R28 that no explicit write of the word replaces. -/
def Ctx.ownWrites (c : Ctx) (n : Nat) (as : List Act) (frames : List (Nat × W64)) (step : BitVec 8) : Ctx :=
  let id := c.serial + 8
  let fs := frames.filter fun p => !(writtenS as).elem p.1
  let js := (List.range 8).filter fun j => step.getLsbD j && !(writtenA as).elem j
  { c with
    s := fs.foldl (fun (f : RegFile W64) p => f.expect ⟨id, p.1, n, n + 1, 8, false, false, some p.2, .plain⟩) c.s,
    a := js.foldl (fun (f : RegFile AEv) j => f.expect ⟨id, j, n, n + 1, 8, false, false, some .step, .plain⟩) c.a }

/-- Pops whose next entry has not arrived (R22, condition 4). -/
def Ctx.popsReady (c : Ctx) (n : Nat) (pop : BitVec 8) : Bool :=
  (List.range 8).all fun j => !pop.getLsbD j || decide (c.popped j n < (c.rq.get RQueue.none j).ents.length)

/-- Slots of a mask, and whether it names more than one: a mask with a single bit has no effect (R20). -/
def namesSeveral (m : BitVec 8) : Bool := decide (1 < ((List.range 8).filter fun j => m.getLsbD j).length)

/-- The slots that slot `j` issues together with: those that the word's mask names, and in a word with a pass the X and F slots
with each other (R23, R187). -/
def slotSync (mask : BitVec 8) (pass : Bool) (j : Nat) : BitVec 8 :=
  let m := if namesSeveral mask then mask else 0#8
  let m := if pass && decide (m &&& 0x30#8 ≠ 0#8) then m ||| 0x30#8 else m
  if m.getLsbD j then m else if pass && (decide (j = 4) || decide (j = 5)) then 0x30#8 else 0#8

/-- What dispatch itself takes note of: whether a checkpoint is open, whether words follow, and whether the word yields. -/
def Ctx.noteWord (c : Ctx) (n : Nat) (w : LongWord) (as : List Act) (commits marks spanEnd : Bool) : Ctx :=
  let op := sOp as
  let c := match op with
    | .spec _ => { c with dspec := true }
    | .specCommit _ => { c with dspec := false, halt := !commits }
    | .specAbort => { c with dspec := false, halt := true }
    | _ => if endsRun op then { c with halt := true } else c
  if wordYields w || (spanEnd && marks) then { c with yldWord := some n, yields := w.yld || (spanEnd && marks) } else c

/-! ## WORD_DISPATCH -/

/-- The image a context runs: its cluster's copy, or a control core's firmware (R229, R368). -/
def State.imageOf (s : State) (k : Nat) : List Byte :=
  if isControl (ctxCore k) then s.conf.firmware else (s.cluster (ctxCluster k)).store.get [] (s.ctx k).image

/-- The word decoded and its closing mark known: whether it commits a checkpoint, marks, and closes windows. -/
structure Known where
  commits : Bool
  marks : Bool
  closes : Bool
  deriving DecidableEq, Repr

/-- The context as the word reads it: a word that closes windows reads every earlier write (R26). -/
def Ctx.atWord (c : Ctx) (n next : Nat) (k : Known) : Ctx :=
  { c with closers := if k.closes then c.closers ++ [n] else c.closers,
           marks := if k.marks then insertMark ⟨n, next, false⟩ c.marks else c.marks }

/-- trap.val of the illegal-word trap (R346). -/
def illegalVal (e : Illegal) : W64 := BitVec.ofNat 64 (e.reason + e.slot * 16 + b2n e.header * 128)

/-- The focus of a branch that dispatch resolves: its meaning runs next. -/
def branchFocus (k : Nat) (c : Ctx) (w : Way) : Option Focus :=
  if w.taken then (c.queue 0).getLast?.map fun e => ⟨k, 0, e, true⟩ else none

/-- A context that may take an issue turn (R103, R233): one that waits for a token is ready once that is written. -/
def Ctx.isReady (c : Ctx) : Bool :=
  match c.run with
  | .ready => true
  | .waitTok r n => c.yldWord.isNone && !c.tokPending r n
  | _ => false

/-- Whether context `k` has held its core's turn for 65,536 cycles while another is ready (R233). -/
def State.spanOver (s : State) (k : Nat) : Bool :=
  let core := ctxCore k
  decide ((s.core core).turn + 65536 ≤ s.now) &&
    (List.range 8).any fun i => decide (8 * core + i ≠ k) && (s.ctx (8 * core + i)).isReady

/-- The next word of context `k` is dispatched, is held back, or finds its trap. -/
def State.dispatchWord (s : State) (k : Nat) : Eff State :=
  let c := s.ctx k
  let n := c.word
  let pc := c.pc
  let core := ctxCore k
  trapIf (!c.legalTarget pc) 0x07 (BitVec.ofNat 64 pc) <|
    match decodeWord (isControl core) (wordOfBytes (((s.imageOf k).drop pc).take 32)) with
    | .error e => .trap 0x01 (illegalVal e)
    | .ok w =>
      (c.commits n w.slots).bind fun commits =>
        let known : Known := ⟨commits, wordMarks w || commits, wordMarks w || commits || wordYields w⟩
        let c1 := c.atWord n (pc + 32) known
        (c1.guards n 0 w.slots).bind fun as =>
          (c1.dispatchChecks n w as).bind fun _ => (c1.predsKnown n as).bind fun _ =>
            (c1.wayOf n pc as commits).bind fun way =>
            waitUnless ((List.range 8).all fun j => decide ((c.queue j).length < 16)) <|
              waitUnless (c.popsReady n w.pop) <| (c1.allTags n as).bind fun ats =>
                let pass := as.any fun a => decide (a.slot = 4) && a.op.isPass
                let spanEnd := (s.core core).spanEnd || s.spanOver k
                let c2 := c.atWord n way.next known
                let c3 := ats.foldl (fun c a => c.place n s.now pc (slotSync w.sync pass a.1.slot) known.closes a.2 a.1) c2
                let c4 := (c3.ownWrites n as way.frames w.step).noteWord n w as commits known.marks spanEnd
                let c5 := { c4 with serial := c.serial + 9, word := n + 1, pc := if way.taken then pc + 32 else way.next,
                                    words := c.words ++ [⟨n, pc, way.next, w.pop⟩] }
                let s := s.setCore core { s.core core with spanEnd := spanEnd && !known.marks }
                .ok { s.setCtx k c5 with focus := branchFocus k c5 way }

/-- Whether the context that holds a core may be sent a word. -/
def State.mayDispatch (s : State) (k : Nat) : Bool :=
  let c := s.ctx k
  decide (c.run = .ready) && !c.halt && c.yldWord.isNone && decide ((s.func c.stat.vf).flr = 0) &&
    decide ((s.cluster (ctxCluster k)).power = .run)

/-- A mark word whose dispatch itself waits for a result that its mark releases (R129): the restart buffer's mark stands at the
word before. -/
def Ctx.markBefore (c : Ctx) (n : Nat) : Ctx :=
  if n ≤ c.lastMark + 1 ∨ (c.marks.any fun m => decide (m.word = n - 1)) then c
  else { c with marks := insertMark ⟨n - 1, c.pc, true⟩ c.marks }

/-- A word is dispatched. A trap found here is precise: it waits until every earlier word has issued. -/
def State.dispatch (s : State) (k : Nat) : State :=
  if s.mayDispatch k then
    match s.dispatchWord k with
    | .ok s' => s'
    | .wait => s
    | .late => s.setCtx k ((s.ctx k).markBefore (s.ctx k).word)
    | .trap cause val =>
      let c := s.ctx k
      if c.allIssuedBefore c.word then s.preciseTrap k c.word c.pc cause val else s
  else s

/-- A context that is ready does not wait any more. -/
def Ctx.wakeTok (c : Ctx) : Ctx := if c.isReady then { c with run := .ready } else c

/-- The next issue turn goes to the first ready context in rotation (R233). -/
def State.giveTurn (s : State) (core : Nat) : State :=
  let co := s.core core
  if co.holder.isSome || co.halted then s
  else match ((List.range 8).map fun i => 8 * core + (co.last + 1 + i) % 8).find? fun k => (s.ctx k).isReady with
    | some k => (s.setCtx k (s.ctx k).wakeTok).setCore core { co with holder := some k, turn := s.now, spanEnd := false }
    | none => s

def execWordDispatch (core : Nat) (s : State) : Out :=
  if !coreExists core then .fault (.noSuchUnit core)
  else
    let s := s.giveTurn core
    match (s.core core).holder with
    | some k => .next (s.dispatch k)
    | none => .next s

/-- The span of a core's holder is over: its next mark word ends it (R233). Dispatch goes by the same condition, so that the bound
holds in the cycle in which it comes. -/
def execSpanLimit (core : Nat) (s : State) : Out :=
  let co := s.core core
  match co.holder with
  | none => .next s
  | some k => .next (if s.spanOver k then s.setCore core { co with spanEnd := true } else s)

/-! ## MARK_COMMIT (R107, R109) -/

/-- Operations that wait until every mark has committed, that of their own word among them (R112, R128). -/
def waitsForMarks : Instr → Bool
  | .exit | .rti _ => true
  | _ => false

/-- Whether an entry of a mark's word only waits for the mark, or for an operation that does (R107): one that performs after
it, or one that reads a result which only this mark releases (R129). -/
def Ctx.waitsOnly (c : Ctx) (e : Entry) : Bool :=
  let own : Entry → Bool := fun x => waitsForMark x.op || waitsForMarks x.op || x.late
  e.late || waitsForMarks e.op || e.checked && (waitsForMark e.op ||
    (List.range 8).any fun j => e.sync.getLsbD j && (c.queue j).any fun x => decide (x.word = e.word) && own x)

/-- Whether every slot has issued the word of a mark, but for what waits for its commit. -/
def Ctx.markIssued (c : Ctx) (n : Nat) : Bool :=
  (List.range 8).all fun j => (c.queue j).all fun e => decide (n < e.word) || (decide (e.word = n) && c.waitsOnly e)

/-- The first mark of a context commits. Inside an open checkpoint it releases nothing: the gated stores wait for the mark
of the `spec.commit`. -/
def State.commitFirst (s : State) (k : Nat) : State :=
  let c := s.ctx k
  match c.marks with
  | [] => s
  | m :: _ =>
    if !c.markIssued m.word || !c.passedTo m.word || (c.chk.any fun x => match x.commit with | some w => decide (m.word < w) | none => true)
    then s
    else
      let s := s.setCtx k { c with chk := if c.chk.any fun x => decide (x.commit = some m.word) then none else c.chk }
      ((s.commitTo k m.word m.next).afterIssue k).pump k

def execMarkCommit (k : Nat) (s : State) : Out := .next (s.commitFirst k)

/-! ## The write queue (R247) -/

/-- The oldest byte of a core's write queue reaches its banks. -/
def execWriteQueueBankWrite (core : Nat) (s : State) : Out :=
  let co := s.core core
  match co.wq with
  | [] => .next s
  | p :: rest => .next (s.setCore core { co with sp := memSet co.sp p.addr p.val, wq := rest })

end Sys2Proof.Machine
end

