-- ==== Sys2Proof/Machine/Collect.lean ====
section
/-!
DEFINITION. The collective walker (R205 to R209, R327 to R329, R339): transfers one by one, landings, the arrival of a
reduction, faults that hold the walker, the publish of a constellation write, and the token.

The pieces of a transfer stand in its operation with the transfer's index as their row. The piece that stands for a
reduction's arrival has `twin` set. A piece that was answered with a code is `failed` and keeps the code in `ver`, with 1
beside it once firmware has been told.
-/

namespace Sys2Proof.Machine

/-! ## Transfers (R327) -/

/-- Where the staging block of transfer `t` begins. -/
def Coll.stg (r : Coll) (t : Nat) : Int :=
  r.sva + r.peer t * r.pstr + r.off t / (r.blk : Int) * (128 + r.nslot * r.blk : Nat)

/-- Where the bytes of transfer `t` go. -/
def Coll.target (r : Coll) (t : Nat) : Int :=
  if r.kind = 1 then r.stg t + 128 + (r.slot * r.blk : Nat) else r.dva + r.dstOff t

/-- Scratchpad address of the source of transfer `t`. -/
def Coll.source (r : Coll) (t : Nat) : Nat := (r.src + r.dot t (·.2.1)).toNat

def Op.xfer (o : Op) (t : Nat) : List Piece := o.pieces.filter fun p => decide (p.row = t)

/-- Codes past which the walker goes on (R328). -/
def passable (p : Piece) : Bool := decide (p.st = .failed) && p.ver.any fun v => decide (v.1 = 3 ∨ v.1 = 4)

/-- Whether a transfer is over: every reply is there, and of a reduction's the arrival's. -/
def Op.xferOver (o : Op) (red : Bool) (t : Nat) : Bool :=
  let ok : Piece → Bool := fun p => decide (p.st = .landed) || passable p
  let ps := (o.xfer t).filter fun p => !p.twin
  let arr := (o.xfer t).filter fun p => p.twin
  ps.all ok && (!red || ps.any passable || (!arr.isEmpty && arr.all ok))

/-- Whether a refused piece that the walker cannot pass has stopped a transfer for good, firmware having been told. -/
def Op.xferDead (o : Op) (t : Nat) : Bool :=
  (o.xfer t).any fun p => decide (p.st = .failed) && !passable p && p.ver.any fun v => decide (v.2 = 1)

def Op.xferOk (o : Op) (red : Bool) (t : Nat) : Bool := o.xferOver red t && !(o.xfer t).any passable

/-- Transfers that have been emitted and are not over. -/
def Op.xferOut (o : Op) (r : Coll) : Nat :=
  ((List.range r.next).filter fun t => !o.xferOver (decide (r.kind = 1)) t).length

/-! ## Streams (R196, R205) -/

/-- The next released row of a collective's stream, in drain order, once it has been read from its tile. -/
def Ctx.nextRow (c : Ctx) (coll now : Nat) : Option (DrainOp × RowPkt) :=
  match c.drains.find? fun d => decide (d.coll = coll) && d.released && !d.err && decide (d.sent < d.rows.length) with
  | some d => if d.issue + d.sent ≤ now then (d.rows[d.sent]?).map fun p => (d, p) else none
  | none => none

/-- A row has been sent: after the last one the drain's token is written. -/
def Ctx.rowSent (c : Ctx) (d : DrainOp) : Ctx :=
  if d.sent + 1 < d.rows.length then
    { c with drains := c.drains.map fun x => if x.id = d.id then { x with sent := x.sent + 1 } else x }
  else { c.putTok d.id (token 0 0) with drains := c.drains.filter fun x => decide (x.id ≠ d.id) }

/-! ## Translation (R328) -/

/-- A walker's address through the issuing core's TLB: home and physical address, or the fault's kind. -/
def State.walkerXlate (s : State) (k vf : Nat) (va : Nat) (a : Acc) : State × Except Nat (Nat × Nat) :=
  match s.lookup k vf va (s.core (ctxCore k)).icnt [a] with
  | .hit e => (s, .ok (s.place e va))
  | .filled s' e => (s', .ok (s.place e va))
  | .again => (s, .error 0)
  | .fault s' kind => (s', .error kind)

/-- trap.val of a translation fault (R302). -/
def xlateVal (kind va : Nat) : Nat := kind * 2 ^ 58 + va % 2 ^ 55

/-- Pieces translated in order; the first fault ends it with its value. -/
def State.walkerPieces (s : State) (k vf : Nat) : List Piece → State × Except Nat (List Piece)
  | [] => (s, .ok [])
  | p :: rest =>
    let r := s.walkerXlate k vf p.va .wr
    match r.2 with
    | .error kind => (r.1, .error (xlateVal kind p.va))
    | .ok d =>
      let q := r.1.walkerPieces k vf rest
      (q.1, match q.2 with | .error v => .error v | .ok ps => .ok (({ p with pa := some d, st := PieceSt.ready } : Piece) :: ps))

/-- Whether a page is replicated-local: its leaf's HOME is 0x7FF (R324). -/
def State.localFrom (s : State) (va : Nat) : Nat → Nat → Nat → Bool
  | 0, _, _ => false
  | fuel + 1, l, frame =>
    let e := s.pteRead (frame * 65536 + 8 * bits va (55 - 13 * l) 13)
    if pteLeaf e then decide (bits e 32 11 = 0x7FF) else s.localFrom va fuel (l + 1) (pteFrame e)

def State.isLocalPage (s : State) (vf va : Nat) : Bool :=
  match (s.func vf).space with | some (_, root) => s.localFrom va 3 1 root | none => false

/-! ## Sending -/

/-- A multicast write leaves under a tag of its own, and this device's router takes it (R323). Its first reply completes it. -/
def State.emitMc (s : State) (owner : ReqOwner) (eng vf addr mcg : Nat) (args data : List Byte) : State :=
  let p : Pkt := { dst := 0x7FF, src := s.vertex, eng := eng, hops := 0, fwd := false, vf := vf, lane := laneOf addr, nm := false,
                   op := opWR, via := 0, mcg := mcg, tag := s.newTag eng, code := 0, addr := addr, args := args, data := padUnits data }
  (s.await owner p s.vertex).deliver p (engRank eng)

/-- ARGS of a member write (R321, R327). -/
def Coll.memberArgs (r : Coll) (t : Nat) (p : Piece) : List Byte :=
  let m := (r.midx + r.dstOff t / 128).toNat + (p.sp - r.source t) / 128
  leBytes 3 r.cid ++ leBytes 4 r.ver ++ leBytes 2 m ++ leBytes 2 r.mcnt

/-- ARGS of a multicast write of `n` bytes: the barrier of its landing, and `n`, since its payload is whole units (log 15). -/
def Coll.mcArgs (r : Coll) (n : Nat) : List Byte := [BitVec.ofNat 8 (b2n r.barV)] ++ leBytes 4 r.bar ++ leBytes 1 n

/-- The payload of a reduction's arrival (R330, log 14). -/
def Coll.arrivalBytes (r : Coll) (dst : Nat × Nat) : List Byte :=
  leBytes 8 (dst.1 * 2 ^ 39 + dst.2) ++ leBytes 8 (b2n r.barV * 2 ^ 63 + r.bar) ++ leBytes 2 r.slot ++ leBytes 2 r.nslot ++
    leBytes 1 r.mode ++ List.replicate 3 0#8 ++ leBytes 4 r.blk ++ List.replicate 4 0#8

/-- Piece `i` of a collective leaves. -/
def State.emitXferPiece (s : State) (k : Nat) (o : Op) (r : Coll) (i : Nat) : State :=
  match o.pieces[i]? with
  | some p =>
    match p.pa with
    | none => s
    | some (home, pa) =>
      let eng := engPort (ctxCluster k)
      let vf := (s.ctx k).stat.vf
      let s := s.setCtx k ((s.ctx k).updOp o.id fun x => { x with pieces := updPiece x.pieces i fun q => { q with st := .sent } })
      let w : ReqOwner := .piece k o.id i
      let s := if p.twin then s.emit w home eng vf opRED pa [] p.data
        else if r.mc then s.emitMc w eng vf pa r.mcg (r.mcArgs p.len) p.data
        else if r.cst then s.emit w home eng vf opWRC pa (r.memberArgs p.row p) p.data
        else if pa % 16 = 0 ∧ p.len % 16 = 0 then s.emit w home eng vf opWR pa [] p.data
        else s.emit w home eng vf opWRM (pa / 128 * 128) [] (wrmData (pa % 128) p.data fun _ => false)
      s.noteVa p.va
  | none => s

/-- Whether a ready piece may leave: the arrival of a reduction once its slot writes have all been replied (R327). -/
def Op.mayLeave (o : Op) (p : Piece) : Bool :=
  decide (p.st = .ready) && (!p.twin || (o.xfer p.row).all fun q => q.twin || decide (q.st = .landed))

/-- Pieces that are ready and may leave do, from number `i` on. -/
def State.emitReady (s : State) (k id : Nat) : Nat → Nat → State
  | 0, _ => s
  | fuel + 1, i =>
    match (s.ctx k).findOp id with
    | none => s
    | some o =>
      let s : State := match o.coll, (o.pieces[i]? : Option Piece) with
        | some r, some p => if o.mayLeave p then s.emitXferPiece k o r i else s
        | _, _ => s
      s.emitReady k id fuel (i + 1)

def State.updColl (s : State) (k id : Nat) (g : Coll → Coll) : State :=
  s.setCtx k ((s.ctx k).updOp id fun o => { o with coll := o.coll.map g })

/-- A walker fault (R329): the walker is held at its transfer, and firmware is told, which enters it in the records (R347, R349). -/
def State.holdWalker (s : State) (k id t cause val : Nat) : State :=
  let cl := ctxCluster k
  (s.updColl k id fun r => { r with held := true }).walkerFault cl k id cause val cl t

/-- Pieces added to an operation and sent. -/
def State.addPieces (s : State) (k id : Nat) (ps : List Piece) : State :=
  let s := s.setCtx k ((s.ctx k).updOp id fun o => { o with pieces := o.pieces ++ ps })
  match (s.ctx k).findOp id with
  | some o => s.emitReady k id o.pieces.length 0
  | none => s

/-- The source bytes of transfer `t`, with the state after a stream's row has been taken; none if no row waits. -/
def State.xferSource (s : State) (k id : Nat) (r : Coll) (t : Nat) : Option (State × List Byte) :=
  let c := s.ctx k
  if r.strm then
    (c.nextRow id s.now).map fun p => (s.setCtx k (c.rowSent p.1), p.2.bytes ++ List.replicate (528 - p.2.bytes.length) 0#8)
  else
    let co := s.core (ctxCore k)
    some (s, (List.range r.blk).map fun i => co.byte (r.source t + i))

/-- Whether the source of a transfer holds an error that its storage cannot correct (R350). -/
def State.srcBad (s : State) (k : Nat) (r : Coll) (t : Nat) : Bool :=
  !r.strm && s.eccHit k (r.source t) r.blk

/-- The piece of a reduction's arrival, its addresses translated with those of the slot writes, so that no shoot-down falls
inside the transfer (R327, R328); `sp` is the virtual address of the result. It waits, ready, until they have all been replied. -/
def State.arrivalPiece (s : State) (k : Nat) (r : Coll) (t : Nat) : State × Except Nat (List Piece) :=
  let vf := (s.ctx k).stat.vf
  let a := s.walkerXlate k vf (vaOf (r.stg t)) .wr
  let b := a.1.walkerXlate k vf (vaOf (r.dva + r.dstOff t)) .wr
  match a.2, b.2 with
  | .error kind, _ => (a.1, .error (xlateVal kind (vaOf (r.stg t))))
  | _, .error kind => (b.1, .error (xlateVal kind (vaOf (r.dva + r.dstOff t))))
  | .ok h, .ok d => (b.1, .ok [(⟨t, vaOf (r.stg t), vaOf (r.dva + r.dstOff t), 32, some h, true, r.arrivalBytes d, .ready, none⟩ : Piece)])

/-- Transfer `t` is emitted, or holds the walker. -/
def State.emitXfer (s : State) (k : Nat) (o : Op) (r : Coll) (t : Nat) : State :=
  let vf := (s.ctx k).stat.vf
  if s.srcBad k r t then
    let bad : Piece := ⟨t, 0, 0, 0, none, false, [], .failed, some (3, 1)⟩
    (s.setCtx k ((s.ctx k).updOp o.id fun x => { (x.fail 3) with pieces := x.pieces ++ [bad] })).updColl k o.id
      fun r => { r with next := t + 1 }
  else
    let base := splitLines t (vaOf (r.target t)) (r.source t) (r.blk + 1) r.blk
    let x := s.walkerPieces k vf base
    match x.2 with
    | .error v => x.1.holdWalker k o.id t 0x14 v
    | .ok ps =>
      if r.mc && ps.any (fun p => !s.isLocalPage vf p.va) then
        x.1.holdWalker k o.id t 0x0A ((ps.head?.bind (·.pa)).map (·.2) |>.getD 0)
      else
        let y := if r.kind = 1 then x.1.arrivalPiece k r t else (x.1, .ok [])
        match y.2 with
        | .error v => y.1.holdWalker k o.id t 0x14 v
        | .ok arr =>
          match y.1.xferSource k o.id r t with
          | none => s
          | some (s, bs) =>
            let ps := ps.map fun p => { p with data := (bs.drop (p.sp - r.source t)).take p.len }
            (s.updColl k o.id fun r => { r with next := t + 1 }).addPieces k o.id (ps ++ arr)

/-! ## WALKER_TRANSFER -/

/-- A replied piece has landed: a COPY's landing is subtracted from the barrier at its destination's home (R328). Under
multicast each receiver has done so itself. -/
def State.landXfer (s : State) (k : Nat) (o : Op) (r : Coll) (i : Nat) (p : Piece) : State :=
  let s := s.setCtx k ((s.ctx k).updOp o.id fun x => { x with pieces := updPiece x.pieces i fun q => { q with st := .landed, data := [] } })
  match p.pa with
  | some (home, _) =>
    if r.barV && decide (r.kind = 0) && !r.mc && decide (p.row < r.total) then
      s.landBar (engPort (ctxCluster k)) (s.ctx k).stat.vf home (home * 2 ^ 30 + r.bar) p.len
    else s
  | none => s

/-- A refused piece: its code is the collective's first, or holds the walker (R328, R329). -/
def State.failXfer (s : State) (k : Nat) (o : Op) (i : Nat) (p : Piece) (code : Nat) : State :=
  let s := s.setCtx k ((s.ctx k).updOp o.id fun x => { x with pieces := updPiece x.pieces i fun q => { q with ver := some (code, 1) } })
  if code = 3 ∨ code = 4 then s.setCtx k ((s.ctx k).updOp o.id fun x => x.fail code)
  else s.holdWalker k o.id p.row code ((p.pa.map (·.2)).getD 0)

/-- Bytes of a collective that go to other devices (R366): those of a multicast all leave; a transfer whose target has no
translation yet counts as leaving. DESIGN CHOICE (log 110). -/
def State.collAway (s : State) (k : Nat) (r : Coll) : Nat :=
  (List.range r.total).foldl (fun a t => a + (if r.mc then r.blk
    else match s.xlate (s.ctx k).stat.vf (vaOf (r.target t)) .wr with
      | .ok (home, _) => if home = s.vertex then 0 else r.blk + (if r.kind = 1 then 32 else 0)
      | .error _ => r.blk)) 0

/-- Whether a collective holds a unit of the fabric governor or needs none: it sends at most 1 MiB to other devices. -/
def State.burstSmall (s : State) (k : Nat) (o : Op) (r : Coll) : Bool :=
  decide (o.burst = 2) || decide (r.total * (r.blk + 32) ≤ 2 ^ 20) || decide (s.collAway k r ≤ 2 ^ 20)

/-- Whether a reduction's arrival may leave and has not. -/
def Op.arrivalDue (o : Op) (r : Coll) : Bool := decide (r.kind = 1) && !r.held && o.pieces.any fun p => p.twin && o.mayLeave p

/-- Whether a released collective is among the two that a context may have outstanding (R208). -/
def Ctx.collActive (c : Ctx) (id : Nat) : Bool :=
  (((c.ops.filter fun o => decide (o.kind = .coll) && o.released).map (·.id)).take 2).elem id

/-- One step of a walker: a reply is taken note of, else an arrival leaves, else the next transfer. -/
def State.walk1 (s : State) (k : Nat) (o : Op) (r : Coll) : State :=
  match (List.range o.pieces.length).find? fun i => (o.pieces[i]?).any fun p => decide (p.st = .replied) with
  | some i => match o.pieces[i]? with | some p => s.landXfer k o r i p | none => s
  | none =>
    match (List.range o.pieces.length).find? fun i => (o.pieces[i]?).any fun p =>
        decide (p.st = .failed) && p.ver.any fun v => decide (v.2 = 0) with
    | some i => match o.pieces[i]? with
      | some p => s.failXfer k o i p ((p.ver.map (·.1)).getD 0)
      | none => s
    | none =>
      if !s.tagLeft (engPort (ctxCluster k)) then s
      else if o.arrivalDue r then s.emitReady k o.id o.pieces.length 0
      else if r.aborted || r.held || decide (r.total ≤ r.next) || decide (64 ≤ o.xferOut r) then s
      else if !s.burstSmall k o r then
        (if o.burst = 0 then { s.setCtx k ((s.ctx k).updOp o.id fun x => { x with burst := 1 }) with burstQ := s.burstQ ++ [(k, o.id)] } else s)
      else s.emitXfer k o r r.next

def execWalkerTransfer (k id : Nat) (s : State) : Out :=
  match (s.ctx k).findOp id with
  | none => .next s
  | some o =>
    match o.coll with
    | none => .next s
    | some r =>
      if !o.released || o.abandoned || s.resetting (s.ctx k).stat.vf || !(s.ctx k).collActive id then .next s
      else whenAwake s (s.walkPas (s.ctx k).stat.vf (vaOf (r.target r.next))) fun s => .next (s.walk1 k o r)

/-! ## COLLECTIVE_COMPLETION (R208, R209, R328, R339) -/

/-- The collective's token. -/
def Op.collToken (o : Op) (r : Coll) : W64 :=
  let n := ((List.range r.next).filter (o.xferOk (decide (r.kind = 1)))).length
  BitVec.ofNat 64 (tokDone + b2n r.aborted * 2 ^ 62 + o.code * 2 ^ 48 + n % 2 ^ 32)

/-- Whether every transfer is emitted, or the walker has been aborted, and every one emitted is over, a reduction's with its
arrival (R209). A transfer that held an aborted walker is over as it stands. -/
def Op.collOver (o : Op) (r : Coll) : Bool :=
  let red := decide (r.kind = 1)
  (r.aborted || (decide (r.total ≤ r.next) && !r.held)) &&
    ((List.range r.next).all fun t => o.xferOver red t || (r.aborted && o.xferDead t)) &&
    ((o.xfer r.total).all fun p => decide (p.st = .landed) || passable p || (r.aborted && decide (p.st = .failed)))

/-- The publish that a constellation write sends before its token: a piece of row `total`. -/
def State.publishColl (s : State) (k : Nat) (o : Op) (r : Coll) : State :=
  let i := o.pieces.length
  let p : Piece := ⟨r.total, 0, 0, 0, some (r.cid / 8192, 16 * (r.cid % 8192)), false, [], .sent, none⟩
  let s := (s.setCtx k ((s.ctx k).updOp o.id fun x => { x with pieces := x.pieces ++ [p] })).updColl k o.id fun r => { r with published := true }
  s.emit (.piece k o.id i) (r.cid / 8192) (engPort (ctxCluster k)) (s.ctx k).stat.vf opPUB (16 * (r.cid % 8192))
    (leBytes 3 r.cid ++ leBytes 4 r.ver) []

/-- The token is written; the stream closes, and a fabric unit goes back. -/
def State.endColl (s : State) (k : Nat) (o : Op) (r : Coll) : State :=
  let s := s.setCtx k ((((s.ctx k).putTok o.id (o.collToken r)).dropOp o.id).dropRows)
  if o.burst = 2 then { s with burstHeld := s.burstHeld - 1 } else { s with burstQ := s.burstQ.filter fun q => decide (q ≠ (k, o.id)) }

/-- A released `coll.abort` acts on its collective, and is gone. -/
def State.applyAbort (s : State) (k : Nat) (o : Op) : State :=
  let s := s.updColl k o.b fun r => { r with aborted := true, held := false }
  s.setCtx k ((s.ctx k).dropOp o.id)

def execCollectiveCompletion (k id : Nat) (s : State) : Out :=
  match (s.ctx k).findOp id with
  | none => .next s
  | some o =>
    match o.kind, o.coll with
    | .collAbort, _ => .next (if o.released then s.applyAbort k o else s)
    | .coll, some r =>
      if !o.released || !o.collOver r then .next s
      else if r.cst && !r.published && !r.aborted then .next (s.publishColl k o r)
      else .next (s.endColl k o r)
    | _, _ => .next s

/-- Firmware resumes a walker at its transfer, or at its publish (R329, R339). -/
def State.resumeWalker (s : State) (k id t : Nat) : State :=
  match (s.ctx k).findOp id with
  | none => s
  | some o =>
    match o.coll with
    | none => s
    | some r =>
      let s := s.updColl k id fun r => { r with held := false }
      if t = r.total then
        (s.setCtx k ((s.ctx k).updOp id fun x => { x with pieces := x.pieces.filter fun p => decide (p.row ≠ t) })).updColl k id
          fun r => { r with published := false }
      else
        let vf := (s.ctx k).stat.vf
        let stuck : Piece → Bool := fun p => decide (p.row = t) && decide (p.st = .failed) && !passable p
        let x := s.walkerPieces k vf (o.pieces.filter stuck)
        match x.2 with
        | .error v => x.1.holdWalker k id t 0x14 v
        | .ok ps =>
          let fresh : Piece → Piece := fun p =>
            if stuck p then (match ps.find? fun q => decide (q.va = p.va) with | some q => { q with ver := none } | none => p) else p
          -- an arrival that has waited for these writes is translated anew
          let waits : Piece → Bool := fun p => p.twin && decide (p.row = t) && decide (p.st = .ready)
          let y := if o.pieces.any waits then x.1.arrivalPiece k r t else (x.1, .ok [])
          match y.2 with
          | .error v => y.1.holdWalker k id t 0x14 v
          | .ok arr =>
            let s := y.1.setCtx k ((y.1.ctx k).updOp id fun z =>
              { z with pieces := z.pieces.map fun p => if waits p then arr.headD p else fresh p })
            s.emitReady k id o.pieces.length 0

end Sys2Proof.Machine
end

