-- ==== Sys2Proof/Machine/Launch.lean ====
section
/-!
DEFINITION. The scheduler's acceptance of step graphs (R223 to R226, R229, R230, R259 to R264, R334): the records read and
checked, the demand graphs loaded, and the token of `launch`. What memory outside this device holds comes with the event,
by virtual address.
-/

namespace Sys2Proof.Machine

/-! ## The scheduler's reads and writes -/

/-- Why a read fails: the code of R133, with the line where this device cannot correct it. -/
structure RdErr where
  code : Nat
  bad : Option Nat
  deriving DecidableEq, Repr

/-- The bytes of one part of a line, in the address space of `vf`; what is not in this device's own frames comes from
outside. A constellation line is read at C (R146). -/
def State.readPart (s : State) (ext : ExtBytes) (vf : Nat) (p : Piece) : Except RdErr (List Byte) :=
  match s.xlate vf p.va .rd with
  | .error c => .error ⟨c, none⟩
  | .ok (home, pa) =>
    if home ≠ s.vertex then (if s.live home then .ok (extRead ext p.va p.len) else .error ⟨0x04, none⟩)
    else
      let here : Nat → Except RdErr (List Byte) := fun a =>
        if s.badLine (a / 128) then .error ⟨0x03, some (a / 128)⟩ else .ok (s.rdMem a p.len)
      match s.frameCheck pa vf .read with
      | .code c => .error ⟨c, none⟩
      | .ok =>
        let line := pa / 128 * 128
        let cid := s.lineCid line
        if bitAt (s.frameEnt pa) 53 ∧ cid ≠ 0 then
          if cid / 8192 ≠ s.vertex then .ok (extRead ext p.va p.len)
          else match s.commitOf cid vf with
            | .got v => match s.slotAt line cid v with
              | some slot => here (slot + pa % 128)
              | none => .error ⟨0x07, none⟩
            | .code c => .error ⟨c, none⟩
            | .away => .ok (extRead ext p.va p.len)
        else here pa
      | _ => .ok (extRead ext p.va p.len)

def State.readParts (s : State) (ext : ExtBytes) (vf : Nat) : List Piece → Except RdErr (List Byte)
  | [] => .ok []
  | p :: rest =>
    match s.readPart ext vf p with
    | .error e => .error e
    | .ok bs => match s.readParts ext vf rest with
      | .error e => .error e
      | .ok cs => .ok (bs ++ cs)

/-- `n` bytes at a virtual address. -/
def State.readVa (s : State) (ext : ExtBytes) (vf va n : Nat) : Except RdErr (List Byte) :=
  s.readParts ext vf (rowPieces 0 va 0 n)

/-- The source engine of what a cluster's scheduler writes: its control core's copy engine (R320). -/
def engSched (cl : Nat) : Nat := 290 + cl

/-- The scheduler writes bytes within one line, by a masked write to their home. -/
def State.writeVa (s : State) (owner : ReqOwner) (cl vf va : Nat) (bs : List Byte) : Except Nat State :=
  match s.xlate vf va .wr with
  | .error c => .error c
  | .ok (home, pa) => .ok (s.emit owner home (engSched cl) vf opWRM (pa / 128 * 128) [] (wrmData (pa % 128) bs fun _ => false))

/-! ## Launch records (R223) -/

/-- The launching context's rights, and the function it acts for. -/
structure Submitter where
  vf : Nat
  priv : Bool
  lcap : Bool
  deriving DecidableEq, Repr

/-- A bit of FLAGS. -/
def recFlag (bs : List Byte) (i : Nat) : Bool := bitAt (rfld bs 4 4) i

def recVf (bs : List Byte) : Nat := rfld bs 3 1 % 16
def recPlace (bs : List Byte) : Nat := rfld bs 60 4
def recGrid (bs : List Byte) : Nat := rfld bs 20 2 * rfld bs 22 2 * rfld bs 24 2
def recDgraph (bs : List Byte) : Nat := rfld bs 88 8

/-- Clusters of a PLACE field. -/
def placeOf (m : Nat) : List Nat := (List.range 32).filter fun i => bitAt m i

/-- Reason 0x02: a zero field is nonzero, or a field lies outside its range. -/
def recBad (bs : List Byte) : Bool :=
  decide (rfld bs 2 1 / 4 ≠ 0 ∨ rfld bs 3 1 / 16 ≠ 0 ∨ rfld bs 4 4 / 16 ≠ 0 ∨ rfld bs 59 1 ≠ 0 ∨ rfld bs 104 24 ≠ 0) ||
  decide (rfld bs 8 8 % 32 ≠ 0 ∨ rfld bs 16 4 % 32 ≠ 0 ∨ rfld bs 16 4 < 32 ∨ 1048576 < rfld bs 16 4) ||
  decide (rfld bs 20 2 = 0 ∨ rfld bs 22 2 = 0 ∨ rfld bs 24 2 = 0 ∨ 2048 < rfld bs 26 2) ||
  decide (4 < bits (rfld bs 28 4) 0 3 ∨ 8 < bits (rfld bs 28 4) 3 4 ∨ 16 < bits (rfld bs 28 4) 7 5 ∨ rfld bs 28 4 / 4096 ≠ 0) ||
  decide (rfld bs 32 4 / 2 ^ 22 ≠ 0 ∨ rfld bs 36 4 / 2 ^ 22 ≠ 0) ||
  decide (256 < rfld bs 56 2 ∨ (rfld bs 56 2 ≠ 0 ∧ rfld bs 48 8 % 32 ≠ 0) ∨ rfld bs 80 8 % 8 ≠ 0)

/-- Reason 0x05: the record's function, and the clusters it names. -/
def State.recAlien (s : State) (by_ : Submitter) (bs : List Byte) : Bool :=
  (!by_.priv && decide (recVf bs ≠ by_.vf)) || decide (recPlace bs = 0) ||
    (placeOf (recPlace bs)).any (fun cl => decide (s.owner cl ≠ recVf bs)) || s.resetting (recVf bs)

/-- Reason 0x06: an entry of DEP that does not name an earlier record. -/
def recDeps (bs : List Byte) : List Nat := ((List.range 8).map fun j => rfld bs (64 + 2 * j) 2).filter fun d => decide (d ≠ 0xFFFF)

/-! ## Groups (R229, R230) -/

def Grp.parse (bs : List Byte) : Grp := ⟨rfld bs 0 1, rfld bs 8 8, rfld bs 16 8, rfld bs 24 8, []⟩

/-- Whether a tile is a member. -/
def Grp.member (g : Grp) (t : Nat) : Bool :=
  if g.kind = 1 then decide (g.a ≤ t ∧ t ≤ g.b ∧ (t - g.a) % g.c = 0)
  else decide (g.kind = 2) && bitAt (g.map.getD (t / 8) 0#8).toNat (t % 8)

/-- Number of members of lower index. -/
def Grp.rank (g : Grp) (t : Nat) : Nat := ((List.range t).filter g.member).length

/-- A group-table entry with its bitmap, or none where it breaks R230 or the layout of R229: a byte or an operand that the layout leaves
unused and is not 0, a stride of 0, a bitmap that is not aligned. DESIGN CHOICE (log 131). -/
def State.readGrp (s : State) (ext : ExtBytes) (vf total : Nat) (bs : List Byte) : Option Grp :=
  let g := Grp.parse bs
  if rfld bs 1 7 ≠ 0 ∨ 2 < g.kind then none
  else if g.kind = 1 then (if g.a ≤ g.b ∧ g.b < total ∧ 1 ≤ g.c then some g else none)
  else if g.kind = 2 then
    if g.a % 8 ≠ 0 ∨ g.b ≠ 0 ∨ g.c ≠ 0 then none
    else match s.readVa ext vf g.a ((total + 7) / 8) with
      | .ok m => some { g with map := m }
      | .error _ => none
  else some g

def State.readGrps (s : State) (ext : ExtBytes) (vf total : Nat) (tbl : List Byte) (n : Nat) : Option (List Grp) :=
  (List.range n).foldr (fun i (acc : Option (List Grp)) =>
    match s.readGrp ext vf total ((tbl.drop (32 * i)).take 32), acc with
    | some g, some gs => some (g :: gs)
    | _, _ => none) (some [])

/-- Whether no tile is in more than four groups. -/
def grpsFit (gs : List Grp) (total : Nat) : Bool := (List.range total).all fun t => decide ((gs.filter fun g => g.member t).length ≤ 4)

/-- The memberships of a tile, in gs0 upward (R57, R230). -/
def membership (gs : List Grp) (t : Nat) : List W64 :=
  (((List.range gs.length).filter fun i => match gs[i]? with | some g => g.member t | none => false).take 4).map fun i =>
    BitVec.ofNat 64 (2 ^ 63 + i * 2 ^ 32 + (match gs[i]? with | some g => g.rank t | none => 0) % 2 ^ 32)

/-! ## Pipeline records (R238, R334) -/

/-- Whether `n` barriers from `a` and [lo, lo + len) have a byte in common. -/
def barsMeet (a n lo len : Nat) : Bool := decide (a < lo + len) && decide (lo < a + 16 * n)

/-- The checks of a pipeline record, with its two shape records read; none where it fails. -/
def State.readPipe (s : State) (ext : ExtBytes) (vf va splo sphi : Nat) : Option Pipe :=
  match s.readVa ext vf va 64 with
  | .error _ => none
  | .ok bs =>
    match s.readVa ext vf (rfld bs 0 8) 64, s.readVa ext vf (rfld bs 8 8) 64 with
    | .ok lb, .ok sb =>
      let l := Shape.parse lb
      let t := Shape.parse sb
      let n := rfld bs 16 2
      let bst := rfld bs 20 4
      let lbar := rfld bs 24 8
      let sbar := rfld bs 32 8
      let all : Ctx := { Ctx.idle with stat := { Stat.none with priv := true } }
      let task : Ctx := { Ctx.idle with splo := splo, sphi := sphi }
      let inRange : Shape → Bool := fun r => !(r.barV && task.outside (barAddr r.bar) 16)
      let inside : Shape → Bool := fun r => decide (r.sp + (r.rows - 1) * r.spstride + r.bytes ≤ bst)
      let ok := decide (rfld bs 18 2 = 0 ∧ rfld bs 40 24 = 0 ∧ 1 ≤ n ∧ n ≤ 16 ∧ bst ≠ 0 ∧ bst % 64 = 0 ∧
          splo + n * bst - 1 ≤ sphi) &&
        (s.shapeFaults all .plain lb).isEmpty && (s.shapeFaults all (if t.cid = 0 then .plain else .member) sb).isEmpty &&
        inside l && inside t && inRange l && inRange t &&
        decide (lbar / 2 ^ 22 = 0 ∧ sbar / 2 ^ 22 = 0 ∧ bits lbar 0 22 % 16 = 0 ∧ bits sbar 0 22 % 16 = 0) &&
        !barsMeet (bits lbar 0 22) n splo (n * bst) && !barsMeet (bits sbar 0 22) n splo (n * bst) &&
        !barsMeet (bits lbar 0 22) n (bits sbar 0 22) (16 * n)
      if ok then
        some { va := va, lrec := l, srec := t, nbuf := n, bstride := bst, lbar := bits lbar 0 22, sbar := bits sbar 0 22,
               permits := [], loads := [], full := [], writing := [], held := [], stop := 0, publish := 0, cores := [] }
      else none
    | _, _ => none

/-! ## The check of one record (R225) -/

/-- A record that passes, with what was read for it. -/
structure Checked where
  grps : List Grp
  img : List Byte
  pipe : Option Pipe
  deriving DecidableEq, Repr

/-- Incomplete records that name a cluster. -/
def State.recsOn (s : State) (cl : Nat) : Nat := (s.recs.filter fun (p : Nat × LRec) => !p.2.done && bitAt p.2.place cl).length

/-- The groups of a record, where its table can be read and is valid: the reason that fails otherwise. -/
def State.grpCheck (s : State) (ext : ExtBytes) (bs : List Byte) : Except Nat (List Grp) :=
  let n := rfld bs 56 2
  if n = 0 then .ok []
  else match s.readVa ext (recVf bs) (rfld bs 48 8) (32 * n) with
    | .error _ => .error 0x09
    | .ok tbl => match s.readGrps ext (recVf bs) (recGrid bs) tbl n with
      | none => .error 0x07
      | some gs => if grpsFit gs (recGrid bs) then .ok gs else .error 0x07

/-- The lowest-numbered of the reasons 0x01 to 0x0B for which record `i` fails. -/
def State.checkRec (s : State) (ext : ExtBytes) (by_ : Submitter) (i : Nat) (bs : List Byte) : Except Nat Checked :=
  let g := s.grpCheck ext bs
  let persist := recFlag bs 1
  if rfld bs 0 2 ≠ 0x0100 then .error 0x01
  else if recBad bs then .error 0x02
  else if persist ≠ decide (rfld bs 26 2 ≠ 0) then .error 0x03
  else if rfld bs 36 4 < rfld bs 32 4 then .error 0x04
  else if s.recAlien by_ bs then .error 0x05
  else if (recDeps bs).any fun d => decide (i ≤ d) then .error 0x06
  else match g with
    | .error 0x07 => .error 0x07
    | _ =>
      if recFlag bs 0 && !by_.lcap then .error 0x08
      else match g, s.readVa ext (recVf bs) (rfld bs 8 8) (rfld bs 16 4) with
        | .ok gs, .ok img =>
          if (placeOf (recPlace bs)).any fun cl => decide (1024 ≤ s.recsOn cl) then .error 0x0A
          else if recFlag bs 3 then
            match s.readPipe ext (recVf bs) (rfld bs 96 8) (rfld bs 32 4) (rfld bs 36 4) with
            | some p => .ok ⟨gs, img, some p⟩
            | none => .error 0x0B
          else .ok ⟨gs, img, none⟩
        | _, _ => .error 0x09

/-! ## Demand graphs (R259 to R264) -/

/-- E(k) of R262: 65536 · 2^(−k/8), rounded up. -/
def eTable (k : Nat) : Nat :=
  (List.range 17).foldl (fun acc i => let x := acc + 2 ^ (16 - i); if x ^ 8 * 2 ^ k < 2 ^ 128 then x else acc) 0 + 1

/-- The admission test of a producer with the given split weights and reserve. -/
def admits (spl : List Nat) (rho : Nat) : Bool := decide (spl.foldl (fun n x => n + eTable x) 0 + eTable rho ≤ 65536)

/-- A node's input entry: node, σ and split weight. -/
def nodeIn (bs : List Byte) (i : Nat) : Nat × Int × Nat :=
  (rfld bs (64 + 4 * i) 2, signed 8 (rfld bs (66 + 4 * i) 1), rfld bs (67 + 4 * i) 1)

def DNode.parse (bs : List Byte) : DNode :=
  { kind := rfld bs 0 1, flags := rfld bs 1 1, rho := rfld bs 3 1, record := rfld bs 4 2, lgrade := rfld bs 6 1, gva := rfld bs 8 8,
    ins := (List.range (rfld bs 2 1)).map (nodeIn bs), d := none, p := none }

/-- The records of a step graph as the scheduler read them; one that it could not read is an error. -/
abbrev RecBytes : Type := List (Except RdErr (List Byte))

/-- CODE of a node's first failure, 0 where it passes. A record that could not be read is a record of the step graph. -/
def nodeCode (bs : List Byte) (m : Nat) (recs : RecBytes) (va : Nat) : Nat :=
  let x := DNode.parse bs
  let nin := rfld bs 2 1
  let leaf := decide (x.kind = 2)
  if (x.kind ≠ 1 ∧ x.kind ≠ 2) ∨ x.flags / 4 ≠ 0 ∨ 16 < nin ∨ rfld bs 7 1 ≠ 0 ∨ rfld bs 16 48 ≠ 0 ∨
      rfld bs (64 + 4 * nin) (64 - 4 * nin) ≠ 0 ∨ (leaf ∧ (nin ≠ 0 ∨ x.rho ≠ 0 ∨ x.record ≠ 0xFFFF ∨ x.gva ≠ 0)) ∨
      (!leaf ∧ (x.lgrade ≠ 0 ∨ x.gva % 64 ≠ 0)) then 0x02
  else if x.ins.any fun i => decide (m ≤ i.1) then 0x03
  else if !leaf && !admits (x.ins.map fun i => i.2.2) x.rho then 0x04
  else if !leaf && (match recs[x.record]? with | some (.ok r) => decide (recDgraph r ≠ va) | some (.error _) => false | none => true) then 0x05
  else 0

/-- The nodes of a demand graph read and checked in ascending order: the first that fails gives the code. -/
def State.readNodes (s : State) (ext : ExtBytes) (vf va : Nat) (recs : RecBytes) : List Nat → Except (Nat × Nat) (List DNode)
  | [] => .ok []
  | m :: rest =>
    match s.readVa ext vf (va + 64 + 128 * m) 128 with
    | .error _ => .error (0x07, m)
    | .ok b =>
      if nodeCode b m recs va ≠ 0 then .error (nodeCode b m recs va, m)
      else match s.readNodes ext vf va recs rest with
        | .error e => .error e
        | .ok ns => .ok (DNode.parse b :: ns)

/-- A demand graph read and checked: its nodes, or the refusal code with the node that failed. -/
def State.readGraph (s : State) (ext : ExtBytes) (vf va room : Nat) (recs : RecBytes) : Except (Nat × Nat) (List DNode) :=
  match s.readVa ext vf va 64 with
  | .error _ => .error (0x07, 0)
  | .ok h =>
    let n := rfld h 2 2
    if rfld h 0 2 ≠ 0x0100 then .error (0x01, 0)
    else if va % 128 ≠ 0 ∨ n < 1 ∨ 4096 < n ∨ rfld h 4 4 ≠ 0 ∨ rfld h 16 48 ≠ 0 then .error (0x02, 0)
    else match s.readNodes ext vf va recs (List.range n) with
      | .error e => .error e
      | .ok ns => if room < n then .error (0x06, 0) else .ok ns

/-- Nodes that an engine still has room for. -/
def State.nodeRoom (s : State) (cl : Nat) : Nat :=
  4096 - ((s.graphs.filter fun g => decide (g.cluster = cl)).foldl (fun n g => n + g.nodes.length) 0)

/-- STATUS of a load (R259, R263). -/
def graphStatus (code node : Nat) : Nat := 2 ^ 63 + code * 2 ^ 48 + node

/-- The graph that record `i` names is loaded, and its STATUS written: the state, and the code. -/
def State.loadGraph (s : State) (ext : ExtBytes) (cl : Nat) (bs : List Byte) (recs : RecBytes) : State × Nat :=
  let vf := recVf bs
  let va := recDgraph bs
  let home := (nthSet 32 (recPlace bs) 0).getD 0
  let put : State → Nat → Nat → State := fun s code node =>
    (s.writeVa .firmware cl vf (va + 8) (leBytes 8 (graphStatus code node))).toOption.getD s
  match s.readGraph ext vf va (s.nodeRoom home) recs with
  | .error (code, node) => (put s code node, code)
  | .ok ns => (put { s with graphs := s.graphs ++ [(⟨va, vf, s.nextGraph, home, ns⟩ : DGraph)] } 0 0, 0)

/-! ## Acceptance -/

/-- The checks of every record, in order, each graph loaded at the first record that names it: what was read, or the reason
and the index of the lowest record that fails. A record that could not be read fails with reason 0x09. -/
def State.checkAll (s : State) (ext : ExtBytes) (cl : Nat) (by_ : Submitter) (recs : RecBytes) :
    Nat → RecBytes → State × Except (Nat × Nat) (List (List Byte × Checked))
  | _, [] => (s, .ok [])
  | i, .error e :: _ => (match e.bad with | some l => s.noteBad l by_.vf | none => s, .error (0x09, i))
  | i, .ok bs :: rest =>
    match s.checkRec ext by_ i bs with
    | .error r => (s, .error (r, i))
    | .ok x =>
      let known := decide (recDgraph bs = 0) || s.graphs.any fun g => decide (g.graph = s.nextGraph) && decide (g.va = recDgraph bs)
      let p := if known then (s, 0) else s.loadGraph ext cl bs recs
      if p.2 ≠ 0 then (p.1, .error (0x0C, i))
      else match p.1.checkAll ext cl by_ recs (i + 1) rest with
        | (s, .ok xs) => (s, .ok ((bs, x) :: xs))
        | r => r

/-- The record as the scheduler keeps it. -/
def State.makeRec (s : State) (va i : Nat) (bs : List Byte) (x : Checked) : LRec :=
  let node := (s.graphs.find? fun g => decide (g.graph = s.nextGraph) && decide (g.va = recDgraph bs)).bind fun g =>
    (List.range g.nodes.length).find? fun m => g.nodes[m]?.any fun n => decide (n.kind = 1) && decide (n.record = i)
  { va := va + 128 * i, prio := rfld bs 2 1, vf := recVf bs, flags := rfld bs 4 4, code := rfld bs 8 8, codesz := rfld bs 16 4,
    img := x.img, x := rfld bs 20 2, y := rfld bs 22 2, z := rfld bs 24 2, nres := rfld bs 26 2, res := rfld bs 28 4,
    splo := rfld bs 32 4, sphi := rfld bs 36 4, arg := rfld bs 40 8, grps := x.grps, tol := rfld bs 58 1, place := recPlace bs,
    dep := (recDeps bs).map fun d => s.nextRec + d, compl := rfld bs 80 8, dgraph := recDgraph bs, pipe := x.pipe,
    graph := s.nextGraph, index := i, queued := false, readyAt := 0, dealt := 0, live := 0, failed := 0,
    counter := if recFlag bs 1 then [(0, recGrid bs)] else [], completing := false, done := false, retiles := none,
    redem := none, node := node }

/-- Token of a refusal (R119). -/
def refuseTok (reason index : Nat) : Nat := 2 ^ 63 + reason * 2 ^ 16 + index

/-- The records at `va`. -/
def State.readRecs (s : State) (ext : ExtBytes) (vf va n : Nat) : RecBytes :=
  (List.range n).map fun i => s.readVa ext vf (va + 128 * i) 128

/-- A step graph is checked and accepted, all of it or none (R225): the state and the token. `n` is the signed count. -/
def State.acceptGraph (s : State) (ext : ExtBytes) (cl : Nat) (by_ : Submitter) (va : Nat) (n : Int) : State × Nat :=
  if n = 0 then (s, 0)
  else if n < 0 ∨ 4096 < n then (s, refuseTok 0x02 0xFFFF)
  else if va % 128 ≠ 0 then (s, refuseTok 0x02 0)
  else
    let recs := s.readRecs ext by_.vf va n.toNat
    match s.checkAll ext cl by_ recs 0 recs with
    | (s, .error (r, i)) => ({ s with graphs := s.graphs.filter fun g => decide (g.graph ≠ s.nextGraph) }, refuseTok r i)
    | (s, .ok xs) =>
      let new : AMap LRec := (List.range xs.length).filterMap fun i =>
        (xs[i]?).map fun (x : List Byte × Checked) => (s.nextRec + i, s.makeRec va i x.1 x.2)
      ({ s with recs := s.recs ++ new, nextRec := s.nextRec + xs.length, nextGraph := s.nextGraph + 1 }, 0)

/-- The control core's scheduler checks the oldest submitted graph of its cluster, and writes the token of its `launch`. -/
def execStepGraphAccept (cl : Nat) (ext : ExtBytes) (s : State) : Out :=
  let q := s.cluster cl
  match q.graphs with
  | [] => .next s
  | g :: rest =>
    whenAwake s (s.vaPas g.vf g.addr (128 * (min 4096 (signed 64 g.n)).toNat)) fun s =>
    let s := s.setCluster cl { q with graphs := rest }
    let r := s.acceptGraph ext cl ⟨g.vf, g.priv, g.lcap⟩ g.addr (signed 64 g.n)
    .next (r.1.setCtx g.ctx (((r.1.ctx g.ctx).putTok g.op (BitVec.ofNat 64 r.2)).dropOp g.op))

end Sys2Proof.Machine
end

