-- ==== Sys2Proof/Machine/Migrate.lean ====
section
/-!
DEFINITION. The migration service (R309 to R311): faults of kinds 4 and 5, and moves of pages. A device does its part of
another's migration at a MGMT message, whose contents the spec does not give (log 18).
-/

namespace Sys2Proof.Machine

/-! ## Page-table entries in memory -/

/-- Where the leaf entry of an address stands, and its level. -/
def State.leafAt (s : State) (va : Nat) : Nat → Nat → Nat → Option (Nat × Nat)
  | 0, _, _ => none
  | fuel + 1, l, frame =>
    let a := frame * 65536 + 8 * bits va (55 - 13 * l) 13
    let e := s.pteRead a
    if !pteV e then none else if pteLeaf e then some (a, l) else s.leafAt va fuel (l + 1) (pteFrame e)

def State.leafOfVa (s : State) (vf va : Nat) : Option (Nat × Nat) :=
  (s.func vf).space.bind fun p => s.leafAt va 3 1 p.2

/-- A field of an entry written. -/
def setField (e lo w v : Nat) : Nat := e - bits e lo w * 2 ^ lo + v % 2 ^ w * 2 ^ lo

/-- The entries that are changed with one at `a`: those of its 2 MiB group, or itself alone (R294, R310). -/
def State.groupAt (s : State) (a : Nat) : List Nat :=
  if bitAt (s.pteRead a) 59 then (List.range 32).map fun i => a / 256 * 256 + 8 * i else [a]

/-- Every entry of a list changed, but for those in a line that cannot be read: a write of eight bytes there has no effect and enters
the records (R351). -/
def State.editPtes (s : State) (as : List Nat) (g : Nat → Nat → Nat) : State :=
  as.foldl (fun s a =>
    if s.badLine (a / 128) then s.noteBad (a / 128) 0 else s.wrMem (cellsAt a (leBytes 8 (g a (s.rdMem8 a))))) s

/-- Pages that an entry of level `l` maps. -/
def pagesOf (l : Nat) : Nat := if l = 2 then 8192 else 1

/-! ## Shoot-downs of the service -/

/-- The clusters of this device that run a job. -/
def State.jobClusters (s : State) (vf : Nat) : List Nat :=
  (List.range 32).filter fun cl => decide (s.asidOf (s.owner cl) = s.asidOf vf)

/-- A shoot-down of every core of a cluster. -/
def State.startSd (s : State) (vf va npg cl : Nat) : State :=
  let q := s.cluster cl
  let km := 255 + (if q.spare.getLsbD 7 then 256 else 0)
  s.setCluster cl { q with sd := { Shoot.reset with
    busy := true, asid := s.asidOf vf, kmask := km, npg := npg, va := va / 65536 * 65536, start := s.now,
    pending := (List.range 9).filter fun i => bitAt km i } }

/-- The shoot-downs that may start, do. -/
def State.stepSd (s : State) (m : Migration) (npg va : Nat) : State × Migration :=
  let go := m.todo.filter fun cl => !(s.cluster cl).sd.busy
  (go.foldl (fun s cl => s.startSd m.vf va npg cl) s, { m with todo := m.todo.filter (fun cl => !go.elem cl), out := m.out ++ go })

/-- Whether a message to another device's firmware is still to be answered. -/
def State.mgmtOut (s : State) : Bool := s.reqs.any fun q => decide (q.op = opMGMT)

/-- Whether every shoot-down has ended, here and on the other devices. -/
def State.sdOver (s : State) (m : Migration) : Bool :=
  m.todo.isEmpty && m.out.all (fun cl => !(s.cluster cl).sd.busy) && !s.mgmtOut

/-- A message to the firmware of another device (log 18): the address, the step, the ASID, a device and a frame; then a page of
the pool, a version and a count where a step needs them. -/
def State.tellMore (s : State) (vf va step about frame : Nat) (pool : Option Nat) (ver cnt dev : Nat) : State :=
  s.emit .firmware dev (engSched 0) vf opMGMT 0 []
    (leBytes 8 va ++ leBytes 1 step ++ leBytes 2 (s.asidOf vf) ++ leBytes 2 about ++ leBytes 3 frame ++
      leBytes 6 (match pool with | some p => p + 1 | none => 0) ++ leBytes 4 ver ++ leBytes 2 cnt ++ leBytes 4 0)

def State.tellDev (s : State) (vf va step about frame dev : Nat) : State := s.tellMore vf va step about frame none 0 0 dev

/-- A message to the firmware of every other device. -/
def State.tellAll (s : State) (vf va step about frame : Nat) : State :=
  (s.roster.filter fun d => decide (d ≠ s.vertex)).foldl (fun s d => s.tellDev vf va step about frame d) s

/-! ## Servicing -/

/-- A context stopped by a trap goes on (R304, R347). -/
def State.resumeCtx (s : State) (k : Nat) : State :=
  let c := s.ctx k
  if c.run = .trapped then s.setCtx k { c with run := .ready } else s

def State.dropMig (s : State) (m : Migration) : State := { s with migs := s.migs.erase m }

def State.setMig (s : State) (m n : Migration) : State := { s with migs := s.migs.map fun x => if x = m then n else x }

/-- First address and pages of the shoot-down for the entry at `a` of level `l`. -/
def sdRange (va : Nat) (grp : Bool) (l : Nat) : Nat × Nat :=
  if grp then (va / 2 ^ 21 * 2 ^ 21, 32) else (va / (65536 * pagesOf l) * (65536 * pagesOf l), pagesOf l)

/-- Entries set busy, and the shoot-downs of this device asked for. -/
def State.beginHere (s : State) (m : Migration) (a : Nat) : State :=
  let s := s.editPtes (s.groupAt a) fun _ e => setField e 60 2 1
  s.setMig m { m with phase := 1, todo := s.jobClusters m.vf, out := [] }

/-- The same on every device. -/
def State.beginMig (s : State) (m : Migration) (a : Nat) : State := (s.beginHere m a).tellAll m.vf m.va 1 m.dev 0

/-- Frames of this device are free: STATE alone changes (R310, R344). -/
def State.freeFrames (s : State) (frame n : Nat) : State :=
  (List.range n).foldl (fun s i => s.setFrame (frame + i) (BitVec.ofNat 64 (s.frameEnt ((frame + i) * 65536) % 2 ^ 61))) s

/-- The page of a kind-4 fault of device `dev` becomes single-owner in this device's tables, the others of its group keep their
two homes, and a frame of this device that was dropped is free (R310, steps 4 and 5). -/
def State.ownAlone (s : State) (dev a l : Nat) : State :=
  let e := s.pteRead a
  let h1 := bits e 32 11
  let h2 := bits e 43 11
  let keep := if dist dev h2 < dist dev h1 then h2 else h1
  let drop := if keep = h1 then h2 else h1
  let s := s.editPtes (s.groupAt a) fun x e =>
    let e := setField (setField e 60 2 0) 59 1 0
    if x = a then setField (setField (setField e 58 1 0) 43 11 0) 32 11 keep else e
  if drop = s.vertex then s.freeFrames (pteFrame e) (pagesOf l) else s

/-- The context of the fault goes on: another device is told to resume its own. -/
def State.resumeMig (s : State) (m : Migration) : State :=
  if m.dev = s.vertex then s.resumeCtx m.ctx else s.tellDev m.vf m.va (24 + m.kind) m.dev 0 m.dev

/-- A fault that another device's service has served: its context goes on (R310, step 6). -/
def State.resumeAway (s : State) (vf va kind : Nat) : State :=
  match s.migs.find? fun m => decide (m.kind = kind ∧ m.vf = vf ∧ m.va = va ∧ m.phase = 1 ∧ m.dev = s.vertex) with
  | some m => (s.resumeCtx m.ctx).dropMig m
  | none => s

/-- A kind-4 fault is served on every device (R310, steps 4 and 5). -/
def State.collapse (s : State) (m : Migration) (a l : Nat) : State :=
  ((s.ownAlone m.dev a l).tellAll m.vf m.va 2 m.dev 0).setMig m { m with phase := 2 }

/-- One step for a fault of kind 4 that this device serves, once no move has its page. The context goes on once every device has rewritten its entries and
freed its frame. -/
def State.serve4 (s : State) (m : Migration) : State :=
  match s.leafOfVa m.vf m.va with
  | none => (s.resumeMig m).dropMig m
  | some (a, l) =>
    let e := s.pteRead a
    if m.phase = 0 then
      (if pteMig e = 1 then s else if bitAt e 58 then s.beginMig m a else (s.resumeMig m).dropMig m)
    else if m.phase = 1 then
      let r := sdRange m.va (bitAt e 59) l
      let p := s.stepSd m r.2 r.1
      let s := p.1.setMig m p.2
      if s.sdOver p.2 then s.collapse p.2 a l else s
    else if s.mgmtOut then s
    else (s.resumeMig m).dropMig m

/-- Whether the page of an address is busy. -/
def State.pageBusy (s : State) (vf va : Nat) : Bool :=
  match s.leafOfVa vf va with | some (a, _) => decide (pteMig (s.pteRead a) = 1) | none => false

/-- A fault that another device serves: forwarded, and resumed when that device says so. -/
def State.serveAway (s : State) (m : Migration) (mh : Nat) : State :=
  if m.phase = 0 then (s.setMig m { m with phase := 1 }).tellDev m.vf m.va (16 + m.kind) s.vertex 0 mh else s

/-- The migration home of a function (R292). -/
def Func.mh (f : Func) : Nat := bits f.tr.toNat 36 11

/-- The service takes the faults it serves one at a time, in the order of arrival; those that it has forwarded wait for their
own device. -/
def State.serveMig (s : State) (m : Migration) : State :=
  let mh := (s.func m.vf).mh
  if mh ≠ s.vertex then s.serveAway m mh
  else if m.kind = 5 then (if s.pageBusy m.vf m.va then s else (s.resumeMig m).dropMig m)
  else s.serve4 m

def execMigrationService (s : State) : Out :=
  let away := s.migs.filter fun m => decide (m.kind < 8 ∧ (s.func m.vf).mh ≠ s.vertex)
  let s := away.foldl State.serveMig s
  match s.migs.find? fun m => decide (m.kind < 8 ∧ (s.func m.vf).mh = s.vertex) with
  | some m => .next (s.serveMig m)
  | none => .next s

/-! ## PAGE_MOVE (R311) -/

/-- Pages that a move takes: with a twin page goes its second slot's frame. -/
def moveFrames (e l : Nat) : Nat := pagesOf l + b2n (bitAt e 57)

/-- The frame-table entry of a frame that a page moves to, as its copy needs it: owned and writable, or forwarded to the pool. -/
def readyEnt (vf : Nat) (pool : Option Nat) (i : Nat) : W64 :=
  BitVec.ofNat 64 (vf % 16 * 2 ^ 57 + 3 * 2 ^ 54 + match pool with | some g => 3 * 2 ^ 61 + (g + i) % 2 ^ 42 | none => 2 ^ 61)

/-- Frames of this device are made ready for a page that moves here, or to the pool through them. -/
def State.readyFrames (s : State) (vf frame n : Nat) (pool : Option Nat) : State :=
  (List.range n).foldl (fun s i => s.setFrame (frame + i) (readyEnt vf pool i)) s

/-- The entry once the page has moved: the page's rights and TWIN, under the STATE and TARGET it has. -/
def movedEnt (old vf e : Nat) : W64 :=
  BitVec.ofNat 64 (old / 2 ^ 61 * 2 ^ 61 + vf % 16 * 2 ^ 57 + bits e 54 3 * 2 ^ 54 + bits e 57 1 * 2 ^ 53 + old % 2 ^ 53)

def State.ownFrames (s : State) (vf e frame n : Nat) : State :=
  (List.range n).foldl (fun s i => s.setFrame (frame + i) (movedEnt (s.frameEnt ((frame + i) * 65536)) vf e)) s

/-- Whether this device holds the frame that an entry names. -/
def State.holdsFrame (s : State) (e : Nat) : Bool :=
  decide (bits e 32 11 = s.vertex) || (bitAt e 58 && decide (bits e 43 11 = s.vertex))

/-- Whether a frame that an entry names lies in this device's memory: the device holds it, and its accesses are not forwarded. -/
def State.frameHere (s : State) (e frame : Nat) : Bool := s.holdsFrame e && decide (bits (s.frameEnt (frame * 65536)) 61 3 = 1)

/-- Lines of this device that a copy has lost: they cannot be read at their new place either (log 135). -/
def State.poison (s : State) (lines : List Nat) : State :=
  let new := lines.filter fun l => !s.eccBad.elem l
  new.foldl (fun s l => s.noteBad l 0) { s with eccBad := s.eccBad ++ new }

/-- One frame copied: from this device's memory or from what the event brings, into this device's memory or by writes to its new
home. Slot sidebands go with the frame. A line that cannot be read is lost at its new place too. DESIGN CHOICE (log 135). -/
def State.copyFrame (s : State) (ext : ExtBytes) (vf va e home from_ to_ : Nat) (pool : Option Nat) : State :=
  let own := s.frameHere e from_
  let lost := if own then (List.range 512).filter fun i => s.badLine (from_ * 512 + i) else []
  let s := lost.foldl (fun s i => s.noteBad (from_ * 512 + i) vf) s
  let bs := if own then s.rdMem (from_ * 65536) 65536 else extRead ext va 65536
  let side : Nat → Side := fun i => if own then AMap.get (Side.mk 0 0 0 0) s.side (from_ * 512 + i) else ⟨0, 0, 0, 0⟩
  if home = s.vertex ∧ pool = none then
    let s := ((List.range 512).foldl (fun s i => s.heal (to_ * 512 + i)) s).wrMem (cellsAt (to_ * 65536) bs)
    ({ s with side := (List.range 512).foldl (fun m i => AMap.set m (to_ * 512 + i) (side i)) s.side } : State).poison
      (lost.map fun i => to_ * 512 + i)
  else
    (List.range 512).foldl (fun s i =>
      if lost.elem i then s.tellDev vf (to_ * 512 + i) 10 s.vertex 0 home
      else
      let s := s.emit .firmware home (engSched 0) vf opWR (to_ * 65536 + 128 * i) [] ((bs.drop (128 * i)).take 128)
      let x := side i
      if x.cid = 0 ∨ home = s.vertex then s else s.tellMore vf (to_ * 512 + i) 8 x.midx x.cid none x.ver x.mcnt home) s

/-- The page-table entry of a page that has moved. One entry cannot name two frames, so a read-duplicate page that moves to
another frame, or to its other home, becomes single-owner. DESIGN CHOICE (log 114). -/
def movedPte (e home frame : Nat) : Nat :=
  let x := setField (setField (setField (setField e 60 2 0) 59 1 0) 0 23 frame) 32 11 home
  if bitAt e 58 ∧ (frame ≠ pteFrame e ∨ home = bits e 43 11) then setField (setField x 58 1 0) 43 11 0 else x

/-- Whether this device's copy of the page is given up: it held one, and the new entry no longer names it. -/
def State.leaves (s : State) (e home frame : Nat) : Bool :=
  let x := movedPte e home frame
  s.holdsFrame e && !(s.holdsFrame x && decide (pteFrame x = pteFrame e))

/-- The entry at `a` names the new home and frame in this device's tables, and this device's old frames are free. -/
def State.rehome (s : State) (vf a l home frame : Nat) : State :=
  let e := s.pteRead a
  let s := s.editPtes (s.groupAt a) fun x e => if x = a then movedPte e home frame else setField (setField e 60 2 0) 59 1 0
  let s := if home = s.vertex then s.ownFrames vf e frame (moveFrames e l) else s
  if s.leaves e home frame then s.freeFrames (pteFrame e) (moveFrames e l) else s

/-- The page is copied. -/
def State.copyPage (s : State) (m : Migration) (e l home frame : Nat) (pool : Option Nat) (ext : ExtBytes) : State :=
  let base := m.va / (65536 * pagesOf l) * (65536 * pagesOf l)
  let s := (List.range (moveFrames e l)).foldl
    (fun s i => s.copyFrame ext m.vf (base + 65536 * i) e home (pteFrame e + i) (frame + i) pool) s
  s.setMig m { m with phase := 2 }

/-- Whether a write of the copy, or a message, is still to be answered. -/
def State.copyOut (s : State) (vf : Nat) : Bool :=
  s.mgmtOut || s.reqs.any fun q => decide (q.owner = .firmware) && decide (q.vf = vf) && decide (q.op = opWR)

/-- The page's entry names the new home and frame on every device, and its old frames are free. -/
def State.finishMove (s : State) (m : Migration) (a l home frame : Nat) : State :=
  ((s.rehome m.vf a l home frame).tellAll m.vf m.va 3 home frame).setMig m { m with phase := 3 }

/-- A page is moved, to a frame of a device or out to a page of the pool through one. The first time, its entries become busy, and
its new home makes the frame ready; once the shoot-downs have ended, it is copied; once the copy has been answered, the entries
name its new place; and once every device has answered, the move is over. -/
def execPageMove (vf va home : Nat) (aim : FrameAim) (ext : ExtBytes) (s : State) : Out :=
  let frame := aim.frame
  let pool := aim.pool
  match s.leafOfVa vf va with
  | none => .next s
  | some (a, l) =>
    let e := s.pteRead a
    match s.migs.find? fun m => decide (m.kind = 8 ∧ m.vf = vf ∧ m.va / 65536 = va / 65536) with
    | none =>
      if pteMig e ≠ 0 ∨ (s.func vf).mh ≠ s.vertex then .next s
      else
        let m : Migration := ⟨0, vf, va, s.vertex, 8, 0, [], []⟩
        let s := ({ s with migs := s.migs ++ [m] } : State).beginMig m a
        .next (if home = s.vertex then s.readyFrames vf frame (moveFrames e l) pool
          else if s.roster.elem home then s.tellMore vf va 6 home frame pool 0 0 home else s)
    | some m =>
      if m.phase = 1 then
        let r := sdRange va (bitAt e 59) l
        let p := s.stepSd m r.2 r.1
        let s := p.1.setMig m p.2
        .next (if s.sdOver p.2 then s.copyPage p.2 e l home frame pool ext else s)
      else if s.copyOut vf then .next s
      else if m.phase = 2 then .next (s.finishMove m a l home frame)
      else .next (s.dropMig m)

end Sys2Proof.Machine
end

