-- ==== Sys2Proof/Machine/Save.lean ====
section
/-!
DEFINITION. The save areas (R63, R237): where a core's slots lie, what bytes a spilled context leaves in its slot, and how what
changes while it is spilled is written there. Where an item of the table holds several values, the places of their bits within
the item are the model's. DESIGN CHOICE (log 47).
-/

namespace Sys2Proof.Machine

/-! ## The place of a slot -/

/-- Bytes of a slot. -/
def saveSlotSize : Nat := 0xAC000

/-- Physical address of the slot that stands under a spilled context's key: sixteen slots a core, in its own die's memory, from
the base at which firmware has placed the area. -/
def State.savePa (s : State) (key : Nat) : Nat :=
  let core := ctxCore key
  clusterDie (coreCluster core) * (0x180000 * 65536) + s.conf.saveBase +
    (((coreCluster core % 8) * 10 + coreK core) * 16 + (key - spillBase) % 16) * saveSlotSize

/-! ## Bytes of a slot -/

/-- A value read after all that its context has issued; one that is still to come reads as zero. -/
def Eff.now {α : Type} (d : α) : Eff α → α
  | .ok v => v
  | _ => d

def dwords (xs : List Nat) : List Byte := (xs.map (leBytes 8)).flatten

/-- Offsets 0x00000 to 0x0023F: the registers of 64 bits and fewer. -/
def Ctx.savedRegs (c : Ctx) : List Byte :=
  let n := c.word
  let u : Nat → Nat := fun i => (Eff.now 0#64 (c.rdU n i)).toNat
  let due : Nat → Nat := fun j => ((List.range 6).filter fun i => c.nt.any fun e => decide (e.due = n + 1 + 6 * j + i)).foldl (fun x i => x + 2 ^ i) 0
  dwords ((List.range 32).map fun i => (Eff.now 0#64 (c.rdS n (BitVec.ofNat 5 i))).toNat) ++
  dwords [c.pc, ((List.range 16).filter fun i => Eff.now false (c.rdP n (BitVec.ofNat 4 i))).foldl (fun x i => x + 2 ^ i) 0,
          u uTol % 2 ^ 8 + u uFmode % 2 ^ 8 * 2 ^ 8 + (Eff.now 0#8 (c.rdFstat n)).toNat * 2 ^ 16,
          (Eff.now 0#32 (c.rdLfsr n 0)).toNat, c.statWord.toNat, c.resWord.toNat, u uMxc % 2 ^ 32 + c.mxf.toNat * 2 ^ 32,
          match c.permit with | some p => 2 ^ 63 + p.lvl | none => 0] ++
  dwords ((List.range 8).map fun i => (Eff.now 0#64 (c.rdM n (BitVec.ofNat 3 i))).toNat) ++
  dwords ((List.range 8).map fun i => let x := Eff.now (0#24, 0#24) (c.rdA n (BitVec.ofNat 3 i)); x.1.toNat + x.2.toNat * 2 ^ 24) ++
  dwords ((List.range 4).map fun i => (Eff.now 0#24 (c.rdFo n (BitVec.ofNat 2 i))).toNat + (Eff.now 0#16 (c.rdFi n (BitVec.ofNat 2 i))).toNat * 2 ^ 24) ++
  dwords ((List.range 4).map fun i => u (uHzn + i)) ++
  dwords ((List.range 4).map fun i => (Eff.now 0#64 (c.rdNt n (BitVec.ofNat 2 i))).toNat + due i * 2 ^ 48) ++
  dwords ((List.range 4).map fun i => (c.gs.get 0#64 i).toNat)

/-- Offsets 0x00240 to 0x0027F: tags, CSV bits and the barrier arrival record. -/
def Ctx.savedTags (c : Ctx) : List Byte :=
  let n := c.word
  let w : Nat → WReg := fun j => Eff.now WReg.blank (c.rdW c.word j)
  let tags := packElems 4 (((List.range 32).map fun i => (Eff.now tRAW (c.rdVt n (BitVec.ofNat 5 i))).toNat) ++
    (List.range 4).map fun j => (w j).tag.toNat)
  leBytes 32 (tags + ((List.range 4).filter fun j => (w j).csv).foldl (fun x j => x + 2 ^ (144 + j)) 0) ++
    (match c.barRec with | some (a, g) => dwords [a, 2 ^ 63 + g] | none => dwords [0, 0]) ++ List.replicate 16 0#8

/-- A full entry of the deferred-fault table: PID, address, cause, and whether it was a translation fault. -/
def DefEnt.saved (e : DefEnt) : List Byte :=
  leBytes 4 e.pid ++ leBytes 8 e.va ++ leBytes 2 e.code ++ [BitVec.ofNat 8 (b2n e.tr), 1#8]

def padTo (n : Nat) (bs : List Byte) : List Byte := bs ++ List.replicate (n - bs.length) 0#8

/-- The registers s0 to s31 that a token is still to be written to, one bit each: they stand in the reserved bits 55 to 24 of chw0. -/
def Ctx.pendingToks (c : Ctx) : Nat :=
  ((List.range 32).filter fun i => match c.rdS c.word (BitVec.ofNat 5 i) with | .wait | .late => true | _ => false).foldl (fun x i => x + 2 ^ i) 0

/-- Offsets 0x00000 to 0x005AF, all that may change while the context is spilled among them. -/
def Ctx.savedHead (c : Ctx) : List Byte :=
  let lost := c.dft.lost.map fun e => leBytes 4 e.pid
  c.savedRegs ++ c.savedTags ++ padTo 256 (c.dft.full.map DefEnt.saved).flatten ++
    dwords ((List.range 4).map fun i => (Eff.now 0#64 (c.rdU c.word (uItr + i))).toNat) ++
    dwords ((List.range 16).map fun j => (c.chans.get Chan.reset j).chb.toNat) ++
    dwords ((List.range 16).map fun j => (c.chans.get Chan.reset j).chw.toNat + if j = 0 then c.pendingToks * 2 ^ 24 else 0) ++
    padTo 256 lost.flatten ++ padTo 16 (leBytes 4 c.dft.lost.length ++ [BitVec.ofNat 8 (b2n c.dft.ovf)])

/-- Bytes of v0 to v31, at offset 0x01000. -/
def Ctx.savedVecs (c : Ctx) : List Byte :=
  ((List.range 32).map fun i => leBytes 256 (Eff.now 0#2048 (c.rdV c.word (BitVec.ofNat 5 i))).toNat).flatten

/-- Bytes of a receive queue's entries, each queue at its 4096 bytes from offset 0x03000. -/
def RQueue.saved (q : RQueue) : List Byte := (q.ents.map fun e => leBytes 256 e.data.toNat).flatten

/-- Offsets 0x0B000 to 0x0B07F: the entries' tags, and each queue's read and write positions. -/
def Ctx.savedPositions (c : Ctx) : List Byte :=
  let q : Nat → RQueue := fun j => c.rq.get RQueue.none j
  leBytes 64 (packElems 4 ((List.range 128).map fun i => (((q (i / 16)).ents.map fun e => e.tag.toNat).getD (i % 16) 0))) ++
    padTo 64 (dwords ((List.range 8).map fun j => (q j).ents.length * 2 ^ 8))

/-- Bytes of weight register `j`: FP32 elements over the pair, FP16 ones as they are, and those of the formats of 8 bits as BF16, which
holds them exactly. How the 32 KiB hold the elements of an SX format is not said: free bytes, from number `fresh` on (log 47). -/
def Ctx.savedW (c : Ctx) (fresh j : Nat) : List Byte :=
  let w : Nat → WReg := fun j => Eff.now WReg.blank (c.rdW c.word j)
  let rows : List (List XV) → Nat → Fmt → List Byte := fun xs n f => (xs.map fun r => (r.map fun x => leBytes n (f.round 0 0 x).1).flatten).flatten
  if (w j).tag = tF32 then rows ((w j).w.take 64) 4 fmt32
  else if j % 2 = 1 ∧ (w (j - 1)).tag = tF32 then rows ((w (j - 1)).w.drop 64) 4 fmt32
  else if isSX (w j).tag then (List.range 32768).map fun i => Config.freeByte (fresh + i)
  else rows (w j).w 2 (if (w j).tag = tF16 then fmt16 else fmtBf)

/-- Bytes of tile `j`. -/
def Ctx.savedTile (c : Ctx) (j : Nat) : List Byte :=
  ((List.range 128).map fun i => ((c.tileRow j i).map fun x => leBytes 4 x.toNat).flatten).flatten

/-! ## Writing a slot -/

/-- What may change while a context is spilled is brought up to date in its slot: tokens, coordinates, channels, queue
entries (R198, R234 to R236). -/
def State.saveLive (s : State) (key : Nat) : State :=
  let c := s.ctx key
  let a := s.savePa key
  let m := memPut (memPut s.mem a c.savedHead) (a + 0xB000) c.savedPositions
  { s with mem := (List.range 8).foldl (fun m j =>
      let bs := (c.rq.get RQueue.none j).saved
      if bs.isEmpty then m else memPut m (a + 0x3000 + 0x1000 * j) bs) m }

/-- The whole of a spilled context's slot is written, for the units that it holds. -/
def State.saveSlotOf (s : State) (key : Nat) : State :=
  let c := s.ctx key
  let a := s.savePa key
  let m := memPut s.mem (a + 0x1000) c.savedVecs
  let m := memPut (memPut m (a + 0x5B0) (List.replicate 2640 0#8)) (a + 0xB080) (List.replicate 3968 0#8)
  let m := (List.range (popcNat 4 c.wmap)).foldl (fun m j => memPut m (a + 0xC000 + 0x8000 * j) (padTo 32768 (c.savedW (s.fresh + 32768 * j) j))) m
  let m := (List.range (popcNat 8 c.amap)).foldl (fun m j => memPut m (a + 0x2C000 + 0x10000 * j) (c.savedTile j)) m
  ({ s with mem := m, fresh := s.fresh + 131072 } : State).saveLive key

end Sys2Proof.Machine
end

