-- ==== Sys2Proof/Machine/Sched.lean ====
section
/-!
DEFINITION. The scheduler (R226 to R237): code images in the code stores, ready records and the dispatch queues, binding,
tile counters, swap-out and reload, and the completion of records.
-/

namespace Sys2Proof.Machine

/-! ## Code images (R226) -/

/-- The name of an image in a code store: records of one function that share CODE and CODESZ share it. -/
def LRec.imageKey (r : LRec) : Nat := r.code + 2 ^ 64 * (r.codesz + 2 ^ 32 * (r.vf + 1))

/-- Bytes of a code store in use. -/
def Cluster.storeUsed (q : Cluster) : Nat := q.store.foldl (fun n (p : Nat × List Byte) => n + p.2.length) 0

/-- Whether a cluster's store holds an image. -/
def Cluster.hasImage (q : Cluster) (key : Nat) : Bool := q.store.any fun p => decide (p.1 = key)

/-- An image is copied into the store of a cluster if it fits. -/
def Cluster.putImage (q : Cluster) (r : LRec) : Cluster :=
  if q.hasImage r.imageKey || decide (2 ^ 21 < q.storeUsed + r.codesz) then q
  else { q with store := AMap.set q.store r.imageKey r.img }

/-- One record's image into the stores that it names. `held` are the clusters in which an earlier record waits for room: there a
later image is not placed before it. DEDUCED (log 130): R226 has a record wait for earlier records only. -/
def State.placeImage (st : State × List Nat) (r : LRec) : State × List Nat :=
  (placeOf r.place).foldl (fun st cl =>
    if st.2.elem cl then st
    else
      let q := (st.1.cluster cl).putImage r
      if q.hasImage r.imageKey then (st.1.setCluster cl q, st.2) else (st.1, cl :: st.2)) st

/-- Images of incomplete records are placed, in the order of acceptance; those that no incomplete record needs are freed. -/
def State.placeImages (s : State) : State :=
  let live := s.recs.filter fun (p : Nat × LRec) => !p.2.done
  let keep : Nat → Nat → Bool := fun cl key => live.any fun (p : Nat × LRec) => bitAt p.2.place cl && decide (p.2.imageKey = key)
  let s := { s with clusters := s.clusters.map fun (p : Nat × Cluster) =>
    (p.1, { p.2 with store := p.2.store.filter fun (e : Nat × List Byte) => decide (e.1 < 2 ^ 96) || keep p.1 e.1 }) }
  (live.foldl (fun st (p : Nat × LRec) => State.placeImage st p.2) (s, [])).1

/-- Whether a record's image stands in every store it needs. -/
def State.imagePlaced (s : State) (r : LRec) : Bool := (placeOf r.place).all fun cl => (s.cluster cl).hasImage r.imageKey

/-! ## Sharing a demand (R258, R265) -/

/-- Grade arithmetic, saturated. -/
def gradeSat (x : Int) : Nat := (clampInt 0 255 x).toNat

def updNode (ns : List DNode) (m : Nat) (g : DNode → DNode) : List DNode :=
  match ns, m with
  | [], _ => []
  | n :: rest, 0 => g n :: rest
  | n :: rest, m + 1 => n :: updNode rest m g

/-- The walk of R265: the nodes with D′ and P′, and the nodes it has reached. -/
def walkDemand : Nat → List DNode × List Nat → Nat → Nat → List DNode × List Nat
  | 0, st, _, _ => st
  | fuel + 1, (ns, seen), m, x =>
    match ns[m]? with
    | none => (ns, seen)
    | some n =>
      let seen := if seen.elem m then seen else seen ++ [m]
      if n.d.any fun d => decide (x ≤ d) then (ns, seen)
      else
        let leaf := decide (n.kind = 2)
        let ns := updNode ns m fun n => { n with d := some x, p := if leaf then n.p else some (gradeSat (x + n.rho)) }
        if leaf then (ns, seen)
        else n.ins.foldl (fun st i => walkDemand fuel st i.1 (gradeSat (x + i.2.1 + i.2.2))) (ns, seen)

def State.graphOf (s : State) (key : Nat) : Option DGraph :=
  (s.recs.find? key).bind fun r => if r.dgraph = 0 then none else s.graphs.find? fun g => decide (g.graph = r.graph) && decide (g.va = r.dgraph)

/-! ## Ready records and dispatch queues (R224, R227, R266) -/

/-- The node of a record in its demand graph, if it has one. -/
def State.nodeOf (s : State) (r : LRec) : Option DNode :=
  r.node.bind fun m => (s.graphs.find? fun g => decide (g.graph = r.graph) && decide (g.va = r.dgraph)).bind fun g => g.nodes[m]?

/-- Whether a record becomes ready: the records it names have completed, and no HOLD keeps it (R266). -/
def State.mayReady (s : State) (r : LRec) : Bool :=
  !r.queued && !r.done && r.dep.all (fun d => match s.recs.find? d with | some x => x.done | none => true) &&
    match s.nodeOf r with | some n => !bitAt n.flags 0 || n.p.isSome | none => true

/-- Tasks of a record: one per tile, NRES residents, or the tiles that a `redem` runs again. -/
def LRec.tasks (r : LRec) : Nat :=
  if bitAt r.flags 1 then r.nres
  else match r.retiles with | some ts => ts.length | none => r.x * r.y * r.z

/-- Linear index of task `i`. A resident takes its coordinate when it binds. -/
def LRec.tileAt (r : LRec) (i : Nat) : Nat := match r.retiles with | some ts => ts.getD i 0 | none => i

/-- The compute cores of a cluster that take tasks, K0 first; a spare stands for the core it replaces (R355). -/
def State.coresOf (s : State) (cl : Nat) : List Nat :=
  ((List.range 8).map fun k => s.coreFor cl k).filter fun k => !(s.core k).retired

/-- Core of task `i`: round-robin over the clusters of PLACE and, within each, over its cores. -/
def State.coreOfTask (s : State) (r : LRec) (i : Nat) : Nat :=
  let cls := placeOf r.place
  let cl := cls.getD (i % cls.length) 0
  let cores := s.coresOf cl
  if cores.isEmpty then s.coreFor cl (i / cls.length % 8) else cores.getD (i / cls.length % cores.length) 0

/-- Class of a task in a dispatch queue: an old one counts as class 0. -/
def State.taskClass (s : State) (t : Task) : Nat := if t.aged then 0 else ((s.recs.find? t.record).map (·.prio)).getD 3

/-- A task joins a dispatch queue behind those of its class or a higher one. -/
def State.enqueue (s : State) (t : Task) : List Task → List Task
  | [] => [t]
  | x :: rest => if s.taskClass t < s.taskClass x then t :: x :: rest else x :: s.enqueue t rest

def State.giveTask (s : State) (core : Nat) (t : Task) : State :=
  let co := s.core core
  s.setCore core { co with dq := s.enqueue t co.dq }

/-- The tasks of a record enter the dispatch queues. -/
def State.dealRec (s : State) (key : Nat) (r : LRec) : State :=
  let s := (List.range r.tasks).foldl (fun s i => s.giveTask (s.coreOfTask r i) ⟨key, r.tileAt i, none, s.now, false⟩) s
  { s with recs := AMap.set s.recs key { r with dealt := r.tasks, live := r.tasks } }

/-- Whether a record's tasks are to be dealt. -/
def State.mayDeal (s : State) (r : LRec) : Bool :=
  r.queued && !r.done && !r.completing && decide (r.dealt = 0) && s.imagePlaced r && !s.resetting r.vf &&
    r.pipe.all fun p => decide (p.stop = 0)

/-- What a record is served by: its class, when it became ready, and its place in its step graph. The records that a
`redem` runs again form a step graph of their own, in ascending order of their nodes (R270). -/
def servedKey (x : Nat × LRec) : List Nat :=
  [x.2.prio, x.2.readyAt] ++ match x.2.redem with
    | none => [0, x.1]
    | some (k, id) => [1, k, id, x.2.node.getD 0]

/-- Lists of numbers in the order of a dictionary. -/
def listLt : List Nat → List Nat → Bool
  | _, [] => false
  | [], _ :: _ => true
  | a :: as, b :: bs => decide (a < b) || (decide (a = b) && listLt as bs)

/-- The record served before another. -/
def servedBefore (a b : Nat × LRec) : Bool := listLt (servedKey a) (servedKey b)

def firstServed : List (Nat × LRec) → Option (Nat × LRec)
  | [] => none
  | x :: rest => match firstServed rest with
    | none => some x
    | some y => some (if servedBefore y x then y else x)

def State.dealAll (s : State) : Nat → State
  | 0 => s
  | fuel + 1 =>
    match firstServed (s.recs.filter fun (p : Nat × LRec) => s.mayDeal p.2) with
    | none => s
    | some (k, r) => (s.dealRec k r).dealAll fuel

/-- Records that have become ready take note of the cycle. It happens in every cycle, so that records that became ready in the
same one share it (R227). -/
def State.markReady (s : State) : State :=
  { s with recs := s.recs.map fun (p : Nat × LRec) => (p.1, if s.mayReady p.2 then { p.2 with queued := true, readyAt := s.now } else p.2) }

/-- What the scheduler does by itself: images, ready records, tasks into dispatch queues. -/
def State.schedule (s : State) : State :=
  let s := s.placeImages.markReady
  s.dealAll s.recs.length

/-- A task that has waited 2^20 cycles in a dispatch queue. -/
def State.ageDue (s : State) (t : Task) : Bool := !t.aged && decide (t.since + 2 ^ 20 ≤ s.now)

/-- Such tasks count as class 0 from then on (R227): all of a core's at once, in their order. -/
def execTaskAging (core : Nat) (s : State) : Out :=
  let co := s.core core
  let old := (co.dq.filter s.ageDue).map fun t => { t with aged := true }
  if old.isEmpty then .next s
  else .next (s.setCore core { co with dq := old.foldl (fun q t => s.enqueue t q) (co.dq.filter fun t => !s.ageDue t) })

/-! ## Units (R46, R54, R231, R236) -/

/-- Lowest `n` of the first `total` units that are not in use, as a mask; none where too few are free. -/
def takeUnits (total used n : Nat) : Option Nat :=
  let free := (List.range total).filter fun i => !bitAt used i
  if free.length < n then none else some ((free.take n).foldl (fun m i => m + 2 ^ i) 0)

/-- Channels that a spilled context still holds: those with BUSY set (R235). -/
def Ctx.keptChans (c : Ctx) : Nat :=
  (List.range 16).foldl (fun m j => if (c.chans.get Chan.reset j).busy then (match nthSet 16 c.cmap j with | some i => m + 2 ^ i | none => m) else m) 0

/-- Two masks without a bit in common, put together; common bits count once. -/
def orMask (a b : Nat) : Nat := Nat.lor a b

/-- Units of a core that are in use, but for what context `skip` holds: weight registers, tiles, channels. -/
def State.unitsUsed (s : State) (core : Nat) (skip : Option Nat) : Nat × Nat × Nat :=
  (coreKeys core).foldl (fun u k =>
    let c := s.ctx k
    if some k = skip then (u.1, u.2.1, orMask u.2.2 c.keptChans)
    else if isSpilled k then (u.1, u.2.1, orMask u.2.2 c.keptChans)
    else (orMask u.1 c.wmap, orMask u.2.1 c.amap, orMask u.2.2 c.cmap)) (0, 0, 0)

/-- The units that RES asks for, where they are free. -/
def LRec.units (r : LRec) (used : Nat × Nat × Nat) : Option (Nat × Nat × Nat) :=
  (takeUnits 4 used.1 (bits r.res 0 3)).bind fun w => (takeUnits 8 used.2.1 (bits r.res 3 4)).bind fun a =>
    (takeUnits 16 used.2.2 (bits r.res 7 5)).map fun c => (w, a, c)

/-! ## Binding (R231) -/

/-- Whether a core's tasks, spilled ones among them, leave room for one of record `key`: no other record's range overlaps,
and no SCALE stands between them (R71). -/
def State.sharesCore (s : State) (core key : Nat) (r : LRec) : Bool :=
  (coreKeys core).all fun k =>
    let c := s.ctx k
    !s.holds k || decide (c.record = key) ||
      ((decide (c.sphi < r.splo) || decide (r.sphi < c.splo)) && !c.stat.scale && !bitAt r.flags 2)

/-- The lowest-numbered context of a core that holds no task. -/
def State.freeSlot (s : State) (core : Nat) : Option Nat := ((List.range 8).map fun i => 8 * core + i).find? fun k => !s.holds k

/-- The spilled tasks of a core that wait only for a context and units (R231, R236): the conditions of their yields have
cleared. -/
def State.reloadsDue (s : State) (core : Nat) : List Nat :=
  ((List.range 16).map fun j => spillBase + 16 * core + j).filter fun k => (s.ctx k).isReady

/-- Whether a core takes tasks at all. -/
def State.coreRuns (s : State) (core : Nat) : Bool :=
  s.booted && !s.shut && coreExists core && !isControl core && !(s.core core).retired && decide ((s.cluster (coreCluster core)).power = .run)

/-- Whether a task could bind, were the units of context `skip` free. -/
def State.couldBind (s : State) (core : Nat) (skip : Option Nat) (t : Task) : Bool :=
  match s.recs.find? t.record with
  | none => false
  | some r => (r.units (s.unitsUsed core skip)).isSome && s.imagePlaced r && s.sharesCore core t.record r && !s.resetting r.vf

/-- The next coordinate of a tile counter, and what remains (R234). -/
def LRec.draw (r : LRec) : Nat × LRec :=
  match r.counter with
  | [] => (2 ^ 63, r)
  | (a, b) :: rest => (a, { r with counter := if a + 1 < b then (a + 1, b) :: rest else rest })

/-- The nodes of a graph as a `redem` that waits for its records at the engine will leave them (R271): the first demand of the
graph in the engine's queue, where it is one. -/
def State.nodesDue (s : State) (g : DGraph) : List DNode :=
  let mine : DemReq → Bool := fun d => (s.graphOf d.record).any fun x => decide (x.graph = g.graph) && decide (x.va = g.va)
  match List.find? mine (s.cluster g.cluster).demq with
  | some d => if d.redem then (walkDemand (g.nodes.length + 1) (g.nodes, []) d.node d.grade).1 else g.nodes
  | none => g.nodes

/-- tol of a task at binding (R266): P of its record's node, or P′ of a `redem` that waits (R271). -/
def State.bindTol (s : State) (r : LRec) : Nat :=
  let g := s.graphs.find? fun g => decide (g.graph = r.graph) && decide (g.va = r.dgraph)
  match r.node.bind fun m => g.bind fun g => (s.nodesDue g)[m]?.bind (·.p) with
  | some p => p
  | none => r.tol

/-- The receive queues without entries; those on their way still land (R198). -/
def Ctx.emptyQueues (c : Ctx) : AMap RQueue := c.rq.map fun (p : Nat × RQueue) => (p.1, { p.2 with ents := [] })

/-- The context as binding leaves it (R38, R42, R54, R57). What engines still carry for an earlier task of the context goes
on. -/
def Ctx.bound (c : Ctx) (key tile tol : Nat) (r : LRec) (u : Nat × Nat × Nat) : Ctx :=
  { Ctx.idle with
    run := .ready, record := key, tile := tile, serial := c.serial, ops := c.ops, quiet := c.quiet, rq := c.emptyQueues,
    stat := ⟨false, bitAt r.flags 0, false, r.vf, r.prio, bitAt r.flags 2⟩, wmap := u.1, amap := u.2.1, cmap := u.2.2,
    splo := r.splo, sphi := r.sphi, image := r.imageKey, codesz := r.codesz,
    s := ⟨[(1, BitVec.ofNat 64 tile), (2, BitVec.ofNat 64 r.arg)], []⟩, u := ⟨[(uTol, BitVec.ofNat 64 tol)], []⟩,
    gs := (List.range 4).map fun j => (j, (membership r.grps tile).getD j 0#64) }

/-- One step of a core's barrier unit, named by the core. -/
def State.coreBar (s : State) (core a op n : Nat) : State :=
  let co := s.core core
  let r := (co.bar a).apply op n
  let co := co.land (cellsAt a r.1.bytes)
  s.setCore core { co with waits := co.waits.map fun x => x.note a r.1 }

/-- The first task of a PIPE record on a core: its barriers are set to one arrival, and the loader holds every permit (R335). -/
def State.openRing (s : State) (core key : Nat) : State :=
  match s.recs.find? key with
  | none => s
  | some r => match r.pipe with
    | none => s
    | some p =>
      if p.cores.elem core then s
      else
        let s := (List.range p.nbuf).foldl (fun s b => (s.coreBar core (p.lbar + 16 * b) 0 1).coreBar core (p.sbar + 16 * b) 0 1) s
        let p : Pipe := { p with cores := p.cores ++ [core], permits := p.permits ++ (List.range p.nbuf).map fun b => (core, b) }
        { s with recs := AMap.set s.recs key { r with pipe := some p } }

/-- The tile counter hands tile `t` of a pipeline to a core: the loader arrives at the tile's input barrier first (R335). -/
def State.loaderTakes (s : State) (core key t : Nat) : State :=
  match s.recs.find? key with
  | none => s
  | some r => match r.pipe with
    | none => s
    | some p =>
      ({ s with recs := AMap.set s.recs key { r with pipe := some { p with loads := p.loads ++ [(core, t)] } } }).coreBar core
        (p.lbar + 16 * (t % p.nbuf)) 1 (p.lrec.rows * p.lrec.bytes)

/-- The head of the dispatch queue is bound to context `k`. A resident's first tile comes from the counter too. -/
def State.bindTo (s : State) (core k : Nat) (t : Task) (r : LRec) (u : Nat × Nat × Nat) : State :=
  let d : Nat × LRec := if bitAt r.flags 1 then (if r.pipe.any fun p => decide (p.stop ≠ 0) then (2 ^ 63, r) else r.draw) else (t.tile, r)
  let tol := t.tol.getD (s.bindTol r)
  let s := { s with recs := AMap.set s.recs t.record d.2 }
  let s := s.setCore core { s.core core with dq := (s.core core).dq.drop 1 }
  let s := (s.setCtx k ((s.ctx k).bound t.record d.1 tol r u)).openRing core t.record
  if bitAt r.flags 1 ∧ d.1 ≠ 2 ^ 63 then s.loaderTakes core t.record d.1 else s

/-- A core binds the head of its dispatch queue, if everything R231 asks for holds. Reloads come first. -/
def execTaskBind (core : Nat) (s : State) : Out :=
  let s := s.schedule
  let co := s.core core
  match co.dq with
  | [] => .next s
  | t :: _ =>
    match s.recs.find? t.record, s.freeSlot core with
    | some r, some k =>
      if !s.coreRuns core || !(s.reloadsDue core).isEmpty || !s.couldBind core none t then .next s
      else match r.units (s.unitsUsed core none) with
        | some u => .next (s.bindTo core k t r u)
        | none => .next s
    | none, _ => .next (s.setCore core { co with dq := co.dq.drop 1 })
    | _, none => .next s

/-! ## Next-tile delivery (R113, R234, R335) -/

/-- The tile counter serves the oldest request of a cluster: a coordinate, or bit 63 where none remains. The loader of a
pipeline arrives at the tile's input barrier first. -/
def execTileCounterServe (cl : Nat) (s : State) : Out :=
  let q := s.cluster cl
  match q.tileq with
  | [] => .next s
  | t :: rest =>
    let reply : State → Nat → State := fun s v =>
      let q := s.cluster cl
      s.setCluster cl { q with tileq := rest, deliv := q.deliv ++ [(t.ctx, t.id, v)] }
    match s.recs.find? t.record with
    | none => .next (reply s (2 ^ 63))
    | some r =>
      match r.pipe with
      | none => let d := r.draw; .next (reply { s with recs := AMap.set s.recs t.record d.2 } d.1)
      | some p =>
        if p.stop ≠ 0 ∨ r.counter = [] then .next (reply s (2 ^ 63))
        else
          let d := r.draw
          .next (reply (({ s with recs := AMap.set s.recs t.record d.2 } : State).loaderTakes (ctxCore t.ctx) t.record d.1) d.1)

/-- The oldest coordinate on its way to a context arrives: its rotation has its value. -/
def execNextTileDelivery (k : Nat) (s : State) : Out :=
  let cl := ctxCluster k
  let q := s.cluster cl
  match q.deliv.find? fun d => decide (d.1 = k) with
  | none => .next s
  | some d =>
    let s := s.setCluster cl { q with deliv := q.deliv.erase d }
    let c := s.ctx k
    .next (s.setCtx k { c with nt := c.nt.map fun e => if e.id = d.2.1 ∧ e.val.isNone then { e with val := some (BitVec.ofNat 64 d.2.2) } else e })

/-! ## Swap-out and reload (R235 to R237) -/

/-- Everything that names context `a` names `b` instead, and its state stands under `b`. -/
def State.rekey (s : State) (a b : Nat) : State :=
  let m : Nat → Nat := fun k => if k = a then b else k
  let mq : Nat → Nat := fun d => if d / 8 = a then 8 * b + d % 8 else d
  let own : ReqOwner → ReqOwner := fun o => match o with
    | .piece k op i => .piece (m k) op i
    | .combine core k w l => .combine core (m k) w l
    | o => o
  { s with
    ctxs := (AMap.set (AMap.set s.ctxs b (s.ctx a)) a { Ctx.idle with serial := (s.ctx a).serial, quiet := (s.ctx a).quiet }).map
      fun (p : Nat × Ctx) => (p.1, { p.2 with sends := p.2.sends.map fun x =>
        { x with dests := x.dests.map fun d => if x.reserved.elem d then mq d else d, reserved := x.reserved.map mq } }),
    reqs := s.reqs.map fun q => { q with owner := own q.owner },
    cores := s.cores.map fun (p : Nat × Core) => (p.1, { p.2 with
      cb := p.2.cb.map fun e => { e with ctx := m e.ctx }, waits := p.2.waits.map fun w => { w with who := m w.who },
      scale := p.2.scale.map fun e => { e with ctx := m e.ctx }, wq := p.2.wq.map fun e => { e with ctx := m e.ctx } }),
    clusters := s.clusters.map fun (p : Nat × Cluster) => (p.1, { p.2 with
      ptq := p.2.ptq.map fun e => { e with ctx := m e.ctx }, demq := p.2.demq.map fun e => { e with ctx := m e.ctx },
      tileq := p.2.tileq.map fun e => { e with ctx := m e.ctx }, deliv := p.2.deliv.map fun e => (m e.1, e.2),
      faults := p.2.faults.map fun e => { e with ctx := m e.ctx }, graphs := p.2.graphs.map fun e => { e with ctx := m e.ctx } }),
    flights := s.flights.map fun f => { f with dest := mq f.dest },
    expRows := s.expRows.map fun e => { e with ctx := m e.ctx },
    recs := s.recs.map fun (p : Nat × LRec) => (p.1, { p.2 with redem := p.2.redem.map fun o => (m o.1, o.2) }),
    posts := s.posts.map fun p => { p with ctx := m p.ctx },
    migs := s.migs.map fun g => { g with ctx := m g.ctx },
    burstQ := s.burstQ.map fun p => (m p.1, p.2) }

/-- The barrier that a context waits for: by `yield.b`, or by `yield.t` on the token of an arrival. -/
def Ctx.waitsAt (c : Ctx) : Option Nat :=
  match c.run with
  | .waitBar a _ _ true => some a
  | .waitTok r n => (c.s.winner c.closers r n).bind fun e => (c.findOp e.id).bind fun o => if o.kind = .barArr then some o.addr else none
  | _ => none

/-- Whether a context waits at a yield whose condition holds, and its core has been given up. -/
def Ctx.waits (c : Ctx) : Bool :=
  c.yldWord.isNone && !c.isReady && match c.run with | .waitTok _ _ | .waitBar _ _ _ true => true | _ => false

/-- Whether a waiting context may be saved: every operation has passed translation, and every row is written and read. -/
def State.maySpill (s : State) (k : Nat) : Bool :=
  let c := s.ctx k
  c.waits && c.ops.all (·.passed) && c.allIssuedBefore c.word && !(c.passes.any fun p => p.pending s.now) && c.chk.isNone && !s.resetting c.stat.vf

/-- The first free slot of a core's save area. -/
def State.saveSlot (s : State) (core : Nat) : Option Nat :=
  ((List.range 16).map fun j => spillBase + 16 * core + j).find? fun k => !s.holds k

/-- At swap-out a permit goes back to the governor, granted or pending; the token keeps its value, and the reload asks again
(R177). -/
def State.parkPermit (s : State) (k : Nat) : State :=
  let c := s.ctx k
  match c.permit with
  | none => s
  | some p =>
    let d := clusterDie (ctxCluster k)
    let g := s.die d
    (s.setCtx k { c with permit := some { p with granted := false } }).setDie d
      (if p.granted then { g with held := g.held - permitCost p.lvl } else { g with queue := g.queue.filter fun q => decide (q.1 ≠ k) })

/-- One context is spilled: its yield word's mark commits, its permit goes back, and its state moves to a save-area slot, which
it fills (R235, R237). -/
def State.spill (s : State) (k : Nat) : State :=
  match s.saveSlot (ctxCore k) with
  | none => s
  | some b =>
    let c := s.ctx k
    let s := (s.commitTo k (c.word - 1) c.pc).pump k
    ((s.parkPermit k).rekey k b).saveSlotOf b

/-- Whether a context's own wait asks for its spill (R235): longer than sys.swapthr, while a task could bind in its place. -/
def State.wantsSpill (s : State) (k : Nat) : Bool :=
  let core := ctxCore k
  decide ((s.ctx k).yieldCyc + (s.core core).swapthr < s.now) && (s.core core).dq.any fun t => s.couldBind core (some k) t

/-- A context is spilled, with those that wait for the same barrier (R235): one of these whose copies are still being translated,
or whose rows are still to be written, follows as soon as it may. -/
def execSwapOut (k : Nat) (s : State) : Out :=
  let core := ctxCore k
  let c := s.ctx k
  let follows := decide (c.spillDue = some c.word)
  if isSpilled k || isControl core || !s.maySpill k || !(follows || s.wantsSpill k) || (s.saveSlot core).isNone then .next s
  else if follows then .next (s.spill k)
  else
    let a := c.waitsAt
    let others := ((List.range 8).map fun i => 8 * core + i).filter fun j =>
      decide (j ≠ k) && a.isSome && decide ((s.ctx j).waitsAt = a) && (s.ctx j).waits
    .next (others.foldl (fun s j =>
      if s.maySpill j then s.spill j else s.setCtx j { s.ctx j with spillDue := some (s.ctx j).word }) (s.spill k))

/-- A context is reloaded with free units of the kinds and numbers it held, and the channels it kept. Its permit is asked
for again (R177). -/
def State.reloadTo (s : State) (b k : Nat) : Option State :=
  let c := s.ctx b
  let used := s.unitsUsed (ctxCore b) none
  let cnt : Nat → Nat := fun m => popcNat 16 m
  let kept := c.keptChans
  match takeUnits 4 used.1 (cnt c.wmap), takeUnits 8 used.2.1 (cnt c.amap), takeUnits 16 used.2.2 (cnt c.cmap - cnt kept) with
  | some w, some a, some ch =>
    let c := { c.wakeTok with wmap := w, amap := a, cmap := orMask kept ch, quiet := (s.ctx k).quiet, spillDue := none }
    let s := s.setCtx b c
    let s := s.rekey b k
    some (match c.permit with
      | some p =>
        let d := clusterDie (ctxCluster k)
        s.setDie d { s.die d with queue := (s.die d).queue ++ [(k, p.id, p.lvl)] }
      | none => s)
  | _, _, _ => none

/-- Whether nothing of an earlier task is on its way to context `k` any more. -/
def Ctx.settled (c : Ctx) : Bool := c.ops.isEmpty && c.rq.all fun (p : Nat × RQueue) => decide (p.2.reserved = 0)

/-- A spilled task of a core whose condition has cleared is reloaded, once a context and its units are free: the first whose
units are (R236, R240). -/
def execReload (core : Nat) (s : State) : Out :=
  match s.freeSlot core with
  | some k =>
    if s.coreRuns core && (s.ctx k).settled then .next (((s.reloadsDue core).findSome? fun b => s.reloadTo b k).getD s) else .next s
  | none => .next s

/-! ## Completion (R228, R256) -/

/-- Whether every task of a record has ended, and a pipeline has nothing left to write back (R335). -/
def LRec.ended (s : State) (r : LRec) : Bool :=
  r.queued && decide (r.dealt = r.tasks) && decide (0 < r.tasks) && decide (r.live = 0) &&
    match r.pipe with
    | none => true
    | some p => p.writing.isEmpty && decide (p.stop = 0) &&
      !(p.full.any fun f => decide (((s.core f.1).bar (p.sbar + 16 * (f.2.1 % p.nbuf))).gen ≠ f.2.2))

/-- The completion doubleword. -/
def completionWord (failed : Nat) : Nat := 2 ^ 63 + failed % 2 ^ 32

/-- The doubleword is written; a write that cannot be made is recorded and lost. -/
def State.writeCompletion (s : State) (key : Nat) (r : LRec) : State :=
  let cl := (nthSet 32 r.place 0).getD 0
  let s := { s with recs := AMap.set s.recs key { r with completing := true } }
  match s.writeVa (.compl key) cl r.vf r.compl (leBytes 8 (completionWord r.failed)) with
  | .ok s => s
  | .error c => (s.record 4 c (engSched cl) r.vf r.compl).recReply key 0 (engSched cl) r.vf r.compl

/-- The last re-entered task of a `redem` has ended: its token is written (R270). -/
def State.settleRedem (s : State) (r : LRec) : State :=
  match r.redem with
  | none => s
  | some (k, id) =>
    if s.recs.any fun (p : Nat × LRec) => decide (p.2.redem = some (k, id)) && !(p.2.done || p.2.completing) then s
    else match (s.ctx k).findOp id with
      | some o => s.setCtx k (((s.ctx k).putTok id (token 0 (o.code * 2 ^ 32 + o.icnt))).dropOp id)
      | none => s

/-- A graph of which every record has completed, and on which no demand is in progress, is released (R264). -/
def State.releaseGraph (s : State) (g : Nat) : State :=
  let mine := s.recs.filter fun (p : Nat × LRec) => decide (p.2.graph = g)
  let asks : Nat → Bool := fun rec => mine.any fun (p : Nat × LRec) => decide (p.1 = rec)
  if mine.all (fun (p : Nat × LRec) => p.2.done) && !(s.clusters.any fun (p : Nat × Cluster) => p.2.demq.any fun d => asks d.record) &&
      !(s.ctxs.any fun (p : Nat × Ctx) => p.2.ops.any fun o => decide (o.kind = .redem) && decide (o.phase = 2) && asks o.c) then
    { s with recs := s.recs.filter fun (p : Nat × LRec) => decide (p.2.graph ≠ g), graphs := s.graphs.filter fun x => decide (x.graph ≠ g) }
  else s

/-- A record whose tasks have all ended completes: the publish of a pipeline first, then the completion doubleword, after
which its dependents become ready. A record that has completed leaves with its graph. -/
def execRecordCompletion (key : Nat) (s : State) : Out :=
  match s.recs.find? key with
  | none => .next s
  | some r =>
    if r.done then .next (s.releaseGraph r.graph)
    else if r.completing || !r.ended s then .next s
    else whenAwake s (s.walkPas r.vf r.compl) fun s => match r.pipe with
      | some p =>
        if p.srec.cid ≠ 0 ∧ p.publish = 0 then
          let cl := (nthSet 32 r.place 0).getD 0
          let s := { s with recs := AMap.set s.recs key { r with pipe := some { p with publish := 1 } } }
          .next (s.emit (.pipe key (2 ^ 48)) (p.srec.cid / 8192) (engPort cl) r.vf opPUB (16 * (p.srec.cid % 8192))
            (leBytes 3 p.srec.cid ++ leBytes 4 p.srec.ver) [])
        else if p.srec.cid ≠ 0 ∧ p.publish = 1 then .next s
        else .next ((s.writeCompletion key r).settleRedem { r with completing := true })
      | none => .next ((s.writeCompletion key r).settleRedem { r with completing := true })

end Sys2Proof.Machine
end

