-- ==== Sys2Proof/Machine/Pipe.lean ====
section
/-!
DEFINITION. A pipeline's loader and storer, and its pre-emption by a stop token (R238, R239, R335).
-/

namespace Sys2Proof.Machine

/-! ## Transfers -/

/-- Port of a record's tile-walk engine: the one nearest its lowest cluster (R238). -/
def LRec.port (r : LRec) : Nat := (nthSet 32 r.place 0).getD 0

/-- Scratchpad address of row `i` of a tile's buffer. -/
def Pipe.rowSp (p : Pipe) (splo : Nat) (x : Shape) (tile i : Nat) : Nat :=
  splo + tile % p.nbuf * p.bstride + x.sp + i * x.spstride

/-- Virtual address of row `i` of a tile. -/
def Shape.rowVa (x : Shape) (tile i : Nat) : Int := x.va + (tile * x.rows : Nat) * x.vstride + (i : Nat) * x.vstride

/-- A tile's parts of lines, each with its row and its scratchpad address. -/
def Pipe.parts (p : Pipe) (splo : Nat) (x : Shape) (tile : Nat) : List Piece :=
  ((List.range x.rows).map fun i => rowPieces i (x.rowVa tile i) (p.rowSp splo x tile i) x.bytes).flatten

/-- The kind of translation fault that an access finds (R302). -/
def State.xlateKind (s : State) (vf va : Nat) (a : Acc) : Option Nat :=
  match s.walk vf va with
  | .fault k => some k
  | .ok e => e.refuse a

/-- A transfer of tile `tile` is held, and its walker fault posted. -/
def State.holdPipe (s : State) (key : Nat) (r : LRec) (p : Pipe) (tile : Nat) (back : Bool) (cause val : Nat) : State :=
  let s := { s with recs := AMap.set s.recs key { r with pipe := some { p with held := p.held ++ [(tile, back)] } } }
  s.walkerFault r.port pipeKey key cause val r.port (tile % 2 ^ 32)

/-- The first part of a tile that cannot be translated, or that cannot be read: the cause and the value of its fault. A part to be
written back is read from the scratchpad of its core, where an error that storage cannot correct is code 0x03 (R350). -/
def State.partFault (s : State) (ext : ExtBytes) (vf core : Nat) (a : Acc) (ps : List Piece) : Option (Nat × Nat) :=
  match ps.findSome? fun p => (s.xlateKind vf p.va a).map fun k => xlateVal k p.va with
  | some v => some (0x14, v)
  | none =>
    let pa : Piece → Nat := fun p => match s.xlate vf p.va a with | .ok h => h.2 | .error _ => p.va
    if a = .rd then
      ps.findSome? fun p => match s.readPart ext vf p with
        | .error e => some (e.code, pa p)
        | .ok _ => none
    else (ps.find? fun p => ((s.core core).eccAt p.sp p.len).isSome).map fun p => (3, pa p)

/-! ## LOADER_TILE (R335) -/

/-- A tile copied into its buffer: its bytes, their landing at the input barrier, and the permit taken. -/
def State.fillBuffer (s : State) (ext : ExtBytes) (key : Nat) (r : LRec) (p : Pipe) (core tile : Nat) : State :=
  let cells := ((p.parts r.splo p.lrec tile).map fun x =>
    match s.readPart ext r.vf x with | .ok bs => cellsAt x.sp bs | .error _ => []).flatten
  let b := tile % p.nbuf
  let s := s.setCore core ((s.core core).land cells)
  let s := s.coreBar core (p.lbar + 16 * b) 2 (p.lrec.rows * p.lrec.bytes)
  let g := ((s.core core).bar (p.sbar + 16 * b)).gen
  let p : Pipe := { p with permits := p.permits.erase (core, b), loads := p.loads.erase (core, tile), full := p.full ++ [(core, tile, g)] }
  { s with recs := AMap.set s.recs key { r with pipe := some p } }

/-- Whether another access to a line of this device comes before the loader's read of a part, or has reached it in this cycle (R252);
or whether the engine's own earlier request of the lane is still out (R250). -/
def State.lineTaken (s : State) (r : LRec) (x : Piece) : Bool :=
  match s.xlate r.vf x.va .rd with
  | .error _ => false
  | .ok (home, pa) =>
    (s.reqs.any fun q => decide (q.eng = engPort r.port) && decide (q.dst = home) && decide (q.lane = laneOf pa)) ||
      (decide (home = s.vertex) && (s.touched.elem (0, pa / 128) || s.inbox.any fun a =>
        !a.isReply && decide (Pkt.place a.pkt = (0, pa / 128)) &&
          a.ranksBefore ({ a with cyc := s.now, rank := engRank (engPort r.port) } : Arr)))

/-- Lines of this device that parts lie in. -/
def State.partLines (s : State) (vf : Nat) (ps : List Piece) : List Nat :=
  ps.filterMap fun x => match s.xlate vf x.va .rd with | .ok (home, pa) => if home = s.vertex then some (pa / 128) else none | .error _ => none

/-- The loader copies the first tile whose buffer it holds the permit of, once every line is its to read. -/
def execLoaderTile (key : Nat) (ext : ExtBytes) (s : State) : Out :=
  match s.recs.find? key with
  | none => .next s
  | some r => match r.pipe with
    | none => .next s
    | some p =>
      match p.loads.find? fun x => p.permits.elem (x.1, x.2 % p.nbuf) && !p.held.elem (x.2, false) with
      | none => .next s
      | some (core, tile) =>
        if s.resetting r.vf ∨ (p.parts r.splo p.lrec tile).any (s.lineTaken r) then .next s
        else whenAwake s ((p.parts r.splo p.lrec tile).map fun x => s.vaPas r.vf x.va x.len).flatten fun s =>
          match s.partFault ext r.vf core .rd (p.parts r.splo p.lrec tile) with
          | some (cause, val) => .next (s.holdPipe key r p tile false cause val)
          | none => .next ((s.fillBuffer ext key r p core tile).touch (s.partLines r.vf (p.parts r.splo p.lrec tile)))

/-! ## STORER_WRITEBACK (R335) -/

/-- One part of a tile goes to its home, as a member write where SREC names a constellation. -/
def State.emitBack (s : State) (key : Nat) (r : LRec) (p : Pipe) (core tile : Nat) (x : Piece) : State :=
  let bs := (List.range x.len).map fun i => (s.core core).byte (x.sp + i)
  match s.xlate r.vf x.va .wr with
  | .error _ => s
  | .ok (home, pa) =>
    let go := s.emit (.pipe key tile) home (engPort r.port) r.vf
    if p.srec.cid ≠ 0 then
      let first := ((p.parts r.splo p.srec tile).filter fun y => decide (y.va < x.va)).length
      let m := p.srec.midx + tile * p.srec.rows * p.srec.bytes / 128 + first
      go opWRC pa (leBytes 3 p.srec.cid ++ leBytes 4 p.srec.ver ++ leBytes 2 m ++ leBytes 2 p.srec.mcnt) bs
    else if pa % 16 = 0 ∧ x.len % 16 = 0 then go opWR pa [] bs
    else go opWRM (pa / 128 * 128) [] (wrmData (pa % 128) bs fun _ => false)

/-- Whether a buffer's output barrier has advanced since its tile was loaded. -/
def State.computed (s : State) (p : Pipe) (f : Nat × Nat × Nat) : Bool :=
  decide (((s.core f.1).bar (p.sbar + 16 * (f.2.1 % p.nbuf))).gen ≠ f.2.2)

/-- A tile written back gives its buffer's permit to the loader; else the first computed tile is copied out. -/
def execStorerWriteback (key : Nat) (s : State) : Out :=
  match s.recs.find? key with
  | none => .next s
  | some r => match r.pipe with
    | none => .next s
    | some p =>
      match p.writing.find? fun x => !p.held.elem (x.2, true) && !(s.reqs.any fun q => decide (q.owner = .pipe key x.2)) with
      | some x =>
        let q : Pipe := { p with writing := p.writing.erase x, permits := p.permits ++ [(x.1, x.2 % p.nbuf)] }
        let s := { s with recs := AMap.set s.recs key { r with pipe := some q } }
        .next (if p.srec.barV then s.landBar (engPort r.port) r.vf (barDev p.srec.bar) p.srec.bar (p.srec.rows * p.srec.bytes) else s)
      | none =>
        match p.full.find? fun f => s.computed p f && !p.held.elem (f.2.1, true) with
        | none => .next s
        | some f =>
          let ps := p.parts r.splo p.srec f.2.1
          if s.resetting r.vf then .next s
          else whenAwake s (ps.map fun x => s.walkPas r.vf x.va).flatten fun s =>
            match s.partFault [] r.vf f.1 .wr ps with
            | some (cause, val) => .next (s.holdPipe key r p f.2.1 true cause val)
            | none =>
              let q : Pipe := { p with full := p.full.erase f, writing := p.writing ++ [(f.1, f.2.1)] }
              let s := { s with recs := AMap.set s.recs key { r with pipe := some q } }
              .next (ps.foldl (fun s x => s.emitBack key r p f.1 f.2.1 x) s)

/-- The transfer of a tile goes on after its fault has been serviced; a write back is made afresh. Where the host aborts it
instead, the tile's transfer is given up and its buffer's permit returned. -/
def State.resumePipe (s : State) (key tile : Nat) (abort : Bool) : State :=
  match s.recs.find? key with
  | none => s
  | some r => match r.pipe with
    | none => s
    | some p =>
      let here : Nat × Nat → Bool := fun x => decide (x.2 = tile)
      let back := p.writing.filter here
      let again := back.map fun x => (x.1, tile, (((s.core x.1).bar (p.sbar + 16 * (tile % p.nbuf))).gen + 2 ^ 32 - 1) % 2 ^ 32)
      let p : Pipe := { p with held := p.held.filter (fun h => decide (h.1 ≠ tile)),
                               writing := p.writing.filter (fun x => !here x),
                               full := p.full ++ again, publish := if tile = 2 ^ 48 ∧ p.publish = 1 then 0 else p.publish }
      let p : Pipe := if abort then
          let freed := (p.full.filter fun f => decide (f.2.1 = tile)).map fun f => (f.1, tile % p.nbuf)
          { p with loads := p.loads.filter (fun x => !here x), full := p.full.filter (fun f => decide (f.2.1 ≠ tile)),
                   permits := p.permits ++ freed, publish := if tile = 2 ^ 48 then 2 else p.publish }
        else p
      { s with recs := AMap.set s.recs key { r with pipe := some p } }

/-! ## PIPELINE_PREEMPT (R239) -/

/-- Tiles of a record's tasks that stand in dispatch queues. -/
def State.unbound (s : State) (key : Nat) : List Nat :=
  (s.cores.map fun (p : Nat × Core) => (p.2.dq.filter fun t => decide (t.record = key)).map (·.tile)).flatten

/-- A number put into an ascending list. -/
def insertAsc (x : Nat) : List Nat → List Nat
  | [] => [x]
  | y :: rest => if x ≤ y then x :: y :: rest else y :: insertAsc x rest

/-- The stop token is handed to the loader: the tile counter gives out nothing more, and tasks that have not bound are taken
back, to be dealt when the record is next served. -/
def State.stopPipe (s : State) (key : Nat) (r : LRec) (p : Pipe) : State :=
  let un := (s.unbound key).foldr insertAsc []
  let persist := bitAt r.flags 1
  let r : LRec := { r with pipe := some { p with stop := 1 }, live := r.live - un.length,
                           retiles := if persist ∨ un.isEmpty then r.retiles else some un,
                           dealt := if persist ∨ !un.isEmpty then 0 else r.dealt }
  { s with recs := AMap.set s.recs key r,
           cores := s.cores.map fun (q : Nat × Core) => (q.1, { q.2 with dq := q.2.dq.filter fun t => decide (t.record ≠ key) }) }

/-- Whether a class-0 record has waited 65,536 cycles for contexts on the cores of a pipeline. -/
def State.class0Waits (s : State) (key : Nat) (p : Pipe) : Bool :=
  p.cores.any fun core => (s.core core).dq.any fun t =>
    decide (t.record ≠ key) && decide (t.since + 65536 ≤ s.now) && ((s.recs.find? t.record).any fun x => decide (x.prio = 0))

/-- Every buffer of every core of a pipeline. -/
def Pipe.ring (p : Pipe) : List (Nat × Nat) := (p.cores.map fun c => (List.range p.nbuf).map fun b => (c, b)).flatten

/-- A pipeline gets its stop token, or the token is back at the loader once every task has ended and every buffer is written
back. -/
def execPipelinePreempt (key : Nat) (s : State) : Out :=
  match s.recs.find? key with
  | none => .next s
  | some r => match r.pipe with
    | none => .next s
    | some p =>
      if p.stop = 0 then .next (if r.queued && !r.completing && !r.done && s.class0Waits key p then s.stopPipe key r p else s)
      else if r.live = 0 ∧ p.writing = [] ∧ !(p.full.any fun f => s.computed p f) then
        let p : Pipe := { p with stop := 0, loads := [], full := [], held := [], permits := p.ring }
        .next { s with recs := AMap.set s.recs key { r with pipe := some p, readyAt := s.now } }
      else .next s

end Sys2Proof.Machine
end

