-- ==== Sys2Proof/Machine/Firmware.lean ====
section
/-!
DEFINITION. The control cores' firmware: fault queues (R347, R348), repair of lines, cores, links and the pod (R350 to R352,
R355, R356), and version negotiation (R372).
-/

namespace Sys2Proof.Machine

/-! ## Ending a task (R348) -/

/-- Reservations that a context's waiting sends hold are given back. -/
def State.unreserve (s : State) (k : Nat) : State :=
  ((s.ctx k).sends.map (·.reserved)).flatten.foldl (fun s d =>
    let c := s.ctx (qnKey d)
    let q := c.rq.get RQueue.none (qnQueue d)
    s.setCtx (qnKey d) { c with rq := AMap.set c.rq (qnQueue d) { q with reserved := q.reserved - 1 } }) s

/-- Steps 1 to 3: gated stores and operations, the rows of the streaming port, and the sends that have not departed. -/
def State.discard (s : State) (k : Nat) : State :=
  let s := s.unreserve k
  let c := s.ctx k
  s.setCtx k { c with gstores := [], ops := c.ops.filter (fun o => !o.gated || o.released), drains := [], sends := [], queues := [],
                      marks := [] }

/-- Whether a piece's address cannot be translated. -/
def State.pieceStuck (s : State) (vf : Nat) (o : Op) (p : Piece) : Bool :=
  decide (p.st = .fresh) && (pieceAccs o.kind p).any fun a => (s.xlateKind vf p.va a).isSome

/-- Operations whose translation faults are abandoned with their faulting addresses (R303). -/
def State.abandonStuck (s : State) (k : Nat) : State :=
  let c := s.ctx k
  let vf := c.stat.vf
  let ops := c.ops.map fun o =>
    let bad := o.pieces.any (s.pieceStuck vf o)
    { o with abandoned := o.abandoned || bad, passed := o.passed || bad,
             pieces := o.pieces.map fun p => if s.pieceStuck vf o p then { p with st := .failed } else p }
  let done : Op → Bool := fun o => o.abandoned && !(o.pieces.any fun p => decide (p.st = .ready ∨ p.st = .sent))
  s.setCtx k { c with ops := ops.filter fun o => !done o }

/-- Step 4: every operation that the context issued has completed, and its released stores stand in the banks (R256). -/
def State.opsOver (s : State) (k : Nat) : Bool :=
  let c := s.ctx k
  c.ops.all (fun o => o.abandoned) && !((s.core (ctxCore k)).cb.any fun e => decide (e.ctx = k)) &&
    !((s.core (ctxCore k)).wq.any fun e => decide (e.ctx = k)) && !(c.passes.any fun p => p.pending s.now)

/-- Steps 1 to 3 are made, and the rest waits in the fault queue, as an entry without a cause. -/
def State.beginEnd (s : State) (cl k : Nat) : State :=
  let s := s.discard k
  let q := s.cluster cl
  s.setCluster cl { q with faults := q.faults ++ [(⟨k, 0, false, 0, 0, 0, 0, 0⟩ : FaultEnt)] }

/-- Steps 5 and 6, once step 4 is over. Postings of the task and of its walkers go with it (R363). -/
def State.finishEnd (s : State) (cl : Nat) (f : FaultEnt) : State :=
  let q := s.cluster cl
  let s := s.setCluster cl { q with faults := q.faults.erase f }
  let s := { s with posts := s.posts.filter fun p => decide (p.ctx ≠ f.ctx) }
  s.endTask f.ctx true

/-! ## FAULT_QUEUE_SERVICE (R347, R363) -/

/-- The MSI-X vector of a function. -/
def State.raiseMsi (s : State) (fn : Nat) : State := { s with hostOut := s.hostOut ++ [(0x100 + fn, [])] }

/-- A posting for the host fault service of a function. -/
def State.post (s : State) (vf : Nat) (walker : Bool) (f : FaultEnt) (cause val : Nat) : State :=
  let n := (s.func vf).nextPost
  let s := s.setFunc vf { s.func vf with nextPost := n + 1 }
  let p : Posting := ⟨n, vf, walker, cause, if f.ctx < pipeKey then ctxCore f.ctx else 16 * f.port, f.ctx, f.op, f.port, f.pc, val, f.xfer, s.now⟩
  ({ s with posts := s.posts ++ [p] } : State).raiseMsi vf

/-- A translation fault of a context (R347), whose failing address `val` holds as R302 lays it out: kinds 4 and 5 go to the
migration service, the others to the host, with the cause and the value of the trap. -/
def State.serviceXlate (s : State) (vf : Nat) (f : FaultEnt) (val : Nat) : State :=
  let kind := bits val 58 3
  if kind = 4 ∨ kind = 5 then
    { s with migs := s.migs ++ [(⟨f.ctx, vf, bits val 0 55, s.vertex, kind, 0, [], []⟩ : Migration)] }
  else s.post vf false f f.cause f.val

/-- The record of a deferred fault, and its service (R214, R347): a translation fault is serviced first. -/
def State.serviceDeferred (s : State) (vf : Nat) (f : FaultEnt) : State :=
  let tr := bitAt f.val 48
  let s := s.record 4 (if tr then 0x14 else bits f.val 40 8) (s.eng (ctxCore f.ctx)) vf f.xfer
  if tr then
    match s.xlateKind vf f.xfer .rd with
    | some kind => s.serviceXlate vf f (xlateVal kind f.xfer)
    | none => s.resumeCtx f.ctx
  else s.resumeCtx f.ctx

/-- One entry handled. -/
def State.serviceFault (s : State) (cl : Nat) (f : FaultEnt) : State :=
  let q := s.cluster cl
  let s := s.setCluster cl { q with faults := q.faults.erase f }
  if f.walker then
    let vf := if f.ctx < pipeKey then (s.ctx f.ctx).stat.vf else ((s.recs.find? f.op).map (·.vf)).getD (s.owner cl)
    let s := s.record 9 f.cause (engPort f.port) vf f.val
    s.post vf true f f.cause f.val
  else
    let vf := (s.ctx f.ctx).stat.vf
    if f.cause = 0x0D then s.resumeCtx f.ctx
    else if f.cause = 0x13 then s.serviceDeferred vf f
    else if f.cause = 0x14 then s.serviceXlate vf f f.val
    else if f.cause = 0x09 ∧ (s.func vf).debug then s
    else s.beginEnd cl f.ctx

/-- The oldest entry of a cluster's fault queue is handled; else a task whose end waits for its operations. -/
def execFaultQueueService (cl : Nat) (s : State) : Out :=
  match (s.cluster cl).faults.find? fun f => f.walker || decide (f.cause ≠ 0) with
  | some f => .next (s.serviceFault cl f)
  | none =>
    let s := (s.cluster cl).faults.foldl (fun s f => s.abandonStuck f.ctx) s
    match (s.cluster cl).faults.find? fun f => s.opsOver f.ctx with
    | some f => .next (s.finishEnd cl f)
    | none => .next s

/-! ## Memory lines (R350, R351) -/

/-- A line whose error cannot be corrected is retired to a spare of zeros, with LOST set, which enters the records (R349); where the
table is full nothing is retired, and its frame is marked free. -/
def execLineRetire (line : Nat) (s : State) : Out :=
  if !s.eccBad.elem line then .next s
  else
    let d := dieOfPa (line * 128)
    let g := s.die d
    let known := g.retired.any fun e => decide (e.1 = line)
    if !known ∧ 2048 ≤ g.retired.length then .next (s.freeFrames (line / 512) 1)
    else
      let s := s.record 3 0x03 0 0 (line * 128)
      let enter : List (Nat × Nat × Bool) → List (Nat × Nat × Bool) := fun t =>
        if known then t.map (fun e => if e.1 = line then (e.1, e.2.1, true) else e) else t ++ [(line, g.retired.length, true)]
      let s := s.setDie d { g with retired := enter g.retired }
      let mem := memSets s.mem (cellsAt (line * 128) (List.replicate 128 0#8))
      .next { s with mem := mem, side := AMap.erase s.side line, eccBad := s.eccBad.filter (fun l => decide (l ≠ line)),
                     conf := { s.conf with lost := enter s.conf.lost } }

/-- Lines of one die (R2), and the cycles between two visits of the patrol: at it, a die is done within 24 hours (log 136). -/
def dieLines : Nat := 805306368
def scrubPace : Nat := 225300

/-- The patrol scrubber visits a line: a correctable one is written back corrected. -/
def State.scrubLine (s : State) (line : Nat) : State :=
  if s.eccFix.elem line then ({ s with eccFix := s.eccFix.filter fun l => decide (l ≠ line) } : State).noteCorrected (line * 128)
  else if s.eccBad.elem line then s.noteBad line 0
  else s

def execPatrolScrub (line : Nat) (s : State) : Out := .next (s.scrubLine line)

/-! ## Cores (R355) -/

/-- Whether firmware retires a core: an error that its storage cannot correct, or more than 64 corrected ones in an hour. -/
def State.coreFails (s : State) (core : Nat) : Bool :=
  let co := s.core core
  !co.ecc.isEmpty || decide (64 < (co.corrected.filter fun t => decide (s.now < t + hour)).length)

/-- Contexts spilled from core `a` stand in the save area of core `b`. -/
def State.moveSpills (s : State) (a b : Nat) : State :=
  (List.range 16).foldl (fun s j =>
    if s.holds (spillBase + 16 * a + j) then s.rekey (spillBase + 16 * a + j) (spillBase + 16 * b + j) else s) s

/-- Tasks that waited for a core that has no spare go to the others of its cluster, in turn. -/
def State.respread (s : State) (core : Nat) : State :=
  let dq := (s.core core).dq
  let s := s.setCore core { s.core core with dq := [] }
  let others := s.coresOf (coreCluster core)
  if others.isEmpty then s.setCore core { s.core core with dq := dq }
  else (List.range dq.length).foldl (fun s i => match dq[i]? with
    | some t => s.giveTask (others.getD (i % others.length) 0) t
    | none => s) s

/-- The spare takes the core's place. -/
def State.useSpare (s : State) (core : Nat) : State :=
  let cl := coreCluster core
  let sp := 16 * cl + 9
  let q := s.cluster cl
  let s := s.setCluster cl { q with spare := BitVec.ofNat 64 (128 + coreK core) }
  let dq := (s.core core).dq
  let s := (s.setCore sp { s.core sp with dq := dq }).setCore core { s.core core with dq := [] }
  let s := s.moveSpills core sp
  { s with conf := { s.conf with spares := s.conf.spares ++ [(cl, coreK core)] } }

/-- A compute core is retired, in the service record too, and nothing more binds to it; once no task is bound to it, the spare comes into service. -/
def execCoreRetire (core : Nat) (s : State) : Out :=
  let cl := coreCluster core
  let co := s.core core
  if !coreExists core || isControl core then .next s
  else if !co.retired then
    .next (if s.coreFails core then
      ({ s.setCore core { co with retired := true } with conf := { s.conf with retired := s.conf.retired ++ [core] } } : State).record 11 0
        (s.eng core) (s.owner cl) core else s)
  else if ((List.range 8).any fun i => s.holds (8 * core + i)) then .next s
  else if coreK core < 8 ∧ !(s.cluster cl).spare.getLsbD 7 ∧ !(s.core (16 * cl + 9)).retired then .next (s.useSpare core)
  else .next (s.respread core)

/-! ## The pod (R316, R352, R356, R372) -/

/-- Intermediates through which a destination may be reached. -/
def State.detours (s : State) (dst : Nat) : List Nat := s.roster.filter fun m => s.pathUp dst (some m)

/-- One destination's routing entry, and the paths of its lanes, rewritten: intermediates whose path no longer stands leave NMSET,
and where the minimal path does not stand every lane goes through one of firmware's choice, which is free (R352, R356). -/
def State.rerouteTo (s : State) (dst : Nat) : State :=
  let r := (s.routes.find? dst).getD (s.minPort dst, [])
  let nm := r.2.filter fun m => s.pathUp dst (some m)
  let ms := s.detours dst
  let pick : Option Nat := if s.pathUp dst none then none else ms[Config.freeNat s.fresh % ms.length]?
  let nm := match pick with | some m => (m :: nm.filter fun x => decide (x ≠ m)).take 4 | none => nm
  let s : State := { s with fresh := s.fresh + 1, routes := if nm = r.2 then s.routes else AMap.set s.routes dst (r.1, nm) }
  (List.range 8).foldl (fun s l =>
    let x := s.lanePath dst l
    let y : LanePath := if s.pathUp dst x.via then x else { x with via := pick, since := s.now }
    let y : LanePath := match y.pend with | some v => if s.pathUp dst v then y else { y with pend := none } | none => y
    if y = x then s else { s with paths := AMap.set s.paths (laneKey dst l) y }) s

/-- The routing table and the lanes' paths are rewritten. -/
def State.reroute (s : State) : State := (s.roster.filter fun d => decide (d ≠ s.vertex)).foldl State.rerouteTo s

/-- The roster's bitmap, where functions read it (R352). -/
def State.putRoster (s : State) : State :=
  let byte : Nat → Byte := fun i => BitVec.ofNat 8 (((List.range 8).filter fun j => s.roster.elem (8 * i + j)).foldl (fun x j => x + 2 ^ j) 0)
  { s with mem := memPut s.mem s.conf.rosterAddr ((List.range 133).map byte) }

/-- Every outstanding request to a device completes (R322). -/
def State.endAll (s : State) (v : Nat) : State :=
  (s.reqs.filter fun q => decide (q.dst = v)).foldl (fun s q => if s.reqs.elem q then s.endReq q (lostCode q.op) [] [] else s) s

/-- A device leaves the roster (R352). Arrivals of it that are not yet applied, the rows that wait at receive buffers among them, are
dropped and recorded; the buffers here forget it as a source, and the engines here what they knew of its buffers. -/
def execRosterRemove (v : Nat) (s : State) : Out :=
  if v = s.vertex ∨ !s.roster.elem v then .next s
  else
    let s := ({ s with roster := s.roster.filter fun x => decide (x ≠ v) } : State).putRoster
    let mine : Arr → Bool := fun a => decide (a.pkt.src = v) && !a.isReply
    let s := (s.inbox.filter mine).foldl (fun (s : State) a => s.record 5 0 a.pkt.eng a.pkt.vf v) s
    let rows : ExpRow → Bool := fun e => e.src.any fun p => decide (p.src = v)
    let s := (s.expRows.filter rows).foldl (fun (s : State) e => s.record 5 0 ((e.src.map (·.eng)).getD 0) e.vf v) s
    let s := { s with
      inbox := s.inbox.filter (fun a => !mine a), expRows := s.expRows.filter (fun e => !rows e),
      rings := s.rings.map (fun (r : Ring) => { r with srcs := r.srcs.filter fun x => decide (x.dev ≠ v) }),
      known := s.known.filter (fun x => decide (x.dev ≠ v)), removed := s.removed.filter (fun x => decide (x ≠ v)) ++ [v] }
    let s := ({ s with backs := s.backs.filter fun b => decide (b.pkt.src ≠ v) } : State).endAll v
    .next (({ s.reroute with rgen := (s.rgen + 1) % 2 ^ 32 } : State).record 8 0 0 0 v)

def Port.reset : Port := ⟨false, 4, false, 0⟩

def State.port (s : State) (p : Nat) : Port := s.ports.get Port.reset p

/-- A lane of a port fails: the spare takes its place, and at the next failure the port runs two lanes. The service record
keeps it (R368). -/
def execLaneSpare (p : Nat) (s : State) : Out :=
  let x := s.port p
  let y : Port := if x.spareUsed then { x with lanes := 2 } else { x with spareUsed := true }
  .next (({ s with ports := AMap.set s.ports p y, conf := { s.conf with laneSpares := AMap.set s.conf.laneSpares p (y.lanes, y.spareUsed) } } :
    State).record 6 0 (engPort p) 0 p)

/-- A port goes down: it leaves the routing table, and its routes are replaced. -/
def State.takeDown (s : State) (p : Nat) : State :=
  let s := { s with ports := AMap.set s.ports p { s.port p with up := false } }
  s.reroute.record 7 0 (engPort p) 0 p

def execPortDown (p : Nat) (s : State) : Out := .next (s.takeDown p)

/-- Highest Ouvpex version that this part carries (R371). -/
def ownOuv : Nat := 0x0100

/-- A device enters the roster (R352). -/
def State.enroll (s : State) (v : Nat) : State :=
  if v = s.vertex ∨ s.roster.elem v then s
  else ({ s with roster := s.roster ++ [v], rgen := (s.rgen + 1) % 2 ^ 32 } : State).putRoster

/-- A device that has been reset and brought up is in the roster again. -/
def State.readmit (s : State) (v : Nat) : State :=
  ({ s with removed := s.removed.filter fun x => decide (x ≠ v) } : State).enroll v

/-- This end's Ouvpex version goes to the peer of a port, in MGMT (R372): step 13, with the version in the address (log 18). -/
def State.sendOuv (s : State) (p v : Nat) : State :=
  let q : Pkt := { dst := v, src := s.vertex, eng := engPort p, hops := 0, fwd := false, vf := 0, lane := 0, nm := false, op := opMGMT,
                   via := 0, mcg := 0, tag := 0, code := 0, addr := 0, args := [], data := leBytes 8 ownOuv ++ leBytes 1 13 ++ List.replicate 23 0#8 }
  { s with egress := s.egress ++ [(p, q)] }

/-- What a link's coming up says of its peer, whose service mode is `mode` (R298, R352, R368): one in BRINGUP has been reset, and
neither it nor one in TEST is added to the roster; another one is, unless it was removed and has not been reset since, and the
other devices are told. DESIGN CHOICE (log 80). -/
def State.peerUp (s : State) (v mode : Nat) : State :=
  if mode = 1 then { s with removed := s.removed.filter fun x => decide (x ≠ v) }
  else if mode = 2 ∨ s.removed.elem v ∨ s.roster.elem v then s
  else (((s.roster.filter fun d => decide (d ≠ s.vertex)).foldl (fun s d => s.tellDev 0 v 12 v 0 d) s).enroll v)

/-- A link comes up. `ouv` brings the peer's Ouvpex version in bits 15 to 0 and its service mode in bits 17 and 16. Each end sends its
version; the port goes down again where the majors differ, else the link carries the lower minor (R372). -/
def execLinkUp (p ouv : Nat) (s : State) : Out :=
  let ver := ouv % 65536
  let peer := portPeer s.vertex p
  let s := match peer with | some v => s.sendOuv p v | none => s
  if ver / 256 ≠ ownOuv / 256 then .next (s.takeDown p)
  else
    let s := { s with ports := AMap.set s.ports p { s.port p with up := true, minor := min (ver % 256) (ownOuv % 256) } }
    match peer with
    | some v => .next (s.peerUp v (ouv / 65536 % 4))
    | none => .next s

end Sys2Proof.Machine
end

