-- ==== Sys2Proof/Machine/Reset.lean ====
section
/-!
DEFINITION. Function-level reset (R354, R357): its five steps, on the clusters that a function owns.
-/

namespace Sys2Proof.Machine

/-- The clusters of a function, and their compute cores. -/
def State.vfClusters (s : State) (vf : Nat) : List Nat := (List.range 32).filter fun cl => decide (s.owner cl = vf)
def vfCores (cls : List Nat) : List Nat := (cls.map fun cl => ((List.range 8) ++ [9]).map fun k => 16 * cl + k).flatten

/-- Every context key of a list of cores. -/
def keysOf (cores : List Nat) : List Nat := (cores.map coreKeys).flatten

/-- Step 1 for one context: stopped, with no trap; an open checkpoint is rolled back (R112). Its walkers emit no more. -/
def State.flrStop1 (s : State) (k : Nat) : State :=
  if !s.holds k then s
  else
    let s := if (s.ctx k).chk.isSome then s.rollbackCtx k else s
    let c := s.ctx k
    let s := s.setCtx k { c with run := .stopped, ops := c.ops.map fun o =>
      { o with coll := o.coll.map fun r => { r with aborted := true, held := false } } }
    s.setCore (ctxCore k) ((s.core (ctxCore k)).release k)

/-- Step 1: contexts stopped, queued and spilled tasks discarded, records dropped without a completion doubleword; entries of
fault queues and postings withdrawn (R357). -/
def State.flrStop (s : State) (vf : Nat) : State :=
  let cls := s.vfClusters vf
  let cores := vfCores cls
  let s := s.setFunc vf { s.func vf with flr := 2, flrAt := s.now }
  let s := { s with focus := none }
  let s := (keysOf cores).foldl State.flrStop1 s
  let mine : Nat → Bool := fun r => (s.recs.find? r).any fun x => decide (x.vf = vf)
  let s := { s with
    cores := s.cores.map fun (p : Nat × Core) => (p.1, { p.2 with dq := p.2.dq.filter fun t => !mine t.record }) }
  let s := { s with
    recs := s.recs.filter (fun (p : Nat × LRec) => decide (p.2.vf ≠ vf)), posts := s.posts.filter (fun p => decide (p.vf ≠ vf)),
    migs := s.migs.filter (fun m => decide (m.vf ≠ vf)) }
  cls.foldl (fun s cl => s.setCluster cl { s.cluster cl with faults := [], tileq := [], deliv := [], demq := [], ptq := [] }) s

/-- Step 2: what has not left is discarded. -/
def State.flrDiscard (s : State) (vf : Nat) : State :=
  let cores := vfCores (s.vfClusters vf)
  let s := (keysOf cores).foldl (fun s k => (s.dropPermit k).discard k) s
  cores.foldl (fun s core => s.setCore core { s.core core with cb := (s.core core).cb.filter fun e => e.sent }) s

/-- Whether a request of the function is still on its way, here or as one that this device forwards to a peer or to the pool, or a row
of its waits at a receive buffer. -/
def State.flrBusy (s : State) (vf : Nat) : Bool :=
  s.reqs.any (fun q => decide (q.vf = vf)) || s.expRows.any (fun e => decide (e.vf = vf)) || s.poolOut.any (fun q => decide (q.pkt.vf = vf)) ||
    s.backs.any fun b => b.reply.isNone && decide (b.pkt.vf = vf)

/-- Step 3 for one core: its contexts, its scratchpad and its scale table as at reset, and its TLB without the ASID. -/
def State.flrCore (s : State) (asid core : Nat) : State :=
  let s := (coreKeys core).foldl (fun s k => s.setCtx k { Ctx.idle with serial := (s.ctx k).serial, quiet := (s.ctx k).quiet }) s
  let co := s.core core
  s.setCore core { Core.reset with
    tlb := co.tlb.filter (fun e => decide (e.asid ≠ asid)), icnt := (co.icnt + 1) % 2 ^ 32, last := co.last, swapthr := co.swapthr,
    retired := co.retired, ecc := co.ecc, corrected := co.corrected }

/-- Step 3: the scrub. Units of the fabric's governor that its operations held go back (R366). -/
def State.flrScrub (s : State) (vf : Nat) : State :=
  let cls := s.vfClusters vf
  let cores := vfCores cls
  let held := (((keysOf cores).map fun k => (s.ctx k).ops.filter fun o => decide (o.burst = 2)).flatten).length
  let s := cores.foldl (fun s c => s.flrCore (s.asidOf vf) c) s
  let here : Nat → Bool := fun k => cores.elem (ctxCore k)
  let s := { s with
    burstHeld := s.burstHeld - held,
    mem := cores.foldl (fun m c => memClear m (s.savePa (spillBase + 16 * c)) (16 * saveSlotSize)) s.mem,
    flights := s.flights.filter (fun f => !here (qnKey f.dest)), expRows := s.expRows.filter (fun e => decide (e.vf ≠ vf)),
    burstQ := s.burstQ.filter (fun p => !here p.1), graphs := s.graphs.filter (fun g => decide (g.vf ≠ vf)) }
  cls.foldl (fun s cl => s.setCluster cl { s.cluster cl with pt := [], ptq := [], store := [], rdv := [] }) s

/-- Step 4: the function's commit records, and the CIDs in its twin frames. -/
def State.flrRelease (s : State) (vf : Nat) : State :=
  let twin : Nat → Bool := fun line => let e := s.frameEnt (line * 128); bitAt e 53 && decide (bits e 57 4 = vf)
  { s with commits := s.commits.filter (fun (p : Nat × Commit) => decide (p.2.vf ≠ vf)),
           side := s.side.map fun (p : Nat × Side) => (p.1, if twin p.1 then { p.2 with cid := 0 } else p.2) }

/-- Step 5: the record, and the report to the host. Posting numbers start again from 1 (R363). -/
def State.flrReport (s : State) (vf : Nat) : State :=
  let s := s.setFunc vf { s.func vf with flr := 0, nextPost := 1 }
  let s := s.record 12 0 (engSched 0) vf 0
  { s with hostOut := s.hostOut ++ [(0x200 + vf, [])] }

/-- A function's reset begins, or goes on to its next step. -/
def execFunctionLevelReset (vf : Nat) (s : State) : Out :=
  let f := s.func vf
  let next : State → Nat → State := fun s n => s.setFunc vf { s.func vf with flr := n }
  if 16 ≤ vf then .next s
  else if f.flr = 0 then .next (s.flrStop vf)
  else if f.flr = 2 then
    let s := s.flrDiscard vf
    .next (if s.flrBusy vf then s else next s 3)
  else if f.flr = 3 then .next (next (s.flrScrub vf) 4)
  else if f.flr = 4 then .next (next (s.flrRelease vf) 5)
  else .next (s.flrReport vf)

end Sys2Proof.Machine
end

