-- ==== Sys2Proof/Machine/HostIf.lean ====
section
/-!
DEFINITION. The host boundary (R257, R288 to R290, R360 to R363, R370 to R372): host accesses, mailboxes and their commands, and the
submission queues.
-/

namespace Sys2Proof.Machine

/-! ## Host accesses (R257, R361) -/

/-- Highest host-interface version that this part carries (R371). -/
def ownHif : Nat := 0x0100

/-- Whether the host interface of a function is enabled: a chosen version of the same major, no higher than HIF (R372). -/
def Func.enabled (f : Func) : Bool := decide (f.hif / 256 = ownHif / 256) && decide (f.hif ≤ ownHif)

/-- Whether [a, a + n) lies in a range that the configuration image grants to a function. -/
def State.granted (s : State) (vf a n : Nat) : Bool := s.conf.hdm.any fun h => decide (h.1 = vf ∧ h.2.1 ≤ a ∧ a + n ≤ h.2.1 + h.2.2)

/-- A request of the host, in lane 0 of its source. -/
def State.emitHost (s : State) (vf op addr n : Nat) (a : Nat) (args data : List Byte) : State :=
  let p : Pkt := { dst := s.vertex, src := s.vertex, eng := engHost, hops := 0, fwd := false, vf := vf, lane := 0, nm := false,
                   op := op, via := 0, mcg := 0, tag := s.newTag engHost, code := 0, addr := addr, args := args, data := data }
  (s.await (.host a n) p s.vertex).deliver p (engRank engHost)

/-- A host read: one request per line, of whole units. -/
def State.hostRead (s : State) (vf a n : Nat) : State :=
  (linePieces a n).foldl (fun (s : State) (p : Nat × Nat) =>
    s.emitHost vf opRD (p.1 / 16 * 16) p.2 p.1 (leBytes 1 (unitsOf p.1 p.2)) []) s

/-- A host write: one request per line. -/
def State.hostWrite (s : State) (vf a : Nat) (bs : List Byte) : State :=
  (linePieces a bs.length).foldl (fun (s : State) (p : Nat × Nat) =>
    let d := (bs.drop (p.1 - a)).take p.2
    if p.1 % 16 = 0 ∧ p.2 % 16 = 0 then s.emitHost vf opWR p.1 0 p.1 [] d
    else s.emitHost vf opWRM (p.1 / 128 * 128) 0 p.1 [] (wrmData (p.1 % 128) d fun _ => false)) s

/-! ## Mailboxes (R361) -/

def State.mbox (s : State) (fn : Nat) : Mbox := s.mboxes.get Mbox.reset fn
def State.setMbox (s : State) (fn : Nat) (b : Mbox) : State := { s with mboxes := AMap.set s.mboxes fn b }

/-- GO written while a command is in progress: the write is discarded, and ERR is set. -/
def State.goBusy (s : State) (fn : Nat) : State := if (s.mbox fn).go then s.setMbox fn { s.mbox fn with err := true } else s

def execMailboxGoBusy (fn : Nat) (s : State) : Out := .next (s.goBusy fn)

/-- A write of the command register. A device whose boot has failed answers at once (R368). -/
def State.writeGo (s : State) (fn : Nat) (v : W64) : State :=
  if !v.getLsbD 63 then s
  else if (s.mbox fn).go then s.goBusy fn
  else if s.bootFail ≠ 0 then s.setMbox fn { s.mbox fn with cmd := bits v.toNat 0 8, status := 0x03 }
  else
    ({ s with mbOrder := s.mbOrder + 1 } : State).setMbox fn { s.mbox fn with go := true, cmd := bits v.toNat 0 8, order := s.mbOrder }

/-- Bytes of DATA. -/
def Mbox.bytes (b : Mbox) (off n : Nat) : List Byte := (List.range n).map fun i => (lastByte b.data (off + i)).getD 0#8

/-- DATA from its start holds these bytes. -/
def Mbox.put (b : Mbox) (bs : List Byte) : Mbox :=
  { b with data := (b.data.filter fun p => decide (bs.length ≤ p.1)) ++ cellsAt 0 bs }

/-- A doubleword written to a mailbox. -/
def State.writeMbox (s : State) (fn off : Nat) (v : W64) : State :=
  let b := s.mbox fn
  if off = 0x000 then s.writeGo fn v
  else if off = 0x008 then s.setMbox fn { b with arg0 := v.toNat }
  else if off = 0x010 then s.setMbox fn { b with arg1 := v.toNat }
  else if 0x040 ≤ off ∧ off + 8 ≤ 0x1000 then
    let cs := cellsAt (off - 0x040) (leBytes 8 v.toNat)
    s.setMbox fn { b with data := b.data.filter (fun p => !(cs.any fun c => decide (c.1 = p.1))) ++ cs }
  else s

/-- A doubleword read from a mailbox. -/
def State.readMbox (s : State) (fn off : Nat) : Nat :=
  let b := s.mbox fn
  if off = 0x000 then b2n b.go * 2 ^ 63 + b2n b.err * 2 ^ 62 + b.status * 2 ^ 32 + b.cmd
  else if off = 0x008 then b.arg0
  else if off = 0x010 then b.arg1
  else if 0x040 ≤ off ∧ off + 8 ≤ 0x1000 then leNat (b.bytes (off - 0x040) 8)
  else 0

/-- What the host does. An access that no decoder of its function covers is answered with code 0x01. -/
def execHostAccess (acc : HostAcc) (s : State) : Out :=
  match acc with
  | .rd vf a n =>
    if !(s.func vf).enabled || !(s.func vf).memActive || !s.granted vf a n then .next { s with hostOut := s.hostOut ++ [(0x01, [])] }
    else .next (s.hostRead vf a n)
  | .wr vf a bs =>
    if !(s.func vf).enabled || !(s.func vf).memActive || !s.granted vf a bs.length then .next { s with hostOut := s.hostOut ++ [(0x01, [])] }
    else .next (s.hostWrite vf a bs)
  | .mailbox fn off v => .next (if 16 < fn || !(s.func fn).enabled then s else s.writeMbox fn off v)
  | .mboxRd fn off =>
    .next { s with hostOut := s.hostOut ++ [if 16 < fn || !(s.func fn).enabled then (0x01, []) else (0, leBytes 8 (s.readMbox fn off))] }
  | .firmware fn off v => .next (if 16 < fn then s else s.writeMbox fn off v)
  | .dvsecRd fn => .next { s with hostOut := s.hostOut ++ [if 16 < fn then (0x01, []) else (0, leBytes 2 ownHif ++ leBytes 1 s.bootFail)] }
  | .memActive vf => .next (if (s.func vf).enabled then s.setFunc vf { s.func vf with memActive := true } else s)

/-- The host chooses a version (R372). -/
def execHifVersionWrite (fn ver : Nat) (s : State) : Out := .next (s.setFunc fn { s.func fn with hif := ver % 65536 })

/-! ## Serving a command (R361, R362) -/

/-- Whether a mailbox holds a command that firmware serves now: the mailboxes are served in the order of their GO writes. -/
def State.mboxTurn (s : State) (fn : Nat) : Bool :=
  (s.mbox fn).go && s.booted && !(s.mboxes.any fun (p : Nat × Mbox) => p.2.go && decide (p.2.order < (s.mbox fn).order))

/-- A command served: its effect, its STATUS and its results. Firmware clears ERR as it reads the command. -/
def mboxCmd (s : State) (fn : Nat) (is : Nat → Bool) (go : State → Mbox → State × Mbox) : Out :=
  let b := s.mbox fn
  if !s.mboxTurn fn || !is b.cmd then .next s
  else
    let r := go s { b with err := false, status := 0 }
    .next ((r.1.setMbox fn { r.2 with go := false }).raiseMsi fn)

/-- Whether a mailbox may act on what belongs to a function: its own, or the physical function's. -/
def mayActOn (fn vf : Nat) : Bool := decide (fn = vf) || decide (fn = 16)

def Mbox.fail (b : Mbox) (st : Nat) : Mbox := { b with status := st }

def execPlaceSubq (fn : Nat) (s : State) : Out :=
  mboxCmd s fn (fun c => decide (c = 0x01)) fun s b =>
    if b.arg0 % 128 ≠ 0 then (s, b.fail 0x02)
    else (s.setFunc fn { s.func fn with subq := some (b.arg0 % 2 ^ 55), served := 2 ^ 32, resultOut := false }, b)

def execPlaceRepl (fn : Nat) (s : State) : Out :=
  mboxCmd s fn (fun c => decide (c = 0x02)) fun s b =>
    if b.arg0 % 64 ≠ 0 then (s, b.fail 0x02)
    else ((s.setFunc fn { s.func fn with repl := some (b.arg0 % 2 ^ 55) }).tellAll fn (b.arg0 % 2 ^ 55) 4 0 0, b)

/-- A free local index is taken (R337). -/
def execCstCreate (fn : Nat) (s : State) : Out :=
  mboxCmd s fn (fun c => decide (c = 0x03)) fun s b =>
    match ((List.range 8192).drop 1).find? fun i => (s.commits.find? i).isNone with
    | some i => ({ s with commits := AMap.set s.commits i ⟨fn, 0⟩ }, { b with arg0 := s.vertex * 8192 + i })
    | none => (s, b.fail 0x04)

/-- The CID of both slots of a member line set to 0, if the line lies on this device. -/
def State.clearHere (s : State) (fn va : Nat) : State :=
  match s.xlate fn va .rd with
  | .error _ => s
  | .ok (home, pa) =>
    if home ≠ s.vertex then s
    else
      let z : AMap Side → Nat → AMap Side := fun m l => match m.find? l with | some x => AMap.set m l { x with cid := 0 } | none => m
      { s with side := z (z s.side (pa / 128)) ((pa + slotB) / 128) }

/-- The same where it lies. -/
def State.clearLine (s : State) (fn va : Nat) : State :=
  match s.xlate fn va .rd with
  | .error _ => s
  | .ok (home, _) => if home ≠ s.vertex then s.tellDev fn va 5 0 0 home else s.clearHere fn va

/-- STATUS of a destruction that firmware turns away: the CID names no constellation of this device, or too many lines are
given, or another function owns it. -/
def State.destroyRefused (s : State) (fn : Nat) (b : Mbox) : Option Nat :=
  match s.commits.find? (b.arg0 % 8192) with
  | none => some 0x02
  | some x =>
    if b.arg0 / 8192 ≠ s.vertex ∨ 496 < b.arg1 then some 0x02 else if !mayActOn fn x.vf then some 0x03 else none

/-- The CIDs of a constellation's lines are cleared, here and by messages to the devices that hold the others; once these have
answered, V is written 0 (R337). -/
def execCstDestroy (fn : Nat) (s : State) : Out :=
  let b := s.mbox fn
  if s.mboxTurn fn && decide (b.cmd = 0x04) && !b.sent && (s.destroyRefused fn b).isNone then
    let vf := ((s.commits.find? (b.arg0 % 8192)).map (·.vf)).getD 0
    let s := (List.range b.arg1).foldl (fun s i => s.clearLine vf (leNat (b.bytes (8 * i) 8) % 2 ^ 55)) s
    .next (s.setMbox fn { b with sent := true })
  else if b.sent && s.mgmtOut then .next s
  else
    mboxCmd s fn (fun c => decide (c = 0x04)) fun s b =>
      match s.destroyRefused fn b with
      | some st => (s, { b with status := st, sent := false })
      | none => ({ s with commits := AMap.erase s.commits (b.arg0 % 8192) }, { b with sent := false })

/-- An error record's 32 bytes (R349). -/
def ErrRec.bytes (e : ErrRec) : List Byte :=
  leBytes 8 e.time ++ leBytes 1 e.kind ++ leBytes 1 e.code ++ leBytes 2 e.src ++ leBytes 1 (e.vf % 16) ++ leBytes 3 0 ++ leBytes 8 e.addr ++
    leBytes 8 e.count

def execErrlog (fn : Nat) (s : State) : Out :=
  mboxCmd s fn (fun c => decide (c = 0x05)) fun s b =>
    (s, { b.put (((s.errs.drop b.arg0).take 124).map ErrRec.bytes).flatten with arg1 := s.errOvr })

def execRoster (fn : Nat) (s : State) : Out :=
  mboxCmd s fn (fun c => decide (c = 0x06)) fun s b => (s, { b with arg0 := s.conf.rosterAddr })

/-- The task of a posting is resumed, or ended. -/
def State.answerPost (s : State) (p : Posting) (ends : Bool) : State :=
  let s := { s with posts := s.posts.erase p }
  if p.walker then
    if p.ctx = pipeKey then s.resumePipe p.op p.xfer ends
    else if ends then s.updColl p.ctx p.op fun r => { r with aborted := true, held := false }
    else s.resumeWalker p.ctx p.op p.xfer
  else if ends then s.beginEnd (ctxCluster p.ctx) p.ctx
  else s.resumeCtx p.ctx

def execFaultAns (fn : Nat) (s : State) : Out :=
  mboxCmd s fn (fun c => decide (c = 0x07)) fun s b =>
    match s.posts.find? fun p => decide (p.num = b.arg0) && decide (p.vf = fn) with
    | none => (s, b.fail 0x02)
    | some p => if 1 < b.arg1 then (s, b.fail 0x02) else (s.answerPost p (decide (b.arg1 = 1)), b)

/-- Contexts of a function that a debugger has kept stopped. -/
def State.debugged (s : State) (vf : Nat) : List Nat :=
  (s.ctxs.filter fun (p : Nat × Ctx) => decide (p.2.run = .trapped) && decide (p.2.trapCause = 0x09#64) && decide (p.2.stat.vf = vf) &&
    !((s.cluster (ctxCluster p.1)).faults.any fun f => decide (f.ctx = p.1))).map fun (p : Nat × Ctx) => p.1

/-- A debugger is attached, or detached: then the tasks it kept stopped end. -/
def execDebugCmd (fn : Nat) (s : State) : Out :=
  mboxCmd s fn (fun c => decide (c = 0x08)) fun s b =>
    if b.arg0 = 1 then (s.setFunc fn { s.func fn with debug := true }, b)
    else if b.arg0 = 0 then
      ((s.debugged fn).foldl (fun s k => s.beginEnd (ctxCluster k) k) (s.setFunc fn { s.func fn with debug := false }), b)
    else (s, b.fail 0x02)

def execSetLtr (fn : Nat) (s : State) : Out :=
  mboxCmd s fn (fun c => decide (c = 0x09)) fun s b =>
    if 2 ^ 32 ≤ b.arg0 then (s, b.fail 0x02) else (s.setFunc fn { s.func fn with ltr := b.arg0 }, b)

/-- Exactly `n` bytes. -/
def fitBytes (n : Nat) (bs : List Byte) : List Byte := (bs ++ List.replicate n 0#8).take n

/-- Bytes 0 to 447 of a quote (R370). -/
def State.quoteBody (s : State) : List Byte :=
  fitBytes 384 s.measures.flatten ++ fitBytes 32 (Config.identityKey s.ident) ++ leBytes 4 0x01000000 ++ leBytes 8 s.fwver.toNat ++
    List.replicate 20 0#8

def execQuote (fn : Nat) (s : State) : Out :=
  mboxCmd s fn (fun c => decide (c = 0x0A)) fun s b =>
    let body := s.quoteBody
    (s, b.put (body ++ fitBytes 64 (Config.ed25519Sign s.ident (Config.sha512 (body ++ b.bytes 0 64)))))

def execPreempt (fn : Nat) (s : State) : Out :=
  mboxCmd s fn (fun c => decide (c = 0x0B)) fun s b =>
    match List.find? (fun (p : Nat × LRec) => decide (p.2.va = b.arg0) && mayActOn fn p.2.vf && !p.2.done) s.recs with
    | none => (s, b.fail 0x02)
    | some (key, r) => match r.pipe with
      | none => (s, b.fail 0x02)
      | some p => (if p.stop = 0 then s.stopPipe key r p else s, b)

def execFlr (fn : Nat) (s : State) : Out :=
  mboxCmd s fn (fun c => decide (c = 0x0C)) fun s b =>
    if 16 ≤ fn then (s, b.fail 0x02) else (if (s.func fn).flr = 0 then s.flrStop fn else s, b)

/-- WHO of a posting (R363). -/
def Posting.whoWord (p : Posting) : Nat :=
  let cl := coreCluster p.who
  cl / 8 * 2 ^ 14 + cl % 8 * 2 ^ 11 + (if p.walker then 0 else coreK p.who * 2 ^ 7 + (if isSpilled p.ctx then 0 else p.ctx % 8) * 2 ^ 4)

/-- A posting's 64 bytes (R363). -/
def Posting.bytes (p : Posting) : List Byte :=
  leBytes 8 p.num ++ leBytes 1 (b2n p.walker) ++ leBytes 1 p.cause ++ leBytes 2 p.whoWord ++ leBytes 1 (if p.walker then p.port else 0) ++
    leBytes 3 0 ++ leBytes 8 (if p.walker then 0 else p.pc) ++ leBytes 8 p.val ++ leBytes 4 (if p.walker then p.xfer else 0) ++ leBytes 4 0 ++
    leBytes 8 p.time ++ List.replicate 16 0#8

/-- The posting of lowest number. -/
def oldestPost : List Posting → Option Posting
  | [] => none
  | p :: rest => match oldestPost rest with
    | none => some p
    | some q => some (if q.num < p.num then q else p)

def execFaultNext (fn : Nat) (s : State) : Out :=
  mboxCmd s fn (fun c => decide (c = 0x0D)) fun s b =>
    match oldestPost (s.posts.filter fun p => decide (p.vf = fn)) with
    | some p => (s, { b.put p.bytes with arg0 := p.num })
    | none => (s, { b with arg0 := 0 })

def execMailboxUnknownCmd (fn : Nat) (s : State) : Out :=
  mboxCmd s fn (fun c => decide (c = 0 ∨ 0x0D < c)) fun s b => (s, b.fail 0x01)

/-! ## Submission queues (R288 to R290) -/

/-- Firmware's write of a doubleword or less: at once in this device's own memory, else by a request. -/
def State.putVa (s : State) (cl vf va : Nat) (bs : List Byte) : State :=
  match s.xlate vf va .wr with
  | .error _ => s
  | .ok (home, pa) =>
    if home = s.vertex ∧ s.frameCheck pa vf .write = .ok then (s.putCells vf (cellsAt pa bs)).1
    else (s.writeVa .firmware cl vf va bs).toOption.getD s

/-- The token of one entry. -/
def State.serveEntry (s : State) (ext : ExtBytes) (cl vf : Nat) (e : List Byte) : State × Nat :=
  let va := rfld e 0 8
  let n := rfld e 8 4
  if n < 1 ∨ 4096 < n then (s, refuseTok 0x02 0xFFFF)
  else if va % 128 ≠ 0 then (s, refuseTok 0x02 0)
  else
    let recs := s.readRecs ext vf va n
    match (List.range n).find? fun i => (recs[i]?).any fun r => match r with | .error _ => true | .ok _ => false with
    | some i => (s, refuseTok 0x09 i)
    | none =>
      match (List.range n).find? fun i => (recs[i]?).any fun r => match r with | .ok bs => decide (recVf bs ≠ vf) | .error _ => false with
      | some i => (s, refuseTok 0x05 i)
      | none => s.acceptGraph ext cl ⟨vf, true, true⟩ va n

/-- Firmware takes a new value of PROD. After an overflow it has nothing to serve: every pending entry is lost. -/
def State.takeProd (s : State) (cl vf db prod cons qsz : Nat) : State :=
  if prod = cons then s
  else if qsz < (prod + 2 ^ 32 - cons) % 2 ^ 32 then
    ((s.setFunc vf { s.func vf with served := prod }).putVa cl vf (db + 26) [1#8]).putVa cl vf (db + 4) (leBytes 4 prod)
  else s.setFunc vf { s.func vf with served := prod }

/-- Firmware serves a function's queue: the next entry's result, then CONS; or a new value of PROD. -/
def execSubmissionQueueServe (vf : Nat) (ext : ExtBytes) (s : State) : Out :=
  let f := s.func vf
  let cl := (s.vfClusters vf).headD 0
  match f.subq with
  | none => .next s
  | some db =>
    if !s.booted || s.resetting vf || s.reqs.any (fun q => decide (q.owner = .firmware) && decide (q.vf = vf)) then .next s
    else whenAwake s (s.vaPas vf db 128) fun s => match s.readVa ext vf db 128 with
      | .error _ => .next s
      | .ok line =>
        let cons := rfld line 4 4
        let qsz := rfld line 24 2
        if f.resultOut then
          let s := s.putVa cl vf (db + 4) (leBytes 4 ((cons + 1) % 2 ^ 32))
          .next (s.setFunc vf { s.func vf with resultOut := false })
        else if f.served = 2 ^ 32 ∨ cons = f.served then .next (s.takeProd cl vf db (rfld line 0 4) cons qsz)
        else whenAwake s (s.vaPas vf (rfld line 8 8 + 16 * (cons % qsz)) 16 ++ s.vaPas vf (rfld line 16 8 + 8 * (cons % qsz)) 8) fun s =>
          let r := match s.readVa ext vf (rfld line 8 8 + 16 * (cons % qsz)) 16 with
            | .ok e => s.serveEntry ext cl vf e
            | .error _ => (s, refuseTok 0x09 0)
          let s := r.1.putVa cl vf (rfld line 16 8 + 8 * (cons % qsz)) (leBytes 8 r.2)
          .next (s.setFunc vf { s.func vf with resultOut := true })

/-! ## Messages of other devices (R310, R311, R337, log 18) -/

/-- A function of this device that runs a job: the packet's own, if it does. -/
def State.jobFunc (s : State) (vf asid : Nat) : Option Nat :=
  (vf :: List.range 16).find? fun v => match (s.func v).space with | some p => decide (p.1 = asid) | none => false

/-- What one message asks of this device, whose entry of the page stands at `a`: the state, and whether it is done. The first
step is answered once this device's shoot-downs have ended. -/
def State.obey (s : State) (vf va step about frame src a l : Nat) (pool : Option Nat) : State × Bool :=
  let e := s.pteRead a
  if step = 1 then
    match s.migs.find? fun m => decide (m.kind = 9 ∧ m.vf = vf ∧ m.va = va ∧ m.dev = src) with
    | none =>
      let m : Migration := ⟨0, vf, va, src, 9, 0, [], []⟩
      (({ s with migs := s.migs ++ [m] } : State).beginHere m a, false)
    | some m =>
      let r := sdRange va (bitAt e 59) l
      let p := s.stepSd m r.2 r.1
      let s := p.1.setMig m p.2
      if p.2.todo.isEmpty && p.2.out.all (fun cl => !(s.cluster cl).sd.busy) then (s.dropMig p.2, true) else (s, false)
  else if step = 2 then (s.ownAlone about a l, true)
  else if step = 3 then (s.rehome vf a l about frame, true)
  else if step = 6 then (s.readyFrames vf frame (moveFrames e l) pool, true)
  else (s, true)

/-- Fabric management (R310, R321): this device's firmware does its part of what another's began, and answers: a
migration, the place of the replacement table, the destruction of a constellation,
a fatal fault or a device that has come back (R352). -/
def execMgmtPkt (i : Nat) (s : State) : Out :=
  match s.arrival i opMGMT with
  | none => .next s
  | some a =>
    let arg := rfld a.pkt.data
    let va := arg 0 8
    let step := arg 8 1
    if step = 7 then execRosterRemove a.pkt.src (s.take i)
    else if step = 12 then .next (((s.readmit va).take i).answer a.pkt 0 [] [])
    else match s.jobFunc a.pkt.vf (arg 9 2) with
    | none => .next ((s.take i).answer a.pkt 0 [] [])
    | some vf =>
      if step = 4 then .next ((s.setFunc vf { s.func vf with repl := some va } |>.take i).answer a.pkt 0 [] [])
      else if step = 5 then .next ((s.clearHere vf va |>.take i).answer a.pkt 0 [] [])
      else if step = 8 then
        .next (({ s with side := AMap.set s.side va ⟨arg 13 3, arg 22 4, arg 11 2, arg 26 2⟩ } : State).take i |>.answer a.pkt 0 [] [])
      else if step = 10 then .next ((s.poison [va] |>.take i).answer a.pkt 0 [] [])
      else if step = 20 ∨ step = 21 then
        .next (({ s with migs := s.migs ++ [(⟨0, vf, va, a.pkt.src, step - 16, 0, [], []⟩ : Migration)] } : State).take i |>.answer a.pkt 0 [] [])
      else if step = 28 ∨ step = 29 then .next ((s.resumeAway vf va (step - 24) |>.take i).answer a.pkt 0 [] [])
      else match s.leafOfVa vf va with
      | none => .next ((s.take i).answer a.pkt 0 [] [])
      | some (x, l) =>
        let r := s.obey vf va step (arg 11 2) (arg 13 3) a.pkt.src x l (if arg 16 6 = 0 then none else some (arg 16 6 - 1))
        .next (if r.2 then (r.1.take i).answer a.pkt 0 [] [] else r.1)

end Sys2Proof.Machine
end

