-- ==== Sys2Proof/Machine/Power.lean ====
section
/-!
DEFINITION. Power levels (R364, R365), thermal limits (R367), and boot (R368, R369).
-/

namespace Sys2Proof.Machine

/-! ## Power levels -/

/-- Exit latency of a level, in cycles. -/
def Power.exit : Power → Nat
  | .run => 0
  | .gated => 64
  | .retention => 4200
  | .refresh => 42000
  | .off => 105000000

/-- The deepest level that a latency tolerance in nanoseconds admits, at 2.1 cycles to the nanosecond (R307). -/
def deepest (ltr : Nat) : Power :=
  match [Power.off, .refresh, .retention, .gated].find? fun p => decide (10 * p.exit ≤ 21 * ltr) with
  | some p => p
  | none => .run

/-- Whether a cluster may leave Run: it holds no bound, queued or spilled task, and no outstanding request (R364). -/
def State.clusterIdle (s : State) (cl : Nat) : Bool :=
  let cores := vfCores [cl]
  !((keysOf cores).any s.holds) && !(cores.any fun c => !(s.core c).dq.isEmpty || !(s.core c).cb.isEmpty) &&
    (s.cluster cl).graphs.isEmpty && (s.cluster cl).faults.isEmpty &&
    !(s.recs.any fun (p : Nat × LRec) => !p.2.done && bitAt p.2.place cl) &&
    !(s.reqs.any fun q => match q.owner with | .piece k _ _ => decide (ctxCluster k = cl) | .combine c _ _ _ => decide (coreCluster c = cl) | _ => false)

/-- The level that the tolerance of its owner admits a cluster. -/
def State.levelFor (s : State) (cl : Nat) : Power := deepest (s.func (s.owner cl)).ltr

def Power.refreshes : Power → Bool
  | .refresh | .off => true
  | _ => false

/-- Whether a request to a die's memory is in flight, or an engine of this device waits for it. -/
def State.dieAsked (s : State) (d : Nat) : Bool :=
  s.asks.elem d || s.inbox.any fun a => !a.isReply && decide ((Pkt.place a.pkt).1 = 0) && decide (dieOfPa a.pkt.addr = d)

/-- Whether a die's DRAM may refresh itself: every cluster of the die is at that level or deeper, the tolerance of every function
that owns one admits it, and no request to its memory is in flight (R364, R365). -/
def State.dieRefresh (s : State) (d : Nat) : Bool :=
  ((List.range 8).all fun i => (s.levelFor (8 * d + i)).refreshes && (s.cluster (8 * d + i)).power.refreshes) && !s.dieAsked d

/-- An idle cluster enters the deepest level that the tolerance of its owner admits; its die's DRAM follows once it may. -/
def execPowerLevelEnter (cl : Nat) (s : State) : Out :=
  let d := clusterDie cl
  let s := if s.clusterIdle cl && decide ((s.cluster cl).power = .run) && !s.dieAsked d then
      s.setCluster cl { s.cluster cl with power := s.levelFor cl, wake := 0 } else s
  .next (if s.dieRefresh d then s.setDie d { s.die d with refresh := true } else s)

/-- Whether something wakes a cluster. -/
def State.wakes (s : State) (cl : Nat) : Bool := !s.clusterIdle cl || s.dieAsked (clusterDie cl)

/-- A cluster wakes once its exit latency has passed. After Off its scratchpads read zero. -/
def execPowerWake (cl : Nat) (s : State) : Out :=
  let q := s.cluster cl
  if q.power = .run ∨ !s.wakes cl then .next s
  else if q.wake = 0 then .next (s.setCluster cl { q with wake := s.now + q.power.exit })
  else if s.now < q.wake then .next s
  else
    let s := if q.power = .off then ((16 * cl + 8) :: vfCores [cl]).foldl (fun s c => s.setCore c { s.core c with sp := [], wq := [] }) s else s
    let s := s.setCluster cl { q with power := .run, wake := 0 }
    .next (s.setDie (clusterDie cl) { s.die (clusterDie cl) with refresh := false })

/-! ## Thermal limits (R367). Temperatures are in degrees Celsius. -/

def execThermalGrantHold (d t : Nat) (s : State) : Out := .next (if 95 ≤ t then s.setDie d { s.die d with hold := true } else s)
def execThermalGrantResume (d t : Nat) (s : State) : Out := .next (if t < 90 then s.setDie d { s.die d with hold := false } else s)
def execThermalClockHalve (d t : Nat) (s : State) : Out := .next (if 105 ≤ t then s.setDie d { s.die d with half := true } else s)
def execThermalClockRestore (d t : Nat) (s : State) : Out := .next (if t < 100 then s.setDie d { s.die d with half := false } else s)

/-- Every context stops, the fatal fault is reported through MGMT, and the device leaves the roster. -/
def State.shutdown (s : State) : State :=
  let s := s.tellAll 0 0 7 s.vertex 0
  { s with
    shut := true, focus := none,
    ctxs := s.ctxs.map fun (p : Nat × Ctx) => (p.1, match p.2.run with | .free => p.2 | _ => { p.2 with run := .halted }),
    cores := s.cores.map fun (p : Nat × Core) => (p.1, { p.2 with holder := none }),
    roster := s.roster.filter (fun v => decide (v ≠ s.vertex)), rgen := (s.rgen + 1) % 2 ^ 32 }.putRoster

def execThermalShutdown (_d t : Nat) (s : State) : Out := .next (if 115 ≤ t ∧ !s.shut then s.shutdown else s)

/-! ## Boot (R368, R369) -/

/-- The service record as bytes, for its measurement. -/
def Image.serviceBytes (g : Image) : List Byte :=
  (g.lost.map fun (e : Nat × Nat × Bool) => leBytes 8 e.1 ++ leBytes 8 e.2.1 ++ leBytes 1 (b2n e.2.2)).flatten ++
    (g.spares.map fun (e : Nat × Nat) => leBytes 1 e.1 ++ leBytes 1 e.2).flatten ++ (g.retired.map (leBytes 2)).flatten ++
    (g.laneSpares.map fun (e : Nat × Nat × Bool) => leBytes 1 e.1 ++ leBytes 1 e.2.1 ++ leBytes 1 (b2n e.2.2)).flatten

/-- The six measurements (R369). -/
def State.measure (s : State) : List (List Byte) :=
  [Config.bootRom s.ident, s.conf.image, s.conf.firmware, s.conf.fabImage, s.conf.serviceBytes, Config.identityKey s.ident].map
    fun m => fitBytes 64 (Config.sha512 m)

/-- Retired lines of the service record, by die. -/
def State.applyLost (s : State) : State :=
  s.conf.lost.foldl (fun s e =>
    let d := dieOfPa (e.1 * 128)
    s.setDie d { s.die d with retired := (s.die d).retired ++ [e] }) s

/-- Retired and spare cores of the service record, and the ports whose spare lane is in use. -/
def State.applySpares (s : State) : State :=
  let s := s.conf.spares.foldl (fun s e =>
    let s := s.setCluster e.1 { s.cluster e.1 with spare := BitVec.ofNat 64 (128 + e.2) }
    s.setCore (16 * e.1 + e.2) { s.core (16 * e.1 + e.2) with retired := true }) s
  let s := s.conf.retired.foldl (fun s c => s.setCore c { s.core c with retired := true }) s
  { s with ports := s.conf.laneSpares.foldl (fun m (e : Nat × Nat × Bool) =>
      AMap.set m e.1 { AMap.get Port.reset m e.1 with lanes := e.2.1, spareUsed := e.2.2 }) s.ports }

/-- Step 4: the configuration, then the service record; and what firmware then writes into the tables that it places in memory. A
budget is at most 64 units (R366). -/
def State.applyConfig (s : State) : State :=
  let g := s.conf
  let ver := BitVec.ofNat 64 (g.sched % 65536 * 2 ^ 48 + g.fab % 65536 * 2 ^ 32 + ownOuv * 2 ^ 16 + ownHif)
  let s := { s with vertex := g.vertex, routes := g.routes, mcast := g.mcast, fwver := ver, measures := s.measure }
  let s := (List.range 4).foldl (fun s d => s.setDie d { s.die d with budget := min 64 (g.budgets.getD d 40) }) s
  let s := ((List.range 512).filter coreExists).foldl (fun s c => s.setCore c { s.core c with swapthr := g.swapthr }) s
  (s.conf.frameTab.foldl (fun s (e : Nat × W64) => s.setFrame e.1 e.2) s.applyLost.applySpares).putRoster

/-- Step 5: a cluster's control core starts its firmware at offset 0, privileged and launch-capable (R53). -/
def State.startFirmware (s : State) (cl : Nat) : State :=
  let k := 8 * (16 * cl + 8)
  s.setCtx k { Ctx.idle with run := .ready, stat := ⟨true, true, false, s.owner cl, 0, false⟩, codesz := s.conf.firmware.length }

/-- A check has failed (R368): the device stays in BRINGUP, and every mailbox is answered with STATUS 0x03. -/
def State.bootFails (s : State) (n : Nat) : State :=
  { s with bootFail := n, mboxes := s.mboxes.map fun (p : Nat × Mbox) => (p.1, if p.2.go then { p.2 with go := false, status := 0x03 } else p.2) }

/-- The boot ROM's next step. Firmware fills the roster as links come up: `conf.roster` are the devices that it finds in service. -/
def State.boot (s : State) : State :=
  let n := s.bootStep + 1
  if s.booted ∨ s.bootFail ≠ 0 then s
  else if n = 2 ∧ !s.conf.valid then s.bootFails 2
  else if n = 3 ∧ !s.conf.fwValid then s.bootFails 3
  else
    let s := { s with bootStep := n }
    if n = 4 then s.applyConfig
    else if n = 5 then (if s.conf.firmware.isEmpty then s else (List.range 32).foldl State.startFirmware s)
    else if n = 6 then
      let s := (List.range 16).foldl (fun s v => s.setFunc v { s.func v with memActive := true }) s
      { ({ s with roster := s.conf.roster } : State).putRoster with svc := 0, booted := true }
    else s

def execPowerOnBoot (s : State) : Out := .next s.boot

end Sys2Proof.Machine
end

