-- ==== Sys2Proof/Machine/Scalar.lean ====
section
/-!
DEFINITION. The meanings of the S slot's integer, move, address, compare, predicate and floating instructions (R87 to R96),
and of `nop`.
-/

namespace Sys2Proof.Machine

/-- `nop` performs nothing (R14): it leaves its queue. -/
def execNop (s : State) : Out := issueOp s fun _ _ => .ok s

/-! ## Integer arithmetic (R87, R88) -/

/-- A two-operand integer instruction: sd receives `g a b`. -/
def scalarBin (s : State) (sd sa : SReg) (b : SrcB) (g : W64 → W64 → W64) : Out :=
  onCtx s fun f c => (c.rdS f.ent.word sa).bind fun x => (c.rdB f.ent.word b).bind fun y =>
    .ok (c.putS f.ent.id sd (g x y))

/-- A one-operand integer instruction. -/
def scalarUn (s : State) (sd sa : SReg) (g : W64 → W64) : Out :=
  onCtx s fun f c => (c.rdS f.ent.word sa).bind fun x => .ok (c.putS f.ent.id sd (g x))

/-- A shift count: the low six bits. -/
def shCount (b : W64) : Nat := b.toNat % 64

/-- High half of the signed product. -/
def mulHigh (a b : W64) : W64 := BitVec.ofInt 64 (a.toInt * b.toInt / 2 ^ 64)

def minS (a b : W64) : W64 := if a.toInt ≤ b.toInt then a else b
def maxS (a b : W64) : W64 := if a.toInt ≤ b.toInt then b else a
def minU (a b : W64) : W64 := if a.toNat ≤ b.toNat then a else b
def maxU (a b : W64) : W64 := if a.toNat ≤ b.toNat then b else a

def execAdd (sd sa : SReg) (b : SrcB) (s : State) : Out := scalarBin s sd sa b (· + ·)
def execSub (sd sa : SReg) (b : SrcB) (s : State) : Out := scalarBin s sd sa b (· - ·)
def execMul (sd sa : SReg) (b : SrcB) (s : State) : Out := scalarBin s sd sa b (· * ·)
def execMulh (sd sa : SReg) (b : SrcB) (s : State) : Out := scalarBin s sd sa b mulHigh
def execAnd (sd sa : SReg) (b : SrcB) (s : State) : Out := scalarBin s sd sa b (· &&& ·)
def execOr (sd sa : SReg) (b : SrcB) (s : State) : Out := scalarBin s sd sa b (· ||| ·)
def execXor (sd sa : SReg) (b : SrcB) (s : State) : Out := scalarBin s sd sa b (· ^^^ ·)
def execShl (sd sa : SReg) (b : SrcB) (s : State) : Out := scalarBin s sd sa b fun x y => x <<< shCount y
def execShr (sd sa : SReg) (b : SrcB) (s : State) : Out := scalarBin s sd sa b fun x y => x >>> shCount y
def execSar (sd sa : SReg) (b : SrcB) (s : State) : Out := scalarBin s sd sa b fun x y => x.sshiftRight (shCount y)
def execMin (sd sa : SReg) (b : SrcB) (s : State) : Out := scalarBin s sd sa b minS
def execMax (sd sa : SReg) (b : SrcB) (s : State) : Out := scalarBin s sd sa b maxS
def execMinu (sd sa : SReg) (b : SrcB) (s : State) : Out := scalarBin s sd sa b minU
def execMaxu (sd sa : SReg) (b : SrcB) (s : State) : Out := scalarBin s sd sa b maxU

def execClz (sd sa : SReg) (s : State) : Out := scalarUn s sd sa fun x => BitVec.ofNat 64 (clzNat 64 x.toNat)
def execPopc (sd sa : SReg) (s : State) : Out := scalarUn s sd sa fun x => BitVec.ofNat 64 (popcNat 64 x.toNat)

/-! ## Moves and address registers (R89 to R92) -/

/-- The source of `mov` (R89). -/
def Ctx.rdMov (c : Ctx) (n : Nat) (src : MovSrc) : Eff W64 :=
  match src with
  | .reg sa => c.rdS n sa
  | .imm i => .ok (i.signExtend 64)
  | .extS e => .ok (extS64 e)
  | .extZ e => .ok (extZ64 e)
  | .nt j => c.rdNt n j

def execMov (sd : SReg) (src : MovSrc) (s : State) : Out :=
  onCtx s fun f c => (c.rdMov f.ent.word src).bind fun x => .ok (c.putS f.ent.id sd x)

/-- `sel` (R90): sa under a true predicate, else the extension, else the value of sd that the word sees. -/
def execSel (sd sa : SReg) (pc : PReg) (alt : Option Ext) (s : State) : Out :=
  onCtx s fun f c => (c.rdP f.ent.word pc).bind fun p =>
    (if p then c.rdS f.ent.word sa else match alt with | some e => .ok (extS64 e) | none => c.rdS f.ent.word sd).bind fun x =>
      .ok (c.putS f.ent.id sd x)

/-- The two halves that `aset` writes (R91). -/
def Ctx.asetHalves (c : Ctx) (n : Nat) (src : AsetSrc) : Eff (BitVec 24 × BitVec 24) :=
  match src with
  | .ext base stride => .ok (base, stride.signExtend 24)
  | .regs sa sb => (c.rdS n sa).bind fun x => (c.rdS n sb).bind fun y => .ok (x.setWidth 24, y.setWidth 24)

def execAset (aj : AReg) (src : AsetSrc) (s : State) : Out :=
  onCtx s fun f c => (c.asetHalves f.ent.word src).bind fun p => .ok (c.putA f.ent.id aj p.1 p.2)

/-- What `aget` reads of an address register (R92). -/
def agetVal (base stride : BitVec 24) : AgetSrc → W64
  | .disp d => (base + d.setWidth 24).setWidth 64
  | .ext e => (base + BitVec.ofInt 24 (extS e)).setWidth 64
  | .stride => stride.signExtend 64

def execAget (sd : SReg) (aj : AReg) (src : AgetSrc) (s : State) : Out :=
  onCtx s fun f c => (c.rdA f.ent.word aj).bind fun p => .ok (c.putS f.ent.id sd (agetVal p.1 p.2 src))

/-! ## Compares and predicate logic (R93, R94) -/

/-- An integer compare: the result to p(2j), its complement to p(2j+1). -/
def scalarCmp (s : State) (pd : PPair) (sa : SReg) (b : SrcB) (g : W64 → W64 → Bool) : Out :=
  onCtx s fun f c => (c.rdS f.ent.word sa).bind fun x => (c.rdB f.ent.word b).bind fun y =>
    .ok (c.putP f.ent.id pd (g x y))

def execCmpEq (pd : PPair) (sa : SReg) (b : SrcB) (s : State) : Out := scalarCmp s pd sa b fun x y => decide (x = y)
def execCmpNe (pd : PPair) (sa : SReg) (b : SrcB) (s : State) : Out := scalarCmp s pd sa b fun x y => decide (x ≠ y)
def execCmpLt (pd : PPair) (sa : SReg) (b : SrcB) (s : State) : Out :=
  scalarCmp s pd sa b fun x y => decide (x.toInt < y.toInt)
def execCmpLe (pd : PPair) (sa : SReg) (b : SrcB) (s : State) : Out :=
  scalarCmp s pd sa b fun x y => decide (x.toInt ≤ y.toInt)
def execCmpLtu (pd : PPair) (sa : SReg) (b : SrcB) (s : State) : Out :=
  scalarCmp s pd sa b fun x y => decide (x.toNat < y.toNat)
def execCmpLeu (pd : PPair) (sa : SReg) (b : SrcB) (s : State) : Out :=
  scalarCmp s pd sa b fun x y => decide (x.toNat ≤ y.toNat)

/-- Predicate logic (R94). -/
def predBin (s : State) (pd : PPair) (pa pb : PReg) (g : Bool → Bool → Bool) : Out :=
  onCtx s fun f c => (c.rdP f.ent.word pa).bind fun x => (c.rdP f.ent.word pb).bind fun y =>
    .ok (c.putP f.ent.id pd (g x y))

def execPand (pd : PPair) (pa pb : PReg) (s : State) : Out := predBin s pd pa pb (· && ·)
def execPor (pd : PPair) (pa pb : PReg) (s : State) : Out := predBin s pd pa pb (· || ·)

/-! ## Scalar floating point (R95, R96) -/

/-- A floating instruction that rounds: `g` takes the environment, the draw and the operands. -/
def scalarFp (s : State) (sd sa sb : SReg) (g : FpEnv → Nat → Nat → Nat → Nat → Nat × Flags) (readsSd : Bool) : Out :=
  onCtx s fun f c => (c.rdEnv f.ent.word).bind fun env =>
    (c.rdF f.ent.word sa).bind fun x => (c.rdF f.ent.word sb).bind fun y =>
    (if readsSd then c.rdF f.ent.word sd else .ok 0).bind fun d =>
    (c.drawsFrom f env.stoch).bind fun l =>
      let r := g env (oneDraw env.stoch l) x y d
      .ok ((c.putS f.ent.id sd (BitVec.ofNat 64 r.1)).flagged f r.2 (b2n env.stoch))

/-- `fmin` and `fmax`: no rounding and no draw. -/
def scalarMinMax (s : State) (sd sa sb : SReg) (mx : Bool) : Out :=
  onCtx s fun f c => (c.rdEnv f.ent.word).bind fun env =>
    (c.rdF f.ent.word sa).bind fun x => (c.rdF f.ent.word sb).bind fun y =>
      let r := fpMinMax mx .f32 env x y
      .ok ((c.putS f.ent.id sd (BitVec.ofNat 64 r.1)).raise f.ent.id r.2)

def execFadd (sd sa sb : SReg) (s : State) : Out := scalarFp s sd sa sb (fun e r x y _ => fpAdd .f32 e r x y) false
def execFsub (sd sa sb : SReg) (s : State) : Out := scalarFp s sd sa sb (fun e r x y _ => fpSub .f32 e r x y) false
def execFmul (sd sa sb : SReg) (s : State) : Out := scalarFp s sd sa sb (fun e r x y _ => fpMul .f32 e r x y) false
def execFfma (sd sa sb : SReg) (s : State) : Out := scalarFp s sd sa sb (fun e r x y d => fpFma .f32 e r x y d) true
def execFmin (sd sa sb : SReg) (s : State) : Out := scalarMinMax s sd sa sb false
def execFmax (sd sa sb : SReg) (s : State) : Out := scalarMinMax s sd sa sb true

/-- A floating compare (R96), by the condition codes of R156: eq 0, lt 2, le 3. -/
def scalarFcmp (s : State) (pd : PPair) (sa sb : SReg) (cond : Nat) : Out :=
  onCtx s fun f c => (c.rdEnv f.ent.word).bind fun env =>
    (c.rdF f.ent.word sa).bind fun x => (c.rdF f.ent.word sb).bind fun y =>
      let r := fpCond cond (ElemFmt.f32.dec env.ftz x) (ElemFmt.f32.dec env.ftz y)
      .ok ((c.putP f.ent.id pd r.1).raise f.ent.id (flagIf r.2 fNV))

def execFcmpEq (pd : PPair) (sa sb : SReg) (s : State) : Out := scalarFcmp s pd sa sb 0
def execFcmpLt (pd : PPair) (sa sb : SReg) (s : State) : Out := scalarFcmp s pd sa sb 2
def execFcmpLe (pd : PPair) (sa sb : SReg) (s : State) : Out := scalarFcmp s pd sa sb 3

end Sys2Proof.Machine
end

