-- ==== Sys2Proof/Machine/Sort.lean ====
section
/-!
DEFINITION. The meanings of the K slot's sort stage (R169 to R172).
-/

namespace Sys2Proof.Machine

/-- Order of two keys of the tag: −1, 0 or 1. Every NaN equals every other and stands above +∞ (R169). FTZ does not flush
subnormal keys. DESIGN CHOICE (log 123). -/
def keyCmp (t : Tag) (a b : W32) : Int :=
  if t = tF32 then
    let x := fmt32.decode a.toNat
    let y := fmt32.decode b.toNat
    if x.isNan then (if y.isNan then 0 else 1) else if y.isNan then -1 else x.cmp y
  else if a.toInt < b.toInt then -1 else if a.toInt = b.toInt then 0 else 1

/-- Whether element (ka, pa) precedes (kb, pb): equal keys by the smaller payload (R169). -/
def precedes (t : Tag) (asc : Bool) (ka pa kb pb : W32) : Bool :=
  let c := keyCmp t ka kb
  decide (if asc then c < 0 else 0 < c) || (decide (c = 0) && decide (pa.toNat < pb.toNat))

/-- One compare-exchange stage on a pair (R171): lane by lane, its partner's element where the two change places. -/
def ceStage (t : Tag) (op : Bool) (dist flip : Nat) (ks ps : VBits) : VBits × VBits :=
  let swaps : Nat → Bool := fun l =>
    let h := l + 2 ^ dist
    let asc := op != (decide (flip ≠ 0) && bitAt l flip)
    precedes t asc (lane ks h) (lane ps h) (lane ks l) (lane ps l)
  let src : Nat → Nat := fun l =>
    if bitAt l dist then (if swaps (l - 2 ^ dist) then l - 2 ^ dist else l)
    else if swaps l then l + 2 ^ dist else l
  (ofLanes ((List.range 64).map fun l => lane ks (src l)), ofLanes ((List.range 64).map fun l => lane ps (src l)))

/-- A compare-exchange instruction; `asc` is `srt.ce.a`. -/
def sortCe (s : State) (asc : Bool) (vk : BitVec 4) (dist flip : BitVec 3) : Out :=
  onCtx s fun f c =>
    let n := f.ent.word
    (c.rdV n (vk ++ 0#1)).bind fun ks => (c.rdV n (vk ++ 1#1)).bind fun ps => (c.rdVt n (vk ++ 0#1)).bind fun t =>
      let r := ceStage t asc dist.toNat flip.toNat ks ps
      .ok ((c.putV f.ent.id (vk ++ 0#1) r.1).putV f.ent.id (vk ++ 1#1) r.2)

def execSrtIota (vd : VReg) (k : BitVec 11) (s : State) : Out :=
  onCtx s fun f c =>
    .ok (c.putV f.ent.id vd (ofLanes ((List.range 64).map fun j => BitVec.ofNat 32 (64 * k.toNat + j))))

def execSrtCeA (vk : BitVec 4) (dist flip : BitVec 3) (s : State) : Out := sortCe s true vk dist flip
def execSrtCeD (vk : BitVec 4) (dist flip : BitVec 3) (s : State) : Out := sortCe s false vk dist flip

/-- `srt.top` (R172): where pair vb's element comes first in descending order, the two change places. -/
def execSrtTop (va vb : BitVec 4) (s : State) : Out :=
  onCtx s fun f c =>
    let n := f.ent.word
    (c.rdV n (va ++ 0#1)).bind fun ka => (c.rdV n (va ++ 1#1)).bind fun pa =>
    (c.rdV n (vb ++ 0#1)).bind fun kb => (c.rdV n (vb ++ 1#1)).bind fun pb => (c.rdVt n (va ++ 0#1)).bind fun t =>
      let sw : Nat → Bool := fun j => precedes t false (lane kb j) (lane pb j) (lane ka j) (lane pa j)
      let pick : VBits → VBits → VBits := fun x y =>
        ofLanes ((List.range 64).map fun j => if sw j then lane y j else lane x j)
      let c1 := (c.putV f.ent.id (va ++ 0#1) (pick ka kb)).putV f.ent.id (va ++ 1#1) (pick pa pb)
      .ok ((c1.putV f.ent.id (vb ++ 0#1) (pick kb ka)).putV f.ent.id (vb ++ 1#1) (pick pb pa))

end Sys2Proof.Machine
end

