-- ==== Sys2Proof/Machine/Tolerance.lean ====
section
/-!
DEFINITION. The tolerance engines (R258, R264 to R271): demands shared backward through a demand graph, and the re-dispatch of
what a tightened demand finds short.
-/

namespace Sys2Proof.Machine

/-! ## The graph of a demand -/

/-- The record that a producer names: its key and itself. Where two nodes name one record, a later entry of it stands behind. -/
def State.recOf (s : State) (g : DGraph) (n : DNode) : Option (Nat × LRec) :=
  List.find? (fun (p : Nat × LRec) => decide (p.2.graph = g.graph) && decide (p.2.index = n.record)) s.recs

/-- Whether a producer's record has completed, each of its entries (R271). -/
def State.recDone (s : State) (g : DGraph) (n : DNode) : Bool :=
  let mine := s.recs.filter fun (p : Nat × LRec) => decide (p.2.graph = g.graph) && decide (p.2.index = n.record)
  !mine.isEmpty && mine.all fun (p : Nat × LRec) => p.2.done

def State.setNodes (s : State) (g : DGraph) (ns : List DNode) : State :=
  { s with graphs := s.graphs.map fun x => if x.graph = g.graph ∧ x.va = g.va then { x with nodes := ns } else x }

/-- Where a demand goes: the engine that holds the graph, or the issuer's own where no graph is held (R264). -/
def State.demEngine (s : State) (k key : Nat) : Nat := match s.graphOf key with | some g => g.cluster | none => ctxCluster k

/-- Released demands that have not yet reached an engine, for engine `cl`. -/
def State.newDemands (s : State) (cl : Nat) : List DemReq :=
  (s.ctxs.map fun (p : Nat × Ctx) =>
    (p.2.ops.filter fun o => decide (o.kind = .demand ∨ o.kind = .redem) && o.released && decide (o.phase = 0) && decide (s.demEngine p.1 o.c = cl)).map
      fun o => (⟨p.1, o.id, decide (o.kind = .redem), o.addr, o.b, o.c⟩ : DemReq)).flatten

/-- They join the engine's queue. -/
def State.takeDemands (s : State) (cl : Nat) : State :=
  let new := s.newDemands cl
  let s := new.foldl (fun (s : State) d => s.setCtx d.ctx ((s.ctx d.ctx).updOp d.op fun o => { o with phase := 1 })) s
  s.setCluster cl { s.cluster cl with demq := (s.cluster cl).demq ++ new }

/-- The demand ends with its token (R219). -/
def State.endDemand (s : State) (cl : Nat) (d : DemReq) (code nred grade : Nat) : State :=
  let s := s.setCluster cl { s.cluster cl with demq := (s.cluster cl).demq.erase d }
  s.setCtx d.ctx (((s.ctx d.ctx).putTok d.op (token code (nred % 2 ^ 16 * 2 ^ 32 + grade))).dropOp d.op)

/-! ## Re-demands (R268 to R271) -/

/-- A byte that the engine reads afresh; one that it cannot read counts as 0. -/
def State.gradeByteAt (s : State) (ext : ExtBytes) (vf va : Nat) : Nat := match s.readVa ext vf va 1 with | .ok bs => rfld bs 0 1 | .error _ => 0

/-- FLAGS.RET of a node. -/
def State.retained (s : State) (ext : ExtBytes) (g : DGraph) (m : Nat) : Bool := bitAt (s.gradeByteAt ext g.vf (g.va + 64 + 128 * m + 1)) 1

/-- The short tiles of a producer by its recorded grades. -/
def State.lowTiles (s : State) (ext : ExtBytes) (g : DGraph) (n : DNode) (total : Nat) : List Nat :=
  match n.p with
  | none => []
  | some p => (List.range total).filter fun t => decide (s.gradeByteAt ext g.vf (n.gva + 64 * t + 60) < p)

/-- Short tiles node by node, in ascending order (R269). -/
def State.shorts (s : State) (ext : ExtBytes) (g : DGraph) (ns : List DNode) (exam : List Nat) : AMap (List Nat) :=
  (List.range ns.length).foldl (fun (acc : AMap (List Nat)) m =>
    match ns[m]? with
    | none => acc
    | some n =>
      if !exam.elem m ∨ n.kind ≠ 1 then acc
      else
        let total := ((s.recOf g n).map fun (p : Nat × LRec) => p.2.x * p.2.y * p.2.z).getD 0
        let ts := if n.ins.any fun i => !(acc.get [] i.1).isEmpty then List.range total else s.lowTiles ext g n total
        if ts.isEmpty then acc else AMap.set acc m ts) []

/-- Whether a `redem` is infeasible (R269). -/
def State.infeasible (s : State) (ext : ExtBytes) (g : DGraph) (ns : List DNode) (reached : List Nat) (sh : AMap (List Nat)) : Bool :=
  (sh.any fun (p : Nat × List Nat) => match ns[p.1]? with
    | some n => n.ins.any fun i => !s.retained ext g i.1
    | none => false) ||
  (reached.any fun m => match ns[m]? with
    | some n => decide (n.kind = 2) && decide (n.lgrade < n.d.getD 0)
    | none => false)

/-- A short node's record re-entered as tasks (R270), and the keys under which short nodes stand. A second node that names the
record has an entry of its own. -/
def State.reenter (g : DGraph) (ns : List DNode) (d : DemReq) (st : State × AMap Nat) (m : Nat) (ts : List Nat) : State × AMap Nat :=
  let s := st.1
  match ns[m]? with
  | none => st
  | some n => match s.recOf g n with
    | none => st
    | some (key0, r) =>
      let again := st.2.any fun (p : Nat × Nat) => decide (p.2 = key0)
      let key := if again then s.nextRec else key0
      let deps := n.ins.filterMap fun i => (st.2.find? i.1)
      let left : List (Nat × Nat) := if bitAt r.flags 1 then ts.map (fun t => (t, t + 1)) else []
      let r : LRec := { r with queued := false, done := false, completing := false, dealt := 0, live := 0, failed := 0, dep := deps,
                               retiles := some ts, counter := left, redem := some (d.ctx, d.op), node := some m }
      ({ s with recs := AMap.set s.recs key r, nextRec := if again then s.nextRec + 1 else s.nextRec }, AMap.set st.2 m key)

/-- A feasible `redem` is installed and its short nodes run again; without any, its token is written at once. -/
def State.redispatch (s : State) (cl : Nat) (g : DGraph) (ns : List DNode) (sh : AMap (List Nat)) (d : DemReq) (grade : Nat) : State :=
  let s := s.setNodes g ns
  let s := (sh.foldl (fun st (p : Nat × List Nat) => State.reenter g ns d st p.1 p.2) (s, [])).1
  if sh.isEmpty then s.endDemand cl d 0 0 grade
  else
    let s := s.setCluster cl { s.cluster cl with demq := (s.cluster cl).demq.erase d }
    s.setCtx d.ctx ((s.ctx d.ctx).updOp d.op fun o => { o with phase := 2, code := sh.length, icnt := grade })

/-- One demand served; none where it has to wait. -/
def State.serveDemand (s : State) (cl : Nat) (ext : ExtBytes) (d : DemReq) : Option State :=
  match s.graphOf d.record with
  | none => some (s.endDemand cl d 0x02 0 0)
  | some g => match g.nodes[d.node]? with
    | none => some (s.endDemand cl d 0x02 0 0)
    | some n =>
      if n.d.any fun x => decide (d.grade ≤ x) then some (s.endDemand cl d 0x03 0 (n.d.getD 0))
      else
        let (ns, reached) := walkDemand (g.nodes.length + 1) (g.nodes, []) d.node d.grade
        if !d.redem then some ((s.setNodes g ns).endDemand cl d 0 0 d.grade)
        else if reached.any fun m => match ns[m]? with
            | some x => decide (x.kind = 1) && !s.recDone g x
            | none => false then none
        else
          let exam := reached ++ (reached.map fun m => match ns[m]? with | some x => x.ins.map (·.1) | none => []).flatten
          let sh := s.shorts ext g ns exam
          if s.infeasible ext g ns reached sh then some (s.endDemand cl d 0x01 0 (n.d.getD 0))
          else some (s.redispatch cl g ns sh d d.grade)

/-- The first of a queue's demands that may be served: the demands of one graph are served in order (R267). -/
def State.serveFirst (s : State) (cl : Nat) (ext : ExtBytes) : List DemReq → List (Option (Nat × Nat)) → State
  | [], _ => s
  | d :: rest, busy =>
    let g := (s.graphOf d.record).map fun g => (g.graph, g.va)
    if busy.elem g then s.serveFirst cl ext rest busy
    else match s.serveDemand cl ext d with
      | some s => s
      | none => s.serveFirst cl ext rest (busy ++ [g])

/-- Where the engine of a cluster reads the nodes and the grade records of the graphs that it holds. -/
def State.gradePas (s : State) (cl : Nat) : List Nat :=
  if (s.cluster cl).demq.isEmpty then []
  else ((s.graphs.filter fun g => decide (g.cluster = cl)).map fun g =>
    s.vaPas g.vf g.va 128 ++ (g.nodes.map fun n => s.vaPas g.vf n.gva 64).flatten).flatten

def execToleranceDemandServe (cl : Nat) (ext : ExtBytes) (s : State) : Out :=
  let s := s.takeDemands cl
  whenAwake s (s.gradePas cl) fun s => .next (s.serveFirst cl ext (s.cluster cl).demq [])

end Sys2Proof.Machine
end

