-- ==== Sys2Proof/Machine/Dispatch.lean ====
section
/-!
DEFINITION. The dispatch of every instruction and event to its meaning, one arm each.
-/

namespace Sys2Proof.Machine

def exec (i : Instr) (s : State) : Host.Outcome State Fault Refusal :=
  match i with
  | .nop => Sys2Proof.Machine.execNop s
  | .add sd sa b => Sys2Proof.Machine.execAdd sd sa b s
  | .sub sd sa b => Sys2Proof.Machine.execSub sd sa b s
  | .mul sd sa b => Sys2Proof.Machine.execMul sd sa b s
  | .mulh sd sa b => Sys2Proof.Machine.execMulh sd sa b s
  | .and sd sa b => Sys2Proof.Machine.execAnd sd sa b s
  | .or sd sa b => Sys2Proof.Machine.execOr sd sa b s
  | .xor sd sa b => Sys2Proof.Machine.execXor sd sa b s
  | .shl sd sa b => Sys2Proof.Machine.execShl sd sa b s
  | .shr sd sa b => Sys2Proof.Machine.execShr sd sa b s
  | .sar sd sa b => Sys2Proof.Machine.execSar sd sa b s
  | .min sd sa b => Sys2Proof.Machine.execMin sd sa b s
  | .max sd sa b => Sys2Proof.Machine.execMax sd sa b s
  | .minu sd sa b => Sys2Proof.Machine.execMinu sd sa b s
  | .maxu sd sa b => Sys2Proof.Machine.execMaxu sd sa b s
  | .clz sd sa => Sys2Proof.Machine.execClz sd sa s
  | .popc sd sa => Sys2Proof.Machine.execPopc sd sa s
  | .mov sd src => Sys2Proof.Machine.execMov sd src s
  | .sel sd sa pc alt => Sys2Proof.Machine.execSel sd sa pc alt s
  | .aset aj src => Sys2Proof.Machine.execAset aj src s
  | .aget sd aj src => Sys2Proof.Machine.execAget sd aj src s
  | .cmpEq pd sa b => Sys2Proof.Machine.execCmpEq pd sa b s
  | .cmpNe pd sa b => Sys2Proof.Machine.execCmpNe pd sa b s
  | .cmpLt pd sa b => Sys2Proof.Machine.execCmpLt pd sa b s
  | .cmpLe pd sa b => Sys2Proof.Machine.execCmpLe pd sa b s
  | .cmpLtu pd sa b => Sys2Proof.Machine.execCmpLtu pd sa b s
  | .cmpLeu pd sa b => Sys2Proof.Machine.execCmpLeu pd sa b s
  | .pand pd pa pb => Sys2Proof.Machine.execPand pd pa pb s
  | .por pd pa pb => Sys2Proof.Machine.execPor pd pa pb s
  | .fadd sd sa sb => Sys2Proof.Machine.execFadd sd sa sb s
  | .fsub sd sa sb => Sys2Proof.Machine.execFsub sd sa sb s
  | .fmul sd sa sb => Sys2Proof.Machine.execFmul sd sa sb s
  | .ffma sd sa sb => Sys2Proof.Machine.execFfma sd sa sb s
  | .fmin sd sa sb => Sys2Proof.Machine.execFmin sd sa sb s
  | .fmax sd sa sb => Sys2Proof.Machine.execFmax sd sa sb s
  | .fcmpEq pd sa sb => Sys2Proof.Machine.execFcmpEq pd sa sb s
  | .fcmpLt pd sa sb => Sys2Proof.Machine.execFcmpLt pd sa sb s
  | .fcmpLe pd sa sb => Sys2Proof.Machine.execFcmpLe pd sa sb s
  | .br off => Sys2Proof.Machine.execBr off s
  | .brx sa => Sys2Proof.Machine.execBrx sa s
  | .call off => Sys2Proof.Machine.execCall off s
  | .ret => Sys2Proof.Machine.execRet s
  | .loop frame cnt last => Sys2Proof.Machine.execLoop frame cnt last s
  | .loopS frame sa last => Sys2Proof.Machine.execLoopS frame sa last s
  | .yieldT sa => Sys2Proof.Machine.execYieldT sa s
  | .yieldB sa => Sys2Proof.Machine.execYieldB sa s
  | .spec off => Sys2Proof.Machine.execSpec off s
  | .specCommit pc => Sys2Proof.Machine.execSpecCommit pc s
  | .specAbort => Sys2Proof.Machine.execSpecAbort s
  | .exit => Sys2Proof.Machine.execExit s
  | .trap imm => Sys2Proof.Machine.execTrap imm s
  | .rti next => Sys2Proof.Machine.execRti next s
  | .csrd sd csr => Sys2Proof.Machine.execCsrd sd csr s
  | .csrw csr v => Sys2Proof.Machine.execCsrw csr v s
  | .csrs csr v => Sys2Proof.Machine.execCsrs csr v s
  | .csrc csr v => Sys2Proof.Machine.execCsrc csr v s
  | .launch sd sa n => Sys2Proof.Machine.execLaunch sd sa n s
  | .watch sd sa sb timeout => Sys2Proof.Machine.execWatch sd sa sb timeout s
  | .ntreq => Sys2Proof.Machine.execNtreq s
  | .sctl aj off => Sys2Proof.Machine.execSctl aj off s
  | .sctlEnt k sa => Sys2Proof.Machine.execSctlEnt k sa s
  | .srtIota vd c => Sys2Proof.Machine.execSrtIota vd c s
  | .srtCeA vk dist flip => Sys2Proof.Machine.execSrtCeA vk dist flip s
  | .srtCeD vk dist flip => Sys2Proof.Machine.execSrtCeD vk dist flip s
  | .srtTop va vb => Sys2Proof.Machine.execSrtTop va vb s
  | .ptRd sd sa => Sys2Proof.Machine.execPtRd sd sa s
  | .ptWr sa sb => Sys2Proof.Machine.execPtWr sa sb s
  | .ptUpd sa pc => Sys2Proof.Machine.execPtUpd sa pc s
  | .ptClr sa sb => Sys2Proof.Machine.execPtClr sa sb s
  | .demand sd sa sb => Sys2Proof.Machine.execDemand sd sa sb s
  | .redem sd sa sb => Sys2Proof.Machine.execRedem sd sa sb s
  | .tolShare sd sa sb => Sys2Proof.Machine.execTolShare sd sa sb s
  | .tolMin sd sa cls => Sys2Proof.Machine.execTolMin sd sa cls s
  | .itrDef it sa => Sys2Proof.Machine.execItrDef it sa s
  | .itrFit sd it => Sys2Proof.Machine.execItrFit sd it s
  | .stGrade aj sa adj off => Sys2Proof.Machine.execStGrade aj sa adj off s
  | .ldB sd aj off => Sys2Proof.Machine.execLdB sd aj off s
  | .ldBu sd aj off => Sys2Proof.Machine.execLdBu sd aj off s
  | .ldH sd aj off => Sys2Proof.Machine.execLdH sd aj off s
  | .ldHu sd aj off => Sys2Proof.Machine.execLdHu sd aj off s
  | .ldW sd aj off => Sys2Proof.Machine.execLdW sd aj off s
  | .ldWu sd aj off => Sys2Proof.Machine.execLdWu sd aj off s
  | .ldD sd aj off => Sys2Proof.Machine.execLdD sd aj off s
  | .stB sd aj off => Sys2Proof.Machine.execStB sd aj off s
  | .stH sd aj off => Sys2Proof.Machine.execStH sd aj off s
  | .stW sd aj off => Sys2Proof.Machine.execStW sd aj off s
  | .stD sd aj off => Sys2Proof.Machine.execStD sd aj off s
  | .ldVF32 vd aj off => Sys2Proof.Machine.execLdVF32 vd aj off s
  | .ldVF16 vd aj off => Sys2Proof.Machine.execLdVF16 vd aj off s
  | .ldVBf16 vd aj off => Sys2Proof.Machine.execLdVBf16 vd aj off s
  | .ldVE4m3 vd aj off => Sys2Proof.Machine.execLdVE4m3 vd aj off s
  | .ldVE5m2 vd aj off => Sys2Proof.Machine.execLdVE5m2 vd aj off s
  | .ldVI8 vd aj off => Sys2Proof.Machine.execLdVI8 vd aj off s
  | .ldVI32 vd aj off => Sys2Proof.Machine.execLdVI32 vd aj off s
  | .ldVSx7 vd aj off => Sys2Proof.Machine.execLdVSx7 vd aj off s
  | .ldVSx4 vd aj off => Sys2Proof.Machine.execLdVSx4 vd aj off s
  | .ldVSx2 vd aj off => Sys2Proof.Machine.execLdVSx2 vd aj off s
  | .ldVAq8 vd aj off => Sys2Proof.Machine.execLdVAq8 vd aj off s
  | .ldVBcast vd aj t off => Sys2Proof.Machine.execLdVBcast vd aj t off s
  | .ldVx vd aj vi i32 mk disp => Sys2Proof.Machine.execLdVx vd aj vi i32 mk disp s
  | .stVx vs aj vi mk disp => Sys2Proof.Machine.execStVx vs aj vi mk disp s
  | .stV vs aj mk off => Sys2Proof.Machine.execStV vs aj mk off s
  | .stVCmp vs aj mk off => Sys2Proof.Machine.execStVCmp vs aj mk off s
  | .ldM mk aj off => Sys2Proof.Machine.execLdM mk aj off s
  | .stM mk aj off => Sys2Proof.Machine.execStM mk aj off s
  | .vaddF32 ops => Sys2Proof.Machine.execVaddF32 ops s
  | .vsubF32 ops => Sys2Proof.Machine.execVsubF32 ops s
  | .vmulF32 ops => Sys2Proof.Machine.execVmulF32 ops s
  | .vfmaF32 ops => Sys2Proof.Machine.execVfmaF32 ops s
  | .vminF32 ops => Sys2Proof.Machine.execVminF32 ops s
  | .vmaxF32 ops => Sys2Proof.Machine.execVmaxF32 ops s
  | .vabsF32 ops => Sys2Proof.Machine.execVabsF32 ops s
  | .vnegF32 ops => Sys2Proof.Machine.execVnegF32 ops s
  | .vaddBf16 ops => Sys2Proof.Machine.execVaddBf16 ops s
  | .vsubBf16 ops => Sys2Proof.Machine.execVsubBf16 ops s
  | .vmulBf16 ops => Sys2Proof.Machine.execVmulBf16 ops s
  | .vfmaBf16 ops => Sys2Proof.Machine.execVfmaBf16 ops s
  | .vminBf16 ops => Sys2Proof.Machine.execVminBf16 ops s
  | .vmaxBf16 ops => Sys2Proof.Machine.execVmaxBf16 ops s
  | .vabsBf16 ops => Sys2Proof.Machine.execVabsBf16 ops s
  | .vnegBf16 ops => Sys2Proof.Machine.execVnegBf16 ops s
  | .vaddI32 ops => Sys2Proof.Machine.execVaddI32 ops s
  | .vsubI32 ops => Sys2Proof.Machine.execVsubI32 ops s
  | .vmulI32 ops => Sys2Proof.Machine.execVmulI32 ops s
  | .vminI32 ops => Sys2Proof.Machine.execVminI32 ops s
  | .vmaxI32 ops => Sys2Proof.Machine.execVmaxI32 ops s
  | .vand ops => Sys2Proof.Machine.execVand ops s
  | .vor ops => Sys2Proof.Machine.execVor ops s
  | .vxor ops => Sys2Proof.Machine.execVxor ops s
  | .vshl ops => Sys2Proof.Machine.execVshl ops s
  | .vshr ops => Sys2Proof.Machine.execVshr ops s
  | .vsar ops => Sys2Proof.Machine.execVsar ops s
  | .vcmpF32 cond md va vb => Sys2Proof.Machine.execVcmpF32 cond md va vb s
  | .vcmpBf16 cond md va vb => Sys2Proof.Machine.execVcmpBf16 cond md va vb s
  | .vcmpI32 cond md va vb => Sys2Proof.Machine.execVcmpI32 cond md va vb s
  | .vrcpF32 ops => Sys2Proof.Machine.execVrcpF32 ops s
  | .vrsqrtF32 ops => Sys2Proof.Machine.execVrsqrtF32 ops s
  | .vexp2F32 ops => Sys2Proof.Machine.execVexp2F32 ops s
  | .vlog2F32 ops => Sys2Proof.Machine.execVlog2F32 ops s
  | .vredAddF32 sd va mk => Sys2Proof.Machine.execVredAddF32 sd va mk s
  | .vredMaxF32 sd va mk => Sys2Proof.Machine.execVredMaxF32 sd va mk s
  | .vredAddI32 sd va mk => Sys2Proof.Machine.execVredAddI32 sd va mk s
  | .vperm vd va vi => Sys2Proof.Machine.execVperm vd va vi s
  | .vbcast vd va n => Sys2Proof.Machine.execVbcast vd va n s
  | .vrot vd va n => Sys2Proof.Machine.execVrot vd va n s
  | .vsel vd va vb mk => Sys2Proof.Machine.execVsel vd va vb mk s
  | .mand md ma mb => Sys2Proof.Machine.execMand md ma mb s
  | .mor md ma mb => Sys2Proof.Machine.execMor md ma mb s
  | .mxor md ma mb => Sys2Proof.Machine.execMxor md ma mb s
  | .mandn md ma mb => Sys2Proof.Machine.execMandn md ma mb s
  | .mpop sd ma => Sys2Proof.Machine.execMpop sd ma s
  | .vsplatF32 vd src => Sys2Proof.Machine.execVsplatF32 vd src s
  | .vsplatI32 vd src => Sys2Proof.Machine.execVsplatI32 vd src s
  | .vmov vd va mk => Sys2Proof.Machine.execVmov vd va mk s
  | .cvt vd va t part => Sys2Proof.Machine.execCvt vd va t part s
  | .cvtFit vd va cls k => Sys2Proof.Machine.execCvtFit vd va cls k s
  | .cvtSx vd va fmt k => Sys2Proof.Machine.execCvtSx vd va fmt k s
  | .cvtAq8 vd va => Sys2Proof.Machine.execCvtAq8 vd va s
  | .mxPermit sd lvl => Sys2Proof.Machine.execMxPermit sd lvl s
  | .mxRel => Sys2Proof.Machine.execMxRel s
  | .mxCfg src => Sys2Proof.Machine.execMxCfg src s
  | .mxLd wd aj fmt disp => Sys2Proof.Machine.execMxLd wd aj fmt disp s
  | .mxLdT wd aj fmt disp => Sys2Proof.Machine.execMxLdT wd aj fmt disp s
  | .mxLdr wd aj fmt kx t disp => Sys2Proof.Machine.execMxLdr wd aj fmt kx t disp s
  | .mxWsel wd ws t => Sys2Proof.Machine.execMxWsel wd ws t s
  | .mxCsum ws => Sys2Proof.Machine.execMxCsum ws s
  | .mxRun acc w op st => Sys2Proof.Machine.execMxRun acc w op st s
  | .mxRunSet acc w op st => Sys2Proof.Machine.execMxRunSet acc w op st s
  | .mxClr acc ninf => Sys2Proof.Machine.execMxClr acc ninf s
  | .mxDrain st acc cvt strm rows => Sys2Proof.Machine.execMxDrain st acc cvt strm rows s
  | .fdA aj fk fmt => Sys2Proof.Machine.execFdA aj fk fmt s
  | .fdAMc aj fk fmt kx members => Sys2Proof.Machine.execFdAMc aj fk fmt kx members s
  | .fdAr aj fk fmt kx => Sys2Proof.Machine.execFdAr aj fk fmt kx s
  | .fdZ => Sys2Proof.Machine.execFdZ s
  | .fdWin aj ak fk fmt wl => Sys2Proof.Machine.execFdWin aj ak fk fmt wl s
  | .fdTap aj ak fk fmt wl => Sys2Proof.Machine.execFdTap aj ak fk fmt wl s
  | .fdOff fk src => Sys2Proof.Machine.execFdOff fk src s
  | .fdInc fk src => Sys2Proof.Machine.execFdInc fk src s
  | .cpIn st ch rc => Sys2Proof.Machine.execCpIn st ch rc s
  | .cpOut st ch rc => Sys2Proof.Machine.execCpOut st ch rc s
  | .cpPf st ch rc => Sys2Proof.Machine.execCpPf st ch rc s
  | .cpGat st ch rc => Sys2Proof.Machine.execCpGat st ch rc s
  | .cpCst st ch rc => Sys2Proof.Machine.execCpCst st ch rc s
  | .accLd st ch acc rc => Sys2Proof.Machine.execAccLd st ch acc rc s
  | .accSt st ch acc rc => Sys2Proof.Machine.execAccSt st ch acc rc s
  | .gld sd sa size sx disp => Sys2Proof.Machine.execGld sd sa size sx disp s
  | .gst sb sa size disp => Sys2Proof.Machine.execGst sb sa size disp s
  | .atAdd sd sa sb w disp => Sys2Proof.Machine.execAtAdd sd sa sb w disp s
  | .atFadd sd sa sb disp => Sys2Proof.Machine.execAtFadd sd sa sb disp s
  | .atMin sd sa sb w disp => Sys2Proof.Machine.execAtMin sd sa sb w disp s
  | .atMax sd sa sb w disp => Sys2Proof.Machine.execAtMax sd sa sb w disp s
  | .atFmin sd sa sb disp => Sys2Proof.Machine.execAtFmin sd sa sb disp s
  | .atFmax sd sa sb disp => Sys2Proof.Machine.execAtFmax sd sa sb disp s
  | .atAnd sd sa sb w disp => Sys2Proof.Machine.execAtAnd sd sa sb w disp s
  | .atOr sd sa sb w disp => Sys2Proof.Machine.execAtOr sd sa sb w disp s
  | .atXor sd sa sb w disp => Sys2Proof.Machine.execAtXor sd sa sb w disp s
  | .atSwap sd sa sb w disp => Sys2Proof.Machine.execAtSwap sd sa sb w disp s
  | .atCas sd sa sb w disp => Sys2Proof.Machine.execAtCas sd sa sb w disp s
  | .barInit sa n => Sys2Proof.Machine.execBarInit sa n s
  | .barArr sd sa m => Sys2Proof.Machine.execBarArr sd sa m s
  | .drain scope loads stores copies tiles => Sys2Proof.Machine.execDrain scope loads stores copies tiles s
  | .qpoint => Sys2Proof.Machine.execQpoint s
  | .anchor hj sd cid => Sys2Proof.Machine.execAnchor hj sd cid s
  | .hznRel hj cid => Sys2Proof.Machine.execHznRel hj cid s
  | .cld sd sa hj size sx disp => Sys2Proof.Machine.execCld sd sa hj size sx disp s
  | .publish sd sa ver => Sys2Proof.Machine.execPublish sd sa ver s
  | .gred st ch rc => Sys2Proof.Machine.execGred st ch rc s
  | .xdisp st ch q rc => Sys2Proof.Machine.execXdisp st ch q rc s
  | .resolve st ch k rc => Sys2Proof.Machine.execResolve st ch k rc s
  | .send vs sa => Sys2Proof.Machine.execSend vs sa s
  | .sendQ vs sa => Sys2Proof.Machine.execSendQ vs sa s
  | .sendMc vs sa => Sys2Proof.Machine.execSendMc vs sa s
  | .recv vd qj => Sys2Proof.Machine.execRecv vd qj s
  | .recvAdd vd qj => Sys2Proof.Machine.execRecvAdd vd qj s
  | .recvMax vd qj => Sys2Proof.Machine.execRecvMax vd qj s
  | .collStart sd sa gs => Sys2Proof.Machine.execCollStart sd sa gs s
  | .collAbort sd => Sys2Proof.Machine.execCollAbort sd s
  | .wordDispatch core => Sys2Proof.Machine.execWordDispatch core s
  | .markCommit ctx => Sys2Proof.Machine.execMarkCommit ctx s
  | .specForcedAbort ctx => Sys2Proof.Machine.execSpecForcedAbort ctx s
  | .watchFire ctx => Sys2Proof.Machine.execWatchFire ctx s
  | .watchTimeout ctx => Sys2Proof.Machine.execWatchTimeout ctx s
  | .shootdownStart cluster => Sys2Proof.Machine.execShootdownStart cluster s
  | .tileCounterServe cluster => Sys2Proof.Machine.execTileCounterServe cluster s
  | .nextTileDelivery ctx => Sys2Proof.Machine.execNextTileDelivery ctx s
  | .predictorTableApply cluster => Sys2Proof.Machine.execPredictorTableApply cluster s
  | .toleranceDemandServe cluster ext => Sys2Proof.Machine.execToleranceDemandServe cluster ext s
  | .permitGrant die => Sys2Proof.Machine.execPermitGrant die s
  | .fabricBurstPermit => Sys2Proof.Machine.execFabricBurstPermit s
  | .passRowWrite core => Sys2Proof.Machine.execPassRowWrite core s
  | .mcRendezvousClose cluster => Sys2Proof.Machine.execMcRendezvousClose cluster s
  | .copyRowLanding ctx op => Sys2Proof.Machine.execCopyRowLanding ctx op s
  | .copyCompletion ctx op => Sys2Proof.Machine.execCopyCompletion ctx op s
  | .combiningBufferSend core lane => Sys2Proof.Machine.execCombiningBufferSend core lane s
  | .barrierNotify core => Sys2Proof.Machine.execBarrierNotify core s
  | .sendReservation ctx => Sys2Proof.Machine.execSendReservation ctx s
  | .sendArrival n => Sys2Proof.Machine.execSendArrival n s
  | .walkerTransfer ctx op => Sys2Proof.Machine.execWalkerTransfer ctx op s
  | .collectiveCompletion ctx op => Sys2Proof.Machine.execCollectiveCompletion ctx op s
  | .reductionComplete n => Sys2Proof.Machine.execReductionComplete n s
  | .rdPkt n => Sys2Proof.Machine.execRdPkt n s
  | .wrPkt n => Sys2Proof.Machine.execWrPkt n s
  | .wrmPkt n => Sys2Proof.Machine.execWrmPkt n s
  | .wrcPkt n => Sys2Proof.Machine.execWrcPkt n s
  | .rdcPkt n => Sys2Proof.Machine.execRdcPkt n s
  | .atPkt n => Sys2Proof.Machine.execAtPkt n s
  | .ancPkt n => Sys2Proof.Machine.execAncPkt n s
  | .pubPkt n => Sys2Proof.Machine.execPubPkt n s
  | .barPkt n => Sys2Proof.Machine.execBarPkt n s
  | .redPkt n => Sys2Proof.Machine.execRedPkt n s
  | .qrptPkt n => Sys2Proof.Machine.execQrptPkt n s
  | .mgmtPkt n => Sys2Proof.Machine.execMgmtPkt n s
  | .replyPkt n => Sys2Proof.Machine.execReplyPkt n s
  | .unknownOpPacket n => Sys2Proof.Machine.execUnknownOpPacket n s
  | .forwardedRequest n => Sys2Proof.Machine.execForwardedRequest n s
  | .multicastWr n => Sys2Proof.Machine.execMulticastWr n s
  | .packetRoute port p => Sys2Proof.Machine.execPacketRoute port p s
  | .laneNonminimalMove dst lane => Sys2Proof.Machine.execLaneNonminimalMove dst lane s
  | .laneMinimalReturn dst lane => Sys2Proof.Machine.execLaneMinimalReturn dst lane s
  | .requestTimeout tag => Sys2Proof.Machine.execRequestTimeout tag s
  | .expertRowArrival n => Sys2Proof.Machine.execExpertRowArrival n s
  | .overflowAfterWait ctx op => Sys2Proof.Machine.execOverflowAfterWait ctx op s
  | .pageWalk ctx op => Sys2Proof.Machine.execPageWalk ctx op s
  | .shootdownWatchdog cluster => Sys2Proof.Machine.execShootdownWatchdog cluster s
  | .shootdownEnd cluster => Sys2Proof.Machine.execShootdownEnd cluster s
  | .migrationService => Sys2Proof.Machine.execMigrationService s
  | .pageMove vf va home frame ext => Sys2Proof.Machine.execPageMove vf va home frame ext s
  | .stepGraphAccept cluster ext => Sys2Proof.Machine.execStepGraphAccept cluster ext s
  | .taskBind core => Sys2Proof.Machine.execTaskBind core s
  | .taskAging core => Sys2Proof.Machine.execTaskAging core s
  | .recordCompletion rc => Sys2Proof.Machine.execRecordCompletion rc s
  | .spanLimit core => Sys2Proof.Machine.execSpanLimit core s
  | .swapOut ctx => Sys2Proof.Machine.execSwapOut ctx s
  | .reload core => Sys2Proof.Machine.execReload core s
  | .pipelinePreempt rc => Sys2Proof.Machine.execPipelinePreempt rc s
  | .loaderTile rc ext => Sys2Proof.Machine.execLoaderTile rc ext s
  | .storerWriteback rc => Sys2Proof.Machine.execStorerWriteback rc s
  | .faultQueueService cluster => Sys2Proof.Machine.execFaultQueueService cluster s
  | .lineRetire line => Sys2Proof.Machine.execLineRetire line s
  | .patrolScrub line => Sys2Proof.Machine.execPatrolScrub line s
  | .coreRetire core => Sys2Proof.Machine.execCoreRetire core s
  | .rosterRemove vertex => Sys2Proof.Machine.execRosterRemove vertex s
  | .laneSpare port => Sys2Proof.Machine.execLaneSpare port s
  | .portDown port => Sys2Proof.Machine.execPortDown port s
  | .linkUp port ouv => Sys2Proof.Machine.execLinkUp port ouv s
  | .hostAccess acc => Sys2Proof.Machine.execHostAccess acc s
  | .hifVersionWrite fn ver => Sys2Proof.Machine.execHifVersionWrite fn ver s
  | .submissionQueueServe vf ext => Sys2Proof.Machine.execSubmissionQueueServe vf ext s
  | .functionLevelReset vf => Sys2Proof.Machine.execFunctionLevelReset vf s
  | .placeSubq fn => Sys2Proof.Machine.execPlaceSubq fn s
  | .placeRepl fn => Sys2Proof.Machine.execPlaceRepl fn s
  | .cstCreate fn => Sys2Proof.Machine.execCstCreate fn s
  | .cstDestroy fn => Sys2Proof.Machine.execCstDestroy fn s
  | .errlog fn => Sys2Proof.Machine.execErrlog fn s
  | .roster fn => Sys2Proof.Machine.execRoster fn s
  | .faultAns fn => Sys2Proof.Machine.execFaultAns fn s
  | .debugCmd fn => Sys2Proof.Machine.execDebugCmd fn s
  | .setLtr fn => Sys2Proof.Machine.execSetLtr fn s
  | .quote fn => Sys2Proof.Machine.execQuote fn s
  | .preempt fn => Sys2Proof.Machine.execPreempt fn s
  | .flr fn => Sys2Proof.Machine.execFlr fn s
  | .faultNext fn => Sys2Proof.Machine.execFaultNext fn s
  | .mailboxUnknownCmd fn => Sys2Proof.Machine.execMailboxUnknownCmd fn s
  | .mailboxGoBusy fn => Sys2Proof.Machine.execMailboxGoBusy fn s
  | .powerLevelEnter cluster => Sys2Proof.Machine.execPowerLevelEnter cluster s
  | .powerWake cluster => Sys2Proof.Machine.execPowerWake cluster s
  | .thermalGrantHold die temp => Sys2Proof.Machine.execThermalGrantHold die temp s
  | .thermalClockHalve die temp => Sys2Proof.Machine.execThermalClockHalve die temp s
  | .thermalShutdown die temp => Sys2Proof.Machine.execThermalShutdown die temp s
  | .powerOnBoot => Sys2Proof.Machine.execPowerOnBoot s
  | .writeQueueBankWrite core => Sys2Proof.Machine.execWriteQueueBankWrite core s
  | .remoteReadArrival ctx => Sys2Proof.Machine.execRemoteReadArrival ctx s
  | .barrierQueryAnswer ctx => Sys2Proof.Machine.execBarrierQueryAnswer ctx s
  | .occupancyReport n => Sys2Proof.Machine.execOccupancyReport n s
  | .thermalGrantResume die temp => Sys2Proof.Machine.execThermalGrantResume die temp s
  | .thermalClockRestore die temp => Sys2Proof.Machine.execThermalClockRestore die temp s
  | .pooledMemoryReply n ext => Sys2Proof.Machine.execPooledMemoryReply n ext s

end Sys2Proof.Machine
end

