-- ==== Sys2Proof/Machine/Issue.lean ====
section
/-!
DEFINITION. A slot issues its queue head (R22, R23, R26): when the head may issue, one operation alone, and the operations
that a SYNC mask or a pass joins, which issue in one cycle or not at all.
-/

namespace Sys2Proof.Machine

/-! ## When a head may issue -/

def logDone {α : Type} (f : RegFile α) (n : Nat) : Bool := f.log.all fun e => e.async || e.val.isSome || decide (n ≤ e.word)

/-- Whether every register write of a word before `n` that R26 waits for has been produced. -/
def Ctx.windowsClosed (c : Ctx) (n : Nat) : Bool :=
  logDone c.s n && logDone c.p n && logDone c.v n && logDone c.vt n && logDone c.m n && logDone c.a n && logDone c.fo n &&
    logDone c.fi n && logDone c.u n && logDone c.w n && (c.fstat.all fun e => e.val.isSome || decide (n ≤ e.word)) &&
    c.lfsr.all fun e => e.val.isSome || decide (n ≤ e.word)

/-- An entry issues no earlier than the cycle after its word's dispatch, and one of a word that closes every exposure
window not before the writes of earlier words are there (R22, R26). -/
def Ctx.mayIssue (c : Ctx) (e : Entry) (now : Nat) : Bool := decide (e.cyc < now) && (!e.closes || c.windowsClosed e.word)

/-- Whether a context's slots work: neither it nor its core is stopped, and its cluster runs. One that waits at a yield still
issues. -/
def State.slotsRun (s : State) (k : Nat) : Bool :=
  !(s.core (ctxCore k)).halted && (match (s.ctx k).run with | .ready | .waitTok _ _ | .waitBar _ _ _ _ => true | _ => false) &&
    decide ((s.cluster (ctxCluster k)).power = .run)

/-- The operation of an entry runs. -/
def State.runEntry (s : State) (k slot : Nat) (e : Entry) : Out := exec e.op { s with focus := some ⟨k, slot, e, false⟩ }

/-! ## SYNC groups (R23, R187) -/

/-- Whether the head of slot `j` waits for the rest of its word. -/
def Ctx.restHead (c : Ctx) (j : Nat) : Bool := match c.queue j with | x :: _ => waitsForRest x.op | [] => false

/-- The slots that issue together with the head of `slot`, in the order in which they are tried: the pass after its feed, and
last an operation that waits for the rest of its word. -/
def Ctx.group (c : Ctx) (slot : Nat) (e : Entry) : List Nat :=
  if e.sync.getLsbD slot then
    let g := [0, 1, 2, 3, 5, 6, 7, 4].filter fun j => e.sync.getLsbD j &&
      match c.queue j with | x :: _ => decide (x.word = e.word) | [] => false
    (g.filter fun j => !c.restHead j) ++ g.filter fun j => c.restHead j
  else [slot]

/-- A group issues at the turn of the lowest-numbered slot that its mask names, so that none of its slots has had its own turn in
that cycle before (R22). -/
def leads (slot : Nat) (e : Entry) : Bool := (List.range slot).all fun j => !e.sync.getLsbD j

/-- The moves of a cycle without the turns of the given slots of a context, which have issued in it. -/
def withoutTurns (k : Nat) (js : List Nat) (ms : List Move) : List Move :=
  ms.filter fun m => match m with | .issue k' j => !(decide (k' = k) && js.elem j) | _ => true

/-- Whether every slot that the mask names has reached the word. -/
def Ctx.groupHere (c : Ctx) (e : Entry) : Bool :=
  (List.range 8).all fun j => !e.sync.getLsbD j || c.issuedBefore j e.word

/-- Whether the head of slot `j` may issue in this cycle; one of the C slot waits for a `qpoint`'s shoot-down to end. -/
def Ctx.headReady (c : Ctx) (now j : Nat) : Bool :=
  match c.queue j with | x :: _ => c.mayIssue x now && !(c.cHold && decide (j = 6)) | [] => false

/-- What became of one entry when its operation ran: it issued, it stays, or its word was taken back. -/
inductive Ran where
  | issued | stays | dropped
  deriving DecidableEq, Repr

def ranOf (s : State) (k slot : Nat) (e : Entry) : Ran :=
  let c := s.ctx k
  if c.word ≤ e.word then .dropped
  else if (c.queue slot).any fun x => decide (x.id = e.id) then .stays else .issued

/-- The first try of a group: every operation makes its checks. One that would issue alone is marked as having passed
them and stays; a trap is taken. -/
def State.probe (s : State) (k : Nat) : List Nat → State × Option Fault × Option Refusal × Bool
  | [] => (s, none, none, true)
  | j :: rest =>
    match (s.ctx k).queue j with
    | [] => (s, none, none, false)
    | e :: _ =>
      match s.runEntry k j e with
      | .fault f => (s, some f, none, false)
      | .refused r => (s, none, some r, false)
      | .next s' =>
        match ranOf s' k j e with
        | .dropped => (s', none, none, false)
        | .stays => s'.probe k rest
        | .issued => (s.setCtx k ((s.ctx k).checkQ j e.id)).probe k rest

/-- The second try: every operation of the group issues, or none does. -/
def State.issueAll (s : State) (k : Nat) : List Nat → Option State
  | [] => some s
  | j :: rest =>
    match (s.ctx k).queue j with
    | [] => none
    | e :: _ =>
      match s.runEntry k j e with
      | .next s' =>
        match ranOf s' k j e with
        | .issued => s'.issueAll k rest
        | .dropped => some s'
        | .stays => none
      | _ => none

/-- The slots of a group have issued in this cycle: their turns are over, and the entries that follow issue no earlier than the
next cycle (R22). -/
def State.spent (s : State) (k : Nat) (g : List Nat) : State :=
  let c := s.ctx k
  let c := { c with queues := c.queues.map fun (q : Nat × List Entry) =>
    (q.1, if g.elem q.1 then (match q.2 with | e :: rest => { e with cyc := s.now } :: rest | [] => []) else q.2) }
  { s.setCtx k c with agenda := withoutTurns k g s.agenda }

/-- The `exit` of a group, in slot `j`: it first waits, as R116 says, for what earlier words have started, while the others are held
with it; then all of them issue in one cycle. What the others have started in that cycle is waited for before the task ends.
DEDUCED (log 107). -/
def State.issueExit (s : State) (k : Nat) (j : Nat) (e : Entry) (others : List Nat) : State :=
  let f : Focus := ⟨k, j, e, false⟩
  let r := s.exitNext f
  if !r.2 then r.1
  else match r.1.issueAll k others with
    | none => r.1
    | some s' =>
      if (s'.ctx k).word ≤ e.word then s' else (s'.exitStep f).spent k others

/-- The `exit` among a group's heads, with its slot. -/
def Ctx.exitHead (c : Ctx) (g : List Nat) : Option (Nat × Entry) :=
  g.findSome? fun j => match c.queue j with | x :: _ => if x.op = .exit then some (j, x) else none | [] => none

/-- A slot's turn in a cycle. -/
def issueSlot (s : State) (k slot : Nat) : Out :=
  let c := s.ctx k
  if !s.slotsRun k then .next s
  else match c.queue slot with
    | [] => .next s
    | e :: _ =>
      if !c.headReady s.now slot then .next s
      else
        let g := c.group slot e
        if g = [slot] then (if !e.sync.getLsbD slot || c.groupHere e then s.runEntry k slot e else .next s)
        else if !c.groupHere e || !leads slot e || !g.all (c.headReady s.now) then .next s
        else
          let others := g.filter fun j => !c.restHead j
          let p := s.probe k others
          match p.2.1, p.2.2.1 with
          | some f, _ => .fault f
          | _, some r => .refused r
          | none, none =>
            .next (if p.2.2.2 then
              match (p.1.ctx k).exitHead g with
              | some (j, x) => p.1.issueExit k j x others
              | none => match p.1.issueAll k g with
                | some s' => s'.spent k g
                | none => p.1
            else p.1)

end Sys2Proof.Machine
end

