-- ==== Sys2Proof/Machine/Cycle.lean ====
section
/-!
DEFINITION. The cycle of the device: which moves are tried in it and in which order, and what ends it (log 17). Dispatch and
the slots move in every cycle. Whether another agent's event happens in a cycle is a free choice, since the spec fixes no
time for it; each event acts only where its own conditions hold. And the load of one word as a program (log 16).
-/

namespace Sys2Proof.Machine

/-! ## What each of the device's own events does -/

def CtxEv.run (e : CtxEv) (k : Nat) (s : State) : Out :=
  match e with
  | .markCommit => execMarkCommit k s
  | .specForcedAbort => execSpecForcedAbort k s
  | .watchFire => execWatchFire k s
  | .watchTimeout => execWatchTimeout k s
  | .nextTileDelivery => execNextTileDelivery k s
  | .sendReservation => execSendReservation k s
  | .remoteReadArrival => execRemoteReadArrival k s
  | .barrierQueryAnswer => execBarrierQueryAnswer k s
  | .swapOut => execSwapOut k s

def OpEv.run (e : OpEv) (k id : Nat) (s : State) : Out :=
  match e with
  | .pageWalk => execPageWalk k id s
  | .copyRowLanding => execCopyRowLanding k id s
  | .copyCompletion => execCopyCompletion k id s
  | .overflowAfterWait => execOverflowAfterWait k id s
  | .walkerTransfer => execWalkerTransfer k id s
  | .collectiveCompletion => execCollectiveCompletion k id s

def CoreEv.run (e : CoreEv) (k : Nat) (s : State) : Out :=
  match e with
  | .wordDispatch => execWordDispatch k s
  | .passRowWrite => execPassRowWrite k s
  | .barrierNotify => execBarrierNotify k s
  | .spanLimit => execSpanLimit k s
  | .taskBind => execTaskBind k s
  | .taskAging => execTaskAging k s
  | .reload => execReload k s
  | .writeQueueBankWrite => execWriteQueueBankWrite k s

def ClusterEv.run (e : ClusterEv) (q : Nat) (s : State) : Out :=
  match e with
  | .shootdownStart => execShootdownStart q s
  | .shootdownWatchdog => execShootdownWatchdog q s
  | .shootdownEnd => execShootdownEnd q s
  | .tileCounterServe => execTileCounterServe q s
  | .predictorTableApply => execPredictorTableApply q s
  | .toleranceDemandServe => execToleranceDemandServe q [] s
  | .stepGraphAccept => execStepGraphAccept q [] s
  | .faultQueueService => execFaultQueueService q s
  | .mcRendezvousClose => execMcRendezvousClose q s
  | .powerLevelEnter => execPowerLevelEnter q s
  | .powerWake => execPowerWake q s

def RecEv.run (e : RecEv) (r : Nat) (s : State) : Out :=
  match e with
  | .recordCompletion => execRecordCompletion r s
  | .pipelinePreempt => execPipelinePreempt r s
  | .loaderTile => execLoaderTile r [] s
  | .storerWriteback => execStorerWriteback r s

/-- Firmware retires a line that an access or the patrol has found to hold an error that it cannot correct (R351). -/
def State.retireNext (s : State) : Out :=
  match s.eccBad.find? fun l => s.errs.any fun e => decide (e.kind = 2) && decide (e.addr = 128 * l) with
  | none => .next s
  | some l => execLineRetire l s

/-- The patrol visits the next line of each die once its time has come (R350). -/
def State.patrol (s : State) : Out :=
  if s.now < s.scrub * scrubPace then .next s
  else
    let line := s.scrub % dieLines
    .next ((List.range 4).foldl (fun s d => s.scrubLine (d * dieLines + line)) { s with scrub := s.scrub + 1 })

def DevEv.run (e : DevEv) (s : State) : Out :=
  match e with
  | .fabricBurstPermit => execFabricBurstPermit s
  | .migrationService => execMigrationService s
  | .powerOnBoot => execPowerOnBoot s
  | .patrolScrub => s.patrol
  | .lineRetire => s.retireNext

/-- An arrival is served by its packet's operation (R312, R319). -/
def State.packetRun (s : State) (i : Nat) : Out :=
  match s.inbox[i]? with
  | none => .next s
  | some a =>
    if isMulticast a.pkt then execMulticastWr i s
    else if a.pkt.op = opRD then execRdPkt i s
    else if a.pkt.op = opWR then execWrPkt i s
    else if a.pkt.op = opWRM then execWrmPkt i s
    else if a.pkt.op = opWRC then execWrcPkt i s
    else if a.pkt.op = opRDC then execRdcPkt i s
    else if a.pkt.op = opAT then execAtPkt i s
    else if a.pkt.op = opANC then execAncPkt i s
    else if a.pkt.op = opPUB then execPubPkt i s
    else if a.pkt.op = opBAR then execBarPkt i s
    else if a.pkt.op = opRED then execRedPkt i s
    else if a.pkt.op = opQRPT then execQrptPkt i s
    else if a.pkt.op = opMGMT then execMgmtPkt i s
    else if a.pkt.op = opREPLY then execReplyPkt i s
    else execUnknownOpPacket i s

def ItemEv.run (e : ItemEv) (i : Nat) (s : State) : Out :=
  match e with
  | .sendArrival => execSendArrival i s
  | .packet => s.packetRun i
  | .forwardedRequest => execForwardedRequest i s
  | .expertRowArrival => execExpertRowArrival i s
  | .occupancyReport => execOccupancyReport i s
  | .reductionComplete => execReductionComplete i s

/-- A function's mailbox is served by the command that it holds (R362). -/
def State.mailboxRun (s : State) (fn : Nat) : Out :=
  let b := AMap.get .reset s.mboxes fn
  if !b.go then .next s
  else if b.cmd = 1 then execPlaceSubq fn s
  else if b.cmd = 2 then execPlaceRepl fn s
  else if b.cmd = 3 then execCstCreate fn s
  else if b.cmd = 4 then execCstDestroy fn s
  else if b.cmd = 5 then execErrlog fn s
  else if b.cmd = 6 then execRoster fn s
  else if b.cmd = 7 then execFaultAns fn s
  else if b.cmd = 8 then execDebugCmd fn s
  else if b.cmd = 9 then execSetLtr fn s
  else if b.cmd = 0xA then execQuote fn s
  else if b.cmd = 0xB then execPreempt fn s
  else if b.cmd = 0xC then execFlr fn s
  else if b.cmd = 0xD then execFaultNext fn s
  else execMailboxUnknownCmd fn s

/-- A reset goes on only where one is under way: what starts it comes from outside (R354). -/
def FuncEv.run (e : FuncEv) (v : Nat) (s : State) : Out :=
  match e with
  | .submissionQueueServe => execSubmissionQueueServe v [] s
  | .functionLevelReset => if (s.func v).flr = 0 then .next s else execFunctionLevelReset v s
  | .mailbox => s.mailboxRun v

def Own.run (e : Own) (s : State) : Out :=
  match e with
  | .ctx e k => e.run k s
  | .op e k id => e.run k id s
  | .core e k => e.run k s
  | .lane c l => execCombiningBufferSend c l s
  | .cluster e q => e.run q s
  | .record e r => e.run r s
  | .permit d => execPermitGrant d s
  | .dev e => e.run s
  | .item e i => e.run i s
  | .timeout t => execRequestTimeout t s
  | .func e v => e.run v s
  | .path back dst l => if back then execLaneMinimalReturn dst l s else execLaneNonminimalMove dst l s

/-! ## The events of a cycle -/

/-- Cores that hold anything, and the first core of every cluster that an accepted record names, whose tasks are still to be
handed out. -/
def State.usedCores (s : State) : List Nat :=
  ((s.ctxs.map fun (p : Nat × Ctx) => ctxCore p.1) ++ (s.cores.map fun (p : Nat × Core) => p.1) ++
    (s.recs.map fun (p : Nat × LRec) => (placeOf p.2.place).map fun (cl : Nat) => 16 * cl).flatten).eraseDups

def State.usedClusters (s : State) : List Nat :=
  ((s.usedCores.map coreCluster) ++ s.clusters.map fun (p : Nat × Cluster) => p.1).eraseDups

def opMoves (k : Nat) (o : Op) : List Own :=
  [.op .pageWalk k o.id, .op .copyRowLanding k o.id, .op .copyCompletion k o.id, .op .overflowAfterWait k o.id,
   .op .walkerTransfer k o.id, .op .collectiveCompletion k o.id]

def ctxMoves (p : Nat × Ctx) : List Own :=
  [.ctx .markCommit p.1, .ctx .specForcedAbort p.1, .ctx .watchFire p.1, .ctx .watchTimeout p.1, .ctx .nextTileDelivery p.1,
   .ctx .sendReservation p.1, .ctx .remoteReadArrival p.1, .ctx .barrierQueryAnswer p.1, .ctx .swapOut p.1] ++
    (p.2.ops.map (opMoves p.1)).flatten

def coreMoves (k : Nat) : List Own :=
  [.core .passRowWrite k, .core .barrierNotify k, .core .spanLimit k, .core .taskBind k, .core .taskAging k, .core .reload k,
   .core .writeQueueBankWrite k] ++ (List.range 8).map fun (l : Nat) => Own.lane k l

def clusterMoves (q : Nat) : List Own :=
  [.cluster .shootdownStart q, .cluster .shootdownWatchdog q, .cluster .shootdownEnd q, .cluster .tileCounterServe q,
   .cluster .predictorTableApply q, .cluster .toleranceDemandServe q, .cluster .stepGraphAccept q,
   .cluster .faultQueueService q, .cluster .mcRendezvousClose q, .cluster .powerLevelEnter q, .cluster .powerWake q]

def recMoves (r : Nat) : List Own :=
  [.record .recordCompletion r, .record .pipelinePreempt r, .record .loaderTile r, .record .storerWriteback r]

/-- One event for every item of a list of `n`. -/
def numbered (n : Nat) (e : ItemEv) : List Own := (List.range n).map fun (i : Nat) => Own.item e i

/-- A lane's change of path: to the next intermediate, or back. -/
def pathMoves (p : Nat × LanePath) : List Own := [.path true (p.1 / 8) (p.1 % 8), .path false (p.1 / 8) (p.1 % 8)]

/-- Everything that may happen beside dispatch, issue and the landing of sends. -/
def State.events (s : State) : List Own :=
  (s.reqs.map fun (q : Req) => Own.timeout q.tag) ++ (s.ctxs.map ctxMoves).flatten ++ (s.usedCores.map coreMoves).flatten ++ (s.usedClusters.map clusterMoves).flatten ++
  (s.recs.map fun (p : Nat × LRec) => recMoves p.1).flatten ++ ((List.range 4).map fun (d : Nat) => Own.permit d) ++
  [.dev .fabricBurstPermit, .dev .migrationService, .dev .patrolScrub, .dev .lineRetire] ++ (s.paths.map pathMoves).flatten ++
  numbered s.inbox.length .packet ++ numbered s.inbox.length .forwardedRequest ++
  numbered s.expRows.length .expertRowArrival ++
  numbered s.rings.length .occupancyReport ++ numbered s.redns.length .reductionComplete ++
  ((List.range 16).map fun (v : Nat) => Own.func .submissionQueueServe v) ++
  ((List.range 16).map fun (v : Nat) => Own.func .functionLevelReset v) ++
  (s.mboxes.map fun (p : Nat × Mbox) => Own.func .mailbox p.1)

/-- Whether the time of an event is one that the spec fixes (R386), so that it happens in every cycle in which its own conditions
hold: the rows of a pass (R184), the timeouts of a request whose reply has not arrived (R322), of a watch (R120) and of a rendezvous
(R190), the watchdog of a shoot-down and its end (R307, R308), the limit of a span (R233), aging and the binding of an aged task
(R227, R240), the wait for a full buffer (R282), the wait of a class-0 record for a pipeline (R239), the return of a lane (R317),
the exit from a power level (R364), the patrol of the memory (R350), and a reset that has used its time (R354). -/
def State.due (s : State) : Own → Bool
  | .timeout t => s.reqs.any fun q => decide (q.tag = t) && decide (q.sentAt + 8388608 ≤ s.now) &&
      !(s.inbox.any fun a => a.isReply && decide (a.pkt.tag = t) && decide (a.pkt.eng = q.eng))
  | .ctx .watchTimeout _ | .core .passRowWrite _ | .core .spanLimit _ | .core .taskAging _ | .op .overflowAfterWait _ _
  | .cluster .shootdownWatchdog _ | .cluster .shootdownEnd _ | .cluster .mcRendezvousClose _ | .cluster .powerWake _
  | .path true _ _ | .dev .patrolScrub => true
  | .core .taskBind k => ((s.core k).dq.head?).any fun t => t.aged || s.ageDue t
  | .record .pipelinePreempt r => ((s.recs.find? r).bind (·.pipe)).any fun p => decide (p.stop = 0)
  | .func .functionLevelReset v => decide ((s.func v).flr ≠ 0) && decide ((s.func v).flrAt + 8388608 ≤ s.now)
  | .item .packet i => (s.inbox[i]?).any fun a => a.isReply && s.reqs.any fun q =>
      decide (q.tag = a.pkt.tag) && decide (q.eng = a.pkt.eng) && decide (q.sentAt + 8388608 ≤ s.now)
  | _ => false

/-- Whether an event is put off no longer: every wait ends (R386), but for how long a lane keeps its path, whose end no wait asks
for (R317). -/
def State.patient (s : State) : Own → Bool
  | .path false _ _ => false
  | _ => decide (s.now % (Config.patience + 1) = 0)

/-- The events that happen in this cycle: those that are due or put off no longer, and a free choice of each other. -/
def State.chosen (s : State) (fresh : Nat) : List Own → List Own
  | [] => []
  | i :: rest =>
    if s.due i || s.patient i || decide (Config.freeNat fresh % 2 = 1) then i :: s.chosen (fresh + 1) rest
    else s.chosen (fresh + 1) rest

/-- The place of the arrival that lands next, of those whose cycle has come. -/
def nextLanding (now : Nat) : List Flight → Option (Nat × Flight)
  | [] => none
  | f :: rest =>
    let r := (nextLanding now rest).map fun p => (p.1 + 1, p.2)
    if now < f.due then r else match r with | some (i, g) => if g.before f then some (i, g) else some (0, f) | none => some (0, f)

/-- The arrivals of this cycle, each by its place among those that are left (R201). -/
def landings (now : Nat) : Nat → List Flight → List Own
  | 0, _ => []
  | fuel + 1, fs => match nextLanding now fs with
    | none => []
    | some (i, _) => .item .sendArrival i :: landings now fuel (fs.eraseIdx i)

/-- The moves of a cycle: sends land first, so that a receive may issue in the cycle of its arrival (R204). Before boot there is one:
the boot ROM's next step (R368). -/
def State.planCycle (s : State) : State :=
  if !s.booted then { s with agenda := [.own (.dev .powerOnBoot), .tick] }
  else
    let es := s.events
    { s with
      fresh := s.fresh + es.length,
      agenda := ((landings s.now s.flights.length s.flights).map Move.own) ++ ((s.usedCores.filter coreExists).map fun (k : Nat) => Move.own (.core .wordDispatch k)) ++
        (s.ctxs.map fun (p : Nat × Ctx) => (List.range 8).map fun (j : Nat) => Move.issue p.1 j).flatten ++
        ((s.chosen s.fresh es).map Move.own) ++ [.tick] }

/-- What a mark's own word did after the mark's commit is made good: what it gated is let go (R107), as a store that its SYNC mask
holds back with the word's `spec`, and what it popped is freed (R28). Engines send what may leave. -/
def State.settleCtx (s : State) (k : Nat) : State :=
  let s := s.releaseTo k (s.ctx k).lastMark
  (s.setCtx k ((s.ctx k).foldPops (s.ctx k).lastMark)).pump k

/-- The cycle ends: time goes on, records that have become ready are noted, and the slots of spilled contexts are brought up to
date. -/
def State.endCycle (s : State) : State :=
  let s := (s.ctxs.map fun (p : Nat × Ctx) => p.1).foldl State.settleCtx s
  let s := s.usedClusters.foldl (fun s q => s.sdUpdate q) s
  let s := ((s.ctxs.map fun (p : Nat × Ctx) => p.1).filter fun k => isSpilled k && s.holds k).foldl State.saveLive s.markReady
  { s with now := s.now + 1, touched := [], asks := s.asks.filter fun d => !s.dieAwake d }

/-! ## Loading one word -/

/-- The key under which the word's image stands in a cluster's store. -/
def wordImage : Nat := 0

/-- Context `k` with an image of the word and a `nop` word, ready and holding its core. -/
def State.readyFor (s : State) (k : Nat) (w : W256) : State :=
  let img := bytesOfWord w ++ List.replicate 32 0#8
  let q := ctxCluster k
  let s := if isControl (ctxCore k) then { s with conf := { s.conf with firmware := img } }
    else s.setCluster q { s.cluster q with store := AMap.set (s.cluster q).store wordImage img }
  let c := s.ctx k
  let s := s.setCtx k { c with run := .ready, image := wordImage, codesz := 64, pc := 0, queues := [], halt := false,
                               yldWord := none, marks := [], words := [] }
  { s.setCore (ctxCore k) { s.core (ctxCore k) with holder := some k, turn := s.now } with booted := true, focus := none, agenda := [] }

/-- The word loaded, for a control core if only that takes it. -/
def State.loadWord (s : State) (w : W256) : State :=
  let ctl := match decodeWord false w, decodeWord true w with | .error _, .ok _ => true | _, _ => false
  let k := if ctl then 64 else 0
  let s1 := s.readyFor k w
  match s1.dispatchWord k with
  | .ok s2 =>
    let acts : Nat → Bool := fun j => ((s2.ctx k).queue j).any fun e => decide (e.op ≠ .nop)
    let leader : Nat → Bool := fun j => ((s2.ctx k).queue j).any fun e => leads j e
    let joined : Nat → Bool := fun j => leader j &&
      ((s2.ctx k).queue j).any fun e => (List.range 8).any fun i => e.sync.getLsbD i && acts i
    let slot := ((List.range 8).find? fun j => (acts j && leader j) || joined j).getD 0
    { s2 with now := s2.now + 1, agenda := [.issue k slot] }
  | _ => { s1 with agenda := [.own (.core .wordDispatch (ctxCore k))] }

end Sys2Proof.Machine
end

