-- ==== Sys2Proof/Machine/Step.lean ====
section
/-!
DEFINITION. One step of the device: the branch that dispatch is resolving, else the next move of the agenda, else the plan of
the coming cycle. And `withFetchWord`, which stands for the load of one word as a program.
-/

namespace Sys2Proof.Machine

/-- One step. The agenda holds the moves of the cycle that are still to be made; what comes from outside the device (host
accesses, packets, temperatures) is put into it from outside. -/
def step (s : State) : Host.Outcome State Fault Refusal :=
  match s.focus with
  | some f => exec f.ent.op s
  | none =>
    match s.agenda with
    | [] => .next s.planCycle
    | .issue k j :: rest => issueSlot { s with agenda := rest } k j
    | .own e :: rest => e.run { s with agenda := rest }
    | .event i :: rest => exec i { s with agenda := rest }
    | .tick :: rest => .next ({ s with agenda := rest } : State).endCycle

/-- The machine with one word loaded as a program (log 16): its bits at offset 0 of the code image of core 0's context 0 (or
of the control core of cluster 0, for a word that only a control core takes), dispatched, and its slot next to issue. A word
that is not dispatched (an illegal one) is left for the dispatch of the next step. -/
def State.withFetchWord (s : State) (nbits w : Nat) : State := s.loadWord (BitVec.ofNat 256 (w % 2 ^ nbits))

end Sys2Proof.Machine
end

