-- ==== Sys2Proof/Safety.lean ====
section
/-!
DEFINITION. The terms in which statements about the machine speak: what an operation that issues answers, what it leaves as
it was, the canonical form of every memory, and the device before its boot has ended.
-/

namespace Sys2Proof

/-! ## Which words are illegal (R19) -/

/-- The last opcode that a slot's map assigns (R29 to R36); each map assigns every one from 0x01 to it. -/
def Slot.lastOpc : Slot → Nat
  | .S => 0x39 | .K => 0x12 | .L => 0x1D | .V => 0x35 | .X => 0x0C | .F => 0x08 | .C => 0x1F | .N => 0x08

/-- The opcodes whose instructions take an extension, of the four slots that may have one (R17, and each instruction's own rule). -/
def Slot.takesExt (k : Slot) (n : Nat) : Bool :=
  let within : List (Nat × Nat) → Bool := fun l => l.any fun p => decide (p.1 ≤ n) && decide (n ≤ p.2)
  match k with
  | .S => within [(0x01, 0x0E), (0x11, 0x1A), (0x26, 0x26), (0x28, 0x28), (0x2A, 0x2A), (0x35, 0x39)]
  | .L => within [(0x01, 0x1D)]
  | .X => within [(0x03, 0x06), (0x0C, 0x0C)]
  | .C => within [(0x01, 0x16), (0x19, 0x1F)]
  | .K | .V | .F | .N => false

/-- Slot `k` gives reason `n` of R19: its own bits do, it is a pass or a feed alone (R187), or this kind of core does not have its
operation. -/
def SlotGives (ctl : Bool) (w : W256) (k : Slot) (n : Nat) : Prop :=
  wordSlot w k = .error n ∨ (n = 5 ∧ pairFault (slotOpc w .X) (slotOpc w .F) = some k) ∨
    (n = 6 ∧ ∃ x, wordSlot w k = .ok x ∧
      ((ctl = true ∧ (k = .X ∨ k = .F) ∧ x.op ≠ .nop) ∨ (ctl = false ∧ ∃ a b c d, x.op = .watch a b c d)))

end Sys2Proof

namespace Sys2Proof.Machine

/-! ## What an operation that issues answers -/

/-- The focused operation has made context `c` of its context and has issued. -/
def issued (s : State) (f : Focus) (c : Ctx) : Out := .next ((s.setCtx f.ctx c).retire f)

/-- It has written one register: scalar, vector, mask, or a predicate pair. -/
def wroteS (s : State) (f : Focus) (r : SReg) (v : W64) : Out := issued s f ((s.ctx f.ctx).putS f.ent.id r v)
def wroteV (s : State) (f : Focus) (r : VReg) (v : VBits) : Out := issued s f ((s.ctx f.ctx).putV f.ent.id r v)
def wroteM (s : State) (f : Focus) (r : MReg) (v : W64) : Out := issued s f ((s.ctx f.ctx).putM f.ent.id r v)
def wroteP (s : State) (f : Focus) (j : PPair) (b : Bool) : Out := issued s f ((s.ctx f.ctx).putP f.ent.id j b)

/-- It stays in its slot, and nothing has happened. -/
def waits (s : State) : Out := .next { s with focus := none }

/-- Its checks are made, and it stays in its slot, marked as having passed them. -/
def passes (s : State) (f : Focus) : Out := .next ({ s with focus := none }.setCtx f.ctx ((s.ctx f.ctx).checkQ f.slot f.ent.id))

/-- It has entered its engine as operation `o`, or as a gated one. -/
def enters (s : State) (f : Focus) (o : Op) : Out := issued s f { s.ctx f.ctx with ops := (s.ctx f.ctx).ops ++ [o] }
def entersGated (s : State) (f : Focus) (o : Op) : Out := enters s f { o with gated := true, issued := s.now }

/-- It has stored these bytes to scratchpad, gated. -/
def stored (s : State) (f : Focus) (cells : List (Nat × Byte)) : Out :=
  issued s f { s.ctx f.ctx with gstores := (s.ctx f.ctx).gstores ++ [⟨f.ent.word, f.slot, cells⟩] }

/-! ## When an access to scratchpad does not trap or wait -/

/-- `len` bytes at `a`: inside the scratchpad and the record's range, aligned, not held back by a busy channel, no conflicting store
of an earlier word still to issue, and no error of the storage in a word that they touch. -/
def State.readable (s : State) (f : Focus) (a : Int) (len algn : Nat) : Prop :=
  (s.ctx f.ctx).outside a len = false ∧ a % (algn : Int) = 0 ∧ (s.ctx f.ctx).storesPending f.ent.word [(a, len)] = false ∧
  (s.ctx f.ctx).wmStall a.toNat len = false ∧ (s.core (ctxCore f.ctx)).eccAt a.toNat len = none

/-- `len` bytes at `a` may be stored: inside, aligned, and none held back by a busy channel. -/
def State.writable (s : State) (f : Focus) (a : Int) (len algn : Nat) : Prop :=
  (s.ctx f.ctx).outside a len = false ∧ a % (algn : Int) = 0 ∧
  ∀ i, i < len → (s.ctx f.ctx).wmStall (a.toNat + i) 1 = false

/-! ## What stays as it was -/

/-- The two contexts agree on everything but registers' files `s`, `p`, `v`, `vt`, `m`, `a`, `fo`, `fi`, `u`, `w`, on fstat
and lfsr, and on what issue itself keeps: the slot queues and the yield that is resolved. -/
def SameBesideRegs (c c' : Ctx) : Prop :=
  { c' with s := c.s, p := c.p, v := c.v, vt := c.vt, m := c.m, a := c.a, fo := c.fo, fi := c.fi, u := c.u, w := c.w,
            fstat := c.fstat, lfsr := c.lfsr, queues := c.queues, yldWord := c.yldWord, yields := c.yields,
            yieldCyc := c.yieldCyc } = c

/-- The two states agree on everything outside context `k`, but for the focus and for which context holds the core. -/
def SameOutside (s t : State) (k : Nat) : Prop :=
  { t with ctxs := s.ctxs, cores := s.cores, focus := s.focus } = s ∧
  (∀ j, j ≠ k → t.ctx j = s.ctx j) ∧
  (∀ q, q ≠ ctxCore k → t.core q = s.core q) ∧
  { t.core (ctxCore k) with holder := (s.core (ctxCore k)).holder, last := (s.core (ctxCore k)).last,
                            spanEnd := (s.core (ctxCore k)).spanEnd } = s.core (ctxCore k)

/-! ## Memories in canonical form -/

/-- Device memory and every scratchpad. -/
def State.memoriesWf (s : State) : Prop := Memory.wf s.mem = true ∧ ∀ q, Memory.wf (s.core q).sp = true

/-! ## Before boot (R368) -/

/-- Nothing runs on a device whose boot has not ended: no operation has the focus, the agenda holds the boot ROM's step and
the end of the cycle at most, sys.svc still reads BRINGUP, nothing has left the device, and no context has been sent a word
or has anything outstanding; no context is spilled, no shoot-down is in progress, and a step of the boot that checks an image
has been passed with a valid one only. Device memory lists nothing before step 4, and after it no more than that step writes:
the roster's bitmap (R352) and entries of the frame table (R296). -/
def PreBoot (s : State) : Prop :=
  s.booted = false ∧ s.focus = none ∧ s.svc = 1 ∧ s.egress = [] ∧ s.hostOut = [] ∧
  (s.agenda = [] ∨ s.agenda = [.own (.dev .powerOnBoot), .tick] ∨ s.agenda = [.tick]) ∧
  (∀ k, (s.ctx k).words = [] ∧ (s.ctx k).ops = [] ∧ (s.ctx k).queues = []) ∧
  (∀ k, isSpilled k = true → (s.ctx k).run = .free) ∧ (∀ q, (s.cluster q).sd.busy = false) ∧
  (2 ≤ s.bootStep → s.conf.valid = true) ∧ (3 ≤ s.bootStep → s.conf.fwValid = true) ∧
  Memory.wf s.mem = true ∧ (s.bootStep < 4 → s.mem = []) ∧
  ∀ a, (a < s.conf.rosterAddr ∨ s.conf.rosterAddr + 133 ≤ a) →
    (∀ p, p ∈ s.conf.frameTab → a < s.conf.frameBase + 8 * p.1 ∨ s.conf.frameBase + 8 * p.1 + 8 ≤ a) → memGet s.mem a = 0#8

end Sys2Proof.Machine
end

