-- ==== Sys2Proof/Certificates/Slice0/Obligations.lean ====
section
/-!
DEFINITION. The statements for the provers, one definition each; OBLIGATIONS.json lists them.
-/

open Sys2Proof Sys2Proof.Machine

/-- For every slot operation, every operand value that its layout admits, and every guard. -/
def Obligations.EncodingRoundTrip : Prop :=
  ∀ (i : Instr) (e : Enc) (g : PReg), i ≠ .nop → i.wf = true → encode i = some e →
    decSlot e.slot (e.bits g) e.ext = .ok ⟨g, i⟩

/-- R11: each slot has its own 28 bits and the header its own 32, and byte k of a stored word holds its bits 8k + 7 to 8k. -/
def Obligations.WordFieldsAndBytes : Prop :=
  (∀ (k : Slot) (v : BitVec 28), slotBits (placeSlot k v) k = v ∧ headerBits (placeSlot k v) = 0#32 ∧
    ∀ j : Slot, j ≠ k → slotBits (placeSlot k v) j = 0#28) ∧
  ∀ w : W256, wordOfBytes (bytesOfWord w) = w

/-- A pass and a feed are legal only beside each other (R187); `watch` is a control core's (R19, reason 6). -/
def Obligations.EncodedWordDecodes : Prop :=
  ∀ (i : Instr) (e : Enc), i.wf = true → encode i = some e → i.isPass = false → i.isFeed = false →
    ∃ lw, decodeWord (match i with | .watch _ _ _ _ => true | _ => false) e.word = .ok lw ∧ soleOp lw.slots = some i ∧
      lw.mark = false ∧ lw.yld = false ∧ lw.sync = 0#8 ∧ lw.pop = 0#8 ∧ lw.step = 0#8

/-- The words of R91, R89, R101, R113 and R221 as the spec prints them, and two more from R29 and R117; the number
of `trap` is R29's, the model's choice over R115's (log entry 91). -/
def Obligations.SpecWordsDecode : Prop :=
  decodeTableWord 256 0x0000000401300080040000000000000000000000000000000000000000000000 = some (.aset 0#3 (.ext 0x40000#24 8#13)) ∧
  decodeTableWord 256 0x0000000401172018000000000000000000000000000000000000000000000000 = some (.mov 14#5 (.extZ 0x8000000#28)) ∧
  decSlot .S 0x02A8202#28 none = .ok ⟨0#4, .loop true (.imm 2#7) 2#8⟩ ∧
  decSlot .S 0x02A0300#28 none = .ok ⟨0#4, .loop false (.imm 3#7) 0#8⟩ ∧
  decSlot .K 0x0010000#28 none = .ok ⟨0#4, .ntreq⟩ ∧
  decSlot .K 0x0113200#28 none = .ok ⟨0#4, .itrFit 6#5 1#2⟩ ∧
  decSlot .S 0x0320005#28 none = .ok ⟨0#4, .trap 5#16⟩ ∧
  decSlot .S 0x0330001#28 none = .ok ⟨0#4, .rti true⟩

/-- R19, over the last opcode of each map of R29 to R36 (`Slot.lastOpc`) and the opcodes that take an extension (`Slot.takesExt`).
The bits of EXT that `hzn.rel` ignores are the model's reading (log 8), and exit and trap have R29's numbers (log 91). -/
def Obligations.IllegalWordReasons : Prop :=
  (∀ (k : Slot) (g : PReg) (p : BitVec 8) (o : BitVec 16) (x : Option Ext),
    (decSlot k (g ++ p ++ o) x = .error 2 ↔ k.lastOpc < p.toNat) ∧
    (decSlot k (g ++ p ++ o) x = .error 3 ↔ p = 0#8 ∧ (g ≠ 0#4 ∨ o ≠ 0#16)) ∧
    (decSlot k (g ++ p ++ o) x = .error 4 ↔ x.isSome = true ∧
      (p = 0#8 ∧ g = 0#4 ∧ o = 0#16 ∨ p ≠ 0#8 ∧ p.toNat ≤ k.lastOpc ∧ k.takesExt p.toNat = false))) ∧
  (∀ (k : Slot) (v : BitVec 28) (x : Option Ext), (∃ r, (r = 2 ∨ r = 3 ∨ r = 4 ∨ r = 5) ∧ decSlot k v x = .error r) ∨
    ∃ y, decSlot k v x = .ok y ∧ (y.op = .nop → v = 0#28 ∧ x = none ∧ y.guard = 0#4) ∧
      (y.op ≠ .nop → y.op.wf = true ∧ ∃ e, encode y.op = some e ∧ e.slot = k ∧ e.bits y.guard = v ∧
        (e.ext = x ∨ ∃ it c z, y.op = .hznRel it (some c) ∧ x = some z ∧ z.extractLsb' 0 24 = c))) ∧
  (∀ (w : W256) (k : Slot), isExtSlot (headerBits w) k = true → wordSlot w k = .ok ⟨0#4, .nop⟩) ∧
  (∀ (ctl : Bool) (w : W256), (headerBits w).extractLsb' 0 2 ≠ 0#2 → decodeWord ctl w = .error ⟨1, 0, true⟩) ∧
  ∀ (ctl : Bool) (w : W256), (headerBits w).extractLsb' 0 2 = 0#2 →
    ((∃ lw, decodeWord ctl w = .ok lw) ↔ ∀ k n, ¬ SlotGives ctl w k n) ∧
    ∀ n j h, decodeWord ctl w = .error ⟨n, j, h⟩ ↔ h = false ∧ ∃ k : Slot, k.num = j ∧ SlotGives ctl w k n ∧
      ∀ k' n', SlotGives ctl w k' n' → n < n' ∨ n = n' ∧ j ≤ k'.num

/-- R22: each slot issues at most one entry per cycle, in order. (Operations that a SYNC mask joins issue together: log 17.)
With StepDispatchesDecodedWord: what runs is what the bytes at the pc decode to. -/
def Obligations.StepRunsDecodedOperation : Prop :=
  (∀ (s : State) (f : Focus), s.focus = some f → step s = exec f.ent.op s) ∧
  ∀ (s : State) (k j : Nat) (rest : List Move), s.focus = none → s.agenda = .issue k j :: rest →
    (∀ e q, s.slotsRun k = true → (s.ctx k).queue j = e :: q → (s.ctx k).mayIssue e s.now = true → e.sync.getLsbD j = false →
      step s = exec e.op { s with agenda := rest, focus := some ⟨k, j, e, false⟩ }) ∧
    ((s.ctx k).queue j = [] → step s = .next { s with agenda := rest }) ∧
    (∀ e q, (s.ctx k).queue j = e :: q → (s.ctx k).mayIssue e s.now = false → step s = .next { s with agenda := rest })

/-- R14 to R16, R26. With StepRunsDecodedOperation: what runs is what the bytes at the pc decode to. -/
def Obligations.StepDispatchesDecodedWord : Prop :=
  ∀ (s s' : State) (q k : Nat) (rest : List Move) (w : LongWord),
    s.focus = none → s.agenda = .own (.core .wordDispatch q) :: rest → coreExists q = true → (s.core q).holder = some k →
    s.mayDispatch k = true → ctxCore k = q →
    decodeWord (isControl q) (wordOfBytes (((s.imageOf k).drop (s.ctx k).pc).take 32)) = .ok w →
    ({ s with agenda := rest } : State).dispatchWord k = .ok s' →
    step s = .next s' ∧
    ∃ b, (s.ctx k).commits (s.ctx k).word w.slots = .ok b ∧
      ∀ j, j < 8 → ∃ e x g, (s'.ctx k).queue j = (s.ctx k).queue j ++ [e] ∧ w.slots[j]? = some x ∧
        ({ s.ctx k with closers := if wordMarks w || b || wordYields w then (s.ctx k).closers ++ [(s.ctx k).word] else (s.ctx k).closers } : Ctx).rdP
          (s.ctx k).word x.guard = .ok g ∧
        e.op = (if g then x.op else .nop) ∧ (x.guard = 0#4 → g = true) ∧ e.word = (s.ctx k).word ∧ e.pc = (s.ctx k).pc ∧ e.checked = false

/-- The model's own agenda (log 17): each event of it is the instruction of the table that stands for it. -/
def Obligations.StepFollowsTheAgenda : Prop :=
  (∀ (s : State) (e : Own) (rest : List Move), s.focus = none → s.agenda = .own e :: rest → step s = e.run { s with agenda := rest }) ∧
  (∀ (s : State) (i : Instr) (rest : List Move), s.focus = none → s.agenda = .event i :: rest → step s = exec i { s with agenda := rest }) ∧
  (∀ (s : State) (rest : List Move), s.focus = none → s.agenda = .tick :: rest →
    step s = .next ({ s with agenda := rest } : State).endCycle) ∧
  ∀ (s : State) (k id q : Nat),
    Own.run (.ctx .markCommit k) s = exec (.markCommit k) s ∧ Own.run (.ctx .watchFire k) s = exec (.watchFire k) s ∧
    Own.run (.ctx .swapOut k) s = exec (.swapOut k) s ∧ Own.run (.op .pageWalk k id) s = exec (.pageWalk k id) s ∧
    Own.run (.op .copyRowLanding k id) s = exec (.copyRowLanding k id) s ∧
    Own.run (.op .copyCompletion k id) s = exec (.copyCompletion k id) s ∧
    Own.run (.core .wordDispatch q) s = exec (.wordDispatch q) s ∧ Own.run (.core .passRowWrite q) s = exec (.passRowWrite q) s ∧
    Own.run (.core .taskBind q) s = exec (.taskBind q) s ∧ Own.run (.cluster .predictorTableApply q) s = exec (.predictorTableApply q) s ∧
    Own.run (.cluster .faultQueueService q) s = exec (.faultQueueService q) s ∧ Own.run (.permit q) s = exec (.permitGrant q) s ∧
    Own.run (.record .recordCompletion q) s = exec (.recordCompletion q) s ∧ Own.run (.dev .powerOnBoot) s = exec .powerOnBoot s ∧
    Own.run (.timeout q) s = exec (.requestTimeout q) s ∧
    (s.focus = none → s.agenda = [] → s.booted = true →
      ∃ t, step s = .next t ∧ (∀ p, p ∈ s.ctxs → ∀ j, j < 8 → .issue p.1 j ∈ t.agenda) ∧
        (∀ q, q ∈ s.usedCores → coreExists q = true → .own (.core .wordDispatch q) ∈ t.agenda) ∧ .tick ∈ t.agenda ∧
        (∀ e, e ∈ s.events → s.due e = true → .own e ∈ t.agenda) ∧
        t.ctxs = s.ctxs ∧ t.mem = s.mem ∧ t.now = s.now)

/-- Where the spec gives a register no value before a binding, the model takes the binding value (log 2). -/
def Obligations.ResetValues : Prop :=
  State.reset.svc = 1 ∧ State.reset.booted = false ∧ State.reset.bootStep = 0 ∧ State.reset.rgen = 0 ∧ State.reset.mem = [] ∧
  (∀ a, memGet State.reset.mem a = 0#8) ∧
  ∀ k n, (State.reset.ctx k).run = .free ∧
    (∀ r, (State.reset.ctx k).rdS n r = .ok 0#64) ∧ (∀ r, r ≠ 0#4 → (State.reset.ctx k).rdP n r = .ok false) ∧
    (State.reset.ctx k).rdP n 0#4 = .ok true ∧ (∀ r, r ≠ 0#3 → (State.reset.ctx k).rdM n r = .ok 0#64) ∧
    (∀ r, (State.reset.ctx k).rdV n r = .ok 0#2048) ∧ (∀ r, (State.reset.ctx k).rdVt n r = .ok tRAW) ∧
    (∀ j, (State.reset.ctx k).rdA n j = .ok (0#24, 0#24)) ∧ (State.reset.ctx k).rdU n uFmode = .ok 0#64 ∧
    (State.reset.ctx k).rdU n uTol = .ok 0#64 ∧ (State.reset.ctx k).rdFstat n = .ok 0#8 ∧
    (∀ j, (State.reset.ctx k).rdLfsr n j = .ok 1#32) ∧ (∀ j, (State.reset.ctx k).rdNt n j = .ok 0#64) ∧
    State.reset.scaleFor k n = .ok []

/-- R368: boot's checks come first; a check that fails leaves the device in BRINGUP for good. -/
def Obligations.PreBootInvariant : Prop :=
  ∀ s t : State, PreBoot s → step s = .next t →
    PreBoot t ∨ (t.booted = true ∧ t.svc = 0 ∧ t.conf.valid = true ∧ t.conf.fwValid = true ∧ Memory.wf t.mem = true ∧ t.egress = [] ∧
      ∀ a, a < s.conf.rosterAddr ∨ s.conf.rosterAddr + 133 ≤ a → memGet t.mem a = memGet s.mem a)

/-- The base of PreBootInvariant and of StepKeepsMemoriesCanonical. -/
def Obligations.PreBootHoldsAtReset : Prop := PreBoot State.reset ∧ State.reset.memoriesWf ∧ ∃ t, step State.reset = .next t

/-- The canonical form is the model's own (log 1): equal memories are equal data, whatever the machine does. -/
def Obligations.StepKeepsMemoriesCanonical : Prop :=
  ∀ s t : State, s.memoriesWf → step s = .next t → t.memoriesWf

/-- R368: an image whose check fails is not used. The numbers of the steps are the boot rule's; that the boot ROM takes one step a
cycle and does nothing more after a failed one is the model's reading (log 85). -/
def Obligations.BootRefusesBadImages : Prop :=
  (∀ s : State, s.booted = false → s.bootFail = 0 → s.bootStep = 1 → s.conf.valid = false → ∃ t, exec .powerOnBoot s = .next t ∧ t.bootFail = 2 ∧ t.booted = false ∧ t.ctxs = s.ctxs ∧ ∀ p ∈ t.mboxes, p.2.go = false) ∧
  (∀ s : State, s.booted = false → s.bootFail = 0 → s.bootStep = 2 → s.conf.fwValid = false → ∃ t, exec .powerOnBoot s = .next t ∧ t.bootFail = 3 ∧ t.booted = false ∧ t.ctxs = s.ctxs ∧ ∀ p ∈ t.mboxes, p.2.go = false) ∧
  (∀ s : State, s.bootFail ≠ 0 → exec .powerOnBoot s = .next s) ∧
  (∀ s : State, s.booted = false → s.bootFail = 0 → s.bootStep = 5 → Memory.wf s.mem = true →
    ∃ t, exec .powerOnBoot s = .next t ∧ t.booted = true ∧ t.svc = 0 ∧ (∀ v, v < 16 → (t.func v).memActive = true) ∧ t.roster = s.conf.roster ∧
      (∀ d, d < 1064 → (memGet t.mem (s.conf.rosterAddr + d / 8)).getLsbD (d % 8) = t.roster.elem d) ∧
      ∀ a, a < s.conf.rosterAddr ∨ s.conf.rosterAddr + 133 ≤ a → memGet t.mem a = memGet s.mem a)

/-- The canonical form is the model's own (log 1); the bank write is R247's. -/
def Obligations.MemoryStaysCanonical : Prop :=
  (∀ (m : List Host.Cell) (cs : List (Nat × Byte)), Memory.wf m = true → Memory.wf (memSets m cs) = true) ∧
  (∀ (m : List Host.Cell) (cs : List (Nat × Byte)) (a : Nat) (v : Byte), Memory.wf m = true → memGet (memSets m (cs ++ [(a, v)])) a = v) ∧
  (∀ (m : List Host.Cell) (cs : List (Nat × Byte)) (a : Nat), Memory.wf m = true → (∀ p ∈ cs, p.1 ≠ a) → memGet (memSets m cs) a = memGet m a) ∧
  (∀ (m : List Host.Cell) (a : Nat) (bs : List Byte), Memory.wf m = true → Memory.wf (memPut m a bs) = true ∧
    (∀ i, (h : i < bs.length) → memGet (memPut m a bs) (a + i) = bs[i]) ∧
    ∀ x, x < a ∨ a + bs.length ≤ x → memGet (memPut m a bs) x = memGet m x) ∧
  (∀ (m : List Host.Cell) (a n : Nat), Memory.wf m = true → Memory.wf (memClear m a n) = true ∧
    ∀ x, memGet (memClear m a n) x = if a ≤ x ∧ x < a + n then 0#8 else memGet m x) ∧
  (∀ (s : State) (q : Nat), (s.core q).wq = [] → exec (.writeQueueBankWrite q) s = .next s) ∧
  (∀ (s : State) (q : Nat) (p : WqEnt) (rest : List WqEnt), (s.core q).wq = p :: rest →
    exec (.writeQueueBankWrite q) s = .next (s.setCore q { s.core q with sp := memSet (s.core q).sp p.addr p.val, wq := rest })) ∧
  (∀ (s t : State) (q : Nat), s.memoriesWf → exec (.writeQueueBankWrite q) s = .next t →
    t.memoriesWf ∧ t.mem = s.mem ∧ ∀ q' a, (t.core q').byte a = (s.core q').byte a)

/-- R39. A write is performed (`putS` and the rest), and no later word sees it. -/
def Obligations.ConstantRegisters : Prop :=
  ∀ (c : Ctx) (n id : Nat),
    c.rdS n 0#5 = .ok 0#64 ∧ c.rdP n 0#4 = .ok true ∧ c.rdM n 0#3 = .ok (BitVec.allOnes 64) ∧
    (∀ v, (c.putS id 0#5 v).rdS n 0#5 = .ok 0#64) ∧ (∀ b, (c.putP id 0#3 b).rdP n 0#4 = .ok true) ∧
    (∀ v, (c.putM id 0#3 v).rdM n 0#3 = .ok (BitVec.allOnes 64)) ∧
    (∀ v r, r ≠ 0#5 → (c.putS id 0#5 v).rdS n r = c.rdS n r) ∧ (∀ v r, r ≠ 0#3 → (c.putM id 0#3 v).rdM n r = c.rdM n r) ∧
    (∀ b r, 2 ≤ r.toNat → (c.putP id 0#3 b).rdP n r = c.rdP n r) ∧
    (∀ slot lat a g, c.expect id n slot ⟨.s, 0, lat, a, g⟩ = c ∧ c.expect id n slot ⟨.p, 0, lat, a, g⟩ = c ∧
      c.expect id n slot ⟨.m, 0, lat, a, g⟩ = c)

/-- R24: an operation in word n with latency L is seen from word n + L. R27: the later write to become visible wins. -/
def Obligations.WrittenRegisterReadsBack : Prop :=
  (∀ (c : Ctx) (old : RegFile W64) (id n slot lat r : Nat) (v : W64), c.closers = [] → c.s = old.expect (wrAt id n slot ⟨.s, r, lat, false, false⟩) →
    (∀ e ∈ old.log, e.id ≠ id) → (∀ e ∈ old.log, e.idx = r → e.vis ≤ n + lat) →
    (∀ m, n + lat ≤ m → (c.read (c.s.fill id r v .plain) 0#64 r m) = .ok v ∧ c.read c.s 0#64 r m = .wait) ∧
    (∀ m, m < n + lat → c.read (c.s.fill id r v .plain) 0#64 r m = c.read old 0#64 r m ∧ c.read c.s 0#64 r m = c.read old 0#64 r m) ∧
    (∀ m r', r' ≠ r → c.read (c.s.fill id r v .plain) 0#64 r' m = c.read old 0#64 r' m)) ∧
  ∀ (sd sa sb : SReg) (b : SrcB) (pd : PPair) (aj : AReg) (o : Off8) (vd : VReg) (ops : VaOp) (vk : BitVec 4) (d fl : BitVec 3) (src : AsetSrc),
    dests (.add sd sa b) = [⟨.s, sd.toNat, 1, false, false⟩] ∧ dests (.mul sd sa b) = [⟨.s, sd.toNat, 3, false, false⟩] ∧
    dests (.mulh sd sa b) = [⟨.s, sd.toNat, 3, false, false⟩] ∧ dests (.fadd sd sa sb) = [⟨.s, sd.toNat, 3, false, false⟩] ∧
    dests (.fmul sd sa sb) = [⟨.s, sd.toNat, 4, false, false⟩] ∧ dests (.ffma sd sa sb) = [⟨.s, sd.toNat, 4, false, false⟩] ∧
    dests (.aset aj src) = [⟨.a, aj.toNat, 1, false, false⟩] ∧
    dests (.cmpEq pd sa b) = [⟨.p, 2 * pd.toNat, 1, false, false⟩, ⟨.p, 2 * pd.toNat + 1, 1, false, false⟩] ∧
    dests (.ldD sd aj o) = [⟨.s, sd.toNat, 6, false, false⟩] ∧ dests (.ldVF32 vd aj o) = [⟨.v, vd.toNat, 8, false, false⟩] ∧
    dests (.vaddF32 ops) = [⟨.v, ops.vd.toNat, 4, false, false⟩] ∧ dests (.vmulF32 ops) = [⟨.v, ops.vd.toNat, 5, false, false⟩] ∧
    dests (.vfmaF32 ops) = [⟨.v, ops.vd.toNat, 6, false, false⟩] ∧
    dests (.srtCeA vk d fl) = [⟨.v, (vk ++ 0#1 : VReg).toNat, 2, false, false⟩, ⟨.v, (vk ++ 1#1 : VReg).toNat, 2, false, false⟩]

/-- R24, R87 to R92. The operands are read as the word sees them. -/
def Obligations.ScalarIntegerAndMoveResults : Prop :=
  ((∀ (c : Ctx) (n : Nat) (r : SReg) (u : BitVec 5) (e : Ext), c.rdB n (.reg r) = c.rdS n r ∧
    c.rdB n (.imm u) = .ok (BitVec.ofNat 64 u.toNat) ∧ c.rdB n (.ext e) = .ok (BitVec.ofInt 64 e.toInt)) ∧
  ∀ (s : State) (f : Focus) (sd sa : SReg) (b : SrcB) (x y : W64), s.focus = some f →
    (s.ctx f.ctx).rdS f.ent.word sa = .ok x → (s.ctx f.ctx).rdB f.ent.word b = .ok y →
    exec (.add sd sa b) s = wroteS s f sd (x + y) ∧ exec (.sub sd sa b) s = wroteS s f sd (x - y) ∧
    exec (.mul sd sa b) s = wroteS s f sd (x * y) ∧
    exec (.mulh sd sa b) s = wroteS s f sd (BitVec.ofInt 64 ((x.toInt * y.toInt) / 2 ^ 64)) ∧
    exec (.and sd sa b) s = wroteS s f sd (x &&& y) ∧ exec (.or sd sa b) s = wroteS s f sd (x ||| y) ∧
    exec (.xor sd sa b) s = wroteS s f sd (x ^^^ y) ∧ exec (.shl sd sa b) s = wroteS s f sd (x <<< (y.toNat % 64)) ∧
    exec (.shr sd sa b) s = wroteS s f sd (x >>> (y.toNat % 64)) ∧
    exec (.sar sd sa b) s = wroteS s f sd (x.sshiftRight (y.toNat % 64)) ∧
    exec (.min sd sa b) s = wroteS s f sd (if x.toInt ≤ y.toInt then x else y) ∧
    exec (.max sd sa b) s = wroteS s f sd (if x.toInt ≤ y.toInt then y else x) ∧
    exec (.minu sd sa b) s = wroteS s f sd (if x.toNat ≤ y.toNat then x else y) ∧
    exec (.maxu sd sa b) s = wroteS s f sd (if x.toNat ≤ y.toNat then y else x) ∧
    (∀ n : Nat, n ≤ 64 → (∀ i, i < n → x.getMsbD i = false) → (n < 64 → x.getMsbD n = true) →
      exec (.clz sd sa) s = wroteS s f sd (BitVec.ofNat 64 n)) ∧
    exec (.popc sd sa) s = wroteS s f sd (BitVec.ofNat 64 ((List.range 64).filter fun i => x.getLsbD i).length)) ∧
  ((∀ (c : Ctx) (n : Nat) (r : SReg) (e : Ext) (i : BitVec 9) (j : BitVec 2), c.rdMov n (.reg r) = c.rdS n r ∧
    c.rdMov n (.imm i) = .ok (BitVec.ofInt 64 i.toInt) ∧ c.rdMov n (.extS e) = .ok (BitVec.ofInt 64 e.toInt) ∧
    c.rdMov n (.extZ e) = .ok (BitVec.ofNat 64 e.toNat) ∧ c.rdMov n (.nt j) = c.rdNt n j) ∧
  ∀ (s : State) (f : Focus) (sd sa sb : SReg) (pc : PReg) (aj : AReg) (e : Ext) (d : BitVec 7) (x y v : W64) (src : MovSrc) (base stride : BitVec 24) (st : BitVec 13),
    s.focus = some f →
    exec .nop s = .next (s.retire f) ∧
    ((s.ctx f.ctx).rdMov f.ent.word src = .ok v → exec (.mov sd src) s = wroteS s f sd v) ∧
    ((s.ctx f.ctx).rdS f.ent.word sa = .ok x → (s.ctx f.ctx).rdS f.ent.word sd = .ok v →
      ((s.ctx f.ctx).rdP f.ent.word pc = .ok true →
        exec (.sel sd sa pc none) s = wroteS s f sd x ∧ exec (.sel sd sa pc (some e)) s = wroteS s f sd x) ∧
      ((s.ctx f.ctx).rdP f.ent.word pc = .ok false →
        exec (.sel sd sa pc none) s = wroteS s f sd v ∧ exec (.sel sd sa pc (some e)) s = wroteS s f sd (BitVec.ofInt 64 e.toInt))) ∧
    exec (.aset aj (.ext base st)) s = issued s f ((s.ctx f.ctx).putA f.ent.id aj base (BitVec.ofInt 24 st.toInt)) ∧
    ((s.ctx f.ctx).rdS f.ent.word sa = .ok x → (s.ctx f.ctx).rdS f.ent.word sb = .ok y →
      exec (.aset aj (.regs sa sb)) s = issued s f ((s.ctx f.ctx).putA f.ent.id aj (x.setWidth 24) (y.setWidth 24))) ∧
    ((s.ctx f.ctx).rdA f.ent.word aj = .ok (base, stride) →
      exec (.aget sd aj (.disp d)) s = wroteS s f sd (BitVec.ofNat 64 ((base.toNat + d.toNat) % 2 ^ 24)) ∧
      exec (.aget sd aj (.ext e)) s = wroteS s f sd (BitVec.ofNat 64 (((base.toNat : Int) + e.toInt) % 2 ^ 24).toNat) ∧
      exec (.aget sd aj .stride) s = wroteS s f sd (BitVec.ofInt 64 stride.toInt))) ∧
  (∀ (s : State) (f : Focus) (sd sa : SReg) (b : SrcB) (pd : PPair), s.focus = some f → (s.ctx f.ctx).rdS f.ent.word sa = .wait →
    exec (.add sd sa b) s = waits s ∧ exec (.clz sd sa) s = waits s ∧ exec (.mov sd (.reg sa)) s = waits s ∧
    exec (.cmpEq pd sa b) s = waits s ∧ exec (.tolMin sd sa false) s = waits s)

/-- R93 to R96; `wroteP` writes the pair (R40). The arithmetic is that of the number formats (`fpAdd` and the rest, which also flush as
fmode says). -/
def Obligations.ComparesAndScalarFloats : Prop :=
  (∀ (s : State) (f : Focus) (pd : PPair) (sa : SReg) (b : SrcB) (pa pb : PReg), s.focus = some f →
    (∀ x y, (s.ctx f.ctx).rdS f.ent.word sa = .ok x → (s.ctx f.ctx).rdB f.ent.word b = .ok y →
      exec (.cmpEq pd sa b) s = wroteP s f pd (decide (x = y)) ∧ exec (.cmpNe pd sa b) s = wroteP s f pd (decide (x ≠ y)) ∧
      exec (.cmpLt pd sa b) s = wroteP s f pd (decide (x.toInt < y.toInt)) ∧
      exec (.cmpLe pd sa b) s = wroteP s f pd (decide (x.toInt ≤ y.toInt)) ∧
      exec (.cmpLtu pd sa b) s = wroteP s f pd (decide (x.toNat < y.toNat)) ∧
      exec (.cmpLeu pd sa b) s = wroteP s f pd (decide (x.toNat ≤ y.toNat))) ∧
    (∀ p q, (s.ctx f.ctx).rdP f.ent.word pa = .ok p → (s.ctx f.ctx).rdP f.ent.word pb = .ok q →
      exec (.pand pd pa pb) s = wroteP s f pd (p && q) ∧ exec (.por pd pa pb) s = wroteP s f pd (p || q)) ∧
    (∀ (c : Ctx) (id : Nat) (r : Bool), c.putP id pd r =
      { c with p := (c.p.fill id (2 * pd.toNat) r .plain).fill id (2 * pd.toNat + 1) (!r) .plain })) ∧
  (∀ (s : State) (f : Focus) (sd sa sb : SReg) (pd : PPair) (env : FpEnv) (x y d : Nat) (l : W32), s.focus = some f →
    (s.ctx f.ctx).rdEnv f.ent.word = .ok env → (s.ctx f.ctx).rdF f.ent.word sa = .ok x → (s.ctx f.ctx).rdF f.ent.word sb = .ok y →
    (s.ctx f.ctx).rdF f.ent.word sd = .ok d → (env.rm = 4 → (s.ctx f.ctx).rdLfsr f.ent.word f.slot = .ok l) →
    (let draw := if env.rm = 4 then drawOf (stepLfsr l) else 0
     let k := if env.rm = 4 then 1 else 0
     let put : Nat × Flags → Out := fun r =>
       issued s f ((((s.ctx f.ctx).putS f.ent.id sd (BitVec.ofNat 64 r.1)).raise f.ent.id r.2).stepped f.ent.id k)
     exec (.fadd sd sa sb) s = put (fpAdd .f32 env draw x y) ∧ exec (.fsub sd sa sb) s = put (fpSub .f32 env draw x y) ∧
     exec (.fmul sd sa sb) s = put (fpMul .f32 env draw x y) ∧ exec (.ffma sd sa sb) s = put (fpFma .f32 env draw x y d)) ∧
    (let put : Nat × Flags → Out := fun r => issued s f (((s.ctx f.ctx).putS f.ent.id sd (BitVec.ofNat 64 r.1)).raise f.ent.id r.2)
     exec (.fmin sd sa sb) s = put (fpMinMax false .f32 env x y) ∧ exec (.fmax sd sa sb) s = put (fpMinMax true .f32 env x y)) ∧
    (let a := ElemFmt.f32.dec env.ftz x
     let b := ElemFmt.f32.dec env.ftz y
     let put : Bool × Bool → Out := fun r =>
       issued s f (((s.ctx f.ctx).putP f.ent.id pd r.1).raise f.ent.id (if r.2 then fNV else 0#8))
     exec (.fcmpEq pd sa sb) s = put (fpCond 0 a b) ∧ exec (.fcmpLt pd sa sb) s = put (fpCond 2 a b) ∧
     exec (.fcmpLe pd sa sb) s = put (fpCond 3 a b)) ∧
    ∀ a b : XV, (a.isNan = true ∨ b.isNan = true) →
      (fpCond 0 a b).1 = false ∧ (fpCond 2 a b).1 = false ∧ (fpCond 3 a b).1 = false ∧ (fpCond 2 a b).2 = true ∧
      (fpCond 3 a b).2 = true ∧ (fpCond 0 a b).2 = (a.isSig || b.isSig))

/-- The frame of a register-only operation, in terms of what any word reads (`SameOutside`, `SameBesideRegs`). -/
def Obligations.RegisterOnlyFrame : Prop :=
  ∀ (s t : State) (f : Focus), s.focus = some f →
    (∀ (sd sa : SReg) (b : SrcB) (src : MovSrc) (x y v : W64), (s.ctx f.ctx).rdS f.ent.word sa = .ok x →
      (s.ctx f.ctx).rdB f.ent.word b = .ok y → (s.ctx f.ctx).rdMov f.ent.word src = .ok v →
      ∀ i ∈ [Instr.add sd sa b, .sub sd sa b, .mul sd sa b, .mulh sd sa b, .and sd sa b, .or sd sa b, .xor sd sa b, .shl sd sa b,
        .shr sd sa b, .sar sd sa b, .min sd sa b, .max sd sa b, .minu sd sa b, .maxu sd sa b, .clz sd sa, .popc sd sa, .mov sd src],
      exec i s = .next t → SameOutside s t f.ctx ∧ SameBesideRegs (s.ctx f.ctx) (t.ctx f.ctx) ∧
        (t.ctx f.ctx).p = (s.ctx f.ctx).p ∧ (t.ctx f.ctx).v = (s.ctx f.ctx).v ∧ (t.ctx f.ctx).vt = (s.ctx f.ctx).vt ∧
        (t.ctx f.ctx).m = (s.ctx f.ctx).m ∧ (t.ctx f.ctx).a = (s.ctx f.ctx).a ∧ (t.ctx f.ctx).fo = (s.ctx f.ctx).fo ∧
        (t.ctx f.ctx).fi = (s.ctx f.ctx).fi ∧ (t.ctx f.ctx).u = (s.ctx f.ctx).u ∧ (t.ctx f.ctx).fstat = (s.ctx f.ctx).fstat ∧
        (t.ctx f.ctx).lfsr = (s.ctx f.ctx).lfsr ∧ (∀ r n, r ≠ sd → (t.ctx f.ctx).rdS n r = (s.ctx f.ctx).rdS n r) ∧
        ∀ j, j ≠ f.slot → (t.ctx f.ctx).queue j = (s.ctx f.ctx).queue j) ∧
    (∀ (md ma mb : MReg) (x y : W64), (s.ctx f.ctx).rdM f.ent.word ma = .ok x → (s.ctx f.ctx).rdM f.ent.word mb = .ok y →
      ∀ i ∈ [Instr.mand md ma mb, .mor md ma mb, .mxor md ma mb, .mandn md ma mb],
      exec i s = .next t → SameOutside s t f.ctx ∧ SameBesideRegs (s.ctx f.ctx) (t.ctx f.ctx) ∧
        (t.ctx f.ctx).s = (s.ctx f.ctx).s ∧ (t.ctx f.ctx).p = (s.ctx f.ctx).p ∧ (t.ctx f.ctx).v = (s.ctx f.ctx).v ∧
        (t.ctx f.ctx).vt = (s.ctx f.ctx).vt ∧ (t.ctx f.ctx).a = (s.ctx f.ctx).a ∧ (t.ctx f.ctx).fo = (s.ctx f.ctx).fo ∧
        (t.ctx f.ctx).fi = (s.ctx f.ctx).fi ∧ (t.ctx f.ctx).u = (s.ctx f.ctx).u ∧
        (t.ctx f.ctx).fstat = (s.ctx f.ctx).fstat ∧ (t.ctx f.ctx).lfsr = (s.ctx f.ctx).lfsr ∧
        ∀ r n, r ≠ md → (t.ctx f.ctx).rdM n r = (s.ctx f.ctx).rdM n r)

/-- R97 to R102. `f.disp` says that dispatch is resolving the branch; its slot issues the word afterwards. The loop clauses are for frame 0
alone active. -/
def Obligations.BranchesAndLoops : Prop :=
  (∀ (s : State) (f : Focus) (off : BrOff) (sa : SReg) (x : W64) (fr : Bool) (cnt : LoopCnt) (last : Byte), s.focus = some f →
    (s.ctx f.ctx).rdS f.ent.word sa = .ok x →
    (f.disp = true →
      (let go : Int → Out := fun t => .next ({ s with focus := none }.setCtx f.ctx { s.ctx f.ctx with pc := t.toNat })
       (∀ t, t = (f.ent.pc : Int) + 32 * brWords off → (s.ctx f.ctx).legalTarget t = true →
         exec (.br off) s = go t ∧ exec (.call off) s = go t) ∧
       ((s.ctx f.ctx).legalTarget x.toNat = true → exec (.brx sa) s = go x.toNat) ∧
       ((s.ctx f.ctx).legalTarget x.toNat = true → (s.ctx f.ctx).rdS f.ent.word 31#5 = .ok x → exec .ret s = go x.toNat) ∧
       (loopCount cnt = 0 → (s.ctx f.ctx).legalTarget (f.ent.pc + 32 + 32 * (last.toNat + 1)) = true →
         exec (.loop fr cnt last) s = go (f.ent.pc + 32 + 32 * (last.toNat + 1))) ∧
       (x = 0#64 → (s.ctx f.ctx).legalTarget (f.ent.pc + 32 + 32 * (last.toNat + 1)) = true →
         exec (.loopS fr sa last) s = go (f.ent.pc + 32 + 32 * (last.toNat + 1))) ∧
       (∀ t, t = (f.ent.pc : Int) + 32 * brWords off → (s.ctx f.ctx).legalTarget t = false →
         exec (.br off) s = .next (s.preciseTrap f.ctx f.ent.word f.ent.pc 0x07 (w64 t))))) ∧
    (f.disp = false →
      exec (.br off) s = issued s f (s.ctx f.ctx) ∧ exec (.brx sa) s = issued s f (s.ctx f.ctx) ∧ exec .ret s = issued s f (s.ctx f.ctx) ∧
      exec (.call off) s = wroteS s f 31#5 (BitVec.ofNat 64 (f.ent.pc + 32)) ∧
      exec (.loop fr cnt last) s = wroteS s f (if fr then 29#5 else 30#5) (mkFrame last.toNat (f.ent.pc + 32) (loopCount cnt)) ∧
      exec (.loopS fr sa last) s = wroteS s f (if fr then 29#5 else 30#5) (mkFrame last.toNat (f.ent.pc + 32) (min x.toNat 16777215)))) ∧
  ((∀ last begin count : Nat, last < 256 → begin < 2 ^ 32 → count < 2 ^ 24 →
    frLast (mkFrame last begin count) = last ∧ frBegin (mkFrame last begin count) = begin ∧ frCount (mkFrame last begin count) = count) ∧
  (∀ (c : Ctx) (n pc : Nat) (fr fr' : W64), c.rdS n 30#5 = .ok fr → c.rdS n 29#5 = .ok fr' → frCount fr' = 0 →
    (frCount fr = 0 ∨ pc ≠ frBegin fr + 32 * frLast fr → c.closeLoops n pc [false, true] = .ok ([], pc + 32)) ∧
    (1 < frCount fr → pc = frBegin fr + 32 * frLast fr →
      c.closeLoops n pc [false, true] = .ok ([(30, mkFrame (frLast fr) (frBegin fr) (frCount fr - 1))], frBegin fr)) ∧
    (frCount fr = 1 → pc = frBegin fr + 32 * frLast fr →
      c.closeLoops n pc [false, true] = .ok ([(30, mkFrame (frLast fr) (frBegin fr) 0)], pc + 32))))

/-- R104 and R141. The context gives the core up once every slot has issued the word (`retire`). -/
def Obligations.YieldOperations : Prop :=
  ∀ (s : State) (f : Focus) (sa : SReg), s.focus = some f →
    ((s.ctx f.ctx).tokPending sa.toNat f.ent.word = true → (s.ctx f.ctx).rdS f.ent.word sa = .wait →
      exec (.yieldT sa) s = issued s f { s.ctx f.ctx with run := .waitTok sa.toNat f.ent.word, yields := true }) ∧
    (∀ x, (s.ctx f.ctx).tokPending sa.toNat f.ent.word = false → (s.ctx f.ctx).rdS f.ent.word sa = .ok x →
      exec (.yieldT sa) s = issued s f (s.ctx f.ctx)) ∧
    (∀ b : W64, (s.ctx f.ctx).rdS f.ent.word sa = .ok b →
      (b.toNat < 2 ^ 41 → s.barOutside (s.ctx f.ctx) b.toNat = false → b.toNat % 16 = 0 →
        ((s.ctx f.ctx).ops.any fun o => decide (o.kind = .barArr) && o.released && decide (o.addr = b.toNat)) = false →
        (∀ g, (s.ctx f.ctx).barRec = some (b.toNat, g) →
          exec (.yieldB sa) s = issued s f { s.ctx f.ctx with run := .waitBar b.toNat g true false }) ∧
        ((s.ctx f.ctx).barRec = none →
          exec (.yieldB sa) s = issued s f { s.ctx f.ctx with run := .waitBar b.toNat 0 false false })) ∧
      (2 ^ 41 ≤ b.toNat → exec (.yieldB sa) s = .next (s.issueTrap f 0x04 b)))

/-- R108 and R109: `rollback` is the rollback of R107 to the mark of the `spec` word. A label before offset 0 of the image is taken
as 0, the model's choice (log 98); which slots of its word a failed commit waits for is R111's and log 107. -/
def Obligations.CheckpointOperations : Prop :=
  ∀ (s : State) (f : Focus) (off : BitVec 16) (pc : PReg), s.focus = some f →
    (f.ent.checked = false → exec (.spec off) s = passes s f) ∧
    (f.ent.checked = true → (s.ctx f.ctx).lastMark < f.ent.word → exec (.spec off) s = waits s) ∧
    (f.ent.checked = true → f.ent.word ≤ (s.ctx f.ctx).lastMark →
      exec (.spec off) s = issued s f { s.ctx f.ctx with chk := some ⟨f.ent.word, ((f.ent.pc : Int) + 32 * off.toInt).toNat, none⟩ }) ∧
    ((s.ctx f.ctx).rdP f.ent.word pc = .ok true →
      exec (.specCommit pc) s = issued s f { s.ctx f.ctx with chk := (s.ctx f.ctx).chk.map fun x => { x with commit := some f.ent.word } }) ∧
    (∀ x, (s.ctx f.ctx).chk = some x → (s.ctx f.ctx).abortReady f.slot f.ent.word = true →
      ∃ t, exec .specAbort s = .next t ∧ ((s.ctx f.ctx).rdP f.ent.word pc = .ok false → exec (.specCommit pc) s = .next t) ∧
        t.focus = none ∧ (t.ctx f.ctx).chk = none ∧ (t.ctx f.ctx).pc = x.label ∧ (∀ q ∈ (t.ctx f.ctx).queues, ∀ e ∈ q.2, e.word ≤ (s.ctx f.ctx).lastMark) ∧ (t.ctx f.ctx).marks = [] ∧
        (t.ctx f.ctx).s = (s.ctx f.ctx).rollback.s ∧ (t.ctx f.ctx).gstores = (s.ctx f.ctx).rollback.gstores ∧ t.mem = s.mem)

/-- R107, Rollback; R62 names what is shadowed. -/
def Obligations.RollbackKeepsOnlyTheShadow : Prop :=
  ∀ c : Ctx, let r := c.rollback
    r.word = c.lastMark + 1 ∧ r.pc = c.lastPc ∧ r.marks = [] ∧ r.lastMark = c.lastMark ∧
    r.s = ⟨c.s.base, c.s.log.filter fun e => decide (e.word ≤ c.lastMark)⟩ ∧
    r.p = ⟨c.p.base, c.p.log.filter fun e => decide (e.word ≤ c.lastMark)⟩ ∧
    r.v = ⟨c.v.base, c.v.log.filter fun e => decide (e.word ≤ c.lastMark)⟩ ∧
    r.vt = ⟨c.vt.base, c.vt.log.filter fun e => decide (e.word ≤ c.lastMark)⟩ ∧
    r.m = ⟨c.m.base, c.m.log.filter fun e => decide (e.word ≤ c.lastMark)⟩ ∧
    r.a = ⟨c.a.base, c.a.log.filter fun e => decide (e.word ≤ c.lastMark)⟩ ∧
    r.fo = ⟨c.fo.base, c.fo.log.filter fun e => decide (e.word ≤ c.lastMark)⟩ ∧
    r.fi = ⟨c.fi.base, c.fi.log.filter fun e => decide (e.word ≤ c.lastMark)⟩ ∧
    r.fstat0 = c.fstat0 ∧ r.fstat = (c.fstat.filter fun e => decide (e.word ≤ c.lastMark)) ∧
    r.lfsr0 = c.lfsr0 ∧ r.lfsr = (c.lfsr.filter fun e => decide (e.word ≤ c.lastMark)) ∧
    (∀ j, r.queue j = (c.queue j).filter fun e => decide (e.word ≤ c.lastMark)) ∧
    r.gstores = (c.gstores.filter fun g => decide (g.word ≤ c.lastMark)) ∧
    (∀ i n, (∀ e ∈ c.u.log, e.idx = i → e.val = none → e.async = false) →
      r.rdU n i = .ok (c.u.log.foldl (fun v e => if e.idx = i then e.val.getD v else v) (AMap.get (if i = uMxc then 0x3FF#64 else 0#64) c.u.base i))) ∧
    (∀ (d : WReg) (i n : Nat), (∀ e ∈ c.w.log, e.idx = i → e.val = none → e.async = false) →
      r.read r.w d i n = .ok (c.w.log.foldl (fun v e => if e.idx = i then e.val.getD v else v) (AMap.get d c.w.base i))) ∧
    r.gs = c.gs ∧ r.nt0 = c.nt0 ∧ r.tiles = c.tiles ∧ r.mxf = c.mxf

/-- R115, with the opcode number of R29's map, the model's choice (log entry 91). Precise: everything that the word and later words have done is gone (`dropFrom`). -/
def Obligations.SoftwareTrap : Prop :=
  (∀ imm : BitVec 16, encode (.trap imm) = some ⟨.S, 0x32#8, imm, none⟩ ∧ decOp .S 0x32#8 imm none = .ok (.trap imm)) ∧
  ∀ (s : State) (f : Focus) (imm : BitVec 16), s.focus = some f → f.slot = 0 →
    ((s.ctx f.ctx).trapReady f.slot f.ent.word = false → exec (.trap imm) s = waits s) ∧
    ((s.ctx f.ctx).trapReady f.slot f.ent.word = true → (s.ctx f.ctx).chk = none →
      ∃ t, exec (.trap imm) s = .next t ∧
        (isControl (ctxCore f.ctx) = false ∨ (s.ctx f.ctx).stat.inTrap = false →
          (t.ctx f.ctx).trapCause = 0x09#64 ∧ (t.ctx f.ctx).trapVal = BitVec.ofNat 64 imm.toNat ∧
          (t.ctx f.ctx).trapPc = BitVec.ofNat 64 f.ent.pc) ∧
        (isControl (ctxCore f.ctx) = true → (s.ctx f.ctx).stat.inTrap = true → (t.ctx f.ctx).run = .halted) ∧
        t.mem = s.mem ∧ (∀ q, (t.core q).sp = (s.core q).sp ∧ (t.core q).wq = (s.core q).wq) ∧ (∀ j, j ≠ f.ctx → t.ctx j = s.ctx j) ∧
        (t.ctx f.ctx).queues = [] ∧ (∀ e ∈ (t.ctx f.ctx).s.log, e.word < f.ent.word) ∧ (∀ e ∈ (t.ctx f.ctx).p.log, e.word < f.ent.word) ∧
        (∀ e ∈ (t.ctx f.ctx).v.log, e.word < f.ent.word) ∧ (∀ e ∈ (t.ctx f.ctx).m.log, e.word < f.ent.word) ∧
        (∀ e ∈ (t.ctx f.ctx).a.log, e.word < f.ent.word) ∧ (∀ g ∈ (t.ctx f.ctx).gstores, g.word < f.ent.word) ∧
        (∀ o ∈ (t.ctx f.ctx).ops, o.word < f.ent.word) ∧ ∀ x ∈ (t.ctx f.ctx).sends, x.word < f.ent.word)

/-- R112 and R114: compute core, control core, and double trap. What a control core puts aside is log 106. -/
def Obligations.TrapEntry : Prop :=
  ∀ (s u : State) (k cause pc : Nat) (val : W64), u = (if (s.ctx k).chk.any (·.commit.isNone) then s.rollbackCtx k else s) →
    (isControl (ctxCore k) = false → (u.func (u.ctx k).stat.vf).flr = 0 →
      ∃ t, s.enterTrap k cause pc val = t ∧ (t.ctx k).trapCause = BitVec.ofNat 64 cause ∧ (t.ctx k).trapPc = BitVec.ofNat 64 pc ∧
        (t.ctx k).trapVal = val ∧ (t.ctx k).run = .trapped ∧ (t.ctx k).stat = (u.ctx k).stat ∧
        (t.cluster (ctxCluster k)).faults = (u.cluster (ctxCluster k)).faults ++ [⟨k, 0, false, cause, pc, val.toNat, 0, 0⟩] ∧
        (t.core (ctxCore k)).holder ≠ some k ∧ t.mem = u.mem ∧ ∀ j, j ≠ k → t.ctx j = u.ctx j) ∧
    (isControl (ctxCore k) = false → (u.func (u.ctx k).stat.vf).flr ≠ 0 →
      (s.enterTrap k cause pc val).cluster (ctxCluster k) = u.cluster (ctxCluster k) ∧ ((s.enterTrap k cause pc val).ctx k).run = .trapped) ∧
    (isControl (ctxCore k) = true → (u.ctx k).stat.inTrap = false →
      ∃ t, s.enterTrap k cause pc val = t ∧ (t.ctx k).trapCause = BitVec.ofNat 64 cause ∧ (t.ctx k).trapPc = BitVec.ofNat 64 pc ∧
        (t.ctx k).trapVal = val ∧ (t.ctx k).stat.inTrap = true ∧ (t.ctx k).pc = 0x20 ∧ (t.ctx k).run = .ready ∧
        (t.ctx k).s = (u.ctx k).s ∧ t.mem = u.mem ∧
        ((u.ctx k).chk.any (·.commit.isNone) = true →
          (t.ctx k).chk = none ∧ (t.ctx k).heldChk = (u.ctx k).chk.map fun x => (x, (u.ctx k).pc)) ∧
        ((u.ctx k).chk.any (·.commit.isNone) = false → (t.ctx k).chk = (u.ctx k).chk ∧ (t.ctx k).heldChk = (u.ctx k).heldChk)) ∧
    (isControl (ctxCore k) = true → (u.ctx k).stat.inTrap = true →
      ∃ t, s.enterTrap k cause pc val = t ∧ (t.ctx k).run = .halted ∧ (t.ctx k).trapCause = 0x1F#64 ∧
        (t.core (ctxCore k)).holder = none ∧ (t.core (ctxCore k)).halted = true ∧
        (u.errs.length < 65536 → (t.errs.map (·.kind)) = u.errs.map (·.kind) ++ [10]))

/-- R19, R21: nothing of the word or of later words takes effect. -/
def Obligations.PreciseTrapUndoesTheWord : Prop :=
  ∀ (s : State) (k n pc cause : Nat) (val : W64), (s.ctx k).chk = none → cause ≠ 0x0D → cause ≠ 0x13 → isControl (ctxCore k) = false →
    let c := s.ctx k
    let t := s.preciseTrap k n pc cause val
    t.mem = s.mem ∧ (∀ q, (t.core q).sp = (s.core q).sp ∧ (t.core q).wq = (s.core q).wq) ∧ (∀ j, j ≠ k → t.ctx j = s.ctx j) ∧
    (t.ctx k).queues = [] ∧ (t.ctx k).word = n ∧ (t.ctx k).pc = pc ∧ (t.ctx k).run = .trapped ∧
    (t.ctx k).s = ⟨c.s.base, c.s.log.filter fun e => decide (e.word < n)⟩ ∧
    (t.ctx k).p = ⟨c.p.base, c.p.log.filter fun e => decide (e.word < n)⟩ ∧
    (t.ctx k).v = ⟨c.v.base, c.v.log.filter fun e => decide (e.word < n)⟩ ∧
    (t.ctx k).vt = ⟨c.vt.base, c.vt.log.filter fun e => decide (e.word < n)⟩ ∧
    (t.ctx k).m = ⟨c.m.base, c.m.log.filter fun e => decide (e.word < n)⟩ ∧
    (t.ctx k).a = ⟨c.a.base, c.a.log.filter fun e => decide (e.word < n)⟩ ∧
    (t.ctx k).fo = ⟨c.fo.base, c.fo.log.filter fun e => decide (e.word < n)⟩ ∧
    (t.ctx k).fi = ⟨c.fi.base, c.fi.log.filter fun e => decide (e.word < n)⟩ ∧
    (t.ctx k).u = ⟨c.u.base, c.u.log.filter fun e => decide (e.word < n)⟩ ∧
    (t.ctx k).w = ⟨c.w.base, c.w.log.filter fun e => decide (e.word < n)⟩ ∧
    (t.ctx k).fstat0 = c.fstat0 ∧ (t.ctx k).fstat = (c.fstat.filter fun e => decide (e.word < n)) ∧
    (t.ctx k).lfsr0 = c.lfsr0 ∧ (t.ctx k).lfsr = (c.lfsr.filter fun e => decide (e.word < n)) ∧
    (t.ctx k).mxf = c.fstat.foldl (fun f e => if n ≤ e.word ∧ e.slot = 6 ∧ e.op = .raise then f ||| e.val.getD 0#8 else f) c.mxf ∧
    (t.ctx k).gstores = (c.gstores.filter fun g => decide (g.word < n)) ∧ (t.ctx k).ops = (c.ops.filter fun o => decide (o.word < n)) ∧
    (t.ctx k).sends = (c.sends.filter fun x => decide (x.word < n)) ∧ (t.ctx k).drains = (c.drains.filter fun d => decide (d.word < n)) ∧
    (t.ctx k).marks = (c.marks.filter fun m => decide (m.word < n)) ∧ (t.ctx k).stages = [] ∧ (t.ctx k).feed = none ∧
    (∀ e ∈ (t.core (ctxCore k)).scale, e.ctx = k → e.word < n) ∧
    (∀ q, q ≠ ctxCore k → (t.core q).scale = (s.core q).scale)

/-- R20's list, and what the check of item 2 of R21 answers. -/
def Obligations.PrivilegeTraps : Prop :=
  ∀ (c : Ctx) (m : BitVec 12) (v : CsrSrc) (sd sa : SReg) (b : SrcB) (aj : AReg) (o : BitVec 13) (k : BitVec 4) (nx : Bool),
    (c.stat.priv = false → 0x800 ≤ m.toNat →
      c.privFault (.csrw m v) = true ∧ c.privFault (.csrs m v) = true ∧ c.privFault (.csrc m v) = true) ∧
    (m.toNat < 0x800 → c.privFault (.csrw m v) = false) ∧ (c.stat.priv = true → c.privFault (.csrw m v) = false) ∧
    c.privFault (.launch sd sa b) = !c.stat.launch ∧ c.privFault (.rti nx) = !c.stat.inTrap ∧
    c.privFault (.sctl aj o) = (!c.stat.scale && !c.stat.priv) ∧ c.privFault (.sctlEnt k sa) = (!c.stat.scale && !c.stat.priv) ∧
    ∀ (n : Nat) (w : LongWord) (as pre post : List Act) (a : Act), as = pre ++ a :: post → a.on = true → c.privFault a.op = true →
      (∀ x ∈ pre, x.on = true → c.privFault x.op = false) → c.dispatchChecks n w as = .trap 0x02 (BitVec.ofNat 64 a.slot)

/-- R117. What happens where the handler interrupted a checkpoint is log 106. -/
def Obligations.ReturnFromTrap : Prop :=
  ∀ (s : State) (f : Focus) (nx : Bool), s.focus = some f →
    ((s.ctx f.ctx).stat.inTrap = true → (s.ctx f.ctx).allIssuedBefore f.ent.word = true →
      (s.ctx f.ctx).othersIssued f.slot f.ent.word = true → (s.ctx f.ctx).heldChk = none →
      ∃ t, exec (.rti nx) s = .next t ∧ t.focus = none ∧ (t.ctx f.ctx).stat = { (s.ctx f.ctx).stat with inTrap := false } ∧
        (t.ctx f.ctx).pc = (s.ctx f.ctx).trapPc.toNat + (if nx then 32 else 0) ∧ (t.ctx f.ctx).halt = false ∧
        (t.ctx f.ctx).s = (s.ctx f.ctx).s ∧ (t.ctx f.ctx).v = (s.ctx f.ctx).v ∧ (t.ctx f.ctx).p = (s.ctx f.ctx).p ∧
        (t.ctx f.ctx).trapCause = (s.ctx f.ctx).trapCause ∧ t.mem = s.mem ∧ ∀ j, j ≠ f.ctx → t.ctx j = s.ctx j) ∧
    (∀ (x : Checkpoint) (pc : Nat), (s.ctx f.ctx).stat.inTrap = true → (s.ctx f.ctx).allIssuedBefore f.ent.word = true →
      (s.ctx f.ctx).othersIssued f.slot f.ent.word = true → (s.ctx f.ctx).heldChk = some (x, pc) →
      (s.ctx f.ctx).marks = [] → (s.ctx f.ctx).passedTo f.ent.word = true →
      ∃ t, exec (.rti nx) s = .next t ∧ t.focus = none ∧ (t.ctx f.ctx).stat.inTrap = false ∧ (t.ctx f.ctx).pc = pc ∧
        (t.ctx f.ctx).heldChk = none ∧ (t.ctx f.ctx).chk = some ⟨f.ent.word, x.label, none⟩ ∧
        t.mem = s.mem) ∧
    ((s.ctx f.ctx).stat.inTrap = true →
      ((s.ctx f.ctx).allIssuedBefore f.ent.word = false ∨ (s.ctx f.ctx).othersIssued f.slot f.ent.word = false ∨
        ((s.ctx f.ctx).heldChk ≠ none ∧ ((s.ctx f.ctx).marks ≠ [] ∨ (s.ctx f.ctx).passedTo f.ent.word = false))) →
      exec (.rti nx) s = waits s) ∧
    ((s.ctx f.ctx).stat.inTrap = false → exec (.rti nx) s = .next (s.issueTrap f 0x02 0#64))

/-- R116 and R137; the commit of the last interval is R128's. That exit takes these steps one after the other is the model's reading
(log 46). -/
def Obligations.ExitEndsTheTask : Prop :=
  ∀ (s : State) (f : Focus), s.focus = some f →
    (∀ code rest, (s.ctx f.ctx).gstErr = code :: rest → (s.ctx f.ctx).allIssuedBefore f.ent.word = true →
      (∀ m ∈ (s.ctx f.ctx).marks, f.ent.word ≤ m.word) → s.gstOut f.ctx = false → isControl (ctxCore f.ctx) = false → (s.ctx f.ctx).chk = none →
      ∃ t, exec .exit s = .next t ∧ (t.ctx f.ctx).run = .trapped ∧ (t.ctx f.ctx).trapCause = 0x0C#64 ∧
        (t.ctx f.ctx).trapVal = BitVec.ofNat 64 code ∧ (t.ctx f.ctx).trapPc = BitVec.ofNat 64 f.ent.pc ∧ (t.ctx f.ctx).gstErr = rest) ∧
    ((s.ctx f.ctx).gstErr = [] → f.ent.checked = false →
      ((s.ctx f.ctx).allIssuedBefore f.ent.word = true → (s.ctx f.ctx).othersIssued f.slot f.ent.word = true → exec .exit s = passes s f) ∧
      ((s.ctx f.ctx).allIssuedBefore f.ent.word = false ∨ (s.ctx f.ctx).othersIssued f.slot f.ent.word = false → exec .exit s = waits s)) ∧
    ((s.ctx f.ctx).gstErr = [] → f.ent.checked = true → (s.ctx f.ctx).lastMark < f.ent.word →
      ((s.ctx f.ctx).marks = [] → (s.ctx f.ctx).passedTo f.ent.word = true →
        exec .exit s = .next ({ s with focus := none }.commitTo f.ctx f.ent.word ((s.ctx f.ctx).nextOf f.ent.word))) ∧
      ((s.ctx f.ctx).marks ≠ [] ∨ (s.ctx f.ctx).passedTo f.ent.word = false → exec .exit s = waits s)) ∧
    ((s.ctx f.ctx).gstErr = [] → f.ent.checked = true → f.ent.word ≤ (s.ctx f.ctx).lastMark →
      (s.quiet f.ctx = false → exec .exit s = waits s) ∧
      (s.quiet f.ctx = true →
        ∃ t, exec .exit s = .next t ∧ (t.ctx f.ctx).run = .free ∧ t.focus = none ∧ t.mem = s.mem ∧
          (∀ j, j ≠ f.ctx → t.ctx j = s.ctx j) ∧
          ∀ x, AMap.find? s.recs (s.ctx f.ctx).record = some x → AMap.find? t.recs (s.ctx f.ctx).record = some { x with live := x.live - 1 }))

/-- R118; the field rules are R55's, R61's, R292's and R298's; R51 to R61 and the privileged numbers. That a write of sys.swapthr reaches
every core of the cluster is the model's reading of R61's owning core (log 41). -/
def Obligations.ControlRegisters : Prop :=
  (∀ (s : State) (f : Focus) (sd : BitVec 4) (m : BitVec 12) (src : CsrSrc) (v old : W64), s.focus = some f →
    (s.csrGet f.ctx f.ent.word m = .ok v → exec (.csrd sd m) s = wroteS s f (sd.setWidth 5) v) ∧
    ((s.ctx f.ctx).rdCsrSrc f.ent.word src = .ok v → s.csrGet f.ctx f.ent.word 0x010#12 = .ok old →
      exec (.csrw 0x010#12 src) s = issued s f ((s.ctx f.ctx).putU f.ent.id uFmode (fmodeOf v)) ∧
      exec (.csrs 0x010#12 src) s = issued s f ((s.ctx f.ctx).putU f.ent.id uFmode (fmodeOf (old ||| v))) ∧
      exec (.csrc 0x010#12 src) s = issued s f ((s.ctx f.ctx).putU f.ent.id uFmode (fmodeOf (old &&& ~~~v)))) ∧
    ((s.ctx f.ctx).rdCsrSrc f.ent.word src = .ok v → s.csrGet f.ctx f.ent.word 0x013#12 = .ok old →
      exec (.csrw 0x013#12 src) s = issued s f ((s.ctx f.ctx).putU f.ent.id uTol (v &&& 0xFF#64)) ∧
      exec (.csrs 0x013#12 src) s = issued s f ((s.ctx f.ctx).putU f.ent.id uTol ((old ||| v) &&& 0xFF#64)) ∧
      exec (.csrc 0x013#12 src) s = issued s f ((s.ctx f.ctx).putU f.ent.id uTol ((old &&& ~~~v) &&& 0xFF#64))) ∧
    ((s.ctx f.ctx).rdCsrSrc f.ent.word src = .ok v →
      exec (.csrw 0x011#12 src) s = issued s f ((s.ctx f.ctx).raise f.ent.id (v.setWidth 8)) ∧
      exec (.csrs 0x012#12 src) s = issued s f ((s.ctx f.ctx).stepped f.ent.id (v.toNat % 2 ^ 32))) ∧
    ((s.ctx f.ctx).rdCsrSrc f.ent.word src = .ok v → (s.ctx f.ctx).allIssuedBefore f.ent.word = true →
      (s.ctx f.ctx).othersIssued f.slot f.ent.word = true →
      exec (.csrw 0x801#12 src) s = .next (({ s with svc := v.toNat % 4 } : State).retire f) ∧
      (∃ t, exec (.csrw 0x800#12 src) s = .next (State.retire t f) ∧
        ∀ j, j < 10 → (t.core (16 * ctxCluster f.ctx + j)).swapthr = if v.toNat % 2 ^ 32 = 0 then 1 else v.toNat % 2 ^ 32) ∧
      ∃ t, exec (.csrw 0x813#12 src) s = .next (State.retire t f) ∧ (t.func 3).tr = v &&& 0xFFFFFFF0007FFFFF#64) ∧
    (∀ x : W64, (fmodeOf x).toNat < 16 ∧ (fmodeOf x).toNat % 8 ≤ 4 ∧ (x.toNat % 8 ≤ 4 → (fmodeOf x).toNat = x.toNat % 16))) ∧
  (∀ (s : State) (k n : Nat) (j : Nat), j < 4 →
    s.csrGet k n 0x000#12 = .ok 0x01000000#64 ∧ s.csrGet k n 0x001#12 = .ok (s.ctxId k) ∧
    s.csrGet k n 0x002#12 = .ok (s.ctx k).statWord ∧ s.csrGet k n 0x003#12 = .ok (s.ctx k).resWord ∧
    s.csrGet k n (BitVec.ofNat 12 (0x020 + j)) = .ok (AMap.get 0#64 (s.ctx k).gs j) ∧
    s.csrGet k n 0x100#12 = .ok (s.ctx k).trapCause ∧ s.csrGet k n 0x101#12 = .ok (s.ctx k).trapPc ∧
    s.csrGet k n 0x102#12 = .ok (s.ctx k).trapVal ∧ s.csrGet k n 0x800#12 = .ok (BitVec.ofNat 64 (s.core (ctxCore k)).swapthr) ∧
    s.csrGet k n 0x801#12 = .ok (BitVec.ofNat 64 s.svc) ∧ s.csrGet k n 0x802#12 = .ok (s.cluster (ctxCluster k)).sd.word ∧
    s.csrGet k n 0x803#12 = .ok (BitVec.ofNat 64 s.rgen) ∧ s.csrGet k n 0x804#12 = .ok (s.cluster (ctxCluster k)).spare ∧
    s.csrGet k n 0x805#12 = .ok s.fwver ∧ s.csrGet k n (BitVec.ofNat 12 (0x810 + j)) = .ok (s.func j).tr ∧
    (k < 4096 → s.vertex < 2048 → (s.ctxId k).toNat / 2 ^ 21 = s.vertex ∧ (s.ctxId k).toNat / 2 ^ 9 % 8 = k % 8 ∧
      (s.ctxId k).toNat / 2 ^ 12 % 16 = coreK (ctxCore k)))

/-- R107: `ntreq`, `launch` and `watch` issue only after that word's own mark has committed. -/
def Obligations.IrrevocableOperations : Prop :=
  ∀ (s : State) (f : Focus) (sd sa sb : SReg) (b : SrcB) (tm : Option Ext) (x y z : W64), s.focus = some f →
    (s.ctx f.ctx).rdS f.ent.word sa = .ok x → (s.ctx f.ctx).rdS f.ent.word sb = .ok y → (s.ctx f.ctx).rdB f.ent.word b = .ok z →
    (f.ent.checked = false → exec (.launch sd sa b) s = passes s f ∧ exec (.watch sd sa sb tm) s = passes s f ∧ exec .ntreq s = passes s f) ∧
    (f.ent.checked = true → (s.ctx f.ctx).lastMark < f.ent.word →
      exec (.launch sd sa b) s = waits s ∧ exec (.watch sd sa sb tm) s = waits s ∧ exec .ntreq s = waits s) ∧
    (f.ent.checked = true → f.ent.word ≤ (s.ctx f.ctx).lastMark →
      (let c := s.ctx f.ctx
       let q := ctxCluster f.ctx
       let t := s.setCtx f.ctx { c with ops := c.ops ++ [{ Op.of f .launch sd with addr := x.toNat, b := z.toNat }] }
       exec (.launch sd sa b) s = .next ((t.setCluster q { s.cluster q with graphs := (s.cluster q).graphs ++
         [⟨f.ctx, f.ent.id, x.toNat, z.toNat, c.stat.vf, c.stat.priv, c.stat.launch⟩] }).retire f)) ∧
      (let va := x.toNat % 2 ^ 55 / 8 * 8
       exec (.watch sd sa sb tm) s = issued s f { s.ctx f.ctx with ops := (s.ctx f.ctx).ops ++ [{ Op.of f .watch sd with
         addr := va, b := y.toNat, c := (match tm with | some e => e.toNat * 1024 | none => 0), passed := false,
         pieces := [⟨0, va, 0, 8, none, false, [], .fresh, none⟩] }] }) ∧
      (let c := s.ctx f.ctx
       let q := ctxCluster f.ctx
       let t := s.setCtx f.ctx { c with nt := c.nt ++ [⟨f.ent.id, f.ent.word + 24, none⟩] }
       exec .ntreq s = .next ((t.setCluster q { s.cluster q with tileq := (s.cluster q).tileq ++ [⟨f.ctx, f.ent.id, c.record⟩] }).retire f)))

/-- The frame of every operation whose completion is stated with `issued`, `wroteS`, `wroteV`, `wroteM`, `wroteP`, `enters`
or `stored`. -/
def Obligations.IssuingOperationFrame : Prop :=
  (∀ (s t : State) (f : Focus) (c : Ctx), s.focus = some f → issued s f c = .next t →
    t.focus = none ∧ SameOutside s t f.ctx ∧
    { t.ctx f.ctx with queues := c.queues, yldWord := c.yldWord, yields := c.yields, yieldCyc := c.yieldCyc } = c ∧
    (t.ctx f.ctx).queue f.slot = (c.queue f.slot).filter (fun e => decide (e.id ≠ f.ent.id)) ∧
    ∀ j, j ≠ f.slot → (t.ctx f.ctx).queue j = c.queue j) ∧
  ∀ (c : Ctx) (id n : Nat),
    (∀ (r r' : SReg) v, r' ≠ r → (c.putS id r v).rdS n r' = c.rdS n r') ∧
    (∀ (r r' : VReg) v, r' ≠ r → (c.putV id r v).rdV n r' = c.rdV n r') ∧
    (∀ (r r' : MReg) v, r' ≠ r → (c.putM id r v).rdM n r' = c.rdM n r') ∧
    (∀ (i i' : Nat) v, i' ≠ i → (c.putU id i v).rdU n i' = c.rdU n i') ∧
    (∀ (r : SReg) v, (c.putS id r v).v = c.v ∧ (c.putS id r v).m = c.m ∧ (c.putS id r v).p = c.p ∧ (c.putS id r v).a = c.a) ∧
    (∀ (r : VReg) v, (c.putV id r v).s = c.s ∧ (c.putV id r v).m = c.m ∧ (c.putV id r v).vt = c.vt ∧ (c.putV id r v).a = c.a)

/-- R220. The candidates of a class are those of R167. -/
def Obligations.ToleranceShares : Prop :=
  (∀ (sd sa sb : SReg) (c : Bool), dests (.tolShare sd sa sb) = [⟨.s, sd.toNat, 2, false, false⟩] ∧
    dests (.tolMin sd sa c) = [⟨.s, sd.toNat, 2, false, false⟩] ∧
    encode (.tolShare sd sa sb) = some ⟨.K, 0x0E#8, sd ++ sa ++ sb ++ 0#1, none⟩ ∧
    encode (.tolMin sd sa c) = some ⟨.K, 0x0F#8, sd ++ sa ++ BitVec.ofBool c ++ 0#5, none⟩) ∧
  ∀ (s : State) (f : Focus) (sd sa sb : SReg) (x y : W64), s.focus = some f →
    (s.ctx f.ctx).rdS f.ent.word sa = .ok x → (s.ctx f.ctx).rdS f.ent.word sb = .ok y →
    (let t : Int := (x.toNat % 256 : Nat) + ((y.setWidth 8).toInt + (y.toNat / 256 % 256 : Nat))
     exec (.tolShare sd sa sb) s = wroteS s f sd (BitVec.ofInt 64 (if t < 0 then 0 else if 255 < t then 255 else t))) ∧
    (let d := x.toNat % 256
     let least : List Nat → Nat := fun gs => (gs.find? fun g => decide (d ≤ g)).getD 192
     exec (.tolMin sd sa false) s = wroteS s f sd (BitVec.ofNat 64 (least [12, 31, 55, 64, 88, 192])) ∧
     exec (.tolMin sd sa true) s = wroteS s f sd (BitVec.ofNat 64 (least [24, 32, 64, 88, 192])) ∧
     gradeOf (fitChoice false d) = least [12, 31, 55, 64, 88, 192] ∧ gradeOf (fitChoice true d) = least [24, 32, 64, 88, 192])

/-- R194, R211, R212, R219, R221. -/
def Obligations.PredictorAndIterationOperations : Prop :=
  ∀ (s : State) (f : Focus) (sd sa sb : SReg) (pc : PReg) (it : BitVec 2) (k : BitVec 4) (aj : AReg) (off : BitVec 13) (x y : W64) (p : Bool),
    s.focus = some f → (s.ctx f.ctx).rdS f.ent.word sa = .ok x → (s.ctx f.ctx).rdS f.ent.word sb = .ok y →
    (s.ctx f.ctx).rdP f.ent.word pc = .ok p →
    (f.ent.checked = false →
      exec (.ptRd sd sa) s = .next ({ s with focus := none }.setCtx f.ctx ((s.ctx f.ctx).stampQ f.slot f.ent.id s.now))) ∧
    (f.ent.checked = true → s.now < f.ent.cyc + 2 → exec (.ptRd sd sa) s = waits s) ∧
    (f.ent.checked = true → f.ent.cyc + 2 ≤ s.now → exec (.ptRd sd sa) s =
      wroteS s f sd ((AMap.get 0#32 (s.cluster (ctxCluster f.ctx)).pt (x.toNat % 16384)).setWidth 64)) ∧
    ((s.ctx f.ctx).remoteUsed < 16 →
      exec (.ptWr sa sb) s = entersGated s f { Op.of f .ptWr 0#5 with addr := x.toNat % 16384, b := y.toNat % 2 ^ 32 / 8 * 8 } ∧
      exec (.ptUpd sa pc) s = entersGated s f { Op.of f .ptUpd 0#5 with addr := x.toNat % 16384, b := if p then 1 else 0 } ∧
      exec (.ptClr sa sb) s = entersGated s f { Op.of f .ptClr 0#5 with addr := x.toNat % 16384, b := min y.toNat 16384 } ∧
      exec (.demand sd sa sb) s = entersGated s f { Op.of f .demand sd with
        addr := x.toNat % 65536, b := y.toNat % 256, c := (s.ctx f.ctx).record } ∧
      exec (.redem sd sa sb) s = entersGated s f { Op.of f .redem sd with
        addr := x.toNat % 65536, b := y.toNat % 256, c := (s.ctx f.ctx).record }) ∧
    exec (.itrDef it sa) s = issued s f ((s.ctx f.ctx).putU f.ent.id (uItr + it.toNat) x) ∧
    (∀ tol t : W64, (s.ctx f.ctx).rdU f.ent.word uTol = .ok tol → (s.ctx f.ctx).rdU f.ent.word (uItr + it.toNat) = .ok t →
      (∀ i : Nat, i < 8 → (∀ j : Nat, j < i → (t >>> (8 * j)).toNat % 256 < tol.toNat % 256) → tol.toNat % 256 ≤ (t >>> (8 * i)).toNat % 256 →
        exec (.itrFit sd it) s = wroteS s f sd (BitVec.ofNat 64 i)) ∧
      ((∀ j : Nat, j < 8 → (t >>> (8 * j)).toNat % 256 < tol.toNat % 256) → exec (.itrFit sd it) s = wroteS s f sd 0x8000000000000007#64)) ∧
    exec (.sctlEnt k sa) s = .next ((s.loadScale f (some k.toNat) [x.setWidth 32]).retire f) ∧
    (∀ b t, (s.ctx f.ctx).rdA f.ent.word aj = .ok (b, t) → s.readable f (b.toNat + 64 * off.toNat : Nat) 64 64 →
      exec (.sctl aj off) s = .next ((s.loadScale f none ((List.range 16).map fun i =>
        BitVec.ofNat 32 (leNat (s.spRead f.ctx f.ent.word (b.toNat + 64 * off.toNat + 4 * i) 4)))).retire f))

/-- R210: CONF in bits 31 to 29, HIT in 28 to 16, MISS in 15 to 3. That an update waits for those of earlier instructions of its core
(`ptHeld`) and which comes first is R285 as the model reads it beside R212 (log 116). -/
def Obligations.PredictorTableUpdates : Prop :=
  (∀ conf hit miss : Nat, conf < 8 → hit < 8192 → miss < 8192 →
    let e : Nat → Nat → Nat → W32 := fun c h m => BitVec.ofNat 32 (c * 2 ^ 29 + h * 2 ^ 16 + m * 8)
    ptHit (e conf hit miss) = e (min (conf + 1) 7) (min (hit + 1) 8191) miss ∧
    ptMiss (e conf hit miss) = e (conf - 1) hit (min (miss + 1) 8191) ∧
    ptUnseen (e conf hit miss) = e conf hit (min (miss + 1) 8191)) ∧
  (∀ (t : AMap W32) (i j : Nat) (v : W32), (t.map (·.1)).Pairwise (· < ·) →
    (AMap.get 0#32 (ptApply t (.put i v)) j = if j = i then v else AMap.get 0#32 t j) ∧
    (AMap.get 0#32 (ptApply t (.hit i)) j = if j = i then ptHit (AMap.get 0#32 t i) else AMap.get 0#32 t j) ∧
    (AMap.get 0#32 (ptApply t (.miss i)) j = if j = i then ptMiss (AMap.get 0#32 t i) else AMap.get 0#32 t j) ∧
    ∀ n, i < 16384 → j < 16384 → n ≤ 16384 →
      AMap.get 0#32 (ptApply t (.clr i n)) j = if (j + 16384 - i) % 16384 < n then 0#32 else AMap.get 0#32 t j) ∧
  (∀ (s : State) (q : Nat), s.nextPt q = none → exec (.predictorTableApply q) s = .next s) ∧
  (∀ (s : State) (q i : Nat) (r : PtReq), s.nextPt q = some (i, r) →
    (s.cluster q).ptq[i]? = some r ∧ s.ptHeld r = false ∧
    (r.byResolve = false → ∀ (j : Nat) (x : PtReq), j < i → (s.cluster q).ptq[j]? = some x → x.byResolve = false →
      ctxCore x.ctx ≠ ctxCore r.ctx) ∧
    (∀ (j : Nat) (x : PtReq), (s.cluster q).ptq[j]? = some x → x.byResolve = true → s.ptHeld x = false → x.before r = false) ∧
    ∃ t, exec (.predictorTableApply q) s = .next t ∧ (t.cluster q).pt = ptApply (s.cluster q).pt r.ev ∧
      (t.cluster q).ptq = (s.cluster q).ptq.eraseIdx i ∧
      (r.byResolve = false → t.ctx r.ctx = (s.ctx r.ctx).dropOp r.op) ∧
      t.mem = s.mem ∧ (∀ c, c ≠ r.ctx → t.ctx c = s.ctx c) ∧ ∀ j, j ≠ q → t.cluster j = s.cluster j)

/-- R169 to R172, lane by lane. -/
def Obligations.SortStageResults : Prop :=
  (∀ (s : State) (f : Focus) (vd : VReg) (c : BitVec 11), s.focus = some f →
    ∃ v, exec (.srtIota vd c) s = wroteV s f vd v ∧ ∀ j, j < 64 → lane v j = BitVec.ofNat 32 (64 * c.toNat + j)) ∧
  (∀ (s : State) (f : Focus) (vk : BitVec 4) (dist flip : BitVec 3) (ks ps : VBits) (t : Tag), s.focus = some f →
    dist.toNat ≤ 5 → flip.toNat ≤ 5 → (s.ctx f.ctx).rdV f.ent.word (vk ++ 0#1) = .ok ks →
    (s.ctx f.ctx).rdV f.ent.word (vk ++ 1#1) = .ok ps → (s.ctx f.ctx).rdVt f.ent.word (vk ++ 0#1) = .ok t →
    ∀ asc : Bool, ∃ ks' ps', exec (if asc then .srtCeA vk dist flip else .srtCeD vk dist flip) s =
        issued s f (((s.ctx f.ctx).putV f.ent.id (vk ++ 0#1) ks').putV f.ent.id (vk ++ 1#1) ps') ∧
      ∀ l, l < 64 → l / 2 ^ dist.toNat % 2 = 0 →
        let h := l + 2 ^ dist.toNat
        let up : Bool := if flip.toNat ≠ 0 ∧ l / 2 ^ flip.toNat % 2 = 1 then !asc else asc
        if precedes t up (lane ks h) (lane ps h) (lane ks l) (lane ps l) = true then
          lane ks' l = lane ks h ∧ lane ps' l = lane ps h ∧ lane ks' h = lane ks l ∧ lane ps' h = lane ps l
        else lane ks' l = lane ks l ∧ lane ps' l = lane ps l ∧ lane ks' h = lane ks h ∧ lane ps' h = lane ps h) ∧
  (∀ (s : State) (f : Focus) (va vb : BitVec 4) (ka pa kb pb : VBits) (t : Tag), s.focus = some f →
    (s.ctx f.ctx).rdV f.ent.word (va ++ 0#1) = .ok ka → (s.ctx f.ctx).rdV f.ent.word (va ++ 1#1) = .ok pa →
    (s.ctx f.ctx).rdV f.ent.word (vb ++ 0#1) = .ok kb → (s.ctx f.ctx).rdV f.ent.word (vb ++ 1#1) = .ok pb →
    (s.ctx f.ctx).rdVt f.ent.word (va ++ 0#1) = .ok t →
    ∃ ka' pa' kb' pb', exec (.srtTop va vb) s = issued s f (((((s.ctx f.ctx).putV f.ent.id (va ++ 0#1) ka').putV f.ent.id (va ++ 1#1) pa').putV
        f.ent.id (vb ++ 0#1) kb').putV f.ent.id (vb ++ 1#1) pb') ∧
      ∀ j, j < 64 → if precedes t false (lane kb j) (lane pb j) (lane ka j) (lane pa j) = true then
          lane ka' j = lane kb j ∧ lane pa' j = lane pb j ∧ lane kb' j = lane ka j ∧ lane pb' j = lane pa j
        else lane ka' j = lane ka j ∧ lane pa' j = lane pa j ∧ lane kb' j = lane kb j ∧ lane pb' j = lane pb j) ∧
  (∀ (a b p q : W32), (a.toInt < b.toInt → precedes tI32 true a p b q = true ∧ precedes tI32 false b p a q = true ∧
      precedes tI32 true b p a q = false) ∧
    (precedes tI32 true a p a q = decide (p.toNat < q.toNat)) ∧ (precedes tI32 false a p a q = decide (p.toNat < q.toNat)) ∧
    (a.toNat % 2 ^ 31 > 0x7F800000 → b.toNat % 2 ^ 31 ≤ 0x7F800000 →
      precedes tF32 false a p b q = true ∧ precedes tF32 true b p a q = true ∧ precedes tF32 false a p a q = decide (p.toNat < q.toNat)))

/-- R121 to R124, R127, R350. `readable` says when a load neither traps nor waits. That the load waits until an earlier word's store
that may conflict has issued is the model's reading of R121 (log 40). -/
def Obligations.ScratchpadLoads : Prop :=
  (∀ (c : Ctx) (n : Nat) (aj : AReg) (o : BitVec 8) (e : Ext) (u : Nat) (b t : BitVec 24), c.rdA n aj = .ok (b, t) →
    c.ea n aj (.imm o) u = .ok ((b.toNat + o.toNat * u : Nat) : Int) ∧ c.ea n aj (.ext e : Off8) u = .ok (b.toNat + e.toInt)) ∧
  (∀ (s : State) (f : Focus) (sd : SReg) (vd : VReg) (mk : MReg) (aj : AReg) (o : Off8) (a : Int), s.focus = some f →
    (let le : Nat → Nat := fun n => leNat (s.spRead f.ctx f.ent.word a.toNat n)
     let sx : Nat → W64 := fun n => BitVec.ofInt 64 (if 2 ^ (8 * n - 1) ≤ le n then (le n : Int) - 2 ^ (8 * n) else le n)
     let c := s.ctx f.ctx
     (c.ea f.ent.word aj o 1 = .ok a → s.readable f a 1 1 →
       exec (.ldB sd aj o) s = wroteS s f sd (sx 1) ∧ exec (.ldBu sd aj o) s = wroteS s f sd (BitVec.ofNat 64 (le 1))) ∧
     (c.ea f.ent.word aj o 2 = .ok a → s.readable f a 2 2 →
       exec (.ldH sd aj o) s = wroteS s f sd (sx 2) ∧ exec (.ldHu sd aj o) s = wroteS s f sd (BitVec.ofNat 64 (le 2))) ∧
     (c.ea f.ent.word aj o 4 = .ok a → s.readable f a 4 4 →
       exec (.ldW sd aj o) s = wroteS s f sd (sx 4) ∧ exec (.ldWu sd aj o) s = wroteS s f sd (BitVec.ofNat 64 (le 4))) ∧
     (c.ea f.ent.word aj o 8 = .ok a → s.readable f a 8 8 →
       exec (.ldD sd aj o) s = wroteS s f sd (BitVec.ofNat 64 (le 8)) ∧ exec (.ldM mk aj o) s = wroteM s f mk (BitVec.ofNat 64 (le 8))) ∧
     (c.ea f.ent.word aj o 16 = .ok a →
       (s.readable f a 256 16 → ∀ i ∈ [Instr.ldVF32 vd aj o, .ldVF16 vd aj o, .ldVBf16 vd aj o, .ldVE4m3 vd aj o, .ldVE5m2 vd aj o,
         .ldVI8 vd aj o, .ldVI32 vd aj o], exec i s = wroteV s f vd (BitVec.ofNat 2048 (le 256))) ∧
       (s.readable f a 144 16 → ∀ i ∈ [Instr.ldVSx7 vd aj o, .ldVAq8 vd aj o], exec i s = wroteV s f vd (BitVec.ofNat 2048 (le 144))) ∧
       (s.readable f a 96 16 → exec (.ldVSx4 vd aj o) s = wroteV s f vd (BitVec.ofNat 2048 (le 96))) ∧
       (s.readable f a 64 16 → exec (.ldVSx2 vd aj o) s = wroteV s f vd (BitVec.ofNat 2048 (le 64)))) ∧
     (∀ (ty : BitVec 2) (o6 : Off6) (len : Nat), len = (if ty.toNat < 2 then 4 else 2) → c.ea f.ent.word aj o6 len = .ok a →
       s.readable f a len len →
       exec (.ldVBcast vd aj ty o6) s = wroteV s f vd (ofElems (8 * len) (List.replicate (256 / len) (le len)))) ∧
     (c.ea f.ent.word aj o 8 = .ok a →
       (c.outside a 8 = true → exec (.ldD sd aj o) s = .next (s.issueTrap f 0x04 (BitVec.ofInt 64 a))) ∧
       (c.outside a 8 = false → a % 8 ≠ 0 → exec (.ldD sd aj o) s = .next (s.issueTrap f 0x05 (BitVec.ofInt 64 a))) ∧
       (c.outside a 8 = false → a % 8 = 0 → c.storesPending f.ent.word [(a, 8)] = true → exec (.ldD sd aj o) s = waits s) ∧
       (∀ x, c.outside a 8 = false → a % 8 = 0 → c.storesPending f.ent.word [(a, 8)] = false → c.wmStall a.toNat 8 = false →
         (s.core (ctxCore f.ctx)).eccAt a.toNat 8 = some x → exec (.ldD sd aj o) s = .next (s.issueTrap f 0x15 (eccVal 0 x)))))) ∧
  (∀ (c : Ctx) (a : Int) (n : Nat), c.outside a n = true ↔ a < 0 ∨ 0x400000 < a + n ∨
    (c.stat.priv = false ∧ (a < c.splo ∨ (c.sphi : Int) < a + n - 1)))

/-- R121, R122, R126, R128, R222; `stored` adds one gated store of the given bytes. -/
def Obligations.ScratchpadStores : Prop :=
  (∀ (s : State) (f : Focus) (sd sa : SReg) (mk : MReg) (aj : AReg) (o : Off8) (a : Int) (v m : W64), s.focus = some f →
    (s.ctx f.ctx).storeUsed f.ent.word < 64 → (s.ctx f.ctx).rdS f.ent.word sd = .ok v → (s.ctx f.ctx).rdM f.ent.word mk = .ok m →
    (let c := s.ctx f.ctx
     let cells : W64 → Nat → List (Nat × Byte) := fun x n => (List.range n).map fun i => (a.toNat + i, (x >>> (8 * i)).setWidth 8)
     (c.ea f.ent.word aj o 1 = .ok a → s.writable f a 1 1 → exec (.stB sd aj o) s = stored s f (cells v 1)) ∧
     (c.ea f.ent.word aj o 2 = .ok a → s.writable f a 2 2 → exec (.stH sd aj o) s = stored s f (cells v 2)) ∧
     (c.ea f.ent.word aj o 4 = .ok a → s.writable f a 4 4 → exec (.stW sd aj o) s = stored s f (cells v 4)) ∧
     (c.ea f.ent.word aj o 8 = .ok a → s.writable f a 8 8 → exec (.stD sd aj o) s = stored s f (cells v 8) ∧
       exec (.stM mk aj o) s = stored s f (cells m 8)) ∧
     (∀ (b t : BitVec 24) (off : BitVec 7) (x : W64) (env : FpEnv) (fl : Flags), c.rdA f.ent.word aj = .ok (b, t) →
       c.rdS f.ent.word sa = .ok x → c.rdEnv f.ent.word = .ok env → c.rdFstat f.ent.word = .ok fl →
       s.writable f (b.toNat + 64 * off.toNat : Nat) 64 64 →
       exec (.stGrade aj sa false off) s = stored s f [(b.toNat + 64 * off.toNat + 60, x.setWidth 8)] ∧
       exec (.stGrade aj sa true off) s = stored s f [(b.toNat + 64 * off.toNat + 60,
         if fl &&& 0xE4#8 ≠ 0#8 then 0#8 else if env.rm = 0 then x.setWidth 8 else BitVec.ofNat 8 (x.toNat % 256 - 8))]))) ∧
  (∀ (s t : State) (f : Focus) (cells : List (Nat × Byte)), s.focus = some f → stored s f cells = .next t →
    t.mem = s.mem ∧ (∀ q, (t.core q).sp = (s.core q).sp ∧ (t.core q).wq = (s.core q).wq) ∧ SameOutside s t f.ctx ∧
    (t.ctx f.ctx).s = (s.ctx f.ctx).s ∧ (t.ctx f.ctx).p = (s.ctx f.ctx).p ∧ (t.ctx f.ctx).v = (s.ctx f.ctx).v ∧
    (t.ctx f.ctx).vt = (s.ctx f.ctx).vt ∧ (t.ctx f.ctx).m = (s.ctx f.ctx).m ∧ (t.ctx f.ctx).a = (s.ctx f.ctx).a ∧
    (t.ctx f.ctx).u = (s.ctx f.ctx).u ∧ (t.ctx f.ctx).fstat = (s.ctx f.ctx).fstat ∧ (t.ctx f.ctx).lfsr = (s.ctx f.ctx).lfsr ∧
    (∀ n a, (∀ p ∈ cells, p.1 ≠ a) → t.spByte f.ctx n a = s.spByte f.ctx n a) ∧
    (∀ k n a, k ≠ f.ctx → t.spByte k n a = s.spByte k n a) ∧
    (∀ n a, n ≤ f.ent.word → t.spByte f.ctx n a = s.spByte f.ctx n a) ∧
    ∀ n a b, f.ent.word < n → lastByte cells a = some b →
      (∀ g ∈ (s.ctx f.ctx).gstores, g.word < f.ent.word ∨ (g.word = f.ent.word ∧ g.slot ≤ f.slot) ∨ lastByte g.cells a = none) →
      t.spByte f.ctx n a = b) ∧
  (∀ (s : State) (f : Focus) (sd : SReg) (aj : AReg) (o : Off8) (a : Int) (v : W64), s.focus = some f → 64 ≤ (s.ctx f.ctx).storeUsed f.ent.word →
    (s.ctx f.ctx).rdS f.ent.word sd = .ok v → (s.ctx f.ctx).ea f.ent.word aj o 8 = .ok a → s.writable f a 8 8 →
    ((s.ctx f.ctx).inSpec = true → exec (.stD sd aj o) s = waits s) ∧
    ((s.ctx f.ctx).chk = none → (s.ctx f.ctx).specAhead f.ent.word = false → ∃ t, exec (.stD sd aj o) s = .next t ∧
      (t.ctx f.ctx).marks = insertMark ⟨f.ent.word, (s.ctx f.ctx).nextOf f.ent.word, true⟩ (s.ctx f.ctx).marks ∧
      (t.ctx f.ctx).gstores.length = (s.ctx f.ctx).gstores.length + 1))

/-- R125 and R126. -/
def Obligations.LaneIndexedAndVectorStores : Prop :=
  ∀ (s : State) (f : Focus) (vd vi : VReg) (aj : AReg) (mk : BitVec 2) (mk3 : MReg) (i32 : Bool) (d : Option Ext) (o : Off5)
    (b t : BitVec 24) (idx v : VBits) (m : W64) (tag : Tag) (a : Int), s.focus = some f →
    (s.ctx f.ctx).rdA f.ent.word aj = .ok (b, t) → (s.ctx f.ctx).rdV f.ent.word vi = .ok idx →
    (let c := s.ctx f.ctx
     let n := f.ent.word
     let at' : Nat → Int := fun j => b.toNat + (lane idx j).toInt + (match d with | some e => e.toInt | none => 0)
     (c.rdM n (mk.setWidth 3) = .ok m → c.storesPending n (((List.range 64).filter fun j => m.getLsbD j).map fun j => (at' j, 4)) = false →
       (∀ j, j < 64 → m.getLsbD j = true → s.readable f (at' j) 4 4) →
       ∃ r, exec (.ldVx vd aj vi i32 mk d) s = wroteV s f vd r ∧
         ∀ j, j < 64 → lane r j = if m.getLsbD j then BitVec.ofNat 32 (leNat (s.spRead f.ctx n (at' j).toNat 4)) else 0#32) ∧
     (c.rdM n mk3 = .ok m → c.rdV n vd = .ok v → c.storeUsed n < 64 →
       ((∀ j, j < 64 → m.getLsbD j = true → s.writable f (at' j) 4 4) →
         exec (.stVx vd aj vi mk3 d) s = stored s f (((List.range 64).filter fun j => m.getLsbD j).flatMap fun j =>
           (List.range 4).map fun i => ((at' j).toNat + i, (lane v j >>> (8 * i)).setWidth 8))) ∧
       (c.ea n aj o 16 = .ok a → c.rdVt n vd = .ok tag →
         (s.writable f a (tagBytes tag) 16 →
           exec (.stV vd aj mk3 o) s = stored s f (((List.range (tagBytes tag)).filter fun i => m.getLsbD (i / 4)).map fun i =>
             (a.toNat + i, v.extractLsb' (8 * i) 8))) ∧
         (a % 4 = 0 → (let js := (List.range 64).filter fun j => m.getLsbD j
           (∀ i, i < js.length → s.writable f (a + 4 * i) 4 4) →
           exec (.stVCmp vd aj mk3 o) s = stored s f ((js.flatMap fun j => (List.range 4).map fun i => (lane v j >>> (8 * i)).setWidth 8).zipIdx.map
             fun p => (a.toNat + p.2, p.1)))))) ∧
     tagBytes tRAW = 256 ∧ tagBytes tF32 = 256 ∧ tagBytes tI8 = 256 ∧ tagBytes tSX7 = 144 ∧ tagBytes tSX4 = 96 ∧ tagBytes tSX2 = 64 ∧
     tagBytes tAQ8 = 144)

/-- R152 to R154; `w` is the element's width. -/
def Obligations.VectorFloatResults : Prop :=
  ∀ (s : State) (f : Focus) (o : VaOp) (env : FpEnv) (a b d : VBits) (mk : W64) (l : W32), s.focus = some f →
    (s.ctx f.ctx).rdEnv f.ent.word = .ok env → (s.ctx f.ctx).rdV f.ent.word o.va = .ok a → (s.ctx f.ctx).rdV f.ent.word o.vb = .ok b →
    (match o.mk with | some m => (s.ctx f.ctx).rdM f.ent.word m | none => .ok (BitVec.allOnes 64)) = .ok mk →
    (env.rm = 4 → (s.ctx f.ctx).rdLfsr f.ent.word f.slot = .ok l) →
    (let el : VBits → Nat → Nat → Nat := fun v w i => (v.extractLsb' (w * i) w).toNat
     let act : Nat → Nat → Bool := fun w i => mk.getLsbD (w * i / 32)
     let result : Instr → Nat → Bool → (Nat → Nat → Nat × Flags) → Prop := fun i w rounds g =>
       let st : Bool := rounds && decide (env.rm = 4)
       let k : Nat → Nat := fun j => ((List.range j).filter (act w)).length
       let draw : Nat → Nat := fun j => if st then drawOf (stepsLfsr (k j + 1) l) else 0
       ∃ v : VBits, (∀ j, j < 2048 / w → v.extractLsb' (w * j) w =
           if act w j then BitVec.ofNat w (g j (draw j)).1 else d.extractLsb' (w * j) w) ∧
         exec i s = issued s f ((((s.ctx f.ctx).putV f.ent.id o.vd v).raise f.ent.id
           (((List.range (2048 / w)).filter (act w)).foldl (fun fl j => fl ||| (g j (draw j)).2) 0#8)).stepped f.ent.id
           (if st then k (2048 / w) else 0))
     ((o.mk.isSome = true → (s.ctx f.ctx).rdV f.ent.word o.vd = .ok d) →
       result (.vaddF32 o) 32 true (fun j r => fpAdd .f32 env r (el a 32 j) (el b 32 j)) ∧
       result (.vsubF32 o) 32 true (fun j r => fpSub .f32 env r (el a 32 j) (el b 32 j)) ∧
       result (.vmulF32 o) 32 true (fun j r => fpMul .f32 env r (el a 32 j) (el b 32 j)) ∧
       result (.vminF32 o) 32 false (fun j _ => fpMinMax false .f32 env (el a 32 j) (el b 32 j)) ∧
       result (.vmaxF32 o) 32 false (fun j _ => fpMinMax true .f32 env (el a 32 j) (el b 32 j)) ∧
       result (.vaddBf16 o) 16 true (fun j r => fpAdd .bf16 env r (el a 16 j) (el b 16 j)) ∧
       result (.vsubBf16 o) 16 true (fun j r => fpSub .bf16 env r (el a 16 j) (el b 16 j)) ∧
       result (.vmulBf16 o) 16 true (fun j r => fpMul .bf16 env r (el a 16 j) (el b 16 j)) ∧
       result (.vminBf16 o) 16 false (fun j _ => fpMinMax false .bf16 env (el a 16 j) (el b 16 j)) ∧
       result (.vmaxBf16 o) 16 false (fun j _ => fpMinMax true .bf16 env (el a 16 j) (el b 16 j))) ∧
     ((s.ctx f.ctx).rdV f.ent.word o.vd = .ok d →
       result (.vfmaF32 o) 32 true (fun j r => fpFma .f32 env r (el a 32 j) (el b 32 j) (el d 32 j)) ∧
       result (.vfmaBf16 o) 16 true (fun j r => fpFma .bf16 env r (el a 16 j) (el b 16 j) (el d 16 j))))

/-- R154 and R157. -/
def Obligations.VectorUnaryFloatResults : Prop :=
  (∀ (s : State) (f : Focus) (o : VuOp) (env : FpEnv) (a d : VBits) (mk : W64), s.focus = some f →
    (s.ctx f.ctx).rdEnv f.ent.word = .ok env → (s.ctx f.ctx).rdV f.ent.word o.va = .ok a →
    (match o.mk with | some m => (s.ctx f.ctx).rdM f.ent.word m | none => .ok (BitVec.allOnes 64)) = .ok mk →
    (o.mk.isSome = true → (s.ctx f.ctx).rdV f.ent.word o.vd = .ok d) →
    (let el : Nat → Nat → Nat := fun w i => (a.extractLsb' (w * i) w).toNat
     let act : Nat → Nat → Bool := fun w i => mk.getLsbD (w * i / 32)
     let result : Instr → Nat → (Nat → Nat × Flags) → Prop := fun i w g =>
       ∃ v : VBits, (∀ j, j < 2048 / w → v.extractLsb' (w * j) w =
           if act w j then BitVec.ofNat w (g j).1 else d.extractLsb' (w * j) w) ∧
         exec i s = issued s f ((((s.ctx f.ctx).putV f.ent.id o.vd v).raise f.ent.id
           (((List.range (2048 / w)).filter (act w)).foldl (fun fl j => fl ||| (g j).2) 0#8)).stepped f.ent.id 0)
     let est : EstFn → Nat → Nat × Flags := fun fn j =>
       ((estimate fn env.ftz (BitVec.ofNat 32 (el 32 j))).1.toNat, (estimate fn env.ftz (BitVec.ofNat 32 (el 32 j))).2)
     result (.vabsF32 o) 32 (fun j => fpAbsNeg false .f32 env (el 32 j)) ∧ result (.vnegF32 o) 32 (fun j => fpAbsNeg true .f32 env (el 32 j)) ∧
     result (.vabsBf16 o) 16 (fun j => fpAbsNeg false .bf16 env (el 16 j)) ∧ result (.vnegBf16 o) 16 (fun j => fpAbsNeg true .bf16 env (el 16 j)) ∧
     result (.vrcpF32 o) 32 (est .rcp) ∧ result (.vrsqrtF32 o) 32 (est .rsqrt) ∧
     result (.vexp2F32 o) 32 (est .exp2) ∧ result (.vlog2F32 o) 32 (est .log2))) ∧
  (∀ (ftz : Bool) (n : W32), (∀ x : W32, x.toNat % 2 ^ 31 > 0x7F800000 → ∀ fn, (estimate fn ftz x).1 = 0x7FC00000#32 ∧
      (estimate fn ftz x).2 = if x.getLsbD 22 then 0#8 else fNV) ∧
    estimate .rcp ftz 0#32 = (0x7F800000#32, fDZ) ∧ estimate .rcp ftz 0x80000000#32 = (0xFF800000#32, fDZ) ∧
    estimate .rsqrt ftz 0#32 = (0x7F800000#32, fDZ) ∧ estimate .rsqrt ftz 0x80000000#32 = (0xFF800000#32, fDZ) ∧
    estimate .exp2 ftz 0#32 = (0x3F800000#32, 0#8) ∧ estimate .log2 ftz 0#32 = (0xFF800000#32, fDZ) ∧
    estimate .log2 ftz 0x80000000#32 = (0xFF800000#32, fDZ) ∧
    estimate .rcp ftz 0x7F800000#32 = (0#32, 0#8) ∧ estimate .rcp ftz 0xFF800000#32 = (0x80000000#32, 0#8) ∧
    estimate .rsqrt ftz 0x7F800000#32 = (0#32, 0#8) ∧ estimate .exp2 ftz 0x7F800000#32 = (0x7F800000#32, 0#8) ∧
    estimate .exp2 ftz 0xFF800000#32 = (0#32, 0#8) ∧ estimate .log2 ftz 0x7F800000#32 = (0x7F800000#32, 0#8) ∧
    (0x00800000 ≤ n.toNat % 2 ^ 31 → n.toNat % 2 ^ 31 ≤ 0x7F800000 → n.getLsbD 31 = true →
      estimate .rsqrt ftz n = (0x7FC00000#32, fNV) ∧ estimate .log2 ftz n = (0x7FC00000#32, fNV)))

/-- R155, R159 to R161. -/
def Obligations.VectorIntegerAndMoveResults : Prop :=
  (∀ (s : State) (f : Focus) (o : VaOp) (a b d : VBits) (mk : W64), s.focus = some f →
    (s.ctx f.ctx).rdV f.ent.word o.va = .ok a → (s.ctx f.ctx).rdV f.ent.word o.vb = .ok b →
    (match o.mk with | some m => (s.ctx f.ctx).rdM f.ent.word m | none => .ok (BitVec.allOnes 64)) = .ok mk →
    (o.mk.isSome = true → (s.ctx f.ctx).rdV f.ent.word o.vd = .ok d) →
    (let result : Instr → (W32 → W32 → W32) → Prop := fun i g => ∃ v, exec i s = wroteV s f o.vd v ∧
       ∀ j, j < 64 → lane v j = if mk.getLsbD j then g (lane a j) (lane b j) else lane d j
     result (.vaddI32 o) (fun x y => x + y) ∧ result (.vsubI32 o) (fun x y => x - y) ∧ result (.vmulI32 o) (fun x y => x * y) ∧
     result (.vminI32 o) (fun x y => if x.toInt ≤ y.toInt then x else y) ∧ result (.vmaxI32 o) (fun x y => if x.toInt ≤ y.toInt then y else x) ∧
     result (.vand o) (fun x y => x &&& y) ∧ result (.vor o) (fun x y => x ||| y) ∧ result (.vxor o) (fun x y => x ^^^ y) ∧
     result (.vshl o) (fun x y => x <<< (y.toNat % 32)) ∧ result (.vshr o) (fun x y => x >>> (y.toNat % 32)) ∧
     result (.vsar o) (fun x y => x.sshiftRight (y.toNat % 32)))) ∧
  ∀ (s : State) (f : Focus) (vd va vi : VReg) (vb : BitVec 3) (mk : MReg) (n : BitVec 6) (sa : SReg) (im : BitVec 10) (a b d i : VBits) (m x : W64),
    s.focus = some f → (s.ctx f.ctx).rdV f.ent.word va = .ok a →
    (let takes : Instr → (Nat → W32) → Prop := fun op g => ∃ v, exec op s = wroteV s f vd v ∧ ∀ j, j < 64 → lane v j = g j
     takes (.vbcast vd va n) (fun _ => lane a n.toNat) ∧ takes (.vrot vd va n) (fun j => lane a ((j + n.toNat) % 64)) ∧
     ((s.ctx f.ctx).rdV f.ent.word vi = .ok i → takes (.vperm vd va vi) (fun j => lane a ((lane i j).toNat % 64))) ∧
     ((s.ctx f.ctx).rdM f.ent.word mk = .ok m →
       ((s.ctx f.ctx).rdV f.ent.word (vb.setWidth 5) = .ok b →
         takes (.vsel vd va vb mk) (fun j => if m.getLsbD j then lane a j else lane b j)) ∧
       ((s.ctx f.ctx).rdV f.ent.word vd = .ok d → takes (.vmov vd va mk) (fun j => if m.getLsbD j then lane a j else lane d j))) ∧
     takes (.vsplatF32 vd (.imm im)) (fun _ => BitVec.ofNat 32 (im.toNat * 2 ^ 22)) ∧
     takes (.vsplatI32 vd (.imm im)) (fun _ => BitVec.ofInt 32 im.toInt) ∧
     ((s.ctx f.ctx).rdS f.ent.word sa = .ok x →
       takes (.vsplatF32 vd (.reg sa)) (fun _ => x.setWidth 32) ∧ takes (.vsplatI32 vd (.reg sa)) (fun _ => x.setWidth 32)))

/-- R162. -/
def Obligations.MaskOperationResults : Prop :=
  (∀ (md ma mb : MReg) (sd : SReg), encode (.mand md ma mb) = some ⟨.V, 0x2A#8, md ++ ma ++ mb ++ 0#7, none⟩ ∧
    encode (.mor md ma mb) = some ⟨.V, 0x2B#8, md ++ ma ++ mb ++ 0#7, none⟩ ∧
    encode (.mxor md ma mb) = some ⟨.V, 0x2C#8, md ++ ma ++ mb ++ 0#7, none⟩ ∧
    encode (.mandn md ma mb) = some ⟨.V, 0x2D#8, md ++ ma ++ mb ++ 0#7, none⟩ ∧
    encode (.mpop sd ma) = some ⟨.V, 0x2E#8, sd ++ ma ++ 0#8, none⟩) ∧
  ∀ (s : State) (f : Focus) (md ma mb : MReg) (sd : SReg) (x y : W64), s.focus = some f →
    (s.ctx f.ctx).rdM f.ent.word ma = .ok x → (s.ctx f.ctx).rdM f.ent.word mb = .ok y →
    exec (.mand md ma mb) s = wroteM s f md (x &&& y) ∧ exec (.mor md ma mb) s = wroteM s f md (x ||| y) ∧
    exec (.mxor md ma mb) s = wroteM s f md (x ^^^ y) ∧ exec (.mandn md ma mb) s = wroteM s f md (x &&& ~~~y) ∧
    exec (.mandn md 0#3 mb) s = wroteM s f md (~~~y) ∧
    exec (.mpop sd ma) s = wroteS s f sd (BitVec.ofNat 64 ((List.range 64).filter fun i => x.getLsbD i).length)

/-- R156 and R158. That vred.max.f32 leaves bits 63 to 32 of sd zero is the model's choice (log 104). -/
def Obligations.VectorCompareAndReductionResults : Prop :=
  (∀ (s : State) (f : Focus) (cond : BitVec 3) (md : MReg) (va vb : VReg) (env : FpEnv) (a b : VBits), s.focus = some f →
    (s.ctx f.ctx).rdV f.ent.word va = .ok a → (s.ctx f.ctx).rdV f.ent.word vb = .ok b →
    (∃ m : W64, exec (.vcmpI32 cond md va vb) s = wroteM s f md m ∧ ∀ j, j < 64 → m.getLsbD j =
      (let x := lane a j
       let y := lane b j
       match cond.toNat with
       | 0 => decide (x = y) | 1 => decide (x ≠ y) | 2 => decide (x.toInt < y.toInt) | 3 => decide (x.toInt ≤ y.toInt)
       | 4 => decide (x.toInt > y.toInt) | 5 => decide (x.toInt ≥ y.toInt) | 6 => decide (x.toNat < y.toNat) | _ => decide (x.toNat ≤ y.toNat))) ∧
    ((s.ctx f.ctx).rdEnv f.ent.word = .ok env →
      (let c : ElemFmt → Nat → Nat → Bool × Bool := fun fm w i => fpCond cond.toNat (fm.dec env.ftz (a.extractLsb' (w * i) w).toNat)
         (fm.dec env.ftz (b.extractLsb' (w * i) w).toNat)
       (∃ m, exec (.vcmpF32 cond md va vb) s = issued s f (((s.ctx f.ctx).putM f.ent.id md m).raise f.ent.id
           (if (List.range 64).any (fun i => (c .f32 32 i).2) then fNV else 0#8)) ∧ ∀ j, j < 64 → m.getLsbD j = (c .f32 32 j).1) ∧
       (∃ m, exec (.vcmpBf16 cond md va vb) s = issued s f (((s.ctx f.ctx).putM f.ent.id md m).raise f.ent.id
           (if (List.range 128).any (fun i => (c .bf16 16 i).2) then fNV else 0#8)) ∧
         ∀ j, j < 64 → m.getLsbD j = ((c .bf16 16 (2 * j)).1 && (c .bf16 16 (2 * j + 1)).1))))) ∧
  (∀ (s : State) (f : Focus) (sd : SReg) (va : VReg) (mk : MReg) (env : FpEnv) (a : VBits) (m : W64) (l : W32), s.focus = some f →
    (s.ctx f.ctx).rdV f.ent.word va = .ok a → (s.ctx f.ctx).rdM f.ent.word mk = .ok m →
    exec (.vredAddI32 sd va mk) s = wroteS s f sd
      (BitVec.ofInt 64 ((((List.range 64).filter fun j => m.getLsbD j).foldl (fun t j => t + lane a j) 0#32).toInt)) ∧
    ((s.ctx f.ctx).rdEnv f.ent.word = .ok env →
      ((env.rm = 4 → (s.ctx f.ctx).rdLfsr f.ent.word f.slot = .ok l) →
        ∃ y : Nat → Nat → Nat, (∀ j, j < 64 → y 0 j = if m.getLsbD j then (lane a j).toNat else 0) ∧
          (let sum : Nat → Nat → Nat × Flags := fun k j => fpAdd .f32 env
             (if env.rm = 4 then drawOf (stepsLfsr (64 - 64 / 2 ^ k + j + 1) l) else 0) (y k (2 * j)) (y k (2 * j + 1))
           (∀ k j, k < 6 → j < 32 / 2 ^ k → y (k + 1) j = (sum k j).1) ∧
           exec (.vredAddF32 sd va mk) s = issued s f ((((s.ctx f.ctx).putS f.ent.id sd (BitVec.ofNat 64 (y 6 0))).raise f.ent.id
             ((List.range 6).foldl (fun fl k => (List.range (32 / 2 ^ k)).foldl (fun fl j => fl ||| (sum k j).2) fl) 0#8)).stepped f.ent.id
             (if env.rm = 4 then 63 else 0)))) ∧
      (let x : Nat → XV := fun j => dec32 env.ftz (lane a j)
       let on : List Nat := (List.range 64).filter fun j => m.getLsbD j
       ∃ r, exec (.vredMaxF32 sd va mk) s = issued s f ((((s.ctx f.ctx).putS f.ent.id sd (BitVec.ofNat 64 r)).raise f.ent.id
           (if on.any (fun j => (x j).isSig) then fNV else 0#8)).stepped f.ent.id 0) ∧
         (on.any (fun j => (x j).isNan) = true → r = 0x7FC00000) ∧ (on = [] → r = 0xFF800000) ∧
         (on.any (fun j => (x j).isNan) = false → ∀ j ∈ on, XV.cmp (fmt32.decode r) (x j) ≠ -1) ∧
         (on.any (fun j => (x j).isNan) = false → on ≠ [] → ∃ j ∈ on, XV.cmp (fmt32.decode r) (x j) = 0))))

/-- R164 to R168, over the conversions and quantisers of the number formats. -/
def Obligations.ConversionResults : Prop :=
  (∀ (s : State) (f : Focus) (vd va : VReg) (t src old : Tag) (part : BitVec 2) (env : FpEnv) (a d : VBits) (tbl : List W32) (l : W32),
    s.focus = some f → (s.ctx f.ctx).rdEnv f.ent.word = .ok env → (s.ctx f.ctx).rdV f.ent.word va = .ok a →
    (s.ctx f.ctx).rdVt f.ent.word va = .ok src → (s.ctx f.ctx).rdVt f.ent.word vd = .ok old →
    (old = t → (s.ctx f.ctx).rdV f.ent.word vd = .ok d) → (old ≠ t → d = 0#2048) →
    (if isSX src then s.scaleFor f.ctx f.ent.word else .ok []) = .ok tbl → 1 ≤ src.toNat → src.toNat ≤ 0xB → 1 ≤ t.toNat → t.toNat ≤ 7 →
    part.toNat * min (tagCount src) (tagCount t) < max (tagCount src) (tagCount t) →
    (env.rm = 4 → cvtRounds src t = true → (s.ctx f.ctx).rdLfsr f.ent.word f.slot = .ok l) →
    (let n := min (tagCount src) (tagCount t)
     let w := elemBits t
     let st : Bool := decide (env.rm = 4) && cvtRounds src t
     let so := if tagCount t < tagCount src then n * part.toNat else 0
     let dof := if tagCount t < tagCount src then 0 else n * part.toNat
     let r : Nat → Nat × Flags := fun i => cvtElem src t env (if st then drawOf (stepsLfsr (i + 1) l) else 0) (regElem src tbl a.toNat (so + i))
     ∃ v : VBits, exec (.cvt vd va t part) s = issued s f ((((s.ctx f.ctx).putV f.ent.id vd v).raise f.ent.id
         ((List.range n).foldl (fun fl i => fl ||| (r i).2) 0#8)).stepped f.ent.id (if st then n else 0)) ∧
       ∀ i, i < tagCount t → v.extractLsb' (w * i) w =
         if dof ≤ i ∧ i < dof + n then BitVec.ofNat w (r (i - dof)).1 else d.extractLsb' (w * i) w)) ∧
  (∀ (s : State) (f : Focus) (vd va : VReg) (vk k : BitVec 4) (fmt : BitVec 2) (cls : Bool) (env : FpEnv) (xs : List XV) (src : Tag) (tol : W64)
      (tbl : List W32) (l : W32), s.focus = some f → (s.ctx f.ctx).rdSrc f.ent.word va = .ok xs →
    ((s.ctx f.ctx).rdEnv f.ent.word = .ok env → (env.rm = 4 → (s.ctx f.ctx).rdLfsr f.ent.word f.slot = .ok l) →
    (s.scaleFor f.ctx f.ent.word = .ok tbl →
     let t := if fmt = 0#2 then tSX7 else if fmt = 1#2 then tSX4 else tSX2
     let q := sxOf t tbl k.toNat env xs l
     exec (.cvtSx vd va fmt k) s = issued s f ((((s.ctx f.ctx).putV f.ent.id vd (BitVec.ofNat 2048 (leNat q.1))).raise f.ent.id q.2).stepped f.ent.id
       (if env.rm = 4 then 128 else 0))) ∧
    ((s.ctx f.ctx).rdVt f.ent.word va = .ok src → (s.ctx f.ctx).rdU f.ent.word uTol = .ok tol →
     let t := fitChoice cls (tol.toNat % 256)
     let lo : VReg := vk ++ 0#1
     let hi : VReg := vk ++ 1#1
     let st : Bool := decide (env.rm = 4) && cvtRounds src t
     let r := runElems st (xs.map fun x => ⟨true, 0, fun d => cvtElem src t env d x⟩) (if st then l else 0#32)
     (isSX t = true → s.scaleFor f.ctx f.ent.word = .ok tbl → (let q := sxOf t tbl k.toNat env xs l
       exec (.cvtFit vk va cls k) s = issued s f ((((((s.ctx f.ctx).putVt f.ent.id lo t).putV f.ent.id lo (BitVec.ofNat 2048 (leNat q.1))).unputV
         f.ent.id hi).raise f.ent.id q.2).stepped f.ent.id (if env.rm = 4 then 128 else 0)))) ∧
     (t = tF32 → exec (.cvtFit vk va cls k) s = issued s f (((((((s.ctx f.ctx).putVt f.ent.id lo t).putVt f.ent.id hi t).putV f.ent.id lo
       (ofElems 32 (r.vals.take 64))).putV f.ent.id hi (ofElems 32 (r.vals.drop 64))).raise f.ent.id r.flags).stepped f.ent.id r.steps)) ∧
     (isSX t = false → t ≠ tF32 → exec (.cvtFit vk va cls k) s = issued s f ((((((s.ctx f.ctx).putVt f.ent.id lo t).putV f.ent.id lo
       (ofElems (elemBits t) r.vals)).unputV f.ent.id hi).raise f.ent.id r.flags).stepped f.ent.id r.steps)))) ∧
    (∀ q, aqQuantise xs = some q → exec (.cvtAq8 vd va) s = issued s f (((((s.ctx f.ctx).putV f.ent.id vd (BitVec.ofNat 2048 (leNat q.bytes))).putVt
      f.ent.id vd tAQ8).raise f.ent.id (if q.clamped then fQCL else 0#8)).stepped f.ent.id 0)) ∧
    (aqQuantise xs = none → exec (.cvtAq8 vd va) s = issued s f (((((s.ctx f.ctx).putV f.ent.id vd
      (ofElems 16 (xs.map fun x => (fmtBf.round 0 0 x).1))).putVt f.ent.id vd tBF16).raise f.ent.id 0#8).stepped f.ent.id 0)))

/-- R177 to R179; the governor's policy is R366's. -/
def Obligations.MatrixConfigurationAndPermits : Prop :=
  (∀ (s : State) (f : Focus) (sd sa : SReg) (lvl : BitVec 2) (v : BitVec 10) (x : W64), s.focus = some f →
    (∃ w, exec (.mxCfg (.ext v)) s = issued s f ((s.ctx f.ctx).putU f.ent.id uMxc w) ∧ mxcRows w = v.toNat % 128 + 1 ∧ mxcGroups w = v.toNat / 128 + 1) ∧
    ((s.ctx f.ctx).rdS f.ent.word sa = .ok x →
      exec (.mxCfg (.reg sa)) s = issued s f ((s.ctx f.ctx).putU f.ent.id uMxc (BitVec.ofNat 64 (x.toNat % 1024)))) ∧
    ((s.ctx f.ctx).allIssuedBefore f.ent.word = false ∨ (s.ctx f.ctx).othersIssued f.slot f.ent.word = false →
      exec (.mxPermit sd lvl) s = passes s f ∧ exec .mxRel s = passes s f) ∧
    ((s.ctx f.ctx).allIssuedBefore f.ent.word = true → (s.ctx f.ctx).othersIssued f.slot f.ent.word = true →
      exec .mxRel s = .next ((s.dropPermit f.ctx).retire f) ∧
      (let u := s.dropPermit f.ctx
       let d := clusterDie (ctxCluster f.ctx)
       exec (.mxPermit sd lvl) s = .next (((u.setCtx f.ctx { u.ctx f.ctx with permit := some ⟨f.ent.id, lvl.toNat, false⟩ }).setDie d
         { u.die d with queue := (u.die d).queue ++ [(f.ctx, f.ent.id, lvl.toNat)] }).retire f)))) ∧
  (∀ (s : State) (k : Nat) (p : Permit),
    (let d := clusterDie (ctxCluster k)
     ((s.ctx k).permit = none → s.dropPermit k = s) ∧
     ((s.ctx k).permit = some p → p.granted = true →
       s.dropPermit k = (s.setCtx k { s.ctx k with permit := none }).setDie d { s.die d with held := (s.die d).held - 2 ^ p.lvl }) ∧
     ((s.ctx k).permit = some p → p.granted = false →
       s.dropPermit k = (s.setCtx k { (s.ctx k).putTok p.id (BitVec.ofNat 64 (2 ^ 63 + 2 ^ 48)) with permit := none }).setDie d
         { s.die d with queue := (s.die d).queue.filter fun q => decide (q.1 ≠ k) }))) ∧
  ∀ (s : State) (d k id lvl : Nat) (rest : List (Nat × Nat × Nat)), (s.die d).queue = (k, id, lvl) :: rest →
    ((s.die d).hold = true ∨ (s.die d).budget < (s.die d).held + 2 ^ lvl → exec (.permitGrant d) s = .next s) ∧
    ((s.die d).hold = false → (s.die d).held + 2 ^ lvl ≤ (s.die d).budget →
      exec (.permitGrant d) s = .next ((s.setDie d { s.die d with queue := rest, held := (s.die d).held + 2 ^ lvl }).setCtx k
        { (s.ctx k).putTok id (BitVec.ofNat 64 (2 ^ 63 + lvl)) with permit := (s.ctx k).permit.map fun p => { p with granted := true } }))

/-- R173, R180 to R183. `writeW` is the write of a weight register. -/
def Obligations.WeightRegisterOperations : Prop :=
  (∀ (c : Ctx) (f : Focus) (w : Nat) (t : Tag) (m : List (List XV)) (rd : Nat),
    (t ≠ tF32 → w % 2 = 0 → c.writeW f w t m rd = .ok (c.postW f w ⟨t, false, m, rd, [], 0⟩)) ∧
    (t = tF32 → c.writeW f w t m rd = .ok ((c.postW f w ⟨t, false, m, rd, [], 0⟩).postW f (w + 1) ⟨tRAW, false, [], rd, [], 0⟩)) ∧
    (∀ e, t ≠ tF32 → w % 2 = 1 → c.rdW f.ent.word (w - 1) = .ok e → e.tag ≠ tF32 →
      c.writeW f w t m rd = .ok (c.postW f w ⟨t, false, m, rd, [], 0⟩))) ∧
  (∀ (t : Tag) (tbl : List W32) (rows : List (List Byte)) (r e : Nat), rows.length = 128 → r < 128 → e < 128 →
    mAt (wMatrix t tbl false rows) e r = (segElems t tbl (rows.getD r [])).getD e XV.zero ∧
    mAt (wMatrix t tbl true rows) r e = (segElems t tbl (rows.getD r [])).getD e XV.zero) ∧
  (∀ (s : State) (f : Focus) (wd : BitVec 2) (kx : BitVec 3) (aj : AReg) (t : Tag) (disp : Option Ext) (tr : Bool) (b st : BitVec 24)
      (tbl : List W32) (c' : Ctx), s.focus = some f → (s.ctx f.ctx).rdA f.ent.word aj = .ok (b, st) →
    (if isSX t then s.scaleFor f.ctx f.ent.word else .ok []) = .ok tbl →
    (let c := s.ctx f.ctx
     let n := f.ent.word
     let rb := rowBytes t
     let row : Nat → Int := fun r => b.toNat + (match disp with | some e => e.toInt | none => 0) + r * st.toInt
     let ready : Nat → Prop := fun w => ∃ x, c.rdW n w = .ok x ∧ x.ready ≤ s.now
     ready wd.toNat → (t = tF32 → ready (wd.toNat + 1)) →
     ((∀ r, r < 128 → s.readable f (row r) rb 16) →
        c.writeW f wd.toNat t (wMatrix t tbl tr ((List.range 128).map fun r => s.spRead f.ctx n (row r).toNat rb)) (s.now + (8 + rb / 4)) = .ok c' →
        exec (if tr then .mxLdT wd aj t disp else .mxLd wd aj t disp) s = issued s f c') ∧
     ((∀ r, r < 128 → c.outside (row r) rb = false ∧ row r % 16 = 0) →
       (c.stageOf n f.slot = none → c.allIssuedBefore n = false → exec (.mxLdr wd aj t kx tr disp) s = waits s) ∧
       (c.stageOf n f.slot = none → c.allIssuedBefore n = true → exec (.mxLdr wd aj t kx tr disp) s =
         .next ({ s with focus := none }.setCtx f.ctx { c with stages := c.stages ++
           [(⟨n, f.slot, s.coreFor (ctxCluster f.ctx) kx.toNat, (List.range 128).map (fun r => (row r).toNat), rb, none, none, 0⟩ : Stage)] })) ∧
       (∀ g rows, c.stageOf n f.slot = some g → g.rows = some rows → (s.core (s.coreFor (ctxCluster f.ctx) kx.toNat)).ecc = [] →
         c.writeW f wd.toNat t (wMatrix t tbl tr rows) (g.arrived + (8 + rb / 4)) = .ok c' →
         exec (.mxLdr wd aj t kx tr disp) s = issued s f (c'.dropStage n f.slot))))) ∧
  ∀ (s : State) (f : Focus) (wd ws : BitVec 2) (tr : Bool) (x y : WReg) (c' : Ctx), s.focus = some f →
    (s.ctx f.ctx).rdW f.ent.word ws.toNat = .ok x → x.ready ≤ s.now →
    ((s.ctx f.ctx).rdW f.ent.word wd.toNat = .ok y → y.ready ≤ s.now →
      (x.tag = tF32 → ∃ z, (s.ctx f.ctx).rdW f.ent.word (wd.toNat + 1) = .ok z ∧ z.ready ≤ s.now) →
      (s.ctx f.ctx).writeW f wd.toNat x.tag (if tr then transposeM x.w else x.w) (s.now + (8 + rowBytes x.tag / 4)) = .ok c' →
      exec (.mxWsel wd ws tr) s = issued s f c') ∧
    (∀ m r e, r < 128 → e < 128 → mAt (transposeM m) r e = mAt m e r) ∧
    exec (.mxCsum ws) s = issued s f ((s.ctx f.ctx).postW f ws.toNat { x with csv := true, sums := colSums x.w, sumReady := s.now + 24 })

/-- R184 to R187; `writeRows` writes the rows of one pass that are due. That a pass reads a row in error as its word's operand is the
model's reading of R350 (log 118). -/
def Obligations.MatrixPasses : Prop :=
  (∀ (s : State) (f : Focus) (acc : BitVec 3) (w op : BitVec 2) (st : SReg) (set ninf : Bool), s.focus = some f →
    (let c := s.ctx f.ctx
     let n := f.ent.word
     let run : Instr := if set then .mxRunSet acc w op st else .mxRun acc w op st
     (f.ent.checked = false → c.issuedBefore 4 n = true → c.permit = none → exec run s = .next (s.issueTrap f 0x0F 0#64)) ∧
     (f.ent.checked = false → c.issuedBefore 4 n = true → c.permit ≠ none → c.stCheck n st = .ok () →
       (set = false → ∃ m, c.rdU n uMxc = .ok m ∧ s.eccTile f.ctx acc.toNat (mxcRows m) = .ok ()) → exec run s = passes s f) ∧
     (∀ m i, f.ent.checked = false → c.issuedBefore 4 n = true → c.permit ≠ none → set = false → c.rdU n uMxc = .ok m → i < mxcRows m →
       s.tileBad f.ctx acc.toNat i = true → ∃ v, exec run s = .next (s.issueTrap f 0x15 v)) ∧
     (f.ent.checked = true → c.lastMark < n → exec run s = waits s ∧ exec (.mxClr acc ninf) s = waits s) ∧
     (∀ (p : Permit) (x m : W64) (r : WReg) (env : FpEnv) (b : FeedBuf), f.ent.checked = true → n ≤ c.lastMark →
       c.rdS n st = .ok x → c.rdW n w.toNat = .ok r → c.rdU n uMxc = .ok m → c.rdEnv n = .ok env → c.feed = some b → b.word = n →
       c.permit = some p → p.granted = true → r.ready ≤ s.now →
       (feedTag b.tag r.tag = tAQ8 → r.sumReady ≤ s.now) → (s.core (ctxCore f.ctx)).passCyc + (s.core (ctxCore f.ctx)).passInt ≤ s.now →
       c.accBusy acc.toNat = false →
       exec run s = .next (((s.setCtx f.ctx { c with passes := c.passes ++
           [⟨f.ent.id, n, acc.toNat, s.now, m.toNat % 128 + 1, env.ftz, .run set op.toNat (m.toNat / 128 % 8 + 1) b.rows r.w, 0⟩], feed := none }).setCore
         (ctxCore f.ctx) { s.core (ctxCore f.ctx) with passCyc := s.now, passInt := (max (max (fmtInterval (feedTag b.tag r.tag)) (fmtInterval r.tag)) (256 / 2 ^ p.lvl)) }).retire f)) ∧
     (f.ent.checked = false → exec (.mxClr acc ninf) s = passes s f) ∧
     (f.ent.checked = true → n ≤ c.lastMark → c.accBusy acc.toNat = false →
       exec (.mxClr acc ninf) s = issued s f { c with passes := c.passes ++
         [⟨f.ent.id, n, acc.toNat, s.now, 128, false, .clr ninf, 0⟩] }))) ∧
  (∀ (p : Pass) (i : Nat) (old : List W32) (set : Bool) (op g : Nat) (a w : List (List XV)),
    (p.kind = .clr false → p.row i old = (List.replicate 128 0#32, 0#8)) ∧
    (p.kind = .clr true → p.row i old = (List.replicate 128 0xFF800000#32, 0#8)) ∧
    (p.kind = .run set op g a w → ∀ n, n < 128 → (p.row i old).1.getD n 0#32 =
      ((List.range g).foldl (fun (x : W32) j => (accStep op p.ftz x (groupVal op p.ftz
          ((List.range 16).map fun k => (a.getD i []).getD (16 * j + k) XV.zero) ((List.range 16).map fun k => mAt w (16 * j + k) n)).1).1)
        (if set then (if op = 2 then 0xFF800000#32 else 0#32) else old.getD n 0#32)))) ∧
  (∀ (c : Ctx) (t : Nat) (p : Pass) (i : Nat), p.done ≤ i → i < p.n → p.cyc + 136 + i ≤ t →
    (c.writeRows t p).1.tileRow p.tile i = (p.row i (c.tileRow p.tile i)).1) ∧
  (∀ (c : Ctx) (t : Nat) (p : Pass) (i j : Nat), (j ≠ p.tile ∨ i < p.done ∨ p.n ≤ i ∨ t < p.cyc + 136 + i) →
    (c.writeRows t p).1.tileRow j i = c.tileRow j i) ∧
  ∀ (s : State) (q : Nat), ∃ t, exec (.passRowWrite q) s = .next t ∧ t.mem = s.mem ∧ t.cores = s.cores ∧
    (∀ k, k ∈ coreKeys q → t.ctx k = (s.ctx k).settleRows s.now) ∧ ∀ k, k ∉ coreKeys q → t.ctx k = s.ctx k

/-- R187 to R193, R195. Where feeds of one rendezvous give different m, the opener's closes it: the model's choice (log 129). -/
def Obligations.DrainsAndFeeds : Prop :=
  (∀ (s : State) (f : Focus) (st : SReg) (acc : BitVec 3) (cv : BitVec 2) (strm : BitVec 4) (rows : Option (BitVec 7)), s.focus = some f →
    (let c := s.ctx f.ctx
     let cnt := match rows with | some r => r.toNat + 1 | none => 128
     (c.streamOpen strm.toNat = false → exec (.mxDrain st acc cv strm rows) s = .next (s.issueTrap f 0x10 (BitVec.ofNat 64 strm.toNat))) ∧
     (c.streamOpen strm.toNat = true → 2 ≤ c.drains.length → exec (.mxDrain st acc cv strm rows) s = waits s) ∧
     (c.streamOpen strm.toNat = true → c.drains.length < 2 → c.accBusy acc.toNat = false →
       ∃ d : DrainOp, exec (.mxDrain st acc cv strm rows) s = issued s f { c with drains := c.drains ++ [d] } ∧ d.id = f.ent.id ∧
         d.word = f.ent.word ∧ d.strm = strm.toNat ∧ some d.coll = c.streamOf strm.toNat ∧ d.released = false ∧ d.sent = 0 ∧ d.rows.length = cnt ∧
         ∀ i, i < cnt → d.rows[i]? = some (rowPacket cv.toNat strm.toNat i (decide (i + 1 = cnt)) (c.rowAt acc.toNat (s.now + i) i))))) ∧
  (∀ (s : State) (f : Focus) (aj ak : AReg) (fk : BitVec 2) (fmt t : Tag) (wl kx mem : BitVec 3) (m : W64) (b st bk sk off : BitVec 24)
      (inc : BitVec 16) (tbl : List W32), s.focus = some f → (s.ctx f.ctx).issuedBefore 4 f.ent.word = true →
    (s.ctx f.ctx).rdU f.ent.word uMxc = .ok m → (s.ctx f.ctx).rdFeedTag f.ent.word fmt = .ok t →
    (s.ctx f.ctx).rdA f.ent.word aj = .ok (b, st) → (s.ctx f.ctx).rdA f.ent.word ak = .ok (bk, sk) → (s.ctx f.ctx).rdFo f.ent.word fk = .ok off →
    (s.ctx f.ctx).rdFi f.ent.word fk = .ok inc → (if isSX t then s.scaleFor f.ctx f.ent.word else .ok []) = .ok tbl →
    (let c := s.ctx f.ctx
     let n := f.ent.word
     let rows := m.toNat % 128 + 1
     let plain : Nat → Int := fun i => b.toNat + off.toNat + i * st.toInt
     let win : Nat → Int := fun i => b.toNat + off.toNat + ((i / 2 ^ wl.toNat : Nat) : Int) * sk.toInt + ((i % 2 ^ wl.toNat : Nat) : Int) * st.toInt
     let inside : (Nat → Int) → Prop := fun g => ∀ i, i < rows → c.outside (g i) (rowBytes t) = false ∧ g i % 16 = 0
     let clear : (Nat → Int) → Prop := fun g => ∀ i, i < rows → c.wmStall (g i).toNat (rowBytes t) = false
     let fed : List (List Byte) → Ctx := fun bs => { c.dropStage n f.slot with feed := some ⟨n, t, bs.map (segElems t tbl)⟩ }
     let own : (Nat → Int) → List (List Byte) := fun g => (List.range rows).map fun i => s.feedRead f.ctx n (g i).toNat (rowBytes t)
     let stepped : Ctx → Ctx := fun x => { x with fo := x.fo.fill f.ent.id fk.toNat (off + inc.signExtend 24) .plain }
     (inside plain → f.ent.checked = false → exec (.fdA aj fk fmt) s = passes s f ∧ exec (.fdAr aj fk fmt kx) s = passes s f) ∧
     (inside win → f.ent.checked = false → exec (.fdWin aj ak fk fmt wl) s = passes s f ∧ exec (.fdTap aj ak fk fmt wl) s = passes s f) ∧
     (f.ent.checked = true → n ≤ c.lastMark → (s.core (ctxCore f.ctx)).ecc = [] →
       (inside plain → clear plain → exec (.fdA aj fk fmt) s = issued s f (stepped (fed (own plain)))) ∧
       (inside win → clear win → exec (.fdWin aj ak fk fmt wl) s = issued s f (fed (own win)) ∧
         exec (.fdTap aj ak fk fmt wl) s = issued s f (stepped (fed (own win))))) ∧
     (inside plain → f.ent.checked = true →
       (c.stageOf n f.slot = none → c.allIssuedBefore n = true → exec (.fdAr aj fk fmt kx) s =
         .next ({ s with focus := none }.setCtx f.ctx { c with stages := c.stages ++ [(⟨n, f.slot, s.coreFor (ctxCluster f.ctx) kx.toNat,
           (List.range rows).map (fun i => (plain i).toNat), rowBytes t, none, none, 0⟩ : Stage)] })) ∧
       (∀ g bs, c.stageOf n f.slot = some g → g.rows = some bs → n ≤ c.lastMark → (s.core (s.coreFor (ctxCluster f.ctx) kx.toNat)).ecc = [] →
         exec (.fdAr aj fk fmt kx) s = issued s f (stepped (fed bs)) ∧ exec (.fdAMc aj fk fmt kx mem) s = issued s f (stepped (fed bs)))))) ∧
  (∀ (s : State) (f : Focus) (fk : BitVec 2) (sa : SReg) (o : BitVec 13) (i : BitVec 12) (m x : W64), s.focus = some f →
    ((s.ctx f.ctx).rdU f.ent.word uMxc = .ok m → f.ent.checked = true → f.ent.word ≤ (s.ctx f.ctx).lastMark →
      exec .fdZ s = issued s f { s.ctx f.ctx with feed := some ⟨f.ent.word, tRAW,
        List.replicate (m.toNat % 128 + 1) (List.replicate 128 XV.zero)⟩ }) ∧
    ((s.ctx f.ctx).rdS f.ent.word sa = .ok x →
      exec (.fdOff fk (.imm o)) s = issued s f { s.ctx f.ctx with fo := (s.ctx f.ctx).fo.fill f.ent.id fk.toNat (BitVec.ofNat 24 (512 * o.toNat)) .plain } ∧
      exec (.fdInc fk (.imm i)) s = issued s f { s.ctx f.ctx with fi := (s.ctx f.ctx).fi.fill f.ent.id fk.toNat (BitVec.ofInt 16 (16 * i.toInt)) .plain } ∧
      exec (.fdOff fk (.reg sa)) s = issued s f { s.ctx f.ctx with fo := (s.ctx f.ctx).fo.fill f.ent.id fk.toNat (x.setWidth 24) .plain } ∧
      exec (.fdInc fk (.reg sa)) s = issued s f { s.ctx f.ctx with fi := (s.ctx f.ctx).fi.fill f.ent.id fk.toNat (x.setWidth 16) .plain })) ∧
  (∀ (s : State) (q k : Nat), ((s.cluster q).rdv.any (fun r => r.closed s.now && !r.members.any s.memberHeld) = false →
      exec (.mcRendezvousClose q) s = .next s) ∧
    (∀ r, (s.cluster q).rdv.find? (fun r => r.closed s.now && !r.members.any s.memberHeld) = some r →
      ∃ t, exec (.mcRendezvousClose q) s = .next t ∧ (t.cluster q).rdv = (s.cluster q).rdv.erase r ∧ t.mem = s.mem ∧ t.cores = s.cores) ∧
    exec (.remoteReadArrival k) s = .next (s.setCtx k { s.ctx k with stages := (s.ctx k).stages.map fun g =>
      if g.rows.isNone && g.mcast.isNone && !((s.ctx k).stageHeld k g) then { g with rows := some (s.stageRows k g), arrived := s.now } else g })) ∧
  (∀ (s : State) (k : Nat) (g : Stage), g.core = ctxCore k → (∃ a, a ∈ g.addrs ∧ (s.ctx k).wmStall a g.len = true) →
    (s.ctx k).stageHeld k g = true ∧ (g ∈ (s.ctx k).stages → g.slot = 5 → s.memberHeld (k, g.word) = true)) ∧
  (∀ (now kx addr fmt n m : Nat) (stride : Int) (who : Nat × Nat) (pre post : List Rendez) (r : Rendez),
    (let joins : Rendez → Prop := fun x => x.kx = kx ∧ x.addr = addr ∧ x.stride = stride ∧ x.fmt = fmt ∧ x.n = n ∧
       x.members.length < x.m ∧ now < x.opened + 4096
     (∀ x ∈ pre, ¬ joins x) →
       joinRdv now kx addr stride fmt n m who pre = pre ++ [⟨kx, addr, stride, fmt, n, m, now, [who]⟩] ∧
       (joins r → joinRdv now kx addr stride fmt n m who (pre ++ r :: post) = pre ++ { r with members := r.members ++ [who] } :: post))) ∧
  ∀ (s : State) (f : Focus) (aj : AReg) (fk : BitVec 2) (fmt t : Tag) (kx mem : BitVec 3) (m : W64) (b st off : BitVec 24),
    s.focus = some f → (s.ctx f.ctx).issuedBefore 4 f.ent.word = true → f.ent.checked = true →
    (s.ctx f.ctx).rdU f.ent.word uMxc = .ok m → (s.ctx f.ctx).rdFeedTag f.ent.word fmt = .ok t →
    (s.ctx f.ctx).rdA f.ent.word aj = .ok (b, st) → (s.ctx f.ctx).rdFo f.ent.word fk = .ok off →
    (let c := s.ctx f.ctx
     let q := ctxCluster f.ctx
     let rows := m.toNat % 128 + 1
     let row : Nat → Int := fun i => b.toNat + off.toNat + i * st.toInt
     (∀ i, i < rows → c.outside (row i) (rowBytes t) = false ∧ row i % 16 = 0) → c.stageOf f.ent.word f.slot = none →
     c.allIssuedBefore f.ent.word = true →
     ∃ u, exec (.fdAMc aj fk fmt kx mem) s = .next u ∧ u.focus = none ∧ u.mem = s.mem ∧ u.cores = s.cores ∧
       u.ctx f.ctx = { c with stages := c.stages ++ [(⟨f.ent.word, f.slot, s.coreFor q kx.toNat, (List.range rows).map (fun i => (row i).toNat),
         rowBytes t, some (mem.toNat + 1), none, 0⟩ : Stage)] } ∧
       (u.cluster q).rdv = joinRdv s.now kx.toNat (row 0).toNat st.toInt t.toNat rows (mem.toNat + 1) (f.ctx, f.ent.word) (s.cluster q).rdv)

/-- R130 to R134, R151, R215, R216, R232. The pieces of a row are its parts within one line each. That a record outside is charged to
field 0, and which trap a barrier takes, is the model's reading of two texts that differ (log 30). -/
def Obligations.CopyOperationsIssue : Prop :=
  ∀ (s : State) (f : Focus) (st : SReg) (ch : BitVec 4) (acc k : BitVec 3) (q : Bool) (rc7 : Rec7) (rc6 : Rec6) (rc4 : Rec4) (a : Nat),
    s.focus = some f → s.cFree f.ctx = true → (s.core (ctxCore f.ctx)).ecc = [] →
    (s.ctx f.ctx).storesPending f.ent.word [(a, 64)] = false →
    (let c := s.ctx f.ctx
     let n := f.ent.word
     let bs := s.spRead f.ctx n a 64
     let r := Shape.parse bs
     let sound : CopyForm → Prop := fun form => c.outside a 64 = false ∧ s.shapeFaults c form bs = [] ∧ (r.barV = true → s.barOutside c r.bar = false ∧ r.bar % 16 = 0)
     let copies : Instr → Chan → Op → Prop := fun i h o =>
       exec i s = issued s f { c with chans := c.chans.set ch.toNat h, ops := c.ops ++ [{ o with ch := some ch.toNat, prevCh :=
         (let p := c.chans.get Chan.reset ch.toNat
          (p.base, p.limit, p.busy, p.empty, p.wm)) }] }
     let into : Chan := ⟨r.sp, r.limit, true, true, 0⟩
     let out : Chan := ⟨r.sp, r.limit, true, false, r.limit⟩
     let rowsOf : (Nat → Int) → List Piece := fun g => ((List.range r.rows).map fun i => rowPieces i (g i) (r.sp + i * r.spstride) r.bytes).flatten
     let line : Nat → Int := fun i => r.va + i * r.vstride
     (c.chanBusy ch = true → exec (.cpIn st ch rc7) s = waits s ∧ exec (.cpOut st ch rc7) s = waits s ∧ exec (.accSt st ch acc rc4) s = waits s) ∧
     (c.chanBusy ch = false →
       (a = recAddr rc7 →
         (c.outside a 64 = true → exec (.cpIn st ch rc7) s = .next (s.issueTrap f 0x0A (BitVec.ofNat 64 (a % 2 ^ 24)))) ∧
         (∀ x xs, c.outside a 64 = false → s.shapeFaults c .plain bs = x :: xs →
           exec (.cpIn st ch rc7) s = .next (s.issueTrap f 0x0A (BitVec.ofNat 64 (a % 2 ^ 24 + xs.foldl min x * 2 ^ 24)))) ∧
         (c.outside a 64 = false → s.shapeFaults c .plain bs = [] → r.barV = true → s.barOutside c r.bar = true →
           exec (.cpIn st ch rc7) s = .next (s.issueTrap f 0x04 (BitVec.ofNat 64 r.bar))) ∧
         (c.outside a 64 = false → s.shapeFaults c .plain bs = [] → r.barV = true → s.barOutside c r.bar = false → r.bar % 16 ≠ 0 →
           exec (.cpIn st ch rc7) s = .next (s.issueTrap f 0x05 (BitVec.ofNat 64 r.bar))) ∧
         (∀ hz, c.recHorizon n r = .ok hz →
           (sound .plain → copies (.cpIn st ch rc7) into { Op.of f .cpIn st with
             shape := r, passed := false, addr := r.aux, b := hz.2, c := hz.1, pieces := rowsOf line }) ∧
           (sound .prefetch → copies (.cpPf st ch rc7) into { Op.of f .cpPf st with
             shape := r, passed := false, addr := r.aux, b := hz.2, c := hz.1, pieces := rowsOf line }) ∧
           (sound .gather → copies (.cpGat st ch rc7) into { Op.of f .cpGat st with
             shape := r, passed := false, addr := r.aux, b := hz.2, c := hz.1,
             pieces := rowsOf fun i => r.va + (rfld (s.spRead f.ctx n r.aux (4 * r.rows)) (4 * i) 4 : Nat) * r.vstride }) ∧
           (sound .reduce → copies (.gred st ch rc7) into { Op.of f .gred st with
             shape := r, passed := false, addr := r.aux, b := hz.2, c := hz.1, pieces := headerPieces r })) ∧
         (sound .plain → copies (.cpOut st ch rc7) out { Op.of f .cpOut st with
           shape := r, passed := false, b := r.ver, c := r.cid, pieces := (rowsOf line).map fun p => { p with data := s.spRead f.ctx n p.sp p.len } }) ∧
         (sound .member → ∃ ps, copies (.cpCst st ch rc7) out { Op.of f .cpCst st with
             shape := r, passed := false, b := r.ver, c := r.cid, pieces := ps } ∧
           ps.map (fun p => { p with ver := none }) = (rowsOf line).map (fun p => { p with data := s.spRead f.ctx n p.sp p.len }) ∧
           ∀ p ∈ ps, p.ver = some (r.ver, r.midx + (ps.filter fun x => decide (x.va < p.va)).length))) ∧
       (a = recAddr rc4 → sound .tile →
         copies (.accLd st ch acc rc4) ⟨0xFFFFFF, 0, true, true, 0⟩ { Op.of f .accLd st with
           shape := r, passed := false, tile := acc.toNat, pieces := ((List.range r.rows).map fun i => rowPieces i (line i) 0 r.bytes).flatten } ∧
         ∃ ps, copies (.accSt st ch acc rc4) ⟨0xFFFFFF, 0, true, true, 0⟩ { Op.of f .accSt st with
             shape := r, passed := false, tile := acc.toNat, pieces := ps } ∧
           ps = ((List.range r.rows).map fun i => (rowPieces i (line i) 0 r.bytes).map fun p =>
             { p with data := ((rowBytesOf r.cvt (c.rowAt acc.toNat (s.now + i) i)).drop p.sp).take p.len }).flatten) ∧
       (a = recAddr rc6 → sound .plain → c.xdispFaults q r = [] →
         (∀ i, i < r.rows → dispOk r.ks (s.spRead f.ctx n (r.aux + 32 * i) 32) = true) →
         ∃ ps, copies (.xdisp st ch q rc6) out { Op.of f (.xdisp q) st with
           shape := r, passed := false, b := r.bytes, pieces := ps,
           rows := (List.range r.rows).map fun i => xrowOf q r.cvt (s.spRead f.ctx n (r.aux + 32 * i) 32) (s.spRead f.ctx n (r.sp + i * r.spstride) r.bytes) }) ∧
       (a = recAddr rc4 → c.outside a 64 = false → c.resolveFaults (k.toNat + 1) bs = [] → c.outside (a + 64 : Nat) 64 = false →
         c.repairFaults r.rows (s.spRead f.ctx n (a + 64) 64) = [] → c.storesPending n [(a + 64, 64)] = false →
         (r.barV = true → s.barOutside c r.bar = false ∧ r.bar % 16 = 0) →
         ∃ ps rows, rows.length = r.rows ∧ copies (.resolve st ch k rc4) ⟨r.sp, r.sp + 32 + 32 * r.rows - 1, true, false, r.sp + 32 + 32 * r.rows - 1⟩
           { Op.of f (.resolve (k.toNat + 1)) st with
             shape := r, passed := false, rows := rows, tile := k.toNat + 1, issued := s.now,
             b := (Shape.parse (s.spRead f.ctx n (a + 64) 64)).bytes, list := s.spRead f.ctx n r.sp (32 + 32 * r.rows), pieces := ps })))

/-- R135 to R149, R306. The model's readings and choices: what a load lays over its reply is taken at issue (log 45), which drain takes a
gst's fault (log 44) and bits 12 to 8 of its trap.val 0 (log 101), operations of earlier words in drain's count of passes (log 93), the
comparison of at.cas in 32 bits (log 100), a count of bar.init above 32 bits (log 103). -/
def Obligations.GlobalAccessesIssue : Prop :=
  (∀ (s : State) (f : Focus) (sd sa sb : SReg) (hj sz : BitVec 2) (sx w : Bool) (disp : Option Ext), s.focus = some f → s.cFree f.ctx = false →
    exec (.gld sd sa sz sx disp) s = waits s ∧ exec (.gst sb sa sz disp) s = waits s ∧ exec (.cld sd sa hj sz sx disp) s = waits s ∧
    exec (.atAdd sd sa sb w disp) s = waits s ∧ exec (.atFadd sd sa sb disp) s = waits s ∧ exec (.atCas sd sa sb w disp) s = waits s) ∧
  ∀ (s : State) (f : Focus) (sd sa sb : SReg) (hj sz : BitVec 2) (sx w : Bool) (disp : Option Ext) (re : RegExt) (cid : CidSrc)
      (x v d : W64) (m : W64), s.focus = some f → s.cFree f.ctx = true →
    (s.ctx f.ctx).rdS f.ent.word sa = .ok x → (s.ctx f.ctx).rdS f.ent.word sb = .ok v → (s.ctx f.ctx).rdS f.ent.word sd = .ok d →
    (s.ctx f.ctx).rdRegExt f.ent.word re = .ok m →
    (let c := s.ctx f.ctx
     let n := f.ent.word
     let a : W64 := x + BitVec.ofInt 64 (match disp with | some e => e.toInt | none => 0)
     let len := 2 ^ sz.toNat
     let one : Nat → List Byte → List Piece := fun l bs => [⟨0, a.toNat % 2 ^ 55, 0, l, none, false, bs, .fresh, none⟩]
     (a.toNat % len ≠ 0 → exec (.gld sd sa sz sx disp) s = .next (s.issueTrap f 0x05 a) ∧ exec (.gst sb sa sz disp) s = .next (s.issueTrap f 0x05 a)) ∧
     (a.toNat % len = 0 →
       exec (.gld sd sa sz sx disp) s = enters s f { Op.of f (.gld len sx) sd with
         addr := a.toNat, passed := false, pieces := one len [], list := s.overlay f.ctx n a.toNat len } ∧
       (c.remoteUsed < 16 → exec (.gst sb sa sz disp) s = entersGated s f { Op.of f .gst 0#5 with
         addr := a.toNat, passed := false, pieces := one len ((List.range len).map fun i => (v >>> (8 * i)).setWidth 8) }) ∧
       (∀ h, c.rdU n (uHzn + hj.toNat) = .ok h →
         (h.getLsbD 63 = true → exec (.cld sd sa hj sz sx disp) s = enters s f { Op.of f (.cld len sx) sd with
           addr := a.toNat, passed := false, pieces := one len [], b := h.toNat % 2 ^ 32, c := h.toNat / 2 ^ 32 % 2 ^ 24,
           list := s.overlay f.ctx n a.toNat len }) ∧
         (h.getLsbD 63 = false → exec (.cld sd sa hj sz sx disp) s = .next (s.issueTrap f 0x0E (BitVec.ofNat 64 hj.toNat))))) ∧
     (let at' : Nat → Bool → Nat → Op := fun k wide cmp => { Op.of f (.at k wide) sd with
        addr := a.toNat, passed := false, b := v.toNat % 2 ^ (if wide then 64 else 32), c := cmp % 2 ^ (if wide then 64 else 32),
        pieces := one (if wide then 8 else 4) [] }
      c.remoteUsed < 16 →
      (a.toNat % (if w then 8 else 4) = 0 →
        exec (.atAdd sd sa sb w disp) s = entersGated s f (at' 0 w 0) ∧ exec (.atMin sd sa sb w disp) s = entersGated s f (at' 2 w 0) ∧
        exec (.atMax sd sa sb w disp) s = entersGated s f (at' 3 w 0) ∧ exec (.atAnd sd sa sb w disp) s = entersGated s f (at' 6 w 0) ∧
        exec (.atOr sd sa sb w disp) s = entersGated s f (at' 7 w 0) ∧ exec (.atXor sd sa sb w disp) s = entersGated s f (at' 8 w 0) ∧
        exec (.atSwap sd sa sb w disp) s = entersGated s f (at' 9 w 0) ∧ exec (.atCas sd sa sb w disp) s = entersGated s f (at' 10 w d.toNat)) ∧
      (a.toNat % 4 = 0 →
        exec (.atFadd sd sa sb disp) s = entersGated s f (at' 1 false 0) ∧ exec (.atFmin sd sa sb disp) s = entersGated s f (at' 4 false 0) ∧
        exec (.atFmax sd sa sb disp) s = entersGated s f (at' 5 false 0))) ∧
     (2 ^ 41 ≤ x.toNat → exec (.barInit sa re) s = .next (s.issueTrap f 0x04 x) ∧ exec (.barArr sd sa re) s = .next (s.issueTrap f 0x04 x)) ∧
     (x.toNat < 2 ^ 41 → s.barOutside c x.toNat = false → x.toNat % 16 = 0 → c.remoteUsed < 16 →
       exec (.barInit sa re) s = entersGated s f { Op.of f .barInit 0#5 with addr := x.toNat, b := max m.toNat 1 } ∧
       exec (.barArr sd sa re) s = entersGated s f { Op.of f .barArr sd with addr := x.toNat, b := m.toNat }) ∧
     (c.remoteUsed < 16 → exec (.publish sd sa re) s = entersGated s f { Op.of f .publish sd with c := x.toNat % 2 ^ 24, b := m.toNat % 2 ^ 32 }) ∧
     (∀ y, c.rdCid n cid = .ok y → exec (.anchor hj sd cid) s = enters s f { Op.of f (.anchor hj.toNat) sd with c := y }) ∧
     (∀ h, c.rdU n (uHzn + hj.toNat) = .ok h →
       exec (.hznRel hj none) s = issued s f (c.putU f.ent.id (uHzn + hj.toNat) (h &&& 0x7FFFFFFFFFFFFFFF#64)) ∧
       (∀ y : BitVec 24, exec (.hznRel hj (some y)) s = issued s f (c.putU f.ent.id (uHzn + hj.toNat)
         (if (h >>> 32).setWidth 24 = y then h &&& 0x7FFFFFFFFFFFFFFF#64 else h)))) ∧
     (∀ (sc l t k : BitVec 3) (i : BitVec 4),
       (∀ code rest, c.gstErr = code :: rest → sc ≠ 0#3 → t = 0#3 → c.trapReady f.slot n = true →
         exec (.drain sc l t k i) s = .next ((s.setCtx f.ctx { c with gstErr := rest }).preciseTrap f.ctx n f.ent.pc 0x0C (BitVec.ofNat 64 code))) ∧
       ((c.gstErr = [] ∨ sc = 0#3 ∨ t ≠ 0#3) →
         (l.toNat < c.loadsOut ∨ t.toNat < s.storesOut f.ctx sc.toNat ∨ k.toNat < c.copiesOut ∨ i.toNat < c.tilesBefore n s.now ∨ c.marksDone n = false) →
         exec (.drain sc l t k i) s = waits s) ∧
       ((c.gstErr = [] ∨ sc = 0#3 ∨ t ≠ 0#3) → c.marksDone n = true → c.loadsOut ≤ l.toNat → s.storesOut f.ctx sc.toNat ≤ t.toNat →
         c.copiesOut ≤ k.toNat → c.tilesBefore n s.now ≤ i.toNat →
         (i ≠ 0#4 → exec (.drain sc l t k i) s = issued s f c) ∧
         (i = 0#4 → exec (.drain sc l t k i) s =
           issued s f { ((c.settleRows s.now).raise f.ent.id (c.settleRows s.now).mxf) with mxf := 0#8 }))) ∧
     ((∀ o ∈ c.ops, o.word < n → o.passed = true) →
       (s.sdPending (ctxCore f.ctx) = false → exec .qpoint s = .next (s.retire f)) ∧
       (s.sdPending (ctxCore f.ctx) = true → exec .qpoint s =
         issued s f { c with quiet := true, cHold := true })))

/-- R198 to R203, R208, R209. -/
def Obligations.NetworkOperations : Prop :=
  (∀ (s : State) (f : Focus) (vs vd : VReg) (sa sd : SReg) (qj : BitVec 3) (gs : BitVec 2) (a : W64) (v : VBits) (t : Tag) (xs : List XV),
    s.focus = some f →
    (let c := s.ctx f.ctx
     let n := f.ent.word
     let mine := s.owner (qaCluster a) = c.stat.vf
     let sent : W64 → VBits → Tag → Bool → Ctx → Out := fun a v t mc c => issued s f { c with sends := c.sends ++
       [⟨f.ent.id, n, v, t, s.sendDests a mc, [], false, 0, f.ctx⟩] }
     (c.rdS n sa = .ok a →
       (¬ mine → exec (.send vs sa) s = .next (s.issueTrap f 0x11 a) ∧ exec (.sendMc vs sa) s = .next (s.issueTrap f 0x11 a) ∧
         exec (.sendQ vs sa) s = .next (s.issueTrap f 0x11 a)) ∧
       (mine → 16 ≤ c.sends.length → exec (.send vs sa) s = waits s ∧ exec (.sendMc vs sa) s = waits s ∧ exec (.sendQ vs sa) s = waits s) ∧
       (mine → c.sends.length < 16 → c.remoteUsed < 16 →
         (c.rdV n vs = .ok v → c.rdVt n vs = .ok t → exec (.send vs sa) s = sent a v t false c ∧ exec (.sendMc vs sa) s = sent a v t true c) ∧
         (c.rdSrc n vs = .ok xs →
           (∀ q, aqQuantise xs = some q → exec (.sendQ vs sa) s =
             sent a (BitVec.ofNat 2048 (leNat q.bytes)) tAQ8 false (c.raise f.ent.id (if q.clamped then fQCL else 0#8))) ∧
           (aqQuantise xs = none → exec (.sendQ vs sa) s = sent a (bf16Row xs) tBF16 false (c.raise f.ent.id 0#8))))) ∧
     (c.rdS n sa = .ok a → a.toNat % 64 = 0 → (c.gs.get 0#64 gs.toNat).getLsbD 63 = true → c.outside a.toNat 128 = false →
       c.storesPending n [((a.toNat : Int), 128)] = false → (s.core (ctxCore f.ctx)).ecc = [] → c.collFaults (s.spRead f.ctx n a.toNat 128) = [] → c.remoteUsed < 16 →
       (c.ops.filter fun o => decide (o.kind = .coll)).length < 2 →
       (let r := Coll.parse (s.spRead f.ctx n a.toNat 128)
        (r.barV = true → r.bar % 16 = 0) → exec (.collStart sd sa gs) s = entersGated s f { Op.of f .coll sd with
          coll := some r, b := (c.gs.get 0#64 gs.toNat).toNat % 2 ^ 40 })) ∧
     (c.rdS n sa = .ok a → a.toNat % 64 = 0 → (c.gs.get 0#64 gs.toNat).getLsbD 63 = false →
       exec (.collStart sd sa gs) s = .next (s.issueTrap f 0x12 (BitVec.ofNat 64 (a.toNat % 2 ^ 24 + 0xFF * 2 ^ 24)))) ∧
     (c.remoteUsed < 16 → ∃ aim, exec (.collAbort sd) s = entersGated s f { Op.of f .collAbort 0#5 with b := aim } ∧
       (c.tokPending sd.toNat n = false → aim = 0)) ∧
     (c.head qj.toNat n = .wait → exec (.recv vd qj) s = waits s ∧ exec (.recvAdd vd qj) s = waits s ∧ exec (.recvMax vd qj) s = waits s) ∧
     (∀ (e : QEnt) (lo : VBits) (env : FpEnv) (l : W32), c.head qj.toNat n = .ok e →
       exec (.recv vd qj) s = issued s f ((c.putV f.ent.id vd e.data).putVt f.ent.id vd e.tag) ∧
       (∀ hi, c.rdV n vd = .ok lo → c.rdEnv n = .ok env → (env.rm = 4 → c.rdLfsr n f.slot = .ok l) → (env.rm ≠ 4 → l = 0#32) →
         (let el : VBits → (Nat → XV → Nat → Nat × Flags) → List Elem := fun up g =>
            ((vElems 32 lo ++ vElems 32 up).zip e.elems).map fun p => ⟨true, 0, fun d => g p.1 p.2 d⟩
          let add := runElems (decide (env.rm = 4)) (el hi fun x y d => recvAddElem env x y d) l
          let max := runElems false (el hi fun x y _ => recvMaxElem env x y) 0#32
          let done : ElemRes → Out := fun r => issued s f (((((c.putV f.ent.id vd (ofElems 32 (r.vals.take 64))).putV f.ent.id (vd + 1)
            (ofElems 32 (r.vals.drop 64))).putVt f.ent.id (vd + 1) tF32).raise f.ent.id r.flags).stepped f.ent.id r.steps)
          e.tag = tBF16 ∨ e.tag = tF16 ∨ e.tag = tAQ8 → vd.toNat % 2 = 0 → c.rdVt n (vd + 1) = .ok tF32 → c.rdV n (vd + 1) = .ok hi →
          exec (.recvAdd vd qj) s = done add ∧ exec (.recvMax vd qj) s = done max)) ∧
       (c.rdV n vd = .ok lo → c.rdEnv n = .ok env → (env.rm = 4 → c.rdLfsr n f.slot = .ok l) → (env.rm ≠ 4 → l = 0#32) → e.tag = tF32 →
         (let el : (Nat → XV → Nat → Nat × Flags) → List Elem := fun g =>
            ((vElems 32 lo).zip e.elems).map fun p => ⟨true, 0, fun d => g p.1 p.2 d⟩
          let add := runElems (decide (env.rm = 4)) (el fun x y d => recvAddElem env x y d) l
          let max := runElems false (el fun x y _ => recvMaxElem env x y) 0#32
          let done : ElemRes → Out := fun r => issued s f (((if vd.toNat % 2 = 0 then (c.putV f.ent.id vd (ofElems 32 (r.vals.take 64))).unputV
            f.ent.id (vd + 1) else c.putV f.ent.id vd (ofElems 32 (r.vals.take 64))).raise f.ent.id r.flags).stepped f.ent.id r.steps)
          exec (.recvAdd vd qj) s = done add ∧ exec (.recvMax vd qj) s = done max)) ∧
       (e.tag ≠ tF32 → e.tag ≠ tBF16 → e.tag ≠ tF16 → e.tag ≠ tAQ8 →
         exec (.recvAdd vd qj) s = .next (s.issueTrap f 0x03 (fmtVal 1 e.tag.toNat qj.toNat 7)))))) ∧
  (∀ (s : State) (k : Nat) (x : SendOp) (rest : List SendOp), (s.ctx k).sends = x :: rest →
    (x.released = false → exec (.sendReservation k) s = .next s) ∧
    (x.released = true → x.dests.Nodup → (∀ d ∈ x.dests, d ∈ x.reserved) →
      exec (.sendReservation k) s = .next { s.setCtx k { s.ctx k with sends := rest } with flights := s.flights ++ x.dests.map fun d =>
        ⟨s.now + sendDelay (ctxCore k) (ctxCore (d / 8)), x.src, d, x.data, x.tag⟩ }) ∧
    (∀ d, x.released = true → x.dests = [d] → x.reserved = [] → d / 8 ≠ k →
      (let q := AMap.get RQueue.none (s.ctx (d / 8)).rq (d % 8)
       let x' := if x.asked = 0 then { x with asked := s.now + 1 } else x
       (16 ≤ q.ents.length + q.reserved ∨ s.askedBefore k x' d = true →
         ∃ t, exec (.sendReservation k) s = .next t ∧ t.flights = s.flights ∧ (t.ctx k).sends = x' :: rest) ∧
       (q.ents.length + q.reserved < 16 → s.askedBefore k x' d = false → ∃ t, exec (.sendReservation k) s = .next t ∧ (t.ctx k).sends = rest ∧
         AMap.get RQueue.none (t.ctx (d / 8)).rq (d % 8) = { q with reserved := q.reserved + 1 } ∧
         t.flights = s.flights ++ [⟨s.now + sendDelay (ctxCore k) (ctxCore (d / 8)), x.src, d, x.data, x.tag⟩])))) ∧
  (∀ (s : State) (i : Nat) (a : Flight), s.flights[i]? = some a →
    (s.now < a.due → exec (.sendArrival i) s = .next s) ∧
    (a.due ≤ s.now → (∀ b ∈ s.flights, b.dest = a.dest → b.before a = false) →
      ∃ t, exec (.sendArrival i) s = .next t ∧ t.flights = s.flights.eraseIdx i ∧
        (let q := AMap.get RQueue.none (s.ctx (a.dest / 8)).rq (a.dest % 8)
         AMap.get RQueue.none (t.ctx (a.dest / 8)).rq (a.dest % 8) = ⟨q.ents ++ [⟨a.data, a.tag, false⟩], q.reserved - 1⟩) ∧
        (∀ j, j ≠ a.dest / 8 → t.ctx j = s.ctx j) ∧ t.mem = s.mem)) ∧
  ∀ a b : Nat, sendDelay a b = if coreCluster a = coreCluster b then 12 else if coreCluster a / 8 = coreCluster b / 8 then 24 else 40

/-- R21, R103, R107, R109, R112, R113, R120, R141, R233, R234. -/
def Obligations.ContextAndCoreEvents : Prop :=
  ∀ (s : State) (k core : Nat),
    (coreExists core = false → exec (.wordDispatch core) s = .fault (.noSuchUnit core)) ∧
    (coreExists core = true →
      ((s.core core).holder = none → (∀ i, i < 8 → (s.ctx (8 * core + i)).isReady = false) → exec (.wordDispatch core) s = .next s) ∧
      ((s.core core).holder = none → (s.core core).halted = true → exec (.wordDispatch core) s = .next s) ∧
      (∀ i h, (s.core core).holder = none → (s.core core).halted = false → i < 8 → h = 8 * core + ((s.core core).last + 1 + i) % 8 → (s.ctx h).isReady = true →
        (∀ j, j < i → (s.ctx (8 * core + ((s.core core).last + 1 + j) % 8)).isReady = false) →
        exec (.wordDispatch core) s = .next (((s.setCtx h (s.ctx h).wakeTok).setCore core
          { s.core core with holder := some h, turn := s.now, spanEnd := false }).dispatch h)) ∧
      (∀ h, (s.core core).holder = some h →
        (s.mayDispatch h = false → exec (.wordDispatch core) s = .next s) ∧
        (s.mayDispatch h = true → ctxCore h = core →
          (let c := s.ctx h
           (c.legalTarget c.pc = false → exec (.wordDispatch core) s =
             .next (if c.allIssuedBefore c.word then s.preciseTrap h c.word c.pc 0x07 (BitVec.ofNat 64 c.pc) else s)) ∧
           (∀ e, c.legalTarget c.pc = true →
             decodeWord (isControl core) (wordOfBytes (((s.imageOf h).drop c.pc).take 32)) = .error e → exec (.wordDispatch core) s =
             .next (if c.allIssuedBefore c.word then s.preciseTrap h c.word c.pc 0x01 (illegalVal e) else s)))))) ∧
    (let c := s.ctx k
     (c.marks = [] → exec (.markCommit k) s = .next s) ∧
     (∀ m rest, c.marks = m :: rest →
       ((c.markIssued m.word = false ∨ c.passedTo m.word = false) → exec (.markCommit k) s = .next s) ∧
       (∀ x, c.chk = some x → (∀ w, x.commit = some w → m.word < w) → exec (.markCommit k) s = .next s) ∧
       (c.markIssued m.word = true → c.passedTo m.word = true →
         (c.chk = none → exec (.markCommit k) s = .next ((((s.setCtx k c).commitTo k m.word m.next).afterIssue k).pump k)) ∧
         (∀ x, c.chk = some x → x.commit = some m.word →
           exec (.markCommit k) s = .next ((((s.setCtx k { c with chk := none }).commitTo k m.word m.next).afterIssue k).pump k)) ∧
         (∀ x w, c.chk = some x → x.commit = some w → w < m.word →
           exec (.markCommit k) s = .next ((((s.setCtx k c).commitTo k m.word m.next).afterIssue k).pump k)))) ∧
     (c.inSpec = false → exec (.specForcedAbort k) s = .next s) ∧
     (∀ e rest j, c.inSpec = true → 64 ≤ c.storeUsed e.word → c.queue 2 = e :: rest → isSpStore e.op = true → j < 8 → 16 ≤ (c.queue j).length →
       exec (.specForcedAbort k) s = .next (s.abort k)) ∧
     (c.watch = none → exec (.watchFire k) s = .next s ∧ exec (.watchTimeout k) s = .next s) ∧
     (∀ w, c.watch = some w →
       (let answered : Nat → Out := fun v => .next (s.setCtx k { (c.putTok w.id (BitVec.ofNat 64 v)).dropOp w.id with watch := none })
        (w.hit = true → exec (.watchFire k) s = answered 0 ∧ exec (.watchTimeout k) s = .next s) ∧
        (w.hit = false → exec (.watchFire k) s = .next s ∧
          (w.until_ ≠ 0 → w.until_ ≤ s.now → exec (.watchTimeout k) s = answered 2) ∧
          ((w.until_ = 0 ∨ s.now < w.until_) → exec (.watchTimeout k) s = .next s)))) ∧
     ((∀ d ∈ (s.cluster (ctxCluster k)).deliv, d.1 ≠ k) → exec (.nextTileDelivery k) s = .next s) ∧
     (∀ id v rest, (s.cluster (ctxCluster k)).deliv = (k, id, v) :: rest → exec (.nextTileDelivery k) s =
       .next ((s.setCluster (ctxCluster k) { s.cluster (ctxCluster k) with deliv := rest }).setCtx k
         { c with nt := c.nt.map fun e => if e.id = id ∧ e.val.isNone then { e with val := some (BitVec.ofNat 64 v) } else e })) ∧
     (∀ a g byGen, c.run = .waitBar a g byGen false → barDev a = s.vertex →
       (let b := (s.core (s.barHome a)).bar (barAddr a)
        ((if byGen then b.gen = g else b.pend ≠ 0) → exec (.barrierQueryAnswer k) s =
          .next (((s.setCore (s.barHome a) { s.core (s.barHome a) with waits := (s.core (s.barHome a)).waits ++ [⟨a, g, byGen, k, false⟩] }).setCtx k
            { c with run := .waitBar a g byGen true, yields := true }).afterIssue k)) ∧
        ((if byGen then b.gen ≠ g else b.pend = 0) → exec (.barrierQueryAnswer k) s = .next ((s.setCtx k { c with run := .ready }).afterIssue k)))) ∧
     ((∀ a g b n, c.run ≠ .waitBar a g b n) → exec (.barrierQueryAnswer k) s = .next s)) ∧
    ((∀ w ∈ (s.core core).waits, w.hit = false) → exec (.barrierNotify core) s = .next s) ∧
    (∀ w rest a g b n, (s.core core).waits = w :: rest → w.hit = true → (s.ctx w.who).run = .waitBar a g b n →
      exec (.barrierNotify core) s = .next ((s.setCore core { s.core core with
        waits := rest.filter fun x => !(decide (x.who = w.who) && x.hit) }).setCtx w.who { s.ctx w.who with run := .ready })) ∧
    ((s.core core).holder = none → exec (.spanLimit core) s = .next s) ∧
    (∀ h, (s.core core).holder = some h → ctxCore h = core →
      (∀ i, i < 8 → 8 * core + i ≠ h → (s.ctx (8 * core + i)).isReady = true → (s.core core).turn + 65536 ≤ s.now →
        exec (.spanLimit core) s = .next (s.setCore core { s.core core with spanEnd := true })) ∧
      ((s.now < (s.core core).turn + 65536 ∨ ∀ i, i < 8 → 8 * core + i ≠ h → (s.ctx (8 * core + i)).isReady = false) →
        exec (.spanLimit core) s = .next s)) ∧
    (let q := s.cluster core
     (q.tileq = [] → exec (.tileCounterServe core) s = .next s) ∧
     (∀ t rest, q.tileq = t :: rest →
       (s.recs.find? t.record = none → exec (.tileCounterServe core) s =
         .next (s.setCluster core { q with tileq := rest, deliv := q.deliv ++ [(t.ctx, t.id, 2 ^ 63)] })) ∧
       (∀ r, s.recs.find? t.record = some r → r.pipe = none →
         (r.counter = [] → exec (.tileCounterServe core) s = .next (({ s with recs := AMap.set s.recs t.record r } : State).setCluster core
           { q with tileq := rest, deliv := q.deliv ++ [(t.ctx, t.id, 2 ^ 63)] })) ∧
         (∀ a b more, r.counter = (a, b) :: more → exec (.tileCounterServe core) s =
           .next (({ s with recs := AMap.set s.recs t.record { r with counter := if a + 1 < b then (a + 1, b) :: more else more } } : State).setCluster core
             { q with tileq := rest, deliv := q.deliv ++ [(t.ctx, t.id, a)] }))) ∧
       (∀ r p, s.recs.find? t.record = some r → r.pipe = some p → (p.stop ≠ 0 ∨ r.counter = []) → exec (.tileCounterServe core) s =
         .next (s.setCluster core { q with tileq := rest, deliv := q.deliv ++ [(t.ctx, t.id, 2 ^ 63)] })) ∧
       (∀ r p a b more, s.recs.find? t.record = some r → r.pipe = some p → p.stop = 0 → r.counter = (a, b) :: more →
         (let r' := { r with counter := if a + 1 < b then (a + 1, b) :: more else more }
          let u := ({ s with recs := AMap.set s.recs t.record r' } : State).loaderTakes (ctxCore t.ctx) t.record a
          exec (.tileCounterServe core) s = .next (u.setCluster core { u.cluster core with
            tileq := rest, deliv := (u.cluster core).deliv ++ [(t.ctx, t.id, a)] })))))

/-- R48, R132, R133, R136, R213, R280 to R282, R299, R300, R303, R350, R364, R366. The bytes of a QRPT packet and how rows travel are the
model's choice (logs 61 and 112), the codes of a row's frame its reading (log 67). -/
def Obligations.CopyEngineEvents : Prop :=
  (∀ (s : State) (k id : Nat), (s.ctx k).findOp id = none →
    exec (.pageWalk k id) s = .next s ∧ exec (.copyRowLanding k id) s = .next s ∧ exec (.copyCompletion k id) s = .next s ∧
    exec (.overflowAfterWait k id) s = .next s) ∧
  (∀ (s : State) (k id : Nat) (o : Op), (s.ctx k).findOp id = some o →
    (let c := s.ctx k
     ((∀ p ∈ o.pieces, p.st ≠ .fresh) → exec (.pageWalk k id) s = .next s) ∧
     (∀ (i : Nat) (p : Piece), o.pieces[i]? = some p → p.st = .fresh → (∀ q ∈ o.pieces.take i, q.st ≠ .fresh) →
       (s.mayWalk k o = false → exec (.pageWalk k id) s = .next s) ∧
       (s.mayWalk k o = true → (s.func c.stat.vf).space = none → exec (.pageWalk k id) s = .next (s.failWalk k o p 0)) ∧
       (∀ asid root, s.mayWalk k o = true → (s.func c.stat.vf).space = some (asid, root) →
         (let core := ctxCore k
          let accs := pieceAccs o.kind p
          let use : State → TlbEnt → Out := fun s e =>
            .next (s.translated k o i (s.place e p.va).1 (s.place e p.va).2 e.twin)
          let co := { s.core core with tlb := (s.core core).tlb.filter fun e => !e.maps asid p.va }
          (∀ e, List.find? (fun x => x.maps asid p.va && (x.refuses accs).isNone) (s.core core).tlb = some e →
            exec (.pageWalk k id) s = use s e) ∧
          ((∀ e ∈ (s.core core).tlb, e.maps asid p.va = true → e.refuses accs ≠ none) →
            (o.icnt ≠ (s.core core).icnt → exec (.pageWalk k id) s =
              .next (s.setCtx k (c.updOp id fun x => { x with icnt := (s.core core).icnt }))) ∧
            (o.icnt = (s.core core).icnt → ∀ a, a ∈ s.walkPas c.stat.vf p.va → s.dieAwake (dieOfPa a) = false →
              ∃ t, exec (.pageWalk k id) s = .next t ∧ t.ctxs = s.ctxs ∧ t.cores = s.cores ∧ dieOfPa a ∈ t.asks) ∧
            (o.icnt = (s.core core).icnt → (∀ a, a ∈ s.walkPas c.stat.vf p.va → s.dieAwake (dieOfPa a) = true) →
              (∀ kind, (s.setCore core co).walkFrom asid p.va 3 1 root = .fault kind →
                exec (.pageWalk k id) s = .next ((s.setCore core co).failWalk k o p kind)) ∧
              (∀ e kind, (s.setCore core co).walkFrom asid p.va 3 1 root = .ok e → e.refuses accs = some kind →
                exec (.pageWalk k id) s = .next ((s.setCore core co).failWalk k o p kind)) ∧
              (∀ e, (s.setCore core co).walkFrom asid p.va 3 1 root = .ok e → e.refuses accs = none →
                exec (.pageWalk k id) s = use ((s.setCore core co).setCore core (co.fillTlb e)) e)))))) ∧
     (∀ (p : Piece) (kind : Nat), (o.kind = .cpPf → s.failWalk k o p kind =
         (s.setCtx k (c.updOp o.id fun x => (x.deferFault p.row 0).settlePassed)).markOp k o.id) ∧
       (o.kind ≠ .cpPf → c.run ≠ .trapped →
         (let u := ({ s with focus := none } : State).setCtx k { c with run := .ready } |>.rollbackCtx k
          s.failWalk k o p kind = (u.setCtx k ((u.ctx k).abandon o)).enterTrap k 0x14 o.pc
            (BitVec.ofNat 64 (kind * 2 ^ 58 + p.va % 2 ^ 55))))) ∧
     ((o.kind = .cpIn ∨ o.kind = .cpPf ∨ o.kind = .cpGat ∨ o.kind = .accLd) → ∀ cid, o.fractured = some cid →
       exec (.copyRowLanding k id) s = .next ((s.setCtx k (c.updOp id fun y => y.repairView cid)).pump k)) ∧
     ((o.kind = .cpIn ∨ o.kind = .cpPf ∨ o.kind = .cpGat) → o.fractured = none →
       ((∀ p ∈ o.pieces, o.mayLand p = false) → exec (.copyRowLanding k id) s = .next s) ∧
       (∀ i p, o.pieces[i]? = some p → o.mayLand p = true → (∀ q ∈ o.pieces.take i, o.mayLand q = false) → o.shape.barV = false →
         ∃ t, exec (.copyRowLanding k id) s = .next t ∧ t.core (ctxCore k) = (s.core (ctxCore k)).land (cellsAt p.sp p.data) ∧
           (∀ q, q ≠ ctxCore k → t.core q = s.core q) ∧ (∀ j, j ≠ k → t.ctx j = s.ctx j) ∧ t.mem = s.mem)) ∧
     ((o.kind = .cpOut ∨ o.kind = .cpCst ∨ o.kind = .accSt) →
       ((∀ p ∈ o.pieces, p.st ≠ .replied) → exec (.copyRowLanding k id) s = .next s) ∧
       (∀ i p, o.pieces[i]? = some p → p.st = .replied → (∀ q ∈ o.pieces.take i, q.st ≠ .replied) → o.shape.barV = false →
         ∃ t, exec (.copyRowLanding k id) s = .next t ∧ t.cores = s.cores ∧ (∀ j, j ≠ k → t.ctx j = s.ctx j) ∧ t.mem = s.mem)) ∧
     (o.lost ≠ [] → exec (.copyCompletion k id) s = .next (s.failLost k o)) ∧
     (o.lost = [] → o.finished = false → exec (.copyCompletion k id) s = .next s) ∧
     (o.finished = true → (∀ n, o.kind ≠ .resolve n) →
       (let c1 := (({ c with dft := o.settleDft c.dft fun x => c.s.log.any fun e => decide (e.id = x) }.freeChan o).putTokNote id o.token .plain).dropOp id
        (o.burst = 2 → exec (.copyCompletion k id) s = .next (({ s.setCtx k c1 with burstHeld := s.burstHeld - 1 } : State).pump k)) ∧
        (o.burst ≠ 2 → exec (.copyCompletion k id) s =
          .next (({ s.setCtx k c1 with burstQ := s.burstQ.filter fun q => decide (q ≠ (k, id)) } : State).pump k)))) ∧
     (o.defer = false → o.token = BitVec.ofNat 64 (2 ^ 63 + b2n o.frac * 2 ^ 62 + o.code * 2 ^ 48)) ∧
     (∀ code row, o.defer = true → o.fault = some (code, row) → o.token = BitVec.ofNat 64 (2 ^ 63 + b2n o.frac * 2 ^ 62 + 2 ^ 61 + code * 2 ^ 48)) ∧
     ((∀ x ∈ o.rows, x.st ≠ 4 ∨ x.waited = 0 ∨ s.now < x.waited + 4095) → exec (.overflowAfterWait k id) s = .next s) ∧
     (∀ i x r0 rest, o.rows[i]? = some x → (∀ y ∈ o.rows.take i, y.st ≠ 4) → x.st = 4 → x.waited ≠ 0 → x.waited + 4095 ≤ s.now →
       s.replicas k o x.expert = r0 :: rest → (∀ r ∈ r0 :: rest, r.2.2.2 ≤ r.2.2.1) →
       o.descsRead x.expert = true → s.tagLeft (s.eng (ctxCore k)) = true → (r0.1 = s.vertex ∨ s.burstOk k o = true) → exec (.overflowAfterWait k id) s = .next (s.shipRow k o i x r0.1 r0.2.1 r0.2.2.1 true)))) ∧
  (∀ (s : State) (core lane : Nat),
    ((∀ e ∈ (s.core core).cb, e.sent = true ∨ e.lane ≠ lane) → exec (.combiningBufferSend core lane) s = .next s) ∧
    (s.tagLeft (s.eng core) = false → exec (.combiningBufferSend core lane) s = .next s) ∧
    (∀ e rest, (s.core core).cb = e :: rest → e.sent = false → e.lane = lane → s.tagLeft (s.eng core) = true →
      exec (.combiningBufferSend core lane) s =
        .next (((s.setCore core { s.core core with cb := { e with sent := true, tag := s.newTag (s.eng core) } :: rest }).emit
          (.combine core e.ctx e.word e.line) e.home (s.eng core) e.vf opWRM e.pa [] e.payload).pumpCore core))) ∧
  (∀ s : State, ((s.burstQ = [] ∨ 32 ≤ s.burstHeld ∨ (s.die 4).hold = true) → exec .fabricBurstPermit s = .next s) ∧
    (∀ k id rest, s.burstQ = (k, id) :: rest → s.burstHeld < 32 → (s.die 4).hold = false → exec .fabricBurstPermit s =
      .next ((({ s with burstQ := rest, burstHeld := s.burstHeld + 1 } : State).setCtx k
        ((s.ctx k).updOp id fun x => { x with burst := 2 })).pump k))) ∧
  (∀ (s : State) (i : Nat),
    (s.expRows[i]? = none → exec (.expertRowArrival i) s = .next s) ∧
    (∀ e, s.expRows[i]? = some e →
      (((∃ x ∈ s.expRows.take i, x.desc = e.desc) ∨ s.touched.elem (0, e.desc / 128) = true) → exec (.expertRowArrival i) s = .next s) ∧
      (let d := Desc.parse (s.rdMem e.desc 128)
       (∀ x ∈ s.expRows.take i, x.desc ≠ e.desc) → s.touched.elem (0, e.desc / 128) = false →
       (∀ a, a ∈ e.desc :: (s.walkPas e.vf d.base ++ s.walkPas e.vf d.obase) → s.dieAwake (dieOfPa a) = true) →
        (let s1 : State := { s with expRows := s.expRows.eraseIdx i, touched := s.touched ++ [(0, e.desc / 128)] }
         (s.resetting e.vf = true → exec (.expertRowArrival i) s = .next (s1.rowDone e 0x02 true)) ∧
         (s.resetting e.vf = false →
           (∀ c, s.frameCheck e.desc e.vf .write = .code c → exec (.expertRowArrival i) s = .next (s1.rowDone e c true)) ∧
           (s.frameCheck e.desc e.vf .write = .ok → s.badLine (e.desc / 128) = true →
             exec (.expertRowArrival i) s = .next ((s1.noteBad (e.desc / 128) e.vf).rowDone e 0x03 true)) ∧
           (s.frameCheck e.desc e.vf .write = .ok → s.badLine (e.desc / 128) = false →
             (let r := s.ringOf e.desc
              let s2 := s1.setRing { r with srcs := countRow r.srcs (s1.rowSrc e), vf := e.vf }
              ((e.ovf = true ∨ d.full = true) → d.ocap ≤ d.ocnt → exec (.expertRowArrival i) s = .next (s2.rowDone e 0 false)) ∧
              (∀ u, e.ovf = false → d.full = false → s2.ringPut e.vf e.desc false e.x.entry = .ok u →
                exec (.expertRowArrival i) s = .next ((u.overflowReturn e.vf e.desc (d.ocnt + 1)).rowDone e 0 true)) ∧
              (∀ c, e.ovf = false → d.full = false → s2.ringPut e.vf e.desc false e.x.entry = .error c →
                exec (.expertRowArrival i) s = .next (s2.rowDone e c true)))))))) ∧
    (∀ (xs : List RingSrc) (dev eng : Nat), (∀ x ∈ xs, ¬ (x.dev = dev ∧ x.eng = eng)) → countRow xs (dev, eng) = xs ++ [⟨dev, eng, 1⟩]) ∧
    (∀ (xs ys : List RingSrc) (x : RingSrc), (∀ y ∈ xs ++ ys, ¬ (y.dev = x.dev ∧ y.eng = x.eng)) →
      countRow (xs ++ x :: ys) (x.dev, x.eng) = xs ++ { x with rows := x.rows + 1 } :: ys) ∧
    (s.rings[i]? = none → exec (.occupancyReport i) s = .next s) ∧
    (∀ r, s.rings[i]? = some r →
      (let occ := (Desc.parse (s.rdMem r.desc 128)).occ
       ((r.changed = false ∨ s.now < r.cyc + 64 ∨ s.badLine (r.desc / 128) = true) → exec (.occupancyReport i) s = .next s) ∧
       (r.changed = true → r.cyc + 64 ≤ s.now → s.badLine (r.desc / 128) = false → s.dieAwake (dieOfPa r.desc) = true →
         (let s1 := s.setRing { r with last := occ, cyc := s.now, changed := false }
          (∀ dev eng n, r.srcs = [⟨dev, eng, n⟩] → dev ≠ s.vertex →
            exec (.occupancyReport i) s = .next (s1.emit .firmware dev engHost r.vf opQRPT r.desc (leBytes 8 occ ++ leBytes 2 eng) (leBytes 8 n))) ∧
          (∀ eng n, r.srcs = [⟨s.vertex, eng, n⟩] →
            exec (.occupancyReport i) s = .next { s1 with known := updKnown s1.known (s1.engCore eng) s.vertex r.desc occ fun x => { x with occ := occ, had := n } }) ∧
          (r.srcs = [] → exec (.occupancyReport i) s = .next s1))))))

/-- R138, R140, R145 to R149, R242, R252, R297, R321, R330. Choices of the model that its clauses rest on: where SLOT and NSLOT
stand in the payload of an arrival of a reduction (log 14), that its frame is checked as an atomic's (log 32), what a plain read of a
line of a twin page reads and answers (log 64), and byte 21 as what sets a row for a receive buffer apart from a write (log 61). -/
def Obligations.HomeRequests : Prop :=
  ∀ (s : State) (i : Nat),
    (s.inbox[i]? = none →
      exec (.rdPkt i) s = .next s ∧ exec (.wrPkt i) s = .next s ∧ exec (.wrmPkt i) s = .next s ∧ exec (.wrcPkt i) s = .next s ∧
      exec (.rdcPkt i) s = .next s ∧ exec (.atPkt i) s = .next s ∧ exec (.ancPkt i) s = .next s ∧ exec (.pubPkt i) s = .next s ∧
      exec (.barPkt i) s = .next s ∧ exec (.redPkt i) s = .next s) ∧
    (∀ a, s.inbox[i]? = some a → a.pkt.dst ≠ 0x7FF → s.mayApply i a = false →
      exec (.rdPkt i) s = .next s ∧ exec (.wrPkt i) s = .next s ∧ exec (.wrmPkt i) s = .next s ∧ exec (.wrcPkt i) s = .next s ∧
      exec (.rdcPkt i) s = .next s ∧ exec (.atPkt i) s = .next s ∧ exec (.ancPkt i) s = .next s ∧ exec (.pubPkt i) s = .next s ∧
      exec (.barPkt i) s = .next s ∧ exec (.redPkt i) s = .next s) ∧
    (∀ a, s.inbox[i]? = some a → a.pkt.dst ≠ 0x7FF → s.mayApply i a = true → s.resetting a.pkt.vf = true →
      (let refused : Out → Prop := fun o => o = .next ((s.take i).answer a.pkt 0x02 [] [])
       (a.pkt.op = 0x01 → refused (exec (.rdPkt i) s)) ∧ (a.pkt.op = 0x03 → refused (exec (.wrmPkt i) s)) ∧
       (a.pkt.op = 0x02 → pktArg a.pkt 0 1 ≠ 1 → pktArg a.pkt 0 1 ≠ 2 → refused (exec (.wrPkt i) s)) ∧
       (a.pkt.op = 0x04 → refused (exec (.wrcPkt i) s)) ∧ (a.pkt.op = 0x05 → refused (exec (.rdcPkt i) s)) ∧
       (a.pkt.op = 0x06 → refused (exec (.atPkt i) s)) ∧ (a.pkt.op = 0x07 → refused (exec (.ancPkt i) s)) ∧
       (a.pkt.op = 0x08 → refused (exec (.pubPkt i) s)) ∧ (a.pkt.op = 0x09 → refused (exec (.barPkt i) s)) ∧
       (a.pkt.op = 0x0A → refused (exec (.redPkt i) s)))) ∧
    (∀ a, s.inbox[i]? = some a → a.pkt.dst ≠ 0x7FF → s.mayApply i a = true → s.resetting a.pkt.vf = false →
      (let p := a.pkt
       let answered : State → Nat → List Byte → List Byte → Out := fun s c args data => .next ((s.take i).answer p c args data)
       let line := p.addr / 128 * 128
       let sound : List Nat → Prop := fun ls => ∀ l ∈ ls, s.badLine l = false
       (p.op = 0x01 →
         (∀ c, s.checkFrame p .read = .code c → exec (.rdPkt i) s = answered s c [] []) ∧
         (s.checkFrame p .read = .ok →
           (bitAt (s.frameEnt p.addr) 53 = false → sound (linesAt p.addr (16 * pktArg p 0 1)) →
             exec (.rdPkt i) s = answered ((s.noteFixes (linesAt p.addr (16 * pktArg p 0 1))).hostHas p) 0 [] (s.rdMem p.addr (16 * pktArg p 0 1))) ∧
           (∀ l ls, bitAt (s.frameEnt p.addr) 53 = false → linesAt p.addr (16 * pktArg p 0 1) = l :: ls → s.badLine l = true →
             exec (.rdPkt i) s = answered (s.noteBad l p.vf) 0x03 [] []) ∧
           (∀ r pa, bitAt (s.frameEnt p.addr) 53 = true → (s.lineCid line) ≠ 0 → s.lineCid line / 8192 = s.vertex →
             s.commits.find? (s.lineCid line % 8192) = some r → r.vf = p.vf →
             (s.slotAt line (s.lineCid line) r.c = none → exec (.rdPkt i) s = answered s 0x07 [] []) ∧
             (s.slotAt line (s.lineCid line) r.c = some pa → sound (linesAt (pa + p.addr % 128) (16 * pktArg p 0 1)) →
               exec (.rdPkt i) s = answered ((s.noteFixes (linesAt (pa + p.addr % 128) (16 * pktArg p 0 1))).hostHas p) 0
                 (leBytes 3 (s.lineCid line) ++ leBytes 4 r.c) (s.rdMem (pa + p.addr % 128) (16 * pktArg p 0 1)))))) ∧
       (p.op = 0x05 → s.checkFrame p .read = .ok → bitAt (s.frameEnt line) 53 = true → pktArg p 0 3 ≠ 0 → (s.sideOf line).cid = pktArg p 0 3 →
         (s.slotAt line (pktArg p 0 3) (pktArg p 3 4) = none → exec (.rdcPkt i) s = answered s 0x07 [] []) ∧
         (∀ pa, s.slotAt line (pktArg p 0 3) (pktArg p 3 4) = some pa → sound (linesAt pa 128) →
           exec (.rdcPkt i) s = answered (s.noteFixes (linesAt pa 128)) 0 (leBytes 3 (pktArg p 0 3) ++ leBytes 4 (pktArg p 3 4)) (s.rdMem pa 128))) ∧
       (s.eccFix = [] → s.rings = [] → s.resolves = [] → s.checkFrame p .write = .ok →
         (let stores : List (Nat × Byte) → Out → Prop := fun cells o => (∀ x ∈ cells, s.badLine (x.1 / 128) = false) →
            ∃ t, o = answered t 0 [] [] ∧ t.mem = memSets s.mem cells ∧ t.cores = s.cores ∧ t.side = s.side
          (p.op = 0x02 → pktArg p 0 1 ≠ 1 → pktArg p 0 1 ≠ 2 → stores (cellsAt p.addr p.data) (exec (.wrPkt i) s)) ∧
          (p.op = 0x03 → stores (maskedCells line p.data) (exec (.wrmPkt i) s)))) ∧
       (∀ c, s.checkFrame p .write = .code c →
         (p.op = 0x02 → pktArg p 0 1 ≠ 1 → pktArg p 0 1 ≠ 2 → exec (.wrPkt i) s = answered s c [] []) ∧ (p.op = 0x03 → exec (.wrmPkt i) s = answered s c [] [])) ∧
       (∀ r, p.op = 0x04 → s.checkFrame p .member = .ok → pktArg p 0 3 / 8192 = s.vertex →
         s.commits.find? (pktArg p 0 3 % 8192) = some r → r.vf = p.vf →
         (pktArg p 3 4 ≠ (r.c + 1) % 2 ^ 32 → exec (.wrcPkt i) s = answered s 0x06 [] []) ∧
         (pktArg p 3 4 = (r.c + 1) % 2 ^ 32 → ∃ t, exec (.wrcPkt i) s = answered t 0 [] [] ∧
           (let slot := s.slotFor line (pktArg p 0 3) (pktArg p 3 4)
            t.mem = memSets s.mem (cellsAt slot p.data) ∧ t.commits = s.commits ∧
            t.side = AMap.set s.side (slot / 128) ⟨pktArg p 0 3, pktArg p 3 4, pktArg p 7 2, pktArg p 9 2⟩))) ∧
       (p.op = 0x06 → s.eccFix = [] → s.rings = [] → s.resolves = [] → s.checkFrame p .atomic = .ok → s.badLine (p.addr / 128) = false →
         (let w := if bitAt (pktArg p 0 1) 7 then 8 else 4
          let x := leNat (s.rdMem p.addr w)
          exec (.atPkt i) s = answered (s.wrMem (cellsAt p.addr (leBytes w (atomicNew (pktArg p 0 1 % 16) (8 * w) x
            (rfld p.data 0 8 % 2 ^ (8 * w)) (rfld p.data 8 8 % 2 ^ (8 * w)))))) 0 [] (leBytes w x))) ∧
       (s.commits.find? (pktArg p 0 3 % 8192) = none →
         (p.op = 0x07 → exec (.ancPkt i) s = answered s 0x01 [] []) ∧ (p.op = 0x08 → exec (.pubPkt i) s = answered s 0x01 [] [])) ∧
       (∀ r, s.commits.find? (pktArg p 0 3 % 8192) = some r →
         (r.vf ≠ p.vf → (p.op = 0x07 → exec (.ancPkt i) s = answered s 0x02 [] []) ∧ (p.op = 0x08 → exec (.pubPkt i) s = answered s 0x02 [] [])) ∧
         (r.vf = p.vf → p.op = 0x07 → exec (.ancPkt i) s = answered s 0 (leBytes 4 r.c) []) ∧
         (r.vf = p.vf → p.op = 0x08 → pktArg p 3 4 = (r.c + 1) % 2 ^ 32 → exec (.pubPkt i) s =
           answered { s with commits := AMap.set s.commits (pktArg p 0 3 % 8192) ⟨p.vf, pktArg p 3 4⟩ } 0 [] []) ∧
         (r.vf = p.vf → p.op = 0x08 → pktArg p 3 4 ≠ (r.c + 1) % 2 ^ 32 → exec (.pubPkt i) s = answered s 0x09 [] [])) ∧
       (p.op = 0x09 → exec (.barPkt i) s =
         (let r := s.barStep p.addr (pktArg p 0 1) (pktArg p 1 4)
          answered r.1 r.2.1 (leBytes 4 r.2.2) [])) ∧
       (p.op = 0x0A → s.checkFrame p .atomic = .ok →
         (s.badLine (p.addr / 128) = true → exec (.redPkt i) s = answered (s.noteBad (p.addr / 128) p.vf) 0x03 [] []) ∧
         (s.badLine (p.addr / 128) = false → s.eccFix = [] →
           (let n := (leNat (s.rdMem p.addr 4) + 1) % 2 ^ 32
            let s1 := s.wrMem (cellsAt p.addr (leBytes 4 n))
            let due := decide (n = rfld p.data 18 2)
            let first : Redn := ⟨p.addr, false, [rfld p.data 16 2], p.data, p.vf, due, 0, false, none⟩
            (s.redns = [] → exec (.redPkt i) s = answered { s1 with redns := [first] } 0 [] []) ∧
            (∀ r : Redn, s.redns = [r] → r.hdr = p.addr → r.due = false → n ≠ 1 →
              exec (.redPkt i) s = answered { s1 with redns := [{ r with
                order := r.order ++ [rfld p.data 16 2], args := p.data, vf := p.vf, mixed := r.mixed || !redAgree r.args p.data,
                due := due, pool := none }] } 0 [] [])))) ∧
       (∀ c, p.op = 0x0A → s.checkFrame p .atomic = .code c → exec (.redPkt i) s = answered s c [] []) ∧
       (∀ acc, frameAcc p.op = some acc → (∀ c, s.checkFrame p acc ≠ .code c) → s.checkFrame p acc ≠ .ok →
         pktArg p 0 1 ≠ 1 → pktArg p 0 1 ≠ 2 →
         exec (.rdPkt i) s = .next s ∧ exec (.wrPkt i) s = .next s ∧ exec (.wrmPkt i) s = .next s ∧ exec (.wrcPkt i) s = .next s ∧
         exec (.rdcPkt i) s = .next s ∧ exec (.atPkt i) s = .next s ∧ exec (.redPkt i) s = .next s)))

/-- R208, R209, R251, R281, R298, R317, R321 to R323, R327, R328, R330. Choices of the model that its clauses rest on: a multicast
packet that is no write is dropped like one of an undefined group (log 113); bytes 0 to 7 of an arrival's payload name the result's
device and address, and bytes 8 to 15 its barrier (log 14); what a management packet holds (log 18); what a report holds (log 61). -/
def Obligations.FabricAndCollectiveEvents : Prop :=
  (∀ (s : State) (i : Nat) (e : ExtBytes),
    (s.inbox[i]? = none →
      exec (.replyPkt i) s = .next s ∧ exec (.qrptPkt i) s = .next s ∧ exec (.mgmtPkt i) s = .next s ∧ exec (.unknownOpPacket i) s = .next s ∧
      exec (.forwardedRequest i) s = .next s ∧ exec (.multicastWr i) s = .next s) ∧
    (∀ a, s.inbox[i]? = some a →
      (let p := a.pkt
       (p.op = 0x20 → s.mayApply i a = true →
         ((∀ q ∈ s.reqs, q.tag = p.tag → q.eng ≠ p.eng) → exec (.replyPkt i) s = .next (s.take i)) ∧
         (∀ q, List.find? (fun x => decide (x.tag = p.tag) && decide (x.eng = p.eng)) s.reqs = some q →
           exec (.replyPkt i) s = .next ((s.take i).endReq q p.code p.args p.data) ∧
           (∀ h n, q.owner = .host h n → q.dst = s.vertex → p.code ≠ 0x0A → exec (.replyPkt i) s = .next { s.take i with
             reqs := s.reqs.filter fun x => !(decide (x.tag = q.tag) && decide (x.eng = q.eng)), hostOut := s.hostOut ++ [(p.code, (p.data.drop (h % 16)).take n)] }))) ∧
       (p.op ≠ 0x20 → exec (.replyPkt i) s = .next s) ∧
       (p.dst ≠ 0x7FF → s.mayApply i a = true → s.resetting p.vf = false →
         (p.op = 0x3F → rfld p.data 8 1 ≠ 7 → rfld p.data 8 1 ≠ 12 → s.jobFunc p.vf (rfld p.data 9 2) = none →
           exec (.mgmtPkt i) s = .next ((s.take i).answer p 0 [] [])) ∧
         (∀ vf, p.op = 0x3F → rfld p.data 8 1 = 4 → s.jobFunc p.vf (rfld p.data 9 2) = some vf → exec (.mgmtPkt i) s =
           .next (((s.setFunc vf { s.func vf with repl := some (rfld p.data 0 8) }).take i).answer p 0 [] [])) ∧
         (p.op = 0x0B →
           (let told : RingKnown → RingKnown := fun x => { x with occ := pktArg p 0 8, had := rfld p.data 0 8 }
            let known := updKnown s.known (s.engCore (pktArg p 8 2)) p.src p.addr (pktArg p 0 8) told
            exec (.qrptPkt i) s = .next ((({ s with known := known } : State).take i).answer p 0 [] []))) ∧
         (∀ d f, p.op = 0x01 → s.checkFrame p .read = .peer d f →
           exec (.rdPkt i) s = .next s ∧
           exec (.forwardedRequest i) s = .next ((s.take i).sendOn p d (f * 65536 + p.addr % 65536))) ∧
         (∀ g, p.op = 0x01 → s.checkFrame p .read = .pool g → exec (.forwardedRequest i) s =
           .next { (s.take i).holdBack p with poolOut := s.poolOut ++ [⟨p, g * 65536 + p.addr % 65536⟩] }) ∧
         (∀ g, p.op = 0x04 → s.checkFrame p .member = .pool g → exec (.forwardedRequest i) s = .next ((s.take i).answer p 0x0A [] []))) ∧
       (p.op ∉ [0x01, 0x02, 0x03, 0x04, 0x05, 0x06, 0x07, 0x08, 0x09, 0x0A, 0x0B, 0x20, 0x3F] →
         exec (.unknownOpPacket i) s = .next ((s.take i).record 5 0 p.eng p.vf p.src)) ∧
       (p.op ∈ [0x01, 0x02, 0x03, 0x04, 0x05, 0x06, 0x07, 0x08, 0x09, 0x0A, 0x0B, 0x20, 0x3F] → exec (.unknownOpPacket i) s = .next s) ∧
       (p.dst ≠ 0x7FF ∨ s.mayApply i a = false → exec (.multicastWr i) s = .next s) ∧
       (p.dst = 0x7FF → s.mayApply i a = true → p.op ≠ 0x02 → exec (.multicastWr i) s = .next ((s.take i).record 5 0 p.eng p.vf p.src)) ∧
       (p.dst = 0x7FF → s.mayApply i a = true → p.op = 0x02 →
         (let g := (AMap.get 0#64 s.mcast p.mcg).toNat
          let copies := ((mcPorts g).filter fun q => decide (some q ≠ a.ingress)).map fun q =>
            (q, { p with hops := if a.ingress = none then p.hops else p.hops + 1 })
          (bitAt g 63 = false → exec (.multicastWr i) s = .next ((s.take i).record 5 0 p.eng p.vf p.src)) ∧
          (bitAt g 63 = true → bitAt g 33 = false → exec (.multicastWr i) s = .next { s.take i with egress := s.egress ++ copies }) ∧
          (bitAt g 63 = true → bitAt g 33 = true → s.resetting p.vf = false → ∀ c, s.frameCheck p.addr p.vf .write = .code c →
            exec (.multicastWr i) s = .next (({ s.take i with egress := s.egress ++ copies } : State).answer p c [] [])) ∧
          (bitAt g 63 = true → bitAt g 33 = true → s.resetting p.vf = true →
            exec (.multicastWr i) s = .next (({ s.take i with egress := s.egress ++ copies } : State).answer p 0x02 [] [])) ∧
          (bitAt g 63 = true → bitAt g 33 = true → s.resetting p.vf = false → ∀ d f, s.frameCheck p.addr p.vf .write = .peer d f →
            exec (.multicastWr i) s = .next (({ s.take i with egress := s.egress ++ copies } : State).sendOn p d (f * 65536 + p.addr % 65536))))))) ∧
    (s.poolOut[i]? = none → exec (.pooledMemoryReply i e) s = .next s) ∧
    (∀ r, s.poolOut[i]? = some r →
      (∀ q ∈ s.poolOut.take i, sameStream q.pkt r.pkt = false ∧ q.addr / 128 ≠ r.addr / 128) →
      (r.pkt.op = 0x01 → exec (.pooledMemoryReply i e) s = .next (({ s with poolOut := s.poolOut.eraseIdx i } : State).answerBack r.pkt 0 []
        (extRead e r.addr (16 * pktArg r.pkt 0 1)))) ∧
      (r.pkt.op = 0x02 → r.pkt.dst ≠ 0x7FF → exec (.pooledMemoryReply i e) s = .next (({ s with poolOut := s.poolOut.eraseIdx i } : State).answerBack r.pkt 0 [] [])) ∧
      (r.pkt.op = 0x06 → r.pkt.code = 0 → ∃ q : PoolReq, exec (.pooledMemoryReply i e) s = .next { s with
        poolOut := s.poolOut.take i ++ q :: s.poolOut.drop (i + 1) } ∧ q.addr = r.addr ∧ q.pkt.code = 1 ∧
        q.pkt.args = leBytes (if bitAt (pktArg r.pkt 0 1) 7 then 8 else 4) (leNat (extRead e r.addr (if bitAt (pktArg r.pkt 0 1) 7 then 8 else 4)))) ∧
      (r.pkt.op = 0x06 → r.pkt.code ≠ 0 → exec (.pooledMemoryReply i e) s =
        .next (({ s with poolOut := s.poolOut.eraseIdx i } : State).answerBack r.pkt 0 [] r.pkt.args)) ∧
      (r.pkt.op = 0x0A → r.pkt.code = 0 → exec (.pooledMemoryReply i e) s = .next { s with poolOut := s.poolOut.take i ++
        ⟨{ r.pkt with code := 1, args := leBytes 4 ((leNat (extRead e r.addr 4) + 1) % 2 ^ 32) }, r.addr⟩ :: s.poolOut.drop (i + 1) })) ∧
    (∀ r q, s.poolOut[i]? = some r → q ∈ s.poolOut.take i → (sameStream q.pkt r.pkt = true ∨ q.addr / 128 = r.addr / 128) →
      exec (.pooledMemoryReply i e) s = .next s)) ∧
  (∀ (s : State) (tag : Nat),
    ((∀ q ∈ s.reqs, q.tag = tag → s.now < q.sentAt + 8388608) → exec (.requestTimeout tag) s = .next s) ∧
    (∀ q, List.find? (fun x => decide (x.tag = tag) && decide (x.sentAt + 8388608 ≤ s.now)) s.reqs = some q →
      exec (.requestTimeout tag) s = .next (s.endReq q (if q.op = 0x06 ∨ q.op = 0x08 then 0x05 else 0x04) [] []))) ∧
  (∀ (s : State) (port : Nat) (p : Pkt), p.src ≠ s.vertex →
    (s.roster.elem p.src = false → exec (.packetRoute port p) s = .next (s.record 5 0 p.eng p.vf p.src)) ∧
    (s.roster.elem p.src = true →
      (p.dst = 0x7FF → exec (.packetRoute port p) s = .next (s.deliver p (2 * port))) ∧
      (p.dst ≠ 0x7FF →
        (p.nm = false → p.dst = s.vertex → exec (.packetRoute port p) s = .next (s.deliver p (2 * port))) ∧
        (p.nm = false → p.dst ≠ s.vertex → exec (.packetRoute port p) s =
          .next { s with egress := s.egress ++ [(s.minPort p.dst, { p with hops := p.hops + 1 })] }) ∧
        (p.nm = true → p.via ≠ s.vertex → exec (.packetRoute port p) s =
          .next { s with egress := s.egress ++ [(s.minPort p.via, { p with hops := p.hops + 1 })] }) ∧
        (p.nm = true → p.via = s.vertex → p.dst ≠ s.vertex → exec (.packetRoute port p) s =
          .next { s with egress := s.egress ++ [(s.minPort p.dst, { p with nm := false, via := 0, hops := p.hops + 1 })] })))) ∧
  (∀ (s : State) (dst lane : Nat),
    (let x := s.lanePath dst lane
     let sets : LanePath → Out := fun y => .next { s with paths := AMap.set s.paths (8 * dst + lane) y }
     ((x.via ≠ none ∨ s.routes.find? dst = none) → exec (.laneNonminimalMove dst lane) s = .next s) ∧
     (∀ port l m, x.via = none → s.routes.find? dst = some (port, l) → l ≠ [] → l[x.idx % l.length]? = some m →
       exec (.laneNonminimalMove dst lane) s = sets { x with idx := x.idx + 1, pend := some (some m) }) ∧
     ((x.via = none ∨ s.now < x.since + 65536 ∨ s.pathUp dst none = false) → exec (.laneMinimalReturn dst lane) s = .next s) ∧
     (x.via ≠ none → x.since + 65536 ≤ s.now → s.pathUp dst none = true →
       exec (.laneMinimalReturn dst lane) s = sets { x with pend := some none }))) ∧
  (∀ (s : State) (k id : Nat),
    ((s.ctx k).findOp id = none → exec (.walkerTransfer k id) s = .next s ∧ exec (.collectiveCompletion k id) s = .next s) ∧
    (∀ o r, (s.ctx k).findOp id = some o → o.coll = some r →
      (o.released = false → exec (.walkerTransfer k id) s = .next s) ∧
      (o.released = true → o.abandoned = false → s.resetting (s.ctx k).stat.vf = false → (s.ctx k).collActive id = true →
        (∀ a, a ∈ s.walkPas (s.ctx k).stat.vf (vaOf (r.target r.next)) → s.dieAwake (dieOfPa a) = true) →
        (∀ j p, o.pieces[j]? = some p → p.st = .replied → (∀ q ∈ o.pieces.take j, q.st ≠ .replied) →
          exec (.walkerTransfer k id) s = .next (s.landXfer k o r j p)) ∧
        (o.pieces = [] → s.tagLeft (engPort (ctxCluster k)) = true → r.next = 0 → r.aborted = false → r.held = false → 0 < r.total → o.xferOut r < 64 → r.total * (r.blk + 32) ≤ 2 ^ 20 →
          exec (.walkerTransfer k id) s = .next (s.emitXfer k o r 0)) ∧
        (o.pieces = [] → r.next = 0 → (r.aborted = true ∨ r.held = true ∨ r.total = 0) → exec (.walkerTransfer k id) s = .next s)) ∧
      (o.kind = .coll → (o.released = false ∨ o.collOver r = false) → exec (.collectiveCompletion k id) s = .next s) ∧
      (o.kind = .coll → o.released = true → o.collOver r = true → (r.cst = false ∨ r.published = true ∨ r.aborted = true) → o.burst = 2 →
        exec (.collectiveCompletion k id) s = .next { s.setCtx k ((((s.ctx k).putTok o.id (BitVec.ofNat 64 (2 ^ 63 + b2n r.aborted * 2 ^ 62 +
          o.code * 2 ^ 48 + ((List.range r.next).filter (o.xferOk (decide (r.kind = 1)))).length % 2 ^ 32))).dropOp o.id).dropRows) with
            burstHeld := s.burstHeld - 1 })) ∧
    (∀ o, (s.ctx k).findOp id = some o → o.kind = .collAbort →
      (o.released = false → exec (.collectiveCompletion k id) s = .next s) ∧
      (o.released = true → exec (.collectiveCompletion k id) s = .next (s.applyAbort k o)))) ∧
  (∀ (s : State) (i : Nat),
    (s.redns[i]? = none → exec (.reductionComplete i) s = .next s) ∧
    (∀ r, s.redns[i]? = some r →
      (r.due = false → exec (.reductionComplete i) s = .next s) ∧
      (r.due = true → r.started = false →
        ((s.reqsOf (engPort 32) ≠ [] ∨ ∃ l ∈ r.lines, s.lineBusy l = true) → exec (.reductionComplete i) s = .next s) ∧
        (s.reqsOf (engPort 32) = [] → (∀ l ∈ r.lines, s.lineBusy l = false) → exec (.reductionComplete i) s = .next (s.redStart r))) ∧
      (r.due = true → r.started = true →
        (((∃ q ∈ s.reqs, q.owner = .reduce r.hdr) ∨ (r.pool = none ∧ s.lineBusy (r.hdr / 128) = true)) →
          exec (.reductionComplete i) s = .next s) ∧
        ((∀ q ∈ s.reqs, q.owner ≠ .reduce r.hdr) → (r.pool ≠ none ∨ s.lineBusy (r.hdr / 128) = false) →
          (let s0 : State := { s with redns := s.redns.eraseIdx i }
           let s1 := s0.clearCount r
           (r.pool = none → r.hdr % 4 = 0 → s.badLine (r.hdr / 128) = false → s.eccFix = [] →
             s1 = (s0.wrMem (cellsAt r.hdr (leBytes 4 0))).touch [r.hdr / 128]) ∧
           (r.code ≠ 0 → exec (.reductionComplete i) s = .next (s1.record 9 r.code (engPort 32) r.vf r.hdr)) ∧
           (r.code = 0 → bitAt (rfld r.args 8 8) 63 = true → exec (.reductionComplete i) s =
             .next (s1.landBar (engPort 32) r.vf (redDst r.args).1 (rfld r.args 8 8 % 2 ^ 30) (rfld r.args 24 4))) ∧
           (r.code = 0 → bitAt (rfld r.args 8 8) 63 = false → exec (.reductionComplete i) s = .next s1))))))

/-- R119, R225, R227, R228, R231, R235, R237, R239, R265, R267, R269, R335. Choices of the model that its clauses rest on: a demand
of a graph that has been released answers 0x02 (log 76); a completion is a masked write under the scheduler's engine number (log 75);
tiles that a stopped pipeline had not bound are dealt again, and a transfer that fails is held (log 74). -/
def Obligations.SchedulerEvents : Prop :=
  (∀ (s : State) (cl : Nat) (e : ExtBytes),
    ((s.cluster cl).graphs = [] → exec (.stepGraphAccept cl e) s = .next s) ∧
    (∀ g rest, (s.cluster cl).graphs = g :: rest →
      (let s1 := s.setCluster cl { s.cluster cl with graphs := rest }
       let n := signed 64 g.n
       (∀ a, a ∈ s.vaPas g.vf g.addr (128 * (min 4096 n).toNat) → s.dieAwake (dieOfPa a) = true) →
       let by_ : Submitter := ⟨g.vf, g.priv, g.lcap⟩
       let answered : State → Nat → Out := fun t v => .next (t.setCtx g.ctx (((t.ctx g.ctx).putTok g.op (BitVec.ofNat 64 v)).dropOp g.op))
       (n = 0 → exec (.stepGraphAccept cl e) s = answered s1 0) ∧
       (n < 0 ∨ 4096 < n → exec (.stepGraphAccept cl e) s = answered s1 (2 ^ 63 + 0x02 * 2 ^ 16 + 0xFFFF)) ∧
       (0 < n → n ≤ 4096 → g.addr % 128 ≠ 0 → exec (.stepGraphAccept cl e) s = answered s1 (2 ^ 63 + 0x02 * 2 ^ 16)) ∧
       (∀ recs, 0 < n → n ≤ 4096 → g.addr % 128 = 0 → s1.readRecs e g.vf g.addr n.toNat = recs →
         (∀ t r i, s1.checkAll e cl by_ recs 0 recs = (t, .error (r, i)) → exec (.stepGraphAccept cl e) s =
           answered { t with graphs := t.graphs.filter fun x => decide (x.graph ≠ t.nextGraph) } (2 ^ 63 + r * 2 ^ 16 + i)) ∧
         (∀ t xs, s1.checkAll e cl by_ recs 0 recs = (t, .ok xs) → ∃ new, exec (.stepGraphAccept cl e) s =
           answered { t with recs := t.recs ++ new, nextRec := t.nextRec + xs.length, nextGraph := t.nextGraph + 1 } 0 ∧
           ∀ (j : Nat) (bs : List Byte) (x : Checked), xs[j]? = some (bs, x) →
             (t.nextRec + j, t.makeRec g.addr j bs x) ∈ new)))) ∧
    (let s1 := s.takeDemands cl
     ((s1.cluster cl).demq = [] → exec (.toleranceDemandServe cl e) s = .next s1) ∧
     (∀ d rest, (s1.cluster cl).demq = d :: rest → (∀ a, a ∈ s1.gradePas cl → s1.dieAwake (dieOfPa a) = true) →
       (s1.graphOf d.record = none → exec (.toleranceDemandServe cl e) s = .next (s1.endDemand cl d 0x02 0 0)) ∧
       (∀ g n x, s1.graphOf d.record = some g → g.nodes[d.node]? = some n → n.d = some x → d.grade ≤ x →
         exec (.toleranceDemandServe cl e) s = .next (s1.endDemand cl d 0x03 0 x)) ∧
       (∀ g n, s1.graphOf d.record = some g → g.nodes[d.node]? = some n → d.redem = false → (∀ x, n.d = some x → x < d.grade) →
         exec (.toleranceDemandServe cl e) s =
           .next ((s1.setNodes g (walkDemand (g.nodes.length + 1) (g.nodes, []) d.node d.grade).1).endDemand cl d 0 0 d.grade))))) ∧
  (∀ (s : State) (core : Nat),
    (let s1 := s.schedule
     ((s1.core core).dq = [] → exec (.taskBind core) s = .next s1) ∧
     (∀ t rest r, (s1.core core).dq = t :: rest → s1.recs.find? t.record = some r →
       ((s1.coreRuns core = false ∨ s1.couldBind core none t = false ∨ s1.reloadsDue core ≠ [] ∨ s1.freeSlot core = none) →
         exec (.taskBind core) s = .next s1) ∧
       (∀ k u, s1.coreRuns core = true → s1.reloadsDue core = [] → s1.couldBind core none t = true → s1.freeSlot core = some k →
         r.units (s1.unitsUsed core none) = some u → bitAt r.flags 1 = false → r.pipe = none →
         ∃ t', exec (.taskBind core) s = .next t' ∧ t'.ctx k = (s1.ctx k).bound t.record t.tile (t.tol.getD (s1.bindTol r)) r u ∧
           (t'.core core).dq = rest ∧ (∀ j, j ≠ k → t'.ctx j = s1.ctx j) ∧ t'.mem = s1.mem))) ∧
    ((∀ t ∈ (s.core core).dq, t.aged = true ∨ s.now < t.since + 2 ^ 20) → exec (.taskAging core) s = .next s) ∧
    (∀ t rest, (s.core core).dq = t :: rest → t.aged = false → t.since + 2 ^ 20 ≤ s.now →
      (∀ x ∈ rest, x.aged = true ∨ s.now < x.since + 2 ^ 20) → exec (.taskAging core) s =
      .next (s.setCore core { s.core core with dq := s.enqueue { t with aged := true } rest })) ∧
    ((s.coreRuns core = false ∨ s.reloadsDue core = [] ∨ s.freeSlot core = none) → exec (.reload core) s = .next s) ∧
    (∀ k, s.freeSlot core = some k →
      ((s.ctx k).settled = false → exec (.reload core) s = .next s) ∧
      ((∀ b ∈ s.reloadsDue core, s.reloadTo b k = none) → exec (.reload core) s = .next s) ∧
      (∀ b t older younger, s.reloadsDue core = older ++ b :: younger → s.coreRuns core = true → (s.ctx k).settled = true →
        (∀ x ∈ older, s.reloadTo x k = none) → s.reloadTo b k = some t → exec (.reload core) s = .next t))) ∧
  (∀ (s : State) (k : Nat),
    ((s.maySpill k = false ∨ isControl (ctxCore k) = true ∨ isSpilled k = true ∨ s.saveSlot (ctxCore k) = none ∨
        ((s.ctx k).spillDue ≠ some (s.ctx k).word ∧ s.now ≤ (s.ctx k).yieldCyc + (s.core (ctxCore k)).swapthr)) →
      exec (.swapOut k) s = .next s) ∧
    (∀ b, isSpilled k = false → isControl (ctxCore k) = false → s.maySpill k = true → s.saveSlot (ctxCore k) = some b →
      (s.ctx k).spillDue = some (s.ctx k).word → exec (.swapOut k) s = .next (s.spill k)) ∧
    (∀ b, isSpilled k = false → isControl (ctxCore k) = false → s.maySpill k = true →
      (s.ctx k).yieldCyc + (s.core (ctxCore k)).swapthr < s.now → (∃ t ∈ (s.core (ctxCore k)).dq, s.couldBind (ctxCore k) (some k) t = true) →
      s.saveSlot (ctxCore k) = some b → (s.ctx k).waitsAt = none → exec (.swapOut k) s = .next (s.spill k))) ∧
  (∀ (s : State) (key : Nat) (e : ExtBytes),
    (s.recs.find? key = none → exec (.recordCompletion key) s = .next s ∧ exec (.loaderTile key e) s = .next s ∧
      exec (.storerWriteback key) s = .next s ∧ exec (.pipelinePreempt key) s = .next s) ∧
    (∀ r, s.recs.find? key = some r →
      (r.done = true → exec (.recordCompletion key) s = .next (s.releaseGraph r.graph)) ∧
      (r.done = false → (r.completing = true ∨ r.ended s = false) → exec (.recordCompletion key) s = .next s) ∧
      (r.done = false → r.completing = false → r.ended s = true → r.pipe = none → r.redem = none → ∀ home pa,
        (∀ a, a ∈ s.walkPas r.vf r.compl → s.dieAwake (dieOfPa a) = true) →
        s.xlate r.vf r.compl .wr = .ok (home, pa) → exec (.recordCompletion key) s =
          .next (({ s with recs := AMap.set s.recs key { r with completing := true } } : State).emit (.compl key) home
            (engSched ((nthSet 32 r.place 0).getD 0)) r.vf opWRM (pa / 128 * 128) []
            (wrmData (pa % 128) (leBytes 8 (2 ^ 63 + r.failed % 2 ^ 32)) fun _ => false))) ∧
      (r.pipe = none → exec (.loaderTile key e) s = .next s ∧ exec (.storerWriteback key) s = .next s ∧ exec (.pipelinePreempt key) s = .next s) ∧
      (∀ p, r.pipe = some p →
        ((∀ x ∈ p.loads, p.permits.elem (x.1, x.2 % p.nbuf) = false ∨ p.held.elem (x.2, false) = true) → exec (.loaderTile key e) s = .next s) ∧
        (∀ core tile rest, p.loads = (core, tile) :: rest → p.permits.elem (core, tile % p.nbuf) = true → p.held.elem (tile, false) = false →
          ((p.parts r.splo p.lrec tile).any (s.lineTaken r) = true → exec (.loaderTile key e) s = .next s) ∧
          (s.resetting r.vf = false → (p.parts r.splo p.lrec tile).any (s.lineTaken r) = false →
            (∀ x ∈ p.parts r.splo p.lrec tile, ∀ a, a ∈ s.vaPas r.vf x.va x.len → s.dieAwake (dieOfPa a) = true) →
          (∀ cause val, s.partFault e r.vf core .rd (p.parts r.splo p.lrec tile) = some (cause, val) →
            exec (.loaderTile key e) s = .next (s.holdPipe key r p tile false cause val)) ∧
          (s.partFault e r.vf core .rd (p.parts r.splo p.lrec tile) = none →
            exec (.loaderTile key e) s =
              .next ((s.fillBuffer e key r p core tile).touch (s.partLines r.vf (p.parts r.splo p.lrec tile)))))) ∧
        (p.writing = [] → (∀ f ∈ p.full, s.computed p f = false ∨ p.held.elem (f.2.1, true) = true) →
          exec (.storerWriteback key) s = .next s) ∧
        (∀ x rest, p.writing = x :: rest → p.held.elem (x.2, true) = false → (∀ q ∈ s.reqs, q.owner ≠ .pipe key x.2) → p.srec.barV = false →
          exec (.storerWriteback key) s = .next { s with recs := AMap.set s.recs key { r with pipe := some { p with
            writing := rest, permits := p.permits ++ [(x.1, x.2 % p.nbuf)] } } }) ∧
        (∀ f rest, p.writing = [] → p.full = f :: rest → s.computed p f = true → p.held.elem (f.2.1, true) = false → s.resetting r.vf = false →
          (∀ x ∈ p.parts r.splo p.srec f.2.1, ∀ a, a ∈ s.walkPas r.vf x.va → s.dieAwake (dieOfPa a) = true) →
          (∀ cause val, s.partFault [] r.vf f.1 .wr (p.parts r.splo p.srec f.2.1) = some (cause, val) →
            exec (.storerWriteback key) s = .next (s.holdPipe key r p f.2.1 true cause val)) ∧
          (s.partFault [] r.vf f.1 .wr (p.parts r.splo p.srec f.2.1) = none → exec (.storerWriteback key) s =
            .next ((p.parts r.splo p.srec f.2.1).foldl (fun s x => s.emitBack key r p f.1 f.2.1 x)
              { s with recs := AMap.set s.recs key { r with pipe := some { p with full := rest, writing := [(f.1, f.2.1)] } } }))) ∧
        (p.stop = 0 → (r.queued = false ∨ r.completing = true ∨ r.done = true ∨ s.class0Waits key p = false) →
          exec (.pipelinePreempt key) s = .next s) ∧
        (p.stop = 0 → r.queued = true → r.completing = false → r.done = false → s.class0Waits key p = true →
          exec (.pipelinePreempt key) s = .next (s.stopPipe key r p)) ∧
        (p.stop ≠ 0 → r.live = 0 → p.writing = [] → (∀ f ∈ p.full, s.computed p f = false) → exec (.pipelinePreempt key) s =
          .next { s with recs := AMap.set s.recs key { r with readyAt := s.now, pipe := some { p with
            stop := 0, loads := [], full := [], held := [], permits := p.ring } } }))))

/-- R305 to R307, R310, R311, R347, R348, R351, R352, R355, R356, R372. Choices of the model that its clauses rest on: what a
management packet holds (log 18); the spare's number and the record of KIND 9 for a walker fault (log 79); what brings a peer into the
roster, and that a device that was removed is back once it has been in bring-up (log 80). -/
def Obligations.TranslationAndFirmwareEvents : Prop :=
  (∀ (s : State) (cl : Nat),
    (let d := (s.cluster cl).sd
     (d.busy = false → exec (.shootdownStart cl) s = .next s ∧ exec (.shootdownWatchdog cl) s = .next s ∧ exec (.shootdownEnd cl) s = .next s) ∧
     (d.busy = true → d.effect = true → exec (.shootdownStart cl) s = .next s ∧ exec (.shootdownWatchdog cl) s = .next s) ∧
     (d.busy = true → d.effect = false →
       (d.pending = [] → exec (.shootdownStart cl) s = .next (s.sdEffect cl) ∧ exec (.shootdownWatchdog cl) s = .next s) ∧
       (∀ i rest, d.pending = i :: rest →
         (rest = [] → (∀ j, j < 8 → (s.ctx (8 * maskCore cl i + j)).quiescent = true) → ∃ t, exec (.shootdownStart cl) s = .next t ∧
           (t.cluster cl).sd.effect = true ∧ (t.cluster cl).sd.pending = []) ∧
         (s.now < d.start + 210000 → exec (.shootdownWatchdog cl) s = .next s) ∧
         (d.start + 210000 ≤ s.now → ∃ t, exec (.shootdownWatchdog cl) s = .next t ∧ (t.cluster cl).sd.forced = true)) ∧
       exec (.shootdownEnd cl) s = .next s) ∧
     (d.busy = true → d.effect = true → s.sdInflight cl = true → exec (.shootdownEnd cl) s = .next s) ∧
     (d.busy = true → d.effect = true → s.sdInflight cl = false → ∃ t, exec (.shootdownEnd cl) s = .next t ∧
       (t.cluster cl).sd = { d with busy := false } ∧
       ∀ core ∈ d.cores cl, ∀ j, j < 8 → (t.ctx (8 * core + j)).quiet = false ∧ (t.ctx (8 * core + j)).cHold = false ∧
         (t.ctx (8 * core + j)).run = (if (s.ctx (8 * core + j)).run = .stopped ∧ 8 * core + j ∈ d.stopped ∧ (s.func (s.ctx (8 * core + j)).stat.vf).flr = 0
           then .ready else (s.ctx (8 * core + j)).run)) ∧
     (let q := s.cluster cl
      (q.faults = [] → exec (.faultQueueService cl) s = .next s) ∧
      (∀ f rest, q.faults = f :: rest → f.walker = false →
        (let s1 := s.setCluster cl { q with faults := rest }
         let vf := (s.ctx f.ctx).stat.vf
         (f.cause = 0x0D → exec (.faultQueueService cl) s = .next (s1.resumeCtx f.ctx)) ∧
         (f.cause = 0x14 → exec (.faultQueueService cl) s = .next (if bits f.val 58 3 = 4 ∨ bits f.val 58 3 = 5
           then { s1 with migs := s.migs ++ [⟨f.ctx, vf, bits f.val 0 55, s.vertex, bits f.val 58 3, 0, [], []⟩] }
           else s1.post vf false f 0x14 f.val)) ∧
         (f.cause = 0x13 → exec (.faultQueueService cl) s = .next (s1.serviceDeferred vf f)) ∧
         (f.cause = 0x09 → (s.func vf).debug = true → exec (.faultQueueService cl) s = .next s1) ∧
         (f.cause ∉ [0x00, 0x09, 0x0D, 0x13, 0x14] → exec (.faultQueueService cl) s = .next (s1.beginEnd cl f.ctx)))) ∧
      (∀ f rest, q.faults = f :: rest → f.walker = true → f.ctx < 8192 → exec (.faultQueueService cl) s =
        .next (((s.setCluster cl { q with faults := rest }).record 9 f.cause (engPort f.port) (s.ctx f.ctx).stat.vf f.val).post
          (s.ctx f.ctx).stat.vf true f f.cause f.val))))) ∧
  (∀ s : State,
    (s.migs = [] → exec .migrationService s = .next s) ∧
    (∀ m, s.migs = [m] → m.kind = 5 → (s.func m.vf).mh = s.vertex →
      (s.pageBusy m.vf m.va = true → exec .migrationService s = .next s) ∧
      (s.pageBusy m.vf m.va = false → exec .migrationService s = .next ((s.resumeMig m).dropMig m))) ∧
    (∀ m a l, s.migs = [m] → m.kind = 4 → (s.func m.vf).mh = s.vertex → s.leafOfVa m.vf m.va = some (a, l) → m.phase = 0 →
      (pteMig (s.pteRead a) = 1 → exec .migrationService s = .next s) ∧
      (pteMig (s.pteRead a) ≠ 1 → bitAt (s.pteRead a) 58 = true → exec .migrationService s = .next (s.beginMig m a)) ∧
      (pteMig (s.pteRead a) ≠ 1 → bitAt (s.pteRead a) 58 = false → exec .migrationService s = .next ((s.resumeMig m).dropMig m))) ∧
    (∀ m a l, s.migs = [m] → m.kind = 4 → (s.func m.vf).mh = s.vertex → s.leafOfVa m.vf m.va = some (a, l) → m.phase = 2 →
      (s.mgmtOut = true → exec .migrationService s = .next s) ∧
      (s.mgmtOut = false → exec .migrationService s = .next ((s.resumeMig m).dropMig m)))) ∧
  (∀ (s : State) (vf va home frame : Nat) (pool : Option Nat) (e : ExtBytes),
    (s.leafOfVa vf va = none → exec (.pageMove vf va home ⟨frame, pool⟩ e) s = .next s) ∧
    (∀ a l, s.leafOfVa vf va = some (a, l) → s.migs = [] →
      ((pteMig (s.pteRead a) ≠ 0 ∨ (s.func vf).mh ≠ s.vertex) → exec (.pageMove vf va home ⟨frame, pool⟩ e) s = .next s) ∧
      (pteMig (s.pteRead a) = 0 → (s.func vf).mh = s.vertex → exec (.pageMove vf va home ⟨frame, pool⟩ e) s =
        .next (let m : Migration := ⟨0, vf, va, s.vertex, 8, 0, [], []⟩
               let u := ({ s with migs := [m] } : State).beginMig m a
               if home = u.vertex then u.readyFrames vf frame (moveFrames (s.pteRead a) l) pool
               else if u.roster.elem home then u.tellMore vf va 6 home frame pool 0 0 home else u)) ∧
      (∀ m, s.migs = [] → s.leafOfVa vf va = some (a, l) → m.kind = 8 → m.vf = vf → m.va / 65536 = va / 65536 → m.phase = 2 →
        (let u : State := { s with migs := [m] }
         (u.copyOut vf = true → exec (.pageMove vf va home ⟨frame, pool⟩ e) u = .next u) ∧
         (u.copyOut vf = false → exec (.pageMove vf va home ⟨frame, pool⟩ e) u = .next (u.finishMove m a l home frame)))))) ∧
  (∀ (s : State) (i vf : Nat) (a : Arr), s.inbox[i]? = some a →
    (let p := a.pkt
     let va := rfld p.data 0 8
     let done : State → Out := fun u => .next ((u.take i).answer p 0 [] [])
     p.op = 0x3F → p.dst ≠ 0x7FF → s.mayApply i a = true → s.jobFunc p.vf (rfld p.data 9 2) = some vf →
     (rfld p.data 8 1 = 12 → exec (.mgmtPkt i) s = done (s.readmit va)) ∧
     (rfld p.data 8 1 = 28 → exec (.mgmtPkt i) s = done (s.resumeAway vf va 4)) ∧
     (rfld p.data 8 1 = 4 → exec (.mgmtPkt i) s = done (s.setFunc vf { s.func vf with repl := some va })) ∧
     (∀ x l, s.leafOfVa vf va = some (x, l) →
       (rfld p.data 8 1 = 1 → s.migs = [] → exec (.mgmtPkt i) s =
         .next (let m : Migration := ⟨0, vf, va, p.src, 9, 0, [], []⟩
                ({ s with migs := [m] } : State).beginHere m x)) ∧
       (rfld p.data 8 1 = 2 → exec (.mgmtPkt i) s = done (s.ownAlone (rfld p.data 11 2) x l)) ∧
       (rfld p.data 8 1 = 3 → exec (.mgmtPkt i) s = done (s.rehome vf x l (rfld p.data 11 2) (rfld p.data 13 3))) ∧
       (rfld p.data 8 1 = 20 → exec (.mgmtPkt i) s = done { s with migs := s.migs ++ [⟨0, vf, va, p.src, 4, 0, [], []⟩] })))) ∧
  (∀ (s : State) (line : Nat),
    (let g := s.die (dieOfPa (line * 128))
     (s.eccBad.elem line = false → exec (.lineRetire line) s = .next s) ∧
     (s.eccBad.elem line = true → (∀ x ∈ g.retired, x.1 ≠ line) →
       (2048 ≤ g.retired.length → exec (.lineRetire line) s = .next (s.freeFrames (line / 512) 1)) ∧
       (g.retired.length < 2048 → ∃ t, exec (.lineRetire line) s = .next t ∧
         (t.die (dieOfPa (line * 128))).retired = g.retired ++ [(line, g.retired.length, true)] ∧
         t.mem = memSets s.mem (cellsAt (line * 128) (List.replicate 128 0#8)) ∧ t.eccBad = s.eccBad.filter (fun l => decide (l ≠ line)) ∧
         t.errs = (s.record 3 0x03 0 0 (line * 128)).errs)) ∧
     (s.eccFix.elem line = true → exec (.patrolScrub line) s =
       .next (({ s with eccFix := s.eccFix.filter fun l => decide (l ≠ line) } : State).noteCorrected (line * 128))) ∧
     (s.eccFix.elem line = false → s.eccBad.elem line = true → exec (.patrolScrub line) s = .next (s.record 2 0x03 0 0 (line * 128))) ∧
     (s.eccFix.elem line = false → s.eccBad.elem line = false → exec (.patrolScrub line) s = .next s))) ∧
  (∀ (s : State) (core : Nat),
    ((coreExists core = false ∨ isControl core = true) → exec (.coreRetire core) s = .next s) ∧
    (coreExists core = true → isControl core = false →
      ((s.core core).retired = false → s.coreFails core = false → exec (.coreRetire core) s = .next s) ∧
      ((s.core core).retired = false → s.coreFails core = true → exec (.coreRetire core) s =
        .next (({ s.setCore core { s.core core with retired := true } with
          conf := { s.conf with retired := s.conf.retired ++ [core] } } : State).record 11 0 (s.eng core) (s.owner (coreCluster core)) core)) ∧
      ((s.core core).retired = true → (∃ i, i < 8 ∧ s.holds (8 * core + i) = true) → exec (.coreRetire core) s = .next s) ∧
      ((s.core core).retired = true → (∀ i, i < 8 → s.holds (8 * core + i) = false) → coreK core < 8 →
        (s.cluster (coreCluster core)).spare.getLsbD 7 = false → (s.core (16 * coreCluster core + 9)).retired = false →
        exec (.coreRetire core) s = .next (s.useSpare core)))) ∧
  (∀ (s : State) (v p ouv : Nat),
    ((v = s.vertex ∨ s.roster.elem v = false) → exec (.rosterRemove v) s = .next s) ∧
    (v ≠ s.vertex → s.roster.elem v = true → s.reqs = [] → ∃ t, exec (.rosterRemove v) s = .next t ∧
      t.roster = s.roster.filter (fun x => decide (x ≠ v)) ∧ t.rgen = (s.rgen + 1) % 2 ^ 32 ∧
      t.inbox = s.inbox.filter (fun a => decide (a.pkt.src ≠ v) || a.isReply) ∧
      t.expRows = s.expRows.filter (fun e => !(e.src.any fun q => decide (q.src = v))) ∧
      t.known = s.known.filter (fun x => decide (x.dev ≠ v)) ∧ v ∈ t.removed ∧
      t.mem = ({ s with roster := s.roster.filter fun x => decide (x ≠ v) } : State).putRoster.mem) ∧
    (let x := s.port p
     ((s.port p).spareUsed = false → exec (.laneSpare p) s =
       .next (({ s with ports := AMap.set s.ports p { x with spareUsed := true }, conf := { s.conf with laneSpares := AMap.set s.conf.laneSpares p (x.lanes, true) } } : State).record 6 0 (engPort p) 0 p)) ∧
     ((s.port p).spareUsed = true → exec (.laneSpare p) s =
       .next (({ s with ports := AMap.set s.ports p { x with lanes := 2 }, conf := { s.conf with laneSpares := AMap.set s.conf.laneSpares p (2, true) } } : State).record 6 0 (engPort p) 0 p)) ∧
     (∃ t, exec (.portDown p) s = .next t ∧ t.ports = AMap.set s.ports p { x with up := false } ∧ t.mem = s.mem ∧ t.ctxs = s.ctxs) ∧
     (let up := AMap.set s.ports p { x with up := true, minor := min (ouv % 256) 0 }
      (portPeer s.vertex p = none →
        (ouv % 65536 / 256 ≠ 1 → exec (.linkUp p ouv) s = exec (.portDown p) s) ∧
        (ouv % 65536 / 256 = 1 → exec (.linkUp p ouv) s = .next { s with ports := up })) ∧
      (∀ y, portPeer s.vertex p = some y →
        (ouv % 65536 / 256 ≠ 1 → exec (.linkUp p ouv) s = exec (.portDown p) (s.sendOuv p y)) ∧
        (ouv % 65536 / 256 = 1 → y ≠ s.vertex → ∃ t, exec (.linkUp p ouv) s = .next t ∧ t.ports = up ∧
          (∃ q : Pkt, (p, q) ∈ t.egress ∧ q.dst = y ∧ q.op = 0x3F ∧ rfld q.data 0 8 = 0x0100 ∧ rfld q.data 8 1 = 13) ∧
          (ouv / 65536 % 4 = 1 → t.roster = s.roster ∧ y ∉ t.removed) ∧
          ((ouv / 65536 % 4 = 2 ∨ y ∈ s.removed) → t.roster = s.roster) ∧
          (ouv / 65536 % 4 = 0 → y ∉ s.removed → y ∉ s.roster → t.roster = s.roster ++ [y] ∧ t.rgen = (s.rgen + 1) % 2 ^ 32))))))

/-- R257, R279, R288, R337, R339, R349, R354, R361 to R363, R370, R372. Choices of the model that its clauses rest on: the answer 0x01
to an access that is turned away, STATUS 0x02 for a misaligned placement, function 16 as the physical one, and what the version
register reads (log 81); firmware's path to a mailbox (log 120). -/
def Obligations.HostAndMailboxEvents : Prop :=
  (∀ (s : State) (vf a n : Nat) (bs : List Byte) (off ver : Nat) (v : W64),
    (((s.func vf).enabled = false ∨ (s.func vf).memActive = false ∨ s.granted vf a n = false) →
      exec (.hostAccess (.rd vf a n)) s = .next { s with hostOut := s.hostOut ++ [(0x01, [])] }) ∧
    ((s.func vf).enabled = true → (s.func vf).memActive = true →
      (s.granted vf a n = true → exec (.hostAccess (.rd vf a n)) s = .next (s.hostRead vf a n)) ∧
      (s.granted vf a bs.length = true → exec (.hostAccess (.wr vf a bs)) s = .next (s.hostWrite vf a bs))) ∧
    ((s.func vf).enabled = true → exec (.hostAccess (.memActive vf)) s = .next (s.setFunc vf { s.func vf with memActive := true })) ∧
    ((16 < vf ∨ (s.func vf).enabled = false) → exec (.hostAccess (.mailbox vf off v)) s = .next s) ∧
    (vf ≤ 16 → (s.func vf).enabled = true →
      (let b := s.mbox vf
       exec (.hostAccess (.mailbox vf 8 v)) s = .next (s.setMbox vf { b with arg0 := v.toNat }) ∧
       exec (.hostAccess (.mailbox vf 16 v)) s = .next (s.setMbox vf { b with arg1 := v.toNat }) ∧
       (v.getLsbD 63 = true → b.go = true → exec (.hostAccess (.mailbox vf 0 v)) s = .next (s.setMbox vf { b with err := true })) ∧
       (v.getLsbD 63 = true → b.go = false → s.bootFail = 0 → exec (.hostAccess (.mailbox vf 0 v)) s =
         .next (({ s with mbOrder := s.mbOrder + 1 } : State).setMbox vf { b with go := true, cmd := v.toNat % 256, order := s.mbOrder })))) ∧
    ((16 < vf ∨ (s.func vf).enabled = false) → exec (.hostAccess (.mboxRd vf off)) s = .next { s with hostOut := s.hostOut ++ [(0x01, [])] }) ∧
    (vf ≤ 16 → (s.func vf).enabled = true →
      (let b := s.mbox vf
       let reads : Nat → Nat → Prop := fun o x => exec (.hostAccess (.mboxRd vf o)) s = .next { s with hostOut := s.hostOut ++ [(0, leBytes 8 x)] }
       reads 0 (b2n b.go * 2 ^ 63 + b2n b.err * 2 ^ 62 + b.status * 2 ^ 32 + b.cmd) ∧ reads 8 b.arg0 ∧ reads 16 b.arg1)) ∧
    (16 < vf → exec (.hostAccess (.firmware vf off v)) s = .next s) ∧
    (vf ≤ 16 → exec (.hostAccess (.firmware vf 8 v)) s = .next (s.setMbox vf { s.mbox vf with arg0 := v.toNat }) ∧
      exec (.hostAccess (.firmware vf 16 v)) s = .next (s.setMbox vf { s.mbox vf with arg1 := v.toNat })) ∧
    (16 < vf → exec (.hostAccess (.dvsecRd vf)) s = .next { s with hostOut := s.hostOut ++ [(0x01, [])] }) ∧
    (vf ≤ 16 → exec (.hostAccess (.dvsecRd vf)) s =
      .next { s with hostOut := s.hostOut ++ [(0, leBytes 2 0x0100 ++ leBytes 1 s.bootFail)] }) ∧
    exec (.hifVersionWrite vf ver) s = .next (s.setFunc vf { s.func vf with hif := ver % 65536 }) ∧
    ((s.mbox vf).go = true → exec (.mailboxGoBusy vf) s = .next (s.setMbox vf { s.mbox vf with err := true })) ∧
    ((s.mbox vf).go = false → exec (.mailboxGoBusy vf) s = .next s)) ∧
  (∀ (s : State) (fn : Nat), (s.mboxTurn fn = false ∨ 0x0D < (s.mbox fn).cmd) →
    exec (.placeSubq fn) s = .next s ∧ exec (.placeRepl fn) s = .next s ∧ exec (.cstCreate fn) s = .next s ∧
    exec (.cstDestroy fn) s = .next s ∧ exec (.errlog fn) s = .next s ∧ exec (.roster fn) s = .next s ∧ exec (.faultAns fn) s = .next s ∧
    exec (.debugCmd fn) s = .next s ∧ exec (.setLtr fn) s = .next s ∧ exec (.quote fn) s = .next s ∧ exec (.preempt fn) s = .next s ∧
    exec (.flr fn) s = .next s ∧ exec (.faultNext fn) s = .next s) ∧
  (∀ (s : State) (fn : Nat), s.mboxTurn fn = true →
    (let b := { s.mbox fn with err := false, status := 0 }
     let f := s.func fn
     let served : State → Mbox → Out := fun t b => .next ((t.setMbox fn { b with go := false }).raiseMsi fn)
     let refused : Nat → Out := fun st => served s { b with status := st }
     ((b.cmd = 0 ∨ 0x0D < b.cmd) → exec (.mailboxUnknownCmd fn) s = refused 0x01) ∧
     (1 ≤ b.cmd → b.cmd ≤ 0x0D → exec (.mailboxUnknownCmd fn) s = .next s) ∧
     (b.cmd = 0x01 → (b.arg0 % 128 ≠ 0 → exec (.placeSubq fn) s = refused 0x02) ∧
       (b.arg0 % 128 = 0 → exec (.placeSubq fn) s =
         served (s.setFunc fn { f with subq := some (b.arg0 % 2 ^ 55), served := 2 ^ 32, resultOut := false }) b)) ∧
     (b.cmd = 0x02 → (b.arg0 % 64 ≠ 0 → exec (.placeRepl fn) s = refused 0x02) ∧
       (b.arg0 % 64 = 0 → s.roster = [] → exec (.placeRepl fn) s = served (s.setFunc fn { f with repl := some (b.arg0 % 2 ^ 55) }) b)) ∧
     (b.cmd = 0x03 → ((∀ i, 0 < i → i < 8192 → s.commits.find? i ≠ none) → exec (.cstCreate fn) s = refused 0x04) ∧
       (∀ i, 0 < i → i < 8192 → s.commits.find? i = none → (∀ j, 0 < j → j < i → s.commits.find? j ≠ none) → exec (.cstCreate fn) s =
         served { s with commits := AMap.set s.commits i ⟨fn, 0⟩ } { b with arg0 := s.vertex * 8192 + i })) ∧
     (b.cmd = 0x04 → (s.commits.find? (b.arg0 % 8192) = none → b.sent = false → exec (.cstDestroy fn) s = refused 0x02) ∧
       (∀ x, s.commits.find? (b.arg0 % 8192) = some x →
         ((b.arg0 / 8192 ≠ s.vertex ∨ 496 < b.arg1) → b.sent = false → exec (.cstDestroy fn) s = refused 0x02) ∧
         (b.arg0 / 8192 = s.vertex → b.arg1 ≤ 496 → fn ≠ x.vf → fn ≠ 16 → b.sent = false → exec (.cstDestroy fn) s = refused 0x03) ∧
         (b.arg0 / 8192 = s.vertex → b.arg1 ≤ 496 → (fn = x.vf ∨ fn = 16) →
           (b.sent = false → exec (.cstDestroy fn) s = .next (((List.range b.arg1).foldl (fun (s : State) i =>
             s.clearLine x.vf (leNat (b.bytes (8 * i) 8) % 2 ^ 55)) s).setMbox fn { s.mbox fn with sent := true })) ∧
           (b.sent = true → s.mgmtOut = true → exec (.cstDestroy fn) s = .next s) ∧
           (b.sent = true → s.mgmtOut = false → exec (.cstDestroy fn) s =
             served { s with commits := AMap.erase s.commits (b.arg0 % 8192) } { b with sent := false })))) ∧
     (b.cmd = 0x05 → exec (.errlog fn) s =
       served s { b.put (((s.errs.drop b.arg0).take 124).map ErrRec.bytes).flatten with arg1 := s.errOvr }) ∧
     (b.cmd = 0x06 → exec (.roster fn) s = served s { b with arg0 := s.conf.rosterAddr }) ∧
     (b.cmd = 0x07 → ((∀ p ∈ s.posts, p.num ≠ b.arg0 ∨ p.vf ≠ fn) → exec (.faultAns fn) s = refused 0x02) ∧
       (∀ p rest, s.posts = p :: rest → p.num = b.arg0 → p.vf = fn → p.walker = false →
         (b.arg1 = 0 → exec (.faultAns fn) s = served (({ s with posts := rest } : State).resumeCtx p.ctx) b) ∧
         (b.arg1 = 1 → exec (.faultAns fn) s = served (({ s with posts := rest } : State).beginEnd (ctxCluster p.ctx) p.ctx) b) ∧
         (1 < b.arg1 → exec (.faultAns fn) s = refused 0x02))) ∧
     (b.cmd = 0x08 → (b.arg0 = 1 → exec (.debugCmd fn) s = served (s.setFunc fn { f with debug := true }) b) ∧
       (b.arg0 = 0 → s.debugged fn = [] → exec (.debugCmd fn) s = served (s.setFunc fn { f with debug := false }) b) ∧
       (1 < b.arg0 → exec (.debugCmd fn) s = refused 0x02)) ∧
     (b.cmd = 0x09 → (b.arg0 < 2 ^ 32 → exec (.setLtr fn) s = served (s.setFunc fn { f with ltr := b.arg0 }) b) ∧
       (2 ^ 32 ≤ b.arg0 → exec (.setLtr fn) s = refused 0x02)) ∧
     (b.cmd = 0x0A → exec (.quote fn) s = served s (b.put (s.quoteBody ++
       fitBytes 64 (Config.ed25519Sign s.ident (Config.sha512 (s.quoteBody ++ b.bytes 0 64)))))) ∧
     (b.cmd = 0x0B → ((∀ x ∈ s.recs, x.2.va ≠ b.arg0) → exec (.preempt fn) s = refused 0x02) ∧
       (∀ key r rest, s.recs = (key, r) :: rest → r.va = b.arg0 → (fn = r.vf ∨ fn = 16) → r.done = false →
         (r.pipe = none → exec (.preempt fn) s = refused 0x02) ∧
         (∀ p, r.pipe = some p → p.stop = 0 → exec (.preempt fn) s = served (s.stopPipe key r p) b))) ∧
     (b.cmd = 0x0C → (16 ≤ fn → exec (.flr fn) s = refused 0x02) ∧
       (fn < 16 → f.flr = 0 → exec (.flr fn) s = served (s.flrStop fn) b) ∧ (fn < 16 → f.flr ≠ 0 → exec (.flr fn) s = served s b)) ∧
     (b.cmd = 0x0D → ((∀ p ∈ s.posts, p.vf ≠ fn) → exec (.faultNext fn) s = served s { b with arg0 := 0 }) ∧
       (∀ p, p ∈ s.posts → p.vf = fn → (∀ q ∈ s.posts, q.vf = fn → q ≠ p → p.num < q.num) →
         exec (.faultNext fn) s = served s { b.put p.bytes with arg0 := p.num }))))

/-- R288 to R290, R354, R357, R364, R365, R367, R368. Choices of the model that its clauses rest on: the report of a reset to the
host is 0x200 plus the function's number (log 81); when a level is entered (log 83); what stops at a thermal shutdown (log 84); how the
scrub of a reset leaves memory and the cores (log 86). -/
def Obligations.PowerResetAndSubmissionEvents : Prop :=
  (∀ (s : State) (d t : Nat),
    (95 ≤ t → exec (.thermalGrantHold d t) s = .next (s.setDie d { s.die d with hold := true })) ∧
    (t < 95 → exec (.thermalGrantHold d t) s = .next s) ∧
    (t < 90 → exec (.thermalGrantResume d t) s = .next (s.setDie d { s.die d with hold := false })) ∧
    (90 ≤ t → exec (.thermalGrantResume d t) s = .next s) ∧
    (105 ≤ t → exec (.thermalClockHalve d t) s = .next (s.setDie d { s.die d with half := true })) ∧
    (t < 105 → exec (.thermalClockHalve d t) s = .next s) ∧
    (t < 100 → exec (.thermalClockRestore d t) s = .next (s.setDie d { s.die d with half := false })) ∧
    (100 ≤ t → exec (.thermalClockRestore d t) s = .next s) ∧
    ((t < 115 ∨ s.shut = true) → exec (.thermalShutdown d t) s = .next s) ∧
    (115 ≤ t → s.shut = false → ∃ u, exec (.thermalShutdown d t) s = .next u ∧ u.shut = true ∧ 
      u.mem = ({ s with roster := s.roster.filter fun v => decide (v ≠ s.vertex) } : State).putRoster.mem ∧
      u.roster = s.roster.filter (fun v => decide (v ≠ s.vertex)) ∧ u.rgen = (s.rgen + 1) % 2 ^ 32 ∧
      ∀ p ∈ u.ctxs, p.2.run = .free ∨ p.2.run = .halted)) ∧
  (∀ (s : State) (cl : Nat),
    (let q := s.cluster cl
     (let ns := (s.func (s.owner cl)).ltr
      let level : Power := if 1050000000 ≤ 21 * ns then .off else if 420000 ≤ 21 * ns then .refresh
        else if 42000 ≤ 21 * ns then .retention else if 640 ≤ 21 * ns then .gated else .run
      let d := clusterDie cl
      ∀ u : State, u = (if s.clusterIdle cl = true ∧ q.power = .run ∧ s.dieAsked d = false
          then s.setCluster cl { q with power := level, wake := 0 } else s) →
        exec (.powerLevelEnter cl) s = .next (if u.dieRefresh d then u.setDie d { u.die d with refresh := true } else u)) ∧
     ((q.power = .run ∨ s.wakes cl = false) → exec (.powerWake cl) s = .next s) ∧
     (q.power ≠ .run → s.wakes cl = true →
       (q.wake = 0 → exec (.powerWake cl) s = .next (s.setCluster cl { q with wake := s.now +
         (match q.power with | .run => 0 | .gated => 64 | .retention => 4200 | .refresh => 42000 | .off => 105000000) })) ∧
       (q.wake ≠ 0 → s.now < q.wake → exec (.powerWake cl) s = .next s) ∧
       (q.wake ≠ 0 → q.wake ≤ s.now → ∃ t, exec (.powerWake cl) s = .next t ∧ (t.cluster cl).power = .run ∧ (t.cluster cl).wake = 0 ∧
         (q.power = .off → ∀ c ∈ (16 * cl + 8) :: vfCores [cl], (t.core c).sp = []) ∧ (q.power ≠ .off → t.cores = s.cores))))) ∧
  (∀ (s : State) (vf : Nat),
    (16 ≤ vf → exec (.functionLevelReset vf) s = .next s) ∧
    (vf < 16 →
      ((s.func vf).flr = 0 → exec (.functionLevelReset vf) s = .next (s.flrStop vf)) ∧
      ((s.func vf).flr = 2 → ((s.flrDiscard vf).flrBusy vf = true → exec (.functionLevelReset vf) s = .next (s.flrDiscard vf)) ∧
        ((s.flrDiscard vf).flrBusy vf = false → ∃ t, exec (.functionLevelReset vf) s = .next t ∧ (t.func vf).flr = 3)) ∧
      ((s.func vf).flr = 3 → ∃ t, exec (.functionLevelReset vf) s = .next t ∧ (t.func vf).flr = 4 ∧
        (Memory.wf s.mem = true → ∀ a,
          ((∃ core ∈ vfCores (s.vfClusters vf), s.savePa (spillBase + 16 * core) ≤ a ∧ a < s.savePa (spillBase + 16 * core) + 16 * saveSlotSize) →
            memGet t.mem a = 0#8) ∧
          ((∀ core ∈ vfCores (s.vfClusters vf), a < s.savePa (spillBase + 16 * core) ∨ s.savePa (spillBase + 16 * core) + 16 * saveSlotSize ≤ a) →
            memGet t.mem a = memGet s.mem a)) ∧
        ∀ core ∈ vfCores (s.vfClusters vf), (t.core core).sp = [] ∧ ∀ j, j < 8 → (t.ctx (8 * core + j)).run = .free ∧
          (t.ctx (8 * core + j)).ops = []) ∧
      ((s.func vf).flr = 4 → ∃ t, exec (.functionLevelReset vf) s = .next t ∧ (t.func vf).flr = 5 ∧ t.mem = s.mem ∧
        t.commits = s.commits.filter (fun (p : Nat × Commit) => decide (p.2.vf ≠ vf))) ∧
      ((s.func vf).flr = 5 → ∃ t, exec (.functionLevelReset vf) s = .next t ∧ (t.func vf).flr = 0 ∧ (t.func vf).nextPost = 1 ∧
        t.hostOut = s.hostOut ++ [(0x200 + vf, [])] ∧ t.mem = s.mem))) ∧
  (∀ (s : State) (vf : Nat) (e : ExtBytes),
    ((s.func vf).subq = none → exec (.submissionQueueServe vf e) s = .next s) ∧
    (∀ db line, (s.func vf).subq = some db → s.booted = true → s.resetting vf = false → s.reqs = [] → s.readVa e vf db 128 = .ok line →
      (∀ a, a ∈ s.vaPas vf db 128 → s.dieAwake (dieOfPa a) = true) →
      (let cl := (s.vfClusters vf).headD 0
       let f := s.func vf
       let cons := rfld line 4 4
       (f.resultOut = true → ∃ t, exec (.submissionQueueServe vf e) s =
         .next (t.setFunc vf { t.func vf with resultOut := false }) ∧ t = s.putVa cl vf (db + 4) (leBytes 4 ((cons + 1) % 2 ^ 32))) ∧
       (f.resultOut = false → (f.served = 2 ^ 32 ∨ cons = f.served) →
         (rfld line 0 4 = cons → exec (.submissionQueueServe vf e) s = .next s) ∧
         (rfld line 0 4 ≠ cons → (rfld line 0 4 + 2 ^ 32 - cons) % 2 ^ 32 ≤ rfld line 24 2 →
           exec (.submissionQueueServe vf e) s = .next (s.setFunc vf { f with served := rfld line 0 4 })) ∧
         (rfld line 24 2 < (rfld line 0 4 + 2 ^ 32 - cons) % 2 ^ 32 → rfld line 0 4 ≠ cons → exec (.submissionQueueServe vf e) s =
           .next (((s.setFunc vf { f with served := rfld line 0 4 }).putVa cl vf (db + 26) [1#8]).putVa cl vf (db + 4) (leBytes 4 (rfld line 0 4))))) ∧
       (∀ ent, f.resultOut = false → f.served ≠ 2 ^ 32 → cons ≠ f.served →
         s.readVa e vf (rfld line 8 8 + 16 * (cons % rfld line 24 2)) 16 = .ok ent →
         (∀ a, a ∈ s.vaPas vf (rfld line 8 8 + 16 * (cons % rfld line 24 2)) 16 ++ s.vaPas vf (rfld line 16 8 + 8 * (cons % rfld line 24 2)) 8 →
           s.dieAwake (dieOfPa a) = true) →
         (let va := rfld ent 0 8
          let n := rfld ent 8 4
          let answered : State → Nat → Out := fun t tok =>
            let t := t.putVa cl vf (rfld line 16 8 + 8 * (cons % rfld line 24 2)) (leBytes 8 tok)
            .next (t.setFunc vf { t.func vf with resultOut := true })
          ((n < 1 ∨ 4096 < n) → exec (.submissionQueueServe vf e) s = answered s (2 ^ 63 + 0x02 * 2 ^ 16 + 0xFFFF)) ∧
          (1 ≤ n → n ≤ 4096 → va % 128 ≠ 0 → exec (.submissionQueueServe vf e) s = answered s (2 ^ 63 + 0x02 * 2 ^ 16)) ∧
          (1 ≤ n → n ≤ 4096 → va % 128 = 0 → ∀ recs, s.readRecs e vf va n = recs →
            (∀ i c, recs[i]? = some (.error c) → (∀ j, j < i → ∃ bs, recs[j]? = some (.ok bs)) →
              exec (.submissionQueueServe vf e) s = answered s (2 ^ 63 + 0x09 * 2 ^ 16 + i)) ∧
            (∀ i bs, recs[i]? = some (.ok bs) → rfld bs 3 1 % 16 ≠ vf → (∀ j, j < n → ∃ b, recs[j]? = some (.ok b)) →
              (∀ j b, j < i → recs[j]? = some (.ok b) → rfld b 3 1 % 16 = vf) →
              exec (.submissionQueueServe vf e) s = answered s (2 ^ 63 + 0x05 * 2 ^ 16 + i)) ∧
            ((∀ j, j < n → ∃ b, recs[j]? = some (.ok b) ∧ rfld b 3 1 % 16 = vf) →
              (∀ t r i, s.checkAll e cl ⟨vf, true, true⟩ recs 0 recs = (t, .error (r, i)) → exec (.submissionQueueServe vf e) s =
                answered { t with graphs := t.graphs.filter fun x => decide (x.graph ≠ t.nextGraph) } (2 ^ 63 + r * 2 ^ 16 + i)) ∧
              (∀ t xs, s.checkAll e cl ⟨vf, true, true⟩ recs 0 recs = (t, .ok xs) → ∃ new, exec (.submissionQueueServe vf e) s =
                answered { t with recs := t.recs ++ new, nextRec := t.nextRec + xs.length, nextGraph := t.nextGraph + 1 } 0 ∧
                ∀ (j : Nat) (bs : List Byte) (x : Checked), xs[j]? = some (bs, x) → (t.nextRec + j, t.makeRec va j bs x) ∈ new))))))))
end

