-- ==== Sys2Proof/Laws/Exec.lean ====
section
/-!
SUPPORT. What `exec` calls, one equation per constructor.
-/

namespace Sys2Proof.Machine

theorem exec_nop (s : State) : exec .nop s = execNop s := rfl
theorem exec_add (s : State) {sd} {sa} {b} : exec (.add sd sa b) s = execAdd sd sa b s := rfl
theorem exec_sub (s : State) {sd} {sa} {b} : exec (.sub sd sa b) s = execSub sd sa b s := rfl
theorem exec_mul (s : State) {sd} {sa} {b} : exec (.mul sd sa b) s = execMul sd sa b s := rfl
theorem exec_mulh (s : State) {sd} {sa} {b} : exec (.mulh sd sa b) s = execMulh sd sa b s := rfl
theorem exec_and (s : State) {sd} {sa} {b} : exec (.and sd sa b) s = execAnd sd sa b s := rfl
theorem exec_or (s : State) {sd} {sa} {b} : exec (.or sd sa b) s = execOr sd sa b s := rfl
theorem exec_xor (s : State) {sd} {sa} {b} : exec (.xor sd sa b) s = execXor sd sa b s := rfl
theorem exec_shl (s : State) {sd} {sa} {b} : exec (.shl sd sa b) s = execShl sd sa b s := rfl
theorem exec_shr (s : State) {sd} {sa} {b} : exec (.shr sd sa b) s = execShr sd sa b s := rfl
theorem exec_sar (s : State) {sd} {sa} {b} : exec (.sar sd sa b) s = execSar sd sa b s := rfl
theorem exec_min (s : State) {sd} {sa} {b} : exec (.min sd sa b) s = execMin sd sa b s := rfl
theorem exec_max (s : State) {sd} {sa} {b} : exec (.max sd sa b) s = execMax sd sa b s := rfl
theorem exec_minu (s : State) {sd} {sa} {b} : exec (.minu sd sa b) s = execMinu sd sa b s := rfl
theorem exec_maxu (s : State) {sd} {sa} {b} : exec (.maxu sd sa b) s = execMaxu sd sa b s := rfl
theorem exec_clz (s : State) {sd} {sa} : exec (.clz sd sa) s = execClz sd sa s := rfl
theorem exec_popc (s : State) {sd} {sa} : exec (.popc sd sa) s = execPopc sd sa s := rfl
theorem exec_mov (s : State) {sd} {src} : exec (.mov sd src) s = execMov sd src s := rfl
theorem exec_sel (s : State) {sd} {sa} {pc} {alt} : exec (.sel sd sa pc alt) s = execSel sd sa pc alt s := rfl
theorem exec_aset (s : State) {aj} {src} : exec (.aset aj src) s = execAset aj src s := rfl
theorem exec_aget (s : State) {sd} {aj} {src} : exec (.aget sd aj src) s = execAget sd aj src s := rfl
theorem exec_cmpEq (s : State) {pd} {sa} {b} : exec (.cmpEq pd sa b) s = execCmpEq pd sa b s := rfl
theorem exec_cmpNe (s : State) {pd} {sa} {b} : exec (.cmpNe pd sa b) s = execCmpNe pd sa b s := rfl
theorem exec_cmpLt (s : State) {pd} {sa} {b} : exec (.cmpLt pd sa b) s = execCmpLt pd sa b s := rfl
theorem exec_cmpLe (s : State) {pd} {sa} {b} : exec (.cmpLe pd sa b) s = execCmpLe pd sa b s := rfl
theorem exec_cmpLtu (s : State) {pd} {sa} {b} : exec (.cmpLtu pd sa b) s = execCmpLtu pd sa b s := rfl
theorem exec_cmpLeu (s : State) {pd} {sa} {b} : exec (.cmpLeu pd sa b) s = execCmpLeu pd sa b s := rfl
theorem exec_pand (s : State) {pd} {pa} {pb} : exec (.pand pd pa pb) s = execPand pd pa pb s := rfl
theorem exec_por (s : State) {pd} {pa} {pb} : exec (.por pd pa pb) s = execPor pd pa pb s := rfl
theorem exec_fadd (s : State) {sd} {sa} {sb} : exec (.fadd sd sa sb) s = execFadd sd sa sb s := rfl
theorem exec_fsub (s : State) {sd} {sa} {sb} : exec (.fsub sd sa sb) s = execFsub sd sa sb s := rfl
theorem exec_fmul (s : State) {sd} {sa} {sb} : exec (.fmul sd sa sb) s = execFmul sd sa sb s := rfl
theorem exec_ffma (s : State) {sd} {sa} {sb} : exec (.ffma sd sa sb) s = execFfma sd sa sb s := rfl
theorem exec_fmin (s : State) {sd} {sa} {sb} : exec (.fmin sd sa sb) s = execFmin sd sa sb s := rfl
theorem exec_fmax (s : State) {sd} {sa} {sb} : exec (.fmax sd sa sb) s = execFmax sd sa sb s := rfl
theorem exec_fcmpEq (s : State) {pd} {sa} {sb} : exec (.fcmpEq pd sa sb) s = execFcmpEq pd sa sb s := rfl
theorem exec_fcmpLt (s : State) {pd} {sa} {sb} : exec (.fcmpLt pd sa sb) s = execFcmpLt pd sa sb s := rfl
theorem exec_fcmpLe (s : State) {pd} {sa} {sb} : exec (.fcmpLe pd sa sb) s = execFcmpLe pd sa sb s := rfl
theorem exec_br (s : State) {off} : exec (.br off) s = execBr off s := rfl
theorem exec_brx (s : State) {sa} : exec (.brx sa) s = execBrx sa s := rfl
theorem exec_call (s : State) {off} : exec (.call off) s = execCall off s := rfl
theorem exec_ret (s : State) : exec .ret s = execRet s := rfl
theorem exec_loop (s : State) {frame} {cnt} {last} : exec (.loop frame cnt last) s = execLoop frame cnt last s := rfl
theorem exec_loopS (s : State) {frame} {sa} {last} : exec (.loopS frame sa last) s = execLoopS frame sa last s := rfl
theorem exec_yieldT (s : State) {sa} : exec (.yieldT sa) s = execYieldT sa s := rfl
theorem exec_yieldB (s : State) {sa} : exec (.yieldB sa) s = execYieldB sa s := rfl
theorem exec_spec (s : State) {off} : exec (.spec off) s = execSpec off s := rfl
theorem exec_specCommit (s : State) {pc} : exec (.specCommit pc) s = execSpecCommit pc s := rfl
theorem exec_specAbort (s : State) : exec .specAbort s = execSpecAbort s := rfl
theorem exec_exit (s : State) : exec .exit s = execExit s := rfl
theorem exec_trap (s : State) {imm} : exec (.trap imm) s = execTrap imm s := rfl
theorem exec_rti (s : State) {next} : exec (.rti next) s = execRti next s := rfl
theorem exec_csrd (s : State) {sd} {csr} : exec (.csrd sd csr) s = execCsrd sd csr s := rfl
theorem exec_csrw (s : State) {csr} {v} : exec (.csrw csr v) s = execCsrw csr v s := rfl
theorem exec_csrs (s : State) {csr} {v} : exec (.csrs csr v) s = execCsrs csr v s := rfl
theorem exec_csrc (s : State) {csr} {v} : exec (.csrc csr v) s = execCsrc csr v s := rfl
theorem exec_launch (s : State) {sd} {sa} {n} : exec (.launch sd sa n) s = execLaunch sd sa n s := rfl
theorem exec_watch (s : State) {sd} {sa} {sb} {timeout} : exec (.watch sd sa sb timeout) s = execWatch sd sa sb timeout s := rfl
theorem exec_ntreq (s : State) : exec .ntreq s = execNtreq s := rfl
theorem exec_sctl (s : State) {aj} {off} : exec (.sctl aj off) s = execSctl aj off s := rfl
theorem exec_sctlEnt (s : State) {k} {sa} : exec (.sctlEnt k sa) s = execSctlEnt k sa s := rfl
theorem exec_srtIota (s : State) {vd} {c} : exec (.srtIota vd c) s = execSrtIota vd c s := rfl
theorem exec_srtCeA (s : State) {vk} {dist} {flip} : exec (.srtCeA vk dist flip) s = execSrtCeA vk dist flip s := rfl
theorem exec_srtCeD (s : State) {vk} {dist} {flip} : exec (.srtCeD vk dist flip) s = execSrtCeD vk dist flip s := rfl
theorem exec_srtTop (s : State) {va} {vb} : exec (.srtTop va vb) s = execSrtTop va vb s := rfl
theorem exec_ptRd (s : State) {sd} {sa} : exec (.ptRd sd sa) s = execPtRd sd sa s := rfl
theorem exec_ptWr (s : State) {sa} {sb} : exec (.ptWr sa sb) s = execPtWr sa sb s := rfl
theorem exec_ptUpd (s : State) {sa} {pc} : exec (.ptUpd sa pc) s = execPtUpd sa pc s := rfl
theorem exec_ptClr (s : State) {sa} {sb} : exec (.ptClr sa sb) s = execPtClr sa sb s := rfl
theorem exec_demand (s : State) {sd} {sa} {sb} : exec (.demand sd sa sb) s = execDemand sd sa sb s := rfl
theorem exec_redem (s : State) {sd} {sa} {sb} : exec (.redem sd sa sb) s = execRedem sd sa sb s := rfl
theorem exec_tolShare (s : State) {sd} {sa} {sb} : exec (.tolShare sd sa sb) s = execTolShare sd sa sb s := rfl
theorem exec_tolMin (s : State) {sd} {sa} {cls} : exec (.tolMin sd sa cls) s = execTolMin sd sa cls s := rfl
theorem exec_itrDef (s : State) {it} {sa} : exec (.itrDef it sa) s = execItrDef it sa s := rfl
theorem exec_itrFit (s : State) {sd} {it} : exec (.itrFit sd it) s = execItrFit sd it s := rfl
theorem exec_stGrade (s : State) {aj} {sa} {adj} {off} : exec (.stGrade aj sa adj off) s = execStGrade aj sa adj off s := rfl
theorem exec_ldB (s : State) {sd} {aj} {off} : exec (.ldB sd aj off) s = execLdB sd aj off s := rfl
theorem exec_ldBu (s : State) {sd} {aj} {off} : exec (.ldBu sd aj off) s = execLdBu sd aj off s := rfl
theorem exec_ldH (s : State) {sd} {aj} {off} : exec (.ldH sd aj off) s = execLdH sd aj off s := rfl
theorem exec_ldHu (s : State) {sd} {aj} {off} : exec (.ldHu sd aj off) s = execLdHu sd aj off s := rfl
theorem exec_ldW (s : State) {sd} {aj} {off} : exec (.ldW sd aj off) s = execLdW sd aj off s := rfl
theorem exec_ldWu (s : State) {sd} {aj} {off} : exec (.ldWu sd aj off) s = execLdWu sd aj off s := rfl
theorem exec_ldD (s : State) {sd} {aj} {off} : exec (.ldD sd aj off) s = execLdD sd aj off s := rfl
theorem exec_stB (s : State) {sd} {aj} {off} : exec (.stB sd aj off) s = execStB sd aj off s := rfl
theorem exec_stH (s : State) {sd} {aj} {off} : exec (.stH sd aj off) s = execStH sd aj off s := rfl
theorem exec_stW (s : State) {sd} {aj} {off} : exec (.stW sd aj off) s = execStW sd aj off s := rfl
theorem exec_stD (s : State) {sd} {aj} {off} : exec (.stD sd aj off) s = execStD sd aj off s := rfl
theorem exec_ldVF32 (s : State) {vd} {aj} {off} : exec (.ldVF32 vd aj off) s = execLdVF32 vd aj off s := rfl
theorem exec_ldVF16 (s : State) {vd} {aj} {off} : exec (.ldVF16 vd aj off) s = execLdVF16 vd aj off s := rfl
theorem exec_ldVBf16 (s : State) {vd} {aj} {off} : exec (.ldVBf16 vd aj off) s = execLdVBf16 vd aj off s := rfl
theorem exec_ldVE4m3 (s : State) {vd} {aj} {off} : exec (.ldVE4m3 vd aj off) s = execLdVE4m3 vd aj off s := rfl
theorem exec_ldVE5m2 (s : State) {vd} {aj} {off} : exec (.ldVE5m2 vd aj off) s = execLdVE5m2 vd aj off s := rfl
theorem exec_ldVI8 (s : State) {vd} {aj} {off} : exec (.ldVI8 vd aj off) s = execLdVI8 vd aj off s := rfl
theorem exec_ldVI32 (s : State) {vd} {aj} {off} : exec (.ldVI32 vd aj off) s = execLdVI32 vd aj off s := rfl
theorem exec_ldVSx7 (s : State) {vd} {aj} {off} : exec (.ldVSx7 vd aj off) s = execLdVSx7 vd aj off s := rfl
theorem exec_ldVSx4 (s : State) {vd} {aj} {off} : exec (.ldVSx4 vd aj off) s = execLdVSx4 vd aj off s := rfl
theorem exec_ldVSx2 (s : State) {vd} {aj} {off} : exec (.ldVSx2 vd aj off) s = execLdVSx2 vd aj off s := rfl
theorem exec_ldVAq8 (s : State) {vd} {aj} {off} : exec (.ldVAq8 vd aj off) s = execLdVAq8 vd aj off s := rfl
theorem exec_ldVBcast (s : State) {vd} {aj} {t} {off} : exec (.ldVBcast vd aj t off) s = execLdVBcast vd aj t off s := rfl
theorem exec_ldVx (s : State) {vd} {aj} {vi} {i32} {mk} {disp} : exec (.ldVx vd aj vi i32 mk disp) s = execLdVx vd aj vi i32 mk disp s := rfl
theorem exec_stVx (s : State) {vs} {aj} {vi} {mk} {disp} : exec (.stVx vs aj vi mk disp) s = execStVx vs aj vi mk disp s := rfl
theorem exec_stV (s : State) {vs} {aj} {mk} {off} : exec (.stV vs aj mk off) s = execStV vs aj mk off s := rfl
theorem exec_stVCmp (s : State) {vs} {aj} {mk} {off} : exec (.stVCmp vs aj mk off) s = execStVCmp vs aj mk off s := rfl
theorem exec_ldM (s : State) {mk} {aj} {off} : exec (.ldM mk aj off) s = execLdM mk aj off s := rfl
theorem exec_stM (s : State) {mk} {aj} {off} : exec (.stM mk aj off) s = execStM mk aj off s := rfl
theorem exec_vaddF32 (s : State) {ops} : exec (.vaddF32 ops) s = execVaddF32 ops s := rfl
theorem exec_vsubF32 (s : State) {ops} : exec (.vsubF32 ops) s = execVsubF32 ops s := rfl
theorem exec_vmulF32 (s : State) {ops} : exec (.vmulF32 ops) s = execVmulF32 ops s := rfl
theorem exec_vfmaF32 (s : State) {ops} : exec (.vfmaF32 ops) s = execVfmaF32 ops s := rfl
theorem exec_vminF32 (s : State) {ops} : exec (.vminF32 ops) s = execVminF32 ops s := rfl
theorem exec_vmaxF32 (s : State) {ops} : exec (.vmaxF32 ops) s = execVmaxF32 ops s := rfl
theorem exec_vabsF32 (s : State) {ops} : exec (.vabsF32 ops) s = execVabsF32 ops s := rfl
theorem exec_vnegF32 (s : State) {ops} : exec (.vnegF32 ops) s = execVnegF32 ops s := rfl
theorem exec_vaddBf16 (s : State) {ops} : exec (.vaddBf16 ops) s = execVaddBf16 ops s := rfl
theorem exec_vsubBf16 (s : State) {ops} : exec (.vsubBf16 ops) s = execVsubBf16 ops s := rfl
theorem exec_vmulBf16 (s : State) {ops} : exec (.vmulBf16 ops) s = execVmulBf16 ops s := rfl
theorem exec_vfmaBf16 (s : State) {ops} : exec (.vfmaBf16 ops) s = execVfmaBf16 ops s := rfl
theorem exec_vminBf16 (s : State) {ops} : exec (.vminBf16 ops) s = execVminBf16 ops s := rfl
theorem exec_vmaxBf16 (s : State) {ops} : exec (.vmaxBf16 ops) s = execVmaxBf16 ops s := rfl
theorem exec_vabsBf16 (s : State) {ops} : exec (.vabsBf16 ops) s = execVabsBf16 ops s := rfl
theorem exec_vnegBf16 (s : State) {ops} : exec (.vnegBf16 ops) s = execVnegBf16 ops s := rfl
theorem exec_vaddI32 (s : State) {ops} : exec (.vaddI32 ops) s = execVaddI32 ops s := rfl
theorem exec_vsubI32 (s : State) {ops} : exec (.vsubI32 ops) s = execVsubI32 ops s := rfl
theorem exec_vmulI32 (s : State) {ops} : exec (.vmulI32 ops) s = execVmulI32 ops s := rfl
theorem exec_vminI32 (s : State) {ops} : exec (.vminI32 ops) s = execVminI32 ops s := rfl
theorem exec_vmaxI32 (s : State) {ops} : exec (.vmaxI32 ops) s = execVmaxI32 ops s := rfl
theorem exec_vand (s : State) {ops} : exec (.vand ops) s = execVand ops s := rfl
theorem exec_vor (s : State) {ops} : exec (.vor ops) s = execVor ops s := rfl
theorem exec_vxor (s : State) {ops} : exec (.vxor ops) s = execVxor ops s := rfl
theorem exec_vshl (s : State) {ops} : exec (.vshl ops) s = execVshl ops s := rfl
theorem exec_vshr (s : State) {ops} : exec (.vshr ops) s = execVshr ops s := rfl
theorem exec_vsar (s : State) {ops} : exec (.vsar ops) s = execVsar ops s := rfl
theorem exec_vcmpF32 (s : State) {cond} {md} {va} {vb} : exec (.vcmpF32 cond md va vb) s = execVcmpF32 cond md va vb s := rfl
theorem exec_vcmpBf16 (s : State) {cond} {md} {va} {vb} : exec (.vcmpBf16 cond md va vb) s = execVcmpBf16 cond md va vb s := rfl
theorem exec_vcmpI32 (s : State) {cond} {md} {va} {vb} : exec (.vcmpI32 cond md va vb) s = execVcmpI32 cond md va vb s := rfl
theorem exec_vrcpF32 (s : State) {ops} : exec (.vrcpF32 ops) s = execVrcpF32 ops s := rfl
theorem exec_vrsqrtF32 (s : State) {ops} : exec (.vrsqrtF32 ops) s = execVrsqrtF32 ops s := rfl
theorem exec_vexp2F32 (s : State) {ops} : exec (.vexp2F32 ops) s = execVexp2F32 ops s := rfl
theorem exec_vlog2F32 (s : State) {ops} : exec (.vlog2F32 ops) s = execVlog2F32 ops s := rfl
theorem exec_vredAddF32 (s : State) {sd} {va} {mk} : exec (.vredAddF32 sd va mk) s = execVredAddF32 sd va mk s := rfl
theorem exec_vredMaxF32 (s : State) {sd} {va} {mk} : exec (.vredMaxF32 sd va mk) s = execVredMaxF32 sd va mk s := rfl
theorem exec_vredAddI32 (s : State) {sd} {va} {mk} : exec (.vredAddI32 sd va mk) s = execVredAddI32 sd va mk s := rfl
theorem exec_vperm (s : State) {vd} {va} {vi} : exec (.vperm vd va vi) s = execVperm vd va vi s := rfl
theorem exec_vbcast (s : State) {vd} {va} {n} : exec (.vbcast vd va n) s = execVbcast vd va n s := rfl
theorem exec_vrot (s : State) {vd} {va} {n} : exec (.vrot vd va n) s = execVrot vd va n s := rfl
theorem exec_vsel (s : State) {vd} {va} {vb} {mk} : exec (.vsel vd va vb mk) s = execVsel vd va vb mk s := rfl
theorem exec_mand (s : State) {md} {ma} {mb} : exec (.mand md ma mb) s = execMand md ma mb s := rfl
theorem exec_mor (s : State) {md} {ma} {mb} : exec (.mor md ma mb) s = execMor md ma mb s := rfl
theorem exec_mxor (s : State) {md} {ma} {mb} : exec (.mxor md ma mb) s = execMxor md ma mb s := rfl
theorem exec_mandn (s : State) {md} {ma} {mb} : exec (.mandn md ma mb) s = execMandn md ma mb s := rfl
theorem exec_mpop (s : State) {sd} {ma} : exec (.mpop sd ma) s = execMpop sd ma s := rfl
theorem exec_vsplatF32 (s : State) {vd} {src} : exec (.vsplatF32 vd src) s = execVsplatF32 vd src s := rfl
theorem exec_vsplatI32 (s : State) {vd} {src} : exec (.vsplatI32 vd src) s = execVsplatI32 vd src s := rfl
theorem exec_vmov (s : State) {vd} {va} {mk} : exec (.vmov vd va mk) s = execVmov vd va mk s := rfl
theorem exec_cvt (s : State) {vd} {va} {t} {part} : exec (.cvt vd va t part) s = execCvt vd va t part s := rfl
theorem exec_cvtFit (s : State) {vd} {va} {cls} {k} : exec (.cvtFit vd va cls k) s = execCvtFit vd va cls k s := rfl
theorem exec_cvtSx (s : State) {vd} {va} {fmt} {k} : exec (.cvtSx vd va fmt k) s = execCvtSx vd va fmt k s := rfl
theorem exec_cvtAq8 (s : State) {vd} {va} : exec (.cvtAq8 vd va) s = execCvtAq8 vd va s := rfl
theorem exec_mxPermit (s : State) {sd} {lvl} : exec (.mxPermit sd lvl) s = execMxPermit sd lvl s := rfl
theorem exec_mxRel (s : State) : exec .mxRel s = execMxRel s := rfl
theorem exec_mxCfg (s : State) {src} : exec (.mxCfg src) s = execMxCfg src s := rfl
theorem exec_mxLd (s : State) {wd} {aj} {fmt} {disp} : exec (.mxLd wd aj fmt disp) s = execMxLd wd aj fmt disp s := rfl
theorem exec_mxLdT (s : State) {wd} {aj} {fmt} {disp} : exec (.mxLdT wd aj fmt disp) s = execMxLdT wd aj fmt disp s := rfl
theorem exec_mxLdr (s : State) {wd} {aj} {fmt} {kx} {t} {disp} : exec (.mxLdr wd aj fmt kx t disp) s = execMxLdr wd aj fmt kx t disp s := rfl
theorem exec_mxWsel (s : State) {wd} {ws} {t} : exec (.mxWsel wd ws t) s = execMxWsel wd ws t s := rfl
theorem exec_mxCsum (s : State) {ws} : exec (.mxCsum ws) s = execMxCsum ws s := rfl
theorem exec_mxRun (s : State) {acc} {w} {op} {st} : exec (.mxRun acc w op st) s = execMxRun acc w op st s := rfl
theorem exec_mxRunSet (s : State) {acc} {w} {op} {st} : exec (.mxRunSet acc w op st) s = execMxRunSet acc w op st s := rfl
theorem exec_mxClr (s : State) {acc} {ninf} : exec (.mxClr acc ninf) s = execMxClr acc ninf s := rfl
theorem exec_mxDrain (s : State) {st} {acc} {cvt} {strm} {rows} : exec (.mxDrain st acc cvt strm rows) s = execMxDrain st acc cvt strm rows s := rfl
theorem exec_fdA (s : State) {aj} {fk} {fmt} : exec (.fdA aj fk fmt) s = execFdA aj fk fmt s := rfl
theorem exec_fdAMc (s : State) {aj} {fk} {fmt} {kx} {members} : exec (.fdAMc aj fk fmt kx members) s = execFdAMc aj fk fmt kx members s := rfl
theorem exec_fdAr (s : State) {aj} {fk} {fmt} {kx} : exec (.fdAr aj fk fmt kx) s = execFdAr aj fk fmt kx s := rfl
theorem exec_fdZ (s : State) : exec .fdZ s = execFdZ s := rfl
theorem exec_fdWin (s : State) {aj} {ak} {fk} {fmt} {wl} : exec (.fdWin aj ak fk fmt wl) s = execFdWin aj ak fk fmt wl s := rfl
theorem exec_fdTap (s : State) {aj} {ak} {fk} {fmt} {wl} : exec (.fdTap aj ak fk fmt wl) s = execFdTap aj ak fk fmt wl s := rfl
theorem exec_fdOff (s : State) {fk} {src} : exec (.fdOff fk src) s = execFdOff fk src s := rfl
theorem exec_fdInc (s : State) {fk} {src} : exec (.fdInc fk src) s = execFdInc fk src s := rfl
theorem exec_cpIn (s : State) {st} {ch} {rc} : exec (.cpIn st ch rc) s = execCpIn st ch rc s := rfl
theorem exec_cpOut (s : State) {st} {ch} {rc} : exec (.cpOut st ch rc) s = execCpOut st ch rc s := rfl
theorem exec_cpPf (s : State) {st} {ch} {rc} : exec (.cpPf st ch rc) s = execCpPf st ch rc s := rfl
theorem exec_cpGat (s : State) {st} {ch} {rc} : exec (.cpGat st ch rc) s = execCpGat st ch rc s := rfl
theorem exec_cpCst (s : State) {st} {ch} {rc} : exec (.cpCst st ch rc) s = execCpCst st ch rc s := rfl
theorem exec_accLd (s : State) {st} {ch} {acc} {rc} : exec (.accLd st ch acc rc) s = execAccLd st ch acc rc s := rfl
theorem exec_accSt (s : State) {st} {ch} {acc} {rc} : exec (.accSt st ch acc rc) s = execAccSt st ch acc rc s := rfl
theorem exec_gld (s : State) {sd} {sa} {size} {sx} {disp} : exec (.gld sd sa size sx disp) s = execGld sd sa size sx disp s := rfl
theorem exec_gst (s : State) {sb} {sa} {size} {disp} : exec (.gst sb sa size disp) s = execGst sb sa size disp s := rfl
theorem exec_atAdd (s : State) {sd} {sa} {sb} {w} {disp} : exec (.atAdd sd sa sb w disp) s = execAtAdd sd sa sb w disp s := rfl
theorem exec_atFadd (s : State) {sd} {sa} {sb} {disp} : exec (.atFadd sd sa sb disp) s = execAtFadd sd sa sb disp s := rfl
theorem exec_atMin (s : State) {sd} {sa} {sb} {w} {disp} : exec (.atMin sd sa sb w disp) s = execAtMin sd sa sb w disp s := rfl
theorem exec_atMax (s : State) {sd} {sa} {sb} {w} {disp} : exec (.atMax sd sa sb w disp) s = execAtMax sd sa sb w disp s := rfl
theorem exec_atFmin (s : State) {sd} {sa} {sb} {disp} : exec (.atFmin sd sa sb disp) s = execAtFmin sd sa sb disp s := rfl
theorem exec_atFmax (s : State) {sd} {sa} {sb} {disp} : exec (.atFmax sd sa sb disp) s = execAtFmax sd sa sb disp s := rfl
theorem exec_atAnd (s : State) {sd} {sa} {sb} {w} {disp} : exec (.atAnd sd sa sb w disp) s = execAtAnd sd sa sb w disp s := rfl
theorem exec_atOr (s : State) {sd} {sa} {sb} {w} {disp} : exec (.atOr sd sa sb w disp) s = execAtOr sd sa sb w disp s := rfl
theorem exec_atXor (s : State) {sd} {sa} {sb} {w} {disp} : exec (.atXor sd sa sb w disp) s = execAtXor sd sa sb w disp s := rfl
theorem exec_atSwap (s : State) {sd} {sa} {sb} {w} {disp} : exec (.atSwap sd sa sb w disp) s = execAtSwap sd sa sb w disp s := rfl
theorem exec_atCas (s : State) {sd} {sa} {sb} {w} {disp} : exec (.atCas sd sa sb w disp) s = execAtCas sd sa sb w disp s := rfl
theorem exec_barInit (s : State) {sa} {n} : exec (.barInit sa n) s = execBarInit sa n s := rfl
theorem exec_barArr (s : State) {sd} {sa} {m} : exec (.barArr sd sa m) s = execBarArr sd sa m s := rfl
theorem exec_drain (s : State) {scope} {loads} {stores} {copies} {tiles} : exec (.drain scope loads stores copies tiles) s = execDrain scope loads stores copies tiles s := rfl
theorem exec_qpoint (s : State) : exec .qpoint s = execQpoint s := rfl
theorem exec_anchor (s : State) {hj} {sd} {cid} : exec (.anchor hj sd cid) s = execAnchor hj sd cid s := rfl
theorem exec_hznRel (s : State) {hj} {cid} : exec (.hznRel hj cid) s = execHznRel hj cid s := rfl
theorem exec_cld (s : State) {sd} {sa} {hj} {size} {sx} {disp} : exec (.cld sd sa hj size sx disp) s = execCld sd sa hj size sx disp s := rfl
theorem exec_publish (s : State) {sd} {sa} {ver} : exec (.publish sd sa ver) s = execPublish sd sa ver s := rfl
theorem exec_gred (s : State) {st} {ch} {rc} : exec (.gred st ch rc) s = execGred st ch rc s := rfl
theorem exec_xdisp (s : State) {st} {ch} {q} {rc} : exec (.xdisp st ch q rc) s = execXdisp st ch q rc s := rfl
theorem exec_resolve (s : State) {st} {ch} {k} {rc} : exec (.resolve st ch k rc) s = execResolve st ch k rc s := rfl
theorem exec_send (s : State) {vs} {sa} : exec (.send vs sa) s = execSend vs sa s := rfl
theorem exec_sendQ (s : State) {vs} {sa} : exec (.sendQ vs sa) s = execSendQ vs sa s := rfl
theorem exec_sendMc (s : State) {vs} {sa} : exec (.sendMc vs sa) s = execSendMc vs sa s := rfl
theorem exec_recv (s : State) {vd} {qj} : exec (.recv vd qj) s = execRecv vd qj s := rfl
theorem exec_recvAdd (s : State) {vd} {qj} : exec (.recvAdd vd qj) s = execRecvAdd vd qj s := rfl
theorem exec_recvMax (s : State) {vd} {qj} : exec (.recvMax vd qj) s = execRecvMax vd qj s := rfl
theorem exec_collStart (s : State) {sd} {sa} {gs} : exec (.collStart sd sa gs) s = execCollStart sd sa gs s := rfl
theorem exec_collAbort (s : State) {sd} : exec (.collAbort sd) s = execCollAbort sd s := rfl
theorem exec_wordDispatch (s : State) {core} : exec (.wordDispatch core) s = execWordDispatch core s := rfl
theorem exec_markCommit (s : State) {ctx} : exec (.markCommit ctx) s = execMarkCommit ctx s := rfl
theorem exec_specForcedAbort (s : State) {ctx} : exec (.specForcedAbort ctx) s = execSpecForcedAbort ctx s := rfl
theorem exec_watchFire (s : State) {ctx} : exec (.watchFire ctx) s = execWatchFire ctx s := rfl
theorem exec_watchTimeout (s : State) {ctx} : exec (.watchTimeout ctx) s = execWatchTimeout ctx s := rfl
theorem exec_shootdownStart (s : State) {cluster} : exec (.shootdownStart cluster) s = execShootdownStart cluster s := rfl
theorem exec_tileCounterServe (s : State) {cluster} : exec (.tileCounterServe cluster) s = execTileCounterServe cluster s := rfl
theorem exec_nextTileDelivery (s : State) {ctx} : exec (.nextTileDelivery ctx) s = execNextTileDelivery ctx s := rfl
theorem exec_predictorTableApply (s : State) {cluster} : exec (.predictorTableApply cluster) s = execPredictorTableApply cluster s := rfl
theorem exec_toleranceDemandServe (s : State) {cluster} {ext} : exec (.toleranceDemandServe cluster ext) s = execToleranceDemandServe cluster ext s := rfl
theorem exec_permitGrant (s : State) {die} : exec (.permitGrant die) s = execPermitGrant die s := rfl
theorem exec_fabricBurstPermit (s : State) : exec .fabricBurstPermit s = execFabricBurstPermit s := rfl
theorem exec_passRowWrite (s : State) {core} : exec (.passRowWrite core) s = execPassRowWrite core s := rfl
theorem exec_mcRendezvousClose (s : State) {cluster} : exec (.mcRendezvousClose cluster) s = execMcRendezvousClose cluster s := rfl
theorem exec_copyRowLanding (s : State) {ctx} {op} : exec (.copyRowLanding ctx op) s = execCopyRowLanding ctx op s := rfl
theorem exec_copyCompletion (s : State) {ctx} {op} : exec (.copyCompletion ctx op) s = execCopyCompletion ctx op s := rfl
theorem exec_combiningBufferSend (s : State) {core} {lane} : exec (.combiningBufferSend core lane) s = execCombiningBufferSend core lane s := rfl
theorem exec_barrierNotify (s : State) {core} : exec (.barrierNotify core) s = execBarrierNotify core s := rfl
theorem exec_sendReservation (s : State) {ctx} : exec (.sendReservation ctx) s = execSendReservation ctx s := rfl
theorem exec_sendArrival (s : State) {i} : exec (.sendArrival i) s = execSendArrival i s := rfl
theorem exec_walkerTransfer (s : State) {ctx} {op} : exec (.walkerTransfer ctx op) s = execWalkerTransfer ctx op s := rfl
theorem exec_collectiveCompletion (s : State) {ctx} {op} : exec (.collectiveCompletion ctx op) s = execCollectiveCompletion ctx op s := rfl
theorem exec_reductionComplete (s : State) {i} : exec (.reductionComplete i) s = execReductionComplete i s := rfl
theorem exec_rdPkt (s : State) {i} : exec (.rdPkt i) s = execRdPkt i s := rfl
theorem exec_wrPkt (s : State) {i} : exec (.wrPkt i) s = execWrPkt i s := rfl
theorem exec_wrmPkt (s : State) {i} : exec (.wrmPkt i) s = execWrmPkt i s := rfl
theorem exec_wrcPkt (s : State) {i} : exec (.wrcPkt i) s = execWrcPkt i s := rfl
theorem exec_rdcPkt (s : State) {i} : exec (.rdcPkt i) s = execRdcPkt i s := rfl
theorem exec_atPkt (s : State) {i} : exec (.atPkt i) s = execAtPkt i s := rfl
theorem exec_ancPkt (s : State) {i} : exec (.ancPkt i) s = execAncPkt i s := rfl
theorem exec_pubPkt (s : State) {i} : exec (.pubPkt i) s = execPubPkt i s := rfl
theorem exec_barPkt (s : State) {i} : exec (.barPkt i) s = execBarPkt i s := rfl
theorem exec_redPkt (s : State) {i} : exec (.redPkt i) s = execRedPkt i s := rfl
theorem exec_qrptPkt (s : State) {i} : exec (.qrptPkt i) s = execQrptPkt i s := rfl
theorem exec_mgmtPkt (s : State) {i} : exec (.mgmtPkt i) s = execMgmtPkt i s := rfl
theorem exec_replyPkt (s : State) {i} : exec (.replyPkt i) s = execReplyPkt i s := rfl
theorem exec_unknownOpPacket (s : State) {i} : exec (.unknownOpPacket i) s = execUnknownOpPacket i s := rfl
theorem exec_forwardedRequest (s : State) {i} : exec (.forwardedRequest i) s = execForwardedRequest i s := rfl
theorem exec_multicastWr (s : State) {i} : exec (.multicastWr i) s = execMulticastWr i s := rfl
theorem exec_packetRoute (s : State) {port} {p} : exec (.packetRoute port p) s = execPacketRoute port p s := rfl
theorem exec_laneNonminimalMove (s : State) {dst} {lane} : exec (.laneNonminimalMove dst lane) s = execLaneNonminimalMove dst lane s := rfl
theorem exec_laneMinimalReturn (s : State) {dst} {lane} : exec (.laneMinimalReturn dst lane) s = execLaneMinimalReturn dst lane s := rfl
theorem exec_requestTimeout (s : State) {tag} : exec (.requestTimeout tag) s = execRequestTimeout tag s := rfl
theorem exec_expertRowArrival (s : State) {i} : exec (.expertRowArrival i) s = execExpertRowArrival i s := rfl
theorem exec_overflowAfterWait (s : State) {ctx} {op} : exec (.overflowAfterWait ctx op) s = execOverflowAfterWait ctx op s := rfl
theorem exec_pageWalk (s : State) {ctx} {op} : exec (.pageWalk ctx op) s = execPageWalk ctx op s := rfl
theorem exec_shootdownWatchdog (s : State) {cluster} : exec (.shootdownWatchdog cluster) s = execShootdownWatchdog cluster s := rfl
theorem exec_shootdownEnd (s : State) {cluster} : exec (.shootdownEnd cluster) s = execShootdownEnd cluster s := rfl
theorem exec_migrationService (s : State) : exec .migrationService s = execMigrationService s := rfl
theorem exec_pageMove (s : State) {vf} {va} {home} {frame} {ext} : exec (.pageMove vf va home frame ext) s = execPageMove vf va home frame ext s := rfl
theorem exec_stepGraphAccept (s : State) {cluster} {ext} : exec (.stepGraphAccept cluster ext) s = execStepGraphAccept cluster ext s := rfl
theorem exec_taskBind (s : State) {core} : exec (.taskBind core) s = execTaskBind core s := rfl
theorem exec_taskAging (s : State) {core} : exec (.taskAging core) s = execTaskAging core s := rfl
theorem exec_recordCompletion (s : State) {rc} : exec (.recordCompletion rc) s = execRecordCompletion rc s := rfl
theorem exec_spanLimit (s : State) {core} : exec (.spanLimit core) s = execSpanLimit core s := rfl
theorem exec_swapOut (s : State) {ctx} : exec (.swapOut ctx) s = execSwapOut ctx s := rfl
theorem exec_reload (s : State) {core} : exec (.reload core) s = execReload core s := rfl
theorem exec_pipelinePreempt (s : State) {rc} : exec (.pipelinePreempt rc) s = execPipelinePreempt rc s := rfl
theorem exec_loaderTile (s : State) {rc} {ext} : exec (.loaderTile rc ext) s = execLoaderTile rc ext s := rfl
theorem exec_storerWriteback (s : State) {rc} : exec (.storerWriteback rc) s = execStorerWriteback rc s := rfl
theorem exec_faultQueueService (s : State) {cluster} : exec (.faultQueueService cluster) s = execFaultQueueService cluster s := rfl
theorem exec_lineRetire (s : State) {line} : exec (.lineRetire line) s = execLineRetire line s := rfl
theorem exec_patrolScrub (s : State) {line} : exec (.patrolScrub line) s = execPatrolScrub line s := rfl
theorem exec_coreRetire (s : State) {core} : exec (.coreRetire core) s = execCoreRetire core s := rfl
theorem exec_rosterRemove (s : State) {vertex} : exec (.rosterRemove vertex) s = execRosterRemove vertex s := rfl
theorem exec_laneSpare (s : State) {port} : exec (.laneSpare port) s = execLaneSpare port s := rfl
theorem exec_portDown (s : State) {port} : exec (.portDown port) s = execPortDown port s := rfl
theorem exec_linkUp (s : State) {port} {ouv} : exec (.linkUp port ouv) s = execLinkUp port ouv s := rfl
theorem exec_hostAccess (s : State) {acc} : exec (.hostAccess acc) s = execHostAccess acc s := rfl
theorem exec_hifVersionWrite (s : State) {fn} {ver} : exec (.hifVersionWrite fn ver) s = execHifVersionWrite fn ver s := rfl
theorem exec_submissionQueueServe (s : State) {vf} {ext} : exec (.submissionQueueServe vf ext) s = execSubmissionQueueServe vf ext s := rfl
theorem exec_functionLevelReset (s : State) {vf} : exec (.functionLevelReset vf) s = execFunctionLevelReset vf s := rfl
theorem exec_placeSubq (s : State) {fn} : exec (.placeSubq fn) s = execPlaceSubq fn s := rfl
theorem exec_placeRepl (s : State) {fn} : exec (.placeRepl fn) s = execPlaceRepl fn s := rfl
theorem exec_cstCreate (s : State) {fn} : exec (.cstCreate fn) s = execCstCreate fn s := rfl
theorem exec_cstDestroy (s : State) {fn} : exec (.cstDestroy fn) s = execCstDestroy fn s := rfl
theorem exec_errlog (s : State) {fn} : exec (.errlog fn) s = execErrlog fn s := rfl
theorem exec_roster (s : State) {fn} : exec (.roster fn) s = execRoster fn s := rfl
theorem exec_faultAns (s : State) {fn} : exec (.faultAns fn) s = execFaultAns fn s := rfl
theorem exec_debugCmd (s : State) {fn} : exec (.debugCmd fn) s = execDebugCmd fn s := rfl
theorem exec_setLtr (s : State) {fn} : exec (.setLtr fn) s = execSetLtr fn s := rfl
theorem exec_quote (s : State) {fn} : exec (.quote fn) s = execQuote fn s := rfl
theorem exec_preempt (s : State) {fn} : exec (.preempt fn) s = execPreempt fn s := rfl
theorem exec_flr (s : State) {fn} : exec (.flr fn) s = execFlr fn s := rfl
theorem exec_faultNext (s : State) {fn} : exec (.faultNext fn) s = execFaultNext fn s := rfl
theorem exec_mailboxUnknownCmd (s : State) {fn} : exec (.mailboxUnknownCmd fn) s = execMailboxUnknownCmd fn s := rfl
theorem exec_mailboxGoBusy (s : State) {fn} : exec (.mailboxGoBusy fn) s = execMailboxGoBusy fn s := rfl
theorem exec_powerLevelEnter (s : State) {cluster} : exec (.powerLevelEnter cluster) s = execPowerLevelEnter cluster s := rfl
theorem exec_powerWake (s : State) {cluster} : exec (.powerWake cluster) s = execPowerWake cluster s := rfl
theorem exec_thermalGrantHold (s : State) {die} {temp} : exec (.thermalGrantHold die temp) s = execThermalGrantHold die temp s := rfl
theorem exec_thermalClockHalve (s : State) {die} {temp} : exec (.thermalClockHalve die temp) s = execThermalClockHalve die temp s := rfl
theorem exec_thermalShutdown (s : State) {die} {temp} : exec (.thermalShutdown die temp) s = execThermalShutdown die temp s := rfl
theorem exec_powerOnBoot (s : State) : exec .powerOnBoot s = execPowerOnBoot s := rfl
theorem exec_writeQueueBankWrite (s : State) {core} : exec (.writeQueueBankWrite core) s = execWriteQueueBankWrite core s := rfl
theorem exec_remoteReadArrival (s : State) {ctx} : exec (.remoteReadArrival ctx) s = execRemoteReadArrival ctx s := rfl
theorem exec_barrierQueryAnswer (s : State) {ctx} : exec (.barrierQueryAnswer ctx) s = execBarrierQueryAnswer ctx s := rfl
theorem exec_occupancyReport (s : State) {i} : exec (.occupancyReport i) s = execOccupancyReport i s := rfl
theorem exec_thermalGrantResume (s : State) {die} {temp} : exec (.thermalGrantResume die temp) s = execThermalGrantResume die temp s := rfl
theorem exec_thermalClockRestore (s : State) {die} {temp} : exec (.thermalClockRestore die temp) s = execThermalClockRestore die temp s := rfl
theorem exec_pooledMemoryReply (s : State) {i} {ext} : exec (.pooledMemoryReply i ext) s = execPooledMemoryReply i ext s := rfl

end Sys2Proof.Machine
end

