-- ==== Sys2Proof/Laws/Fields.lean ====
section
/-!
SUPPORT. Fields of appended bit vectors, and the round trip of every operand form of the decoder and encoder.
-/

set_option linter.all false
set_option linter.unusedSimpArgs false

namespace Sys2Proof.Laws

theorem ex_hi {a b} (x : BitVec a) (y : BitVec b) (lo w : Nat) (h : b ≤ lo) :
    BitVec.extractLsb' (n := no_index (a + b)) lo w (x ++ y) = x.extractLsb' (lo - b) w := by
  apply BitVec.eq_of_getLsbD_eq
  intro i hi
  simp only [BitVec.getLsbD_extractLsb', hi, BitVec.getLsbD_append]
  rw [if_neg (by omega), show lo + i - b = lo - b + i by omega]
theorem ex_lo {a b} (x : BitVec a) (y : BitVec b) (lo w : Nat) (h : lo + w ≤ b) :
    BitVec.extractLsb' (n := no_index (a + b)) lo w (x ++ y) = y.extractLsb' lo w := by
  apply BitVec.eq_of_getLsbD_eq
  intro i hi
  simp only [BitVec.getLsbD_extractLsb', hi, BitVec.getLsbD_append]
  rw [if_pos (by omega)]
theorem gl_lo {a b} (x : BitVec a) (y : BitVec b) (i : Nat) (h : i < b) :
    BitVec.getLsbD (w := no_index (a + b)) (x ++ y) i = y.getLsbD i := by rw [BitVec.getLsbD_append, if_pos h]
theorem gl_hi {a b} (x : BitVec a) (y : BitVec b) (i : Nat) (h : b ≤ i) :
    BitVec.getLsbD (w := no_index (a + b)) (x ++ y) i = x.getLsbD (i - b) := by rw [BitVec.getLsbD_append, if_neg (by omega)]
@[simp] theorem rt_SrcB (u : SrcB) : decSrcB (encSrcB u).1 (encSrcB u).2 = some u := by
  cases u <;> simp only [decSrcB, encSrcB] <;> (try simp (disch := omega) only [ex_hi, ex_lo, gl_lo, gl_hi])
  all_goals simp
@[simp] theorem rt_MovSrc (u : MovSrc) : decMovSrc (encMovSrc u).1 (encMovSrc u).2 = some u := by
  cases u <;> simp only [decMovSrc, encMovSrc] <;> (try simp (disch := omega) only [ex_hi, ex_lo, gl_lo, gl_hi])
  all_goals simp
@[simp] theorem rt_AsetSrc (u : AsetSrc) : decAsetSrc (encAsetSrc u).1 (encAsetSrc u).2 = some u := by
  cases u <;> simp only [decAsetSrc, encAsetSrc] <;> (try simp (disch := omega) only [ex_hi, ex_lo, gl_lo, gl_hi])
  all_goals simp
@[simp] theorem rt_AgetSrc (u : AgetSrc) : decAgetSrc (encAgetSrc u).1 (encAgetSrc u).2 = some u := by
  cases u <;> simp only [decAgetSrc, encAgetSrc] <;> (try simp (disch := omega) only [ex_hi, ex_lo, gl_lo, gl_hi])
  all_goals simp
@[simp] theorem rt_BrOff (u : BrOff) : decBrOff (encBrOff u).1 (encBrOff u).2 = some u := by
  cases u <;> simp only [decBrOff, encBrOff] <;> (try simp (disch := omega) only [ex_hi, ex_lo, gl_lo, gl_hi])
  all_goals simp
@[simp] theorem rt_LoopCnt (u : LoopCnt) : decLoopCnt (encLoopCnt u).1 (encLoopCnt u).2 = some u := by
  cases u <;> simp only [decLoopCnt, encLoopCnt] <;> (try simp (disch := omega) only [ex_hi, ex_lo, gl_lo, gl_hi])
  all_goals simp
@[simp] theorem rt_CsrSrc (u : CsrSrc) : decCsrSrc (encCsrSrc u).1 (encCsrSrc u).2 = some u := by
  cases u <;> simp only [decCsrSrc, encCsrSrc] <;> (try simp (disch := omega) only [ex_hi, ex_lo, gl_lo, gl_hi])
  all_goals simp
@[simp] theorem rt_RegExt (u : RegExt) : decRegExt (encRegExt u).1 (encRegExt u).2 = some u := by
  cases u <;> simp only [decRegExt, encRegExt] <;> (try simp (disch := omega) only [ex_hi, ex_lo, gl_lo, gl_hi])
  all_goals simp
@[simp] theorem rt_CidSrc (u : CidSrc) : decCidSrc (encCidSrc u).1 (encCidSrc u).2 = some u := by
  cases u <;> simp only [decCidSrc, encCidSrc] <;> (try simp (disch := omega) only [ex_hi, ex_lo, gl_lo, gl_hi])
  all_goals simp
@[simp] theorem rt_CfgSrc (u : CfgSrc) : decCfgSrc (encCfgSrc u).1 (encCfgSrc u).2 = some u := by
  cases u <;> simp only [decCfgSrc, encCfgSrc] <;> (try simp (disch := omega) only [ex_hi, ex_lo, gl_lo, gl_hi])
  all_goals simp
@[simp] theorem rt_Off {n : Nat} (u : Off n) : decOff (encOff u).1 (encOff u).2 = some u := by
  cases u <;> simp only [decOff, encOff] <;> (try simp (disch := omega) only [ex_hi, ex_lo, gl_lo, gl_hi]) <;> simp
@[simp] theorem rt_Rec {n : Nat} (u : Rec n) : decRec (encRec u).1 (encRec u).2 = some u := by
  cases u <;> simp only [decRec, encRec] <;> (try simp (disch := omega) only [ex_hi, ex_lo, gl_lo, gl_hi]) <;> simp
@[simp] theorem rt_VaOp (u : VaOp) : decVaOp (encVaOp u) = some u := by
  cases u <;> simp only [decVaOp, encVaOp, fld, bit] <;> (try simp (disch := omega) only [ex_hi, ex_lo, gl_lo, gl_hi])
  all_goals simp
@[simp] theorem rt_VuOp (u : VuOp) : decVuOp (encVuOp u) = some u := by
  cases u <;> simp only [decVuOp, encVuOp, fld, bit] <;> (try simp (disch := omega) only [ex_hi, ex_lo, gl_lo, gl_hi])
  all_goals simp
@[simp] theorem rt_SplatSrc (u : SplatSrc) : decSplatSrc (encSplatSrc u) = some u := by
  cases u <;> simp only [decSplatSrc, encSplatSrc, fld, bit] <;> (try simp (disch := omega) only [ex_hi, ex_lo, gl_lo, gl_hi])
  all_goals simp
@[simp] theorem rt_FOffSrc (u : FOffSrc) : decFOffSrc (encFOffSrc u) = some u := by
  cases u <;> simp only [decFOffSrc, encFOffSrc, fld, bit] <;> (try simp (disch := omega) only [ex_hi, ex_lo, gl_lo, gl_hi])
  all_goals simp
@[simp] theorem rt_FIncSrc (u : FIncSrc) : decFIncSrc (encFIncSrc u) = some u := by
  cases u <;> simp only [decFIncSrc, encFIncSrc, fld, bit] <;> (try simp (disch := omega) only [ex_hi, ex_lo, gl_lo, gl_hi])
  all_goals simp
@[simp] theorem rt_RelCid (u : Option (BitVec 24)) : decRelCid (encRelCid u) = some u := by
  cases u <;> simp only [decRelCid, encRelCid, Option.map] <;> (try rw [ex_lo _ _ _ _ (by omega)]) <;> simp
@[simp] theorem rt_RowCnt (u : Option (BitVec 7)) : decRowCnt (encRowCnt u) = some u := by
  cases u <;> simp only [decRowCnt, encRowCnt, Option.map] <;> (try rw [ex_lo _ _ 0 7 (by omega), ex_hi _ _ 7 21 (by omega)]) <;> simp

end Sys2Proof.Laws
end

