-- ==== Sys2Proof/Laws/Memory.lean ====
section
/-!
SUPPORT. Laws of keyed maps and of byte memories in canonical form: a read after a write, and that every write keeps the form.
-/

namespace Sys2Proof.Machine

/-! ## Keyed maps -/

theorem AMap.find?_set_same {α : Type} (m : AMap α) (k : Nat) (v : α) : AMap.find? (AMap.set m k v) k = some v := by
  induction m with
  | nil => simp [AMap.set, AMap.find?]
  | cons p rest ih =>
    simp only [AMap.set]
    split
    · simp [AMap.find?]
    · split
      · simp [AMap.find?]
      · simp only [AMap.find?]
        rw [if_neg (by omega)]
        exact ih

theorem AMap.find?_set_ne {α : Type} (m : AMap α) (k j : Nat) (v : α) (h : j ≠ k) :
    AMap.find? (AMap.set m k v) j = AMap.find? m j := by
  induction m with
  | nil => simp [AMap.set, AMap.find?, Ne.symm h]
  | cons p rest ih =>
    simp only [AMap.set]
    split
    · simp [AMap.find?, Ne.symm h]
    · split
      · rename_i hk; subst hk; simp [AMap.find?, Ne.symm h]
      · simp only [AMap.find?]; split <;> simp_all

@[simp] theorem AMap.get_set_same {α : Type} (d : α) (m : AMap α) (k : Nat) (v : α) : AMap.get d (AMap.set m k v) k = v := by
  simp [AMap.get, AMap.find?_set_same]

theorem AMap.get_set_ne {α : Type} (d : α) (m : AMap α) (k j : Nat) (v : α) (h : j ≠ k) :
    AMap.get d (AMap.set m k v) j = AMap.get d m j := by
  simp [AMap.get, AMap.find?_set_ne m k j v h]

/-! ## Byte memories -/

/-- The form of a list from a given address upward. -/
def wfFrom : Nat → List Host.Cell → Prop
  | _, [] => True
  | lo, (a, b) :: rest => lo ≤ a ∧ b ≠ 0#8 ∧ wfFrom (a + 1) rest

theorem wfFrom_mono {lo hi : Nat} {m : List Host.Cell} (h : wfFrom hi m) (hl : lo ≤ hi) : wfFrom lo m := by
  cases m with
  | nil => trivial
  | cons p rest => exact ⟨Nat.le_trans hl h.1, h.2⟩

theorem wf_iff_wfFrom (m : List Host.Cell) : Memory.wf m = true ↔ wfFrom 0 m := by
  suffices h : ∀ m : List Host.Cell, Memory.wf m = true ↔ (match m with | [] => True | p :: _ => wfFrom p.1 m) by
    cases m with
    | nil => simp [Memory.wf, wfFrom]
    | cons p rest =>
      rw [h]
      exact ⟨fun x => wfFrom_mono x (Nat.zero_le _), fun x => ⟨Nat.le_refl _, x.2⟩⟩
  intro m
  induction m with
  | nil => simp [Memory.wf]
  | cons p rest ih =>
    cases rest with
    | nil => simp [Memory.wf, wfFrom]
    | cons q rest =>
      simp only [Memory.wf, Bool.and_eq_true, decide_eq_true_eq] at *
      rw [ih]
      constructor
      · rintro ⟨⟨h1, h2⟩, h3⟩
        exact ⟨Nat.le_refl _, h1, wfFrom_mono h3 h2⟩
      · rintro ⟨_, h1, h2⟩
        exact ⟨⟨h1, h2.1⟩, Nat.le_refl _, h2.2⟩

theorem wfFrom_memSet {lo : Nat} {m : List Host.Cell} (x : Nat) (v : Byte) (h : wfFrom lo m) (hx : lo ≤ x) :
    wfFrom lo (memSet m x v) := by
  induction m generalizing lo with
  | nil =>
    simp only [memSet]
    split
    · trivial
    · exact ⟨hx, by assumption, trivial⟩
  | cons p rest ih =>
    obtain ⟨a, b⟩ := p
    obtain ⟨h1, h2, h3⟩ := h
    simp only [memSet]
    split
    · split
      · exact ⟨h1, h2, h3⟩
      · exact ⟨hx, by assumption, by omega, h2, h3⟩
    · split
      · rename_i hxa
        subst hxa
        split
        · exact wfFrom_mono h3 (by omega)
        · exact ⟨h1, by assumption, h3⟩
      · exact ⟨h1, h2, ih h3 (by omega)⟩

/-- A byte written keeps the canonical form. -/
theorem memSet_wf {m : List Host.Cell} (x : Nat) (v : Byte) (h : Memory.wf m = true) : Memory.wf (memSet m x v) = true := by
  rw [wf_iff_wfFrom] at *
  exact wfFrom_memSet x v h (Nat.zero_le _)

/-- So do bytes written one after another. -/
theorem memSets_wf {m : List Host.Cell} (cs : List (Nat × Byte)) (h : Memory.wf m = true) : Memory.wf (memSets m cs) = true := by
  induction cs generalizing m with
  | nil => exact h
  | cons p rest ih => exact ih (memSet_wf p.1 p.2 h)

theorem memGet_below {lo x : Nat} {m : List Host.Cell} (h : wfFrom lo m) (hx : x < lo) : memGet m x = 0#8 := by
  cases m with
  | nil => rfl
  | cons p rest =>
    have := h.1
    simp only [memGet]
    rw [if_neg (by omega), if_pos (by omega)]

/-- A byte read after it has been written is the byte written. -/
theorem memGet_memSet_same {m : List Host.Cell} (x : Nat) (v : Byte) (h : Memory.wf m = true) : memGet (memSet m x v) x = v := by
  rw [wf_iff_wfFrom] at h
  revert h
  generalize 0 = lo
  intro h
  induction m generalizing lo with
  | nil =>
    simp only [memSet]
    split
    · simp [memGet, *]
    · simp [memGet]
  | cons p rest ih =>
    obtain ⟨a, b⟩ := p
    obtain ⟨h1, h2, h3⟩ := h
    simp only [memSet]
    split
    · split
      · simp only [memGet]; rw [if_neg (by omega), if_pos (by omega)]; simp [*]
      · simp [memGet]
    · split
      · rename_i hxa
        subst hxa
        split
        · rw [memGet_below h3 (by omega)]; simp [*]
        · simp [memGet]
      · simp only [memGet]
        rw [if_neg (by omega), if_neg (by omega)]
        exact ih _ h3

/-- Every other byte reads as before. -/
theorem memGet_memSet_ne {m : List Host.Cell} (x y : Nat) (v : Byte) (h : Memory.wf m = true) (hy : y ≠ x) :
    memGet (memSet m x v) y = memGet m y := by
  rw [wf_iff_wfFrom] at h
  revert h
  generalize 0 = lo
  intro h
  induction m generalizing lo with
  | nil =>
    simp only [memSet]
    split
    · rfl
    · simp only [memGet]; rw [if_neg (Ne.symm hy)]; split <;> rfl
  | cons p rest ih =>
    obtain ⟨a, b⟩ := p
    obtain ⟨h1, h2, h3⟩ := h
    simp only [memSet]
    split
    · split
      · rfl
      · simp only [memGet]
        rw [if_neg (Ne.symm hy)]
        split
        · rw [if_neg (by omega), if_pos (by omega)]
        · rfl
    · split
      · rename_i hxa
        subst hxa
        split
        · simp only [memGet]
          rw [if_neg (Ne.symm hy)]
          split
          · exact memGet_below h3 (by omega)
          · rfl
        · simp only [memGet]
          rw [if_neg (Ne.symm hy), if_neg (Ne.symm hy)]
      · simp only [memGet]
        split
        · rfl
        · split
          · rfl
          · exact ih _ h3

/-- A byte outside the cells written reads as before. -/
theorem memGet_memSets_of_not_mem {m : List Host.Cell} (cs : List (Nat × Byte)) (y : Nat) (h : Memory.wf m = true)
    (hy : ∀ p ∈ cs, p.1 ≠ y) : memGet (memSets m cs) y = memGet m y := by
  induction cs generalizing m with
  | nil => rfl
  | cons p rest ih =>
    have h1 := ih (memSet_wf p.1 p.2 h) fun q hq => hy q (List.mem_cons_of_mem _ hq)
    exact h1.trans (memGet_memSet_ne p.1 y p.2 h (Ne.symm (hy p (List.mem_cons_self ..))))

/-! ## Runs of bytes written or cleared at once -/

theorem wfFrom_filter {lo : Nat} {m : List Host.Cell} (keep : Host.Cell → Bool) (h : wfFrom lo m) : wfFrom lo (m.filter keep) := by
  induction m generalizing lo with
  | nil => trivial
  | cons p rest ih =>
    obtain ⟨h1, h2, h3⟩ := h
    rw [List.filter_cons]
    split
    · exact ⟨h1, h2, ih h3⟩
    · exact wfFrom_mono (ih h3) (by omega)

theorem wfFrom_append {lo a : Nat} {m r : List Host.Cell} (h : wfFrom lo m) (hm : ∀ p ∈ m, p.1 < a) (hr : wfFrom a r) (hl : lo ≤ a) :
    wfFrom lo (m ++ r) := by
  induction m generalizing lo with
  | nil => exact wfFrom_mono hr hl
  | cons p rest ih =>
    obtain ⟨h1, h2, h3⟩ := h
    have hp := hm p (List.mem_cons_self ..)
    exact ⟨h1, h2, ih h3 (fun q hq => hm q (List.mem_cons_of_mem _ hq)) hp⟩

theorem wfFrom_cellsOf {a : Nat} (bs : List Byte) {r : List Host.Cell} (hr : wfFrom (a + bs.length) r) :
    wfFrom a (cellsOf a bs ++ r) := by
  induction bs generalizing a with
  | nil => simpa [cellsOf] using hr
  | cons b rest ih =>
    have h := ih (a := a + 1) (by simpa [Nat.add_assoc, Nat.add_comm 1] using hr)
    simp only [cellsOf]
    split
    · exact wfFrom_mono h (Nat.le_succ a)
    · exact ⟨Nat.le_refl _, by assumption, h⟩

theorem wfFrom_above {m : List Host.Cell} (a : Nat) (h : wfFrom 0 m) : wfFrom a (m.filter fun p => decide (a ≤ p.1)) := by
  generalize 0 = lo at h
  induction m generalizing lo with
  | nil => trivial
  | cons p rest ih =>
    obtain ⟨h1, h2, h3⟩ := h
    rw [List.filter_cons]
    split
    · rename_i hp
      exact ⟨by simpa using hp, h2, wfFrom_filter _ h3⟩
    · exact ih _ h3

/-- A run of bytes written at once keeps the canonical form. -/
theorem memPut_wf {m : List Host.Cell} (a : Nat) (bs : List Byte) (h : Memory.wf m = true) : Memory.wf (memPut m a bs) = true := by
  rw [wf_iff_wfFrom] at *
  rw [memPut, List.append_assoc]
  exact wfFrom_append (wfFrom_filter _ h) (fun p hp => by simpa using (List.mem_filter.1 hp).2)
    (wfFrom_cellsOf bs (wfFrom_above _ h)) (Nat.zero_le _)

/-- So does a run of bytes cleared. -/
theorem memClear_wf {m : List Host.Cell} (a n : Nat) (h : Memory.wf m = true) : Memory.wf (memClear m a n) = true := by
  rw [wf_iff_wfFrom] at *
  exact wfFrom_filter _ h

/-- What is left of a memory reads as before, and what is taken out reads as zero. -/
theorem memGet_filter {lo : Nat} {m : List Host.Cell} (keep : Nat → Bool) (y : Nat) (h : wfFrom lo m) :
    memGet (m.filter fun p => keep p.1) y = if keep y then memGet m y else 0#8 := by
  induction m generalizing lo with
  | nil => simp [memGet]
  | cons p rest ih =>
    obtain ⟨h1, h2, h3⟩ := h
    have ih := ih h3
    have hb : y < p.1 + 1 → memGet (rest.filter fun p => keep p.1) y = 0#8 := memGet_below (wfFrom_filter _ h3)
    rw [List.filter_cons]
    simp only [memGet]
    by_cases hy : p.1 = y
    · subst hy
      split
      · simp [memGet, *]
      · rw [hb (by omega)]
    · rw [if_neg hy]
      by_cases hlt : y < p.1
      · rw [if_pos hlt]
        split
        · simp only [memGet]; rw [if_neg hy, if_pos hlt]; simp
        · rw [hb (by omega)]; simp
      · rw [if_neg hlt]
        split
        · simp only [memGet]; rw [if_neg hy, if_neg hlt, ih]
        · exact ih

/-- A cleared byte reads as zero, and every other byte as before. -/
theorem memGet_memClear {m : List Host.Cell} (a n y : Nat) (h : Memory.wf m = true) :
    memGet (memClear m a n) y = if a ≤ y ∧ y < a + n then 0#8 else memGet m y := by
  rw [wf_iff_wfFrom] at h
  have := memGet_filter (fun x => decide (x < a) || decide (a + n ≤ x)) y h
  rw [memClear, this]
  by_cases h1 : a ≤ y ∧ y < a + n
  · rw [if_neg (by simp; omega), if_pos h1]
  · rw [if_pos (by simp; omega), if_neg h1]

theorem memGet_append_below {a y : Nat} (m r : List Host.Cell) (hr : wfFrom a r) (hy : y < a) :
    memGet (m ++ r) y = memGet m y := by
  induction m with
  | nil => simpa [memGet] using memGet_below hr hy
  | cons p rest ih => simp only [List.cons_append, memGet, ih]

theorem memGet_append_above {a y : Nat} (m r : List Host.Cell) (hm : ∀ p ∈ m, p.1 < a) (hy : a ≤ y) :
    memGet (m ++ r) y = memGet r y := by
  induction m with
  | nil => rfl
  | cons p rest ih =>
    have hp := hm p (List.mem_cons_self ..)
    simp only [List.cons_append, memGet]
    rw [if_neg (by omega), if_neg (by omega)]
    exact ih fun q hq => hm q (List.mem_cons_of_mem _ hq)

theorem cellsOf_below (a : Nat) (bs : List Byte) : ∀ p ∈ cellsOf a bs, p.1 < a + bs.length := by
  induction bs generalizing a with
  | nil => simp [cellsOf]
  | cons b rest ih =>
    intro p hp
    simp only [cellsOf] at hp
    have h := ih (a + 1)
    split at hp
    · have := h p hp; simp; omega
    · rcases List.mem_cons.1 hp with hp | hp
      · subst hp; simp
      · have := h p hp; simp; omega

/-- A byte outside a run written at once reads as before. -/
theorem memGet_memPut_ne {m : List Host.Cell} (a y : Nat) (bs : List Byte) (h : Memory.wf m = true)
    (hy : y < a ∨ a + bs.length ≤ y) : memGet (memPut m a bs) y = memGet m y := by
  rw [wf_iff_wfFrom] at h
  rw [memPut, List.append_assoc]
  rcases hy with hy | hy
  · rw [memGet_append_below _ _ (wfFrom_cellsOf bs (wfFrom_above _ h)) hy]
    simpa [hy] using memGet_filter (fun x => decide (x < a)) y h
  · rw [memGet_append_above (a := a) _ _ (fun p hp => by simpa using (List.mem_filter.1 hp).2) (by omega),
      memGet_append_above (a := a + bs.length) _ _ (cellsOf_below a bs) hy]
    simpa [hy] using memGet_filter (fun x => decide (a + bs.length ≤ x)) y h

theorem memGet_cellsOf {a i : Nat} (bs : List Byte) (r : List Host.Cell) (hr : wfFrom (a + bs.length) r) (hi : i < bs.length) :
    memGet (cellsOf a bs ++ r) (a + i) = bs.getD i 0#8 := by
  induction bs generalizing a i with
  | nil => simp at hi
  | cons b rest ih =>
    have hr' : wfFrom (a + 1 + rest.length) r := by simpa [Nat.add_assoc, Nat.add_comm 1] using hr
    have hc := wfFrom_cellsOf rest hr'
    cases i with
    | zero =>
      simp only [cellsOf]
      split
      · simp_all [memGet_below hc]
      · simp [memGet]
    | succ i =>
      have := ih (a := a + 1) (i := i) hr' (by simpa using hi)
      have e : a + (i + 1) = a + 1 + i := by omega
      simp only [cellsOf]
      split
      · rw [e, this]; simp
      · simp only [List.cons_append, memGet]
        rw [if_neg (by omega), if_neg (by omega), e, this]; simp

/-- A byte of a run written at once reads as what was written. -/
theorem memGet_memPut_same {m : List Host.Cell} (a i : Nat) (bs : List Byte) (h : Memory.wf m = true) (hi : i < bs.length) :
    memGet (memPut m a bs) (a + i) = bs.getD i 0#8 := by
  rw [wf_iff_wfFrom] at h
  rw [memPut, List.append_assoc, memGet_append_above (a := a) _ _ (fun p hp => by simpa using (List.mem_filter.1 hp).2) (by omega)]
  exact memGet_cellsOf bs _ (wfFrom_above _ h) hi

/-! ## The machine's memories -/

theorem land_wf {co : Core} (cells : List (Nat × Byte)) (h : Memory.wf co.sp = true) : Memory.wf (co.land cells).sp = true :=
  memSets_wf cells h

theorem wrMem_wf {s : State} (cells : List (Nat × Byte)) (h : Memory.wf s.mem = true) : Memory.wf (s.wrMem cells).mem = true :=
  memSets_wf cells h

theorem setFrame_wf {s : State} (f : Nat) (e : W64) (h : Memory.wf s.mem = true) : Memory.wf (s.setFrame f e).mem = true :=
  memPut_wf _ _ h

theorem reset_mem_wf : Memory.wf State.reset.mem = true := rfl

end Sys2Proof.Machine
end

