-- ==== Sys2Proof/Laws/State.lean ====
section
/-!
SUPPORT. Laws of the state: what each update of one part leaves in every field, and what reading a part finds after it.
-/

namespace Sys2Proof.Machine

/-! ## State.setCtx -/

@[simp] theorem setCtx_now (s : State) (k : Nat) (c : Ctx) : (s.setCtx k c).now = s.now := rfl
@[simp] theorem setCtx_booted (s : State) (k : Nat) (c : Ctx) : (s.setCtx k c).booted = s.booted := rfl
@[simp] theorem setCtx_bootStep (s : State) (k : Nat) (c : Ctx) : (s.setCtx k c).bootStep = s.bootStep := rfl
@[simp] theorem setCtx_bootFail (s : State) (k : Nat) (c : Ctx) : (s.setCtx k c).bootFail = s.bootFail := rfl
@[simp] theorem setCtx_shut (s : State) (k : Nat) (c : Ctx) : (s.setCtx k c).shut = s.shut := rfl
@[simp] theorem setCtx_conf (s : State) (k : Nat) (c : Ctx) : (s.setCtx k c).conf = s.conf := rfl
@[simp] theorem setCtx_cores (s : State) (k : Nat) (c : Ctx) : (s.setCtx k c).cores = s.cores := rfl
@[simp] theorem setCtx_clusters (s : State) (k : Nat) (c : Ctx) : (s.setCtx k c).clusters = s.clusters := rfl
@[simp] theorem setCtx_dies (s : State) (k : Nat) (c : Ctx) : (s.setCtx k c).dies = s.dies := rfl
@[simp] theorem setCtx_funcs (s : State) (k : Nat) (c : Ctx) : (s.setCtx k c).funcs = s.funcs := rfl
@[simp] theorem setCtx_mem (s : State) (k : Nat) (c : Ctx) : (s.setCtx k c).mem = s.mem := rfl
@[simp] theorem setCtx_side (s : State) (k : Nat) (c : Ctx) : (s.setCtx k c).side = s.side := rfl
@[simp] theorem setCtx_frames (s : State) (k : Nat) (c : Ctx) : (s.setCtx k c).frames = s.frames := rfl
@[simp] theorem setCtx_commits (s : State) (k : Nat) (c : Ctx) : (s.setCtx k c).commits = s.commits := rfl
@[simp] theorem setCtx_eccBad (s : State) (k : Nat) (c : Ctx) : (s.setCtx k c).eccBad = s.eccBad := rfl
@[simp] theorem setCtx_eccFix (s : State) (k : Nat) (c : Ctx) : (s.setCtx k c).eccFix = s.eccFix := rfl
@[simp] theorem setCtx_svc (s : State) (k : Nat) (c : Ctx) : (s.setCtx k c).svc = s.svc := rfl
@[simp] theorem setCtx_rgen (s : State) (k : Nat) (c : Ctx) : (s.setCtx k c).rgen = s.rgen := rfl
@[simp] theorem setCtx_roster (s : State) (k : Nat) (c : Ctx) : (s.setCtx k c).roster = s.roster := rfl
@[simp] theorem setCtx_vertex (s : State) (k : Nat) (c : Ctx) : (s.setCtx k c).vertex = s.vertex := rfl
@[simp] theorem setCtx_fwver (s : State) (k : Nat) (c : Ctx) : (s.setCtx k c).fwver = s.fwver := rfl
@[simp] theorem setCtx_measures (s : State) (k : Nat) (c : Ctx) : (s.setCtx k c).measures = s.measures := rfl
@[simp] theorem setCtx_routes (s : State) (k : Nat) (c : Ctx) : (s.setCtx k c).routes = s.routes := rfl
@[simp] theorem setCtx_paths (s : State) (k : Nat) (c : Ctx) : (s.setCtx k c).paths = s.paths := rfl
@[simp] theorem setCtx_mcast (s : State) (k : Nat) (c : Ctx) : (s.setCtx k c).mcast = s.mcast := rfl
@[simp] theorem setCtx_ports (s : State) (k : Nat) (c : Ctx) : (s.setCtx k c).ports = s.ports := rfl
@[simp] theorem setCtx_errs (s : State) (k : Nat) (c : Ctx) : (s.setCtx k c).errs = s.errs := rfl
@[simp] theorem setCtx_errOvr (s : State) (k : Nat) (c : Ctx) : (s.setCtx k c).errOvr = s.errOvr := rfl
@[simp] theorem setCtx_mboxes (s : State) (k : Nat) (c : Ctx) : (s.setCtx k c).mboxes = s.mboxes := rfl
@[simp] theorem setCtx_mbOrder (s : State) (k : Nat) (c : Ctx) : (s.setCtx k c).mbOrder = s.mbOrder := rfl
@[simp] theorem setCtx_posts (s : State) (k : Nat) (c : Ctx) : (s.setCtx k c).posts = s.posts := rfl
@[simp] theorem setCtx_recs (s : State) (k : Nat) (c : Ctx) : (s.setCtx k c).recs = s.recs := rfl
@[simp] theorem setCtx_nextRec (s : State) (k : Nat) (c : Ctx) : (s.setCtx k c).nextRec = s.nextRec := rfl
@[simp] theorem setCtx_nextGraph (s : State) (k : Nat) (c : Ctx) : (s.setCtx k c).nextGraph = s.nextGraph := rfl
@[simp] theorem setCtx_graphs (s : State) (k : Nat) (c : Ctx) : (s.setCtx k c).graphs = s.graphs := rfl
@[simp] theorem setCtx_inbox (s : State) (k : Nat) (c : Ctx) : (s.setCtx k c).inbox = s.inbox := rfl
@[simp] theorem setCtx_reqs (s : State) (k : Nat) (c : Ctx) : (s.setCtx k c).reqs = s.reqs := rfl
@[simp] theorem setCtx_nextTag (s : State) (k : Nat) (c : Ctx) : (s.setCtx k c).nextTag = s.nextTag := rfl
@[simp] theorem setCtx_egress (s : State) (k : Nat) (c : Ctx) : (s.setCtx k c).egress = s.egress := rfl
@[simp] theorem setCtx_poolOut (s : State) (k : Nat) (c : Ctx) : (s.setCtx k c).poolOut = s.poolOut := rfl
@[simp] theorem setCtx_backs (s : State) (k : Nat) (c : Ctx) : (s.setCtx k c).backs = s.backs := rfl
@[simp] theorem setCtx_hostOut (s : State) (k : Nat) (c : Ctx) : (s.setCtx k c).hostOut = s.hostOut := rfl
@[simp] theorem setCtx_hostInv (s : State) (k : Nat) (c : Ctx) : (s.setCtx k c).hostInv = s.hostInv := rfl
@[simp] theorem setCtx_flights (s : State) (k : Nat) (c : Ctx) : (s.setCtx k c).flights = s.flights := rfl
@[simp] theorem setCtx_expRows (s : State) (k : Nat) (c : Ctx) : (s.setCtx k c).expRows = s.expRows := rfl
@[simp] theorem setCtx_rings (s : State) (k : Nat) (c : Ctx) : (s.setCtx k c).rings = s.rings := rfl
@[simp] theorem setCtx_known (s : State) (k : Nat) (c : Ctx) : (s.setCtx k c).known = s.known := rfl
@[simp] theorem setCtx_redns (s : State) (k : Nat) (c : Ctx) : (s.setCtx k c).redns = s.redns := rfl
@[simp] theorem setCtx_migs (s : State) (k : Nat) (c : Ctx) : (s.setCtx k c).migs = s.migs := rfl
@[simp] theorem setCtx_burstHeld (s : State) (k : Nat) (c : Ctx) : (s.setCtx k c).burstHeld = s.burstHeld := rfl
@[simp] theorem setCtx_burstQ (s : State) (k : Nat) (c : Ctx) : (s.setCtx k c).burstQ = s.burstQ := rfl
@[simp] theorem setCtx_ident (s : State) (k : Nat) (c : Ctx) : (s.setCtx k c).ident = s.ident := rfl
@[simp] theorem setCtx_scrub (s : State) (k : Nat) (c : Ctx) : (s.setCtx k c).scrub = s.scrub := rfl
@[simp] theorem setCtx_removed (s : State) (k : Nat) (c : Ctx) : (s.setCtx k c).removed = s.removed := rfl
@[simp] theorem setCtx_asks (s : State) (k : Nat) (c : Ctx) : (s.setCtx k c).asks = s.asks := rfl
@[simp] theorem setCtx_touched (s : State) (k : Nat) (c : Ctx) : (s.setCtx k c).touched = s.touched := rfl
@[simp] theorem setCtx_agenda (s : State) (k : Nat) (c : Ctx) : (s.setCtx k c).agenda = s.agenda := rfl
@[simp] theorem setCtx_focus (s : State) (k : Nat) (c : Ctx) : (s.setCtx k c).focus = s.focus := rfl
@[simp] theorem setCtx_fresh (s : State) (k : Nat) (c : Ctx) : (s.setCtx k c).fresh = s.fresh := rfl

/-! ## State.setCore -/

@[simp] theorem setCore_now (s : State) (k : Nat) (c : Core) : (s.setCore k c).now = s.now := rfl
@[simp] theorem setCore_booted (s : State) (k : Nat) (c : Core) : (s.setCore k c).booted = s.booted := rfl
@[simp] theorem setCore_bootStep (s : State) (k : Nat) (c : Core) : (s.setCore k c).bootStep = s.bootStep := rfl
@[simp] theorem setCore_bootFail (s : State) (k : Nat) (c : Core) : (s.setCore k c).bootFail = s.bootFail := rfl
@[simp] theorem setCore_shut (s : State) (k : Nat) (c : Core) : (s.setCore k c).shut = s.shut := rfl
@[simp] theorem setCore_conf (s : State) (k : Nat) (c : Core) : (s.setCore k c).conf = s.conf := rfl
@[simp] theorem setCore_ctxs (s : State) (k : Nat) (c : Core) : (s.setCore k c).ctxs = s.ctxs := rfl
@[simp] theorem setCore_clusters (s : State) (k : Nat) (c : Core) : (s.setCore k c).clusters = s.clusters := rfl
@[simp] theorem setCore_dies (s : State) (k : Nat) (c : Core) : (s.setCore k c).dies = s.dies := rfl
@[simp] theorem setCore_funcs (s : State) (k : Nat) (c : Core) : (s.setCore k c).funcs = s.funcs := rfl
@[simp] theorem setCore_mem (s : State) (k : Nat) (c : Core) : (s.setCore k c).mem = s.mem := rfl
@[simp] theorem setCore_side (s : State) (k : Nat) (c : Core) : (s.setCore k c).side = s.side := rfl
@[simp] theorem setCore_frames (s : State) (k : Nat) (c : Core) : (s.setCore k c).frames = s.frames := rfl
@[simp] theorem setCore_commits (s : State) (k : Nat) (c : Core) : (s.setCore k c).commits = s.commits := rfl
@[simp] theorem setCore_eccBad (s : State) (k : Nat) (c : Core) : (s.setCore k c).eccBad = s.eccBad := rfl
@[simp] theorem setCore_eccFix (s : State) (k : Nat) (c : Core) : (s.setCore k c).eccFix = s.eccFix := rfl
@[simp] theorem setCore_svc (s : State) (k : Nat) (c : Core) : (s.setCore k c).svc = s.svc := rfl
@[simp] theorem setCore_rgen (s : State) (k : Nat) (c : Core) : (s.setCore k c).rgen = s.rgen := rfl
@[simp] theorem setCore_roster (s : State) (k : Nat) (c : Core) : (s.setCore k c).roster = s.roster := rfl
@[simp] theorem setCore_vertex (s : State) (k : Nat) (c : Core) : (s.setCore k c).vertex = s.vertex := rfl
@[simp] theorem setCore_fwver (s : State) (k : Nat) (c : Core) : (s.setCore k c).fwver = s.fwver := rfl
@[simp] theorem setCore_measures (s : State) (k : Nat) (c : Core) : (s.setCore k c).measures = s.measures := rfl
@[simp] theorem setCore_routes (s : State) (k : Nat) (c : Core) : (s.setCore k c).routes = s.routes := rfl
@[simp] theorem setCore_paths (s : State) (k : Nat) (c : Core) : (s.setCore k c).paths = s.paths := rfl
@[simp] theorem setCore_mcast (s : State) (k : Nat) (c : Core) : (s.setCore k c).mcast = s.mcast := rfl
@[simp] theorem setCore_ports (s : State) (k : Nat) (c : Core) : (s.setCore k c).ports = s.ports := rfl
@[simp] theorem setCore_errs (s : State) (k : Nat) (c : Core) : (s.setCore k c).errs = s.errs := rfl
@[simp] theorem setCore_errOvr (s : State) (k : Nat) (c : Core) : (s.setCore k c).errOvr = s.errOvr := rfl
@[simp] theorem setCore_mboxes (s : State) (k : Nat) (c : Core) : (s.setCore k c).mboxes = s.mboxes := rfl
@[simp] theorem setCore_mbOrder (s : State) (k : Nat) (c : Core) : (s.setCore k c).mbOrder = s.mbOrder := rfl
@[simp] theorem setCore_posts (s : State) (k : Nat) (c : Core) : (s.setCore k c).posts = s.posts := rfl
@[simp] theorem setCore_recs (s : State) (k : Nat) (c : Core) : (s.setCore k c).recs = s.recs := rfl
@[simp] theorem setCore_nextRec (s : State) (k : Nat) (c : Core) : (s.setCore k c).nextRec = s.nextRec := rfl
@[simp] theorem setCore_nextGraph (s : State) (k : Nat) (c : Core) : (s.setCore k c).nextGraph = s.nextGraph := rfl
@[simp] theorem setCore_graphs (s : State) (k : Nat) (c : Core) : (s.setCore k c).graphs = s.graphs := rfl
@[simp] theorem setCore_inbox (s : State) (k : Nat) (c : Core) : (s.setCore k c).inbox = s.inbox := rfl
@[simp] theorem setCore_reqs (s : State) (k : Nat) (c : Core) : (s.setCore k c).reqs = s.reqs := rfl
@[simp] theorem setCore_nextTag (s : State) (k : Nat) (c : Core) : (s.setCore k c).nextTag = s.nextTag := rfl
@[simp] theorem setCore_egress (s : State) (k : Nat) (c : Core) : (s.setCore k c).egress = s.egress := rfl
@[simp] theorem setCore_poolOut (s : State) (k : Nat) (c : Core) : (s.setCore k c).poolOut = s.poolOut := rfl
@[simp] theorem setCore_backs (s : State) (k : Nat) (c : Core) : (s.setCore k c).backs = s.backs := rfl
@[simp] theorem setCore_hostOut (s : State) (k : Nat) (c : Core) : (s.setCore k c).hostOut = s.hostOut := rfl
@[simp] theorem setCore_hostInv (s : State) (k : Nat) (c : Core) : (s.setCore k c).hostInv = s.hostInv := rfl
@[simp] theorem setCore_flights (s : State) (k : Nat) (c : Core) : (s.setCore k c).flights = s.flights := rfl
@[simp] theorem setCore_expRows (s : State) (k : Nat) (c : Core) : (s.setCore k c).expRows = s.expRows := rfl
@[simp] theorem setCore_rings (s : State) (k : Nat) (c : Core) : (s.setCore k c).rings = s.rings := rfl
@[simp] theorem setCore_known (s : State) (k : Nat) (c : Core) : (s.setCore k c).known = s.known := rfl
@[simp] theorem setCore_redns (s : State) (k : Nat) (c : Core) : (s.setCore k c).redns = s.redns := rfl
@[simp] theorem setCore_migs (s : State) (k : Nat) (c : Core) : (s.setCore k c).migs = s.migs := rfl
@[simp] theorem setCore_burstHeld (s : State) (k : Nat) (c : Core) : (s.setCore k c).burstHeld = s.burstHeld := rfl
@[simp] theorem setCore_burstQ (s : State) (k : Nat) (c : Core) : (s.setCore k c).burstQ = s.burstQ := rfl
@[simp] theorem setCore_ident (s : State) (k : Nat) (c : Core) : (s.setCore k c).ident = s.ident := rfl
@[simp] theorem setCore_scrub (s : State) (k : Nat) (c : Core) : (s.setCore k c).scrub = s.scrub := rfl
@[simp] theorem setCore_removed (s : State) (k : Nat) (c : Core) : (s.setCore k c).removed = s.removed := rfl
@[simp] theorem setCore_asks (s : State) (k : Nat) (c : Core) : (s.setCore k c).asks = s.asks := rfl
@[simp] theorem setCore_touched (s : State) (k : Nat) (c : Core) : (s.setCore k c).touched = s.touched := rfl
@[simp] theorem setCore_agenda (s : State) (k : Nat) (c : Core) : (s.setCore k c).agenda = s.agenda := rfl
@[simp] theorem setCore_focus (s : State) (k : Nat) (c : Core) : (s.setCore k c).focus = s.focus := rfl
@[simp] theorem setCore_fresh (s : State) (k : Nat) (c : Core) : (s.setCore k c).fresh = s.fresh := rfl

/-! ## State.setCluster -/

@[simp] theorem setCluster_now (s : State) (k : Nat) (c : Cluster) : (s.setCluster k c).now = s.now := rfl
@[simp] theorem setCluster_booted (s : State) (k : Nat) (c : Cluster) : (s.setCluster k c).booted = s.booted := rfl
@[simp] theorem setCluster_bootStep (s : State) (k : Nat) (c : Cluster) : (s.setCluster k c).bootStep = s.bootStep := rfl
@[simp] theorem setCluster_bootFail (s : State) (k : Nat) (c : Cluster) : (s.setCluster k c).bootFail = s.bootFail := rfl
@[simp] theorem setCluster_shut (s : State) (k : Nat) (c : Cluster) : (s.setCluster k c).shut = s.shut := rfl
@[simp] theorem setCluster_conf (s : State) (k : Nat) (c : Cluster) : (s.setCluster k c).conf = s.conf := rfl
@[simp] theorem setCluster_ctxs (s : State) (k : Nat) (c : Cluster) : (s.setCluster k c).ctxs = s.ctxs := rfl
@[simp] theorem setCluster_cores (s : State) (k : Nat) (c : Cluster) : (s.setCluster k c).cores = s.cores := rfl
@[simp] theorem setCluster_dies (s : State) (k : Nat) (c : Cluster) : (s.setCluster k c).dies = s.dies := rfl
@[simp] theorem setCluster_funcs (s : State) (k : Nat) (c : Cluster) : (s.setCluster k c).funcs = s.funcs := rfl
@[simp] theorem setCluster_mem (s : State) (k : Nat) (c : Cluster) : (s.setCluster k c).mem = s.mem := rfl
@[simp] theorem setCluster_side (s : State) (k : Nat) (c : Cluster) : (s.setCluster k c).side = s.side := rfl
@[simp] theorem setCluster_frames (s : State) (k : Nat) (c : Cluster) : (s.setCluster k c).frames = s.frames := rfl
@[simp] theorem setCluster_commits (s : State) (k : Nat) (c : Cluster) : (s.setCluster k c).commits = s.commits := rfl
@[simp] theorem setCluster_eccBad (s : State) (k : Nat) (c : Cluster) : (s.setCluster k c).eccBad = s.eccBad := rfl
@[simp] theorem setCluster_eccFix (s : State) (k : Nat) (c : Cluster) : (s.setCluster k c).eccFix = s.eccFix := rfl
@[simp] theorem setCluster_svc (s : State) (k : Nat) (c : Cluster) : (s.setCluster k c).svc = s.svc := rfl
@[simp] theorem setCluster_rgen (s : State) (k : Nat) (c : Cluster) : (s.setCluster k c).rgen = s.rgen := rfl
@[simp] theorem setCluster_roster (s : State) (k : Nat) (c : Cluster) : (s.setCluster k c).roster = s.roster := rfl
@[simp] theorem setCluster_vertex (s : State) (k : Nat) (c : Cluster) : (s.setCluster k c).vertex = s.vertex := rfl
@[simp] theorem setCluster_fwver (s : State) (k : Nat) (c : Cluster) : (s.setCluster k c).fwver = s.fwver := rfl
@[simp] theorem setCluster_measures (s : State) (k : Nat) (c : Cluster) : (s.setCluster k c).measures = s.measures := rfl
@[simp] theorem setCluster_routes (s : State) (k : Nat) (c : Cluster) : (s.setCluster k c).routes = s.routes := rfl
@[simp] theorem setCluster_paths (s : State) (k : Nat) (c : Cluster) : (s.setCluster k c).paths = s.paths := rfl
@[simp] theorem setCluster_mcast (s : State) (k : Nat) (c : Cluster) : (s.setCluster k c).mcast = s.mcast := rfl
@[simp] theorem setCluster_ports (s : State) (k : Nat) (c : Cluster) : (s.setCluster k c).ports = s.ports := rfl
@[simp] theorem setCluster_errs (s : State) (k : Nat) (c : Cluster) : (s.setCluster k c).errs = s.errs := rfl
@[simp] theorem setCluster_errOvr (s : State) (k : Nat) (c : Cluster) : (s.setCluster k c).errOvr = s.errOvr := rfl
@[simp] theorem setCluster_mboxes (s : State) (k : Nat) (c : Cluster) : (s.setCluster k c).mboxes = s.mboxes := rfl
@[simp] theorem setCluster_mbOrder (s : State) (k : Nat) (c : Cluster) : (s.setCluster k c).mbOrder = s.mbOrder := rfl
@[simp] theorem setCluster_posts (s : State) (k : Nat) (c : Cluster) : (s.setCluster k c).posts = s.posts := rfl
@[simp] theorem setCluster_recs (s : State) (k : Nat) (c : Cluster) : (s.setCluster k c).recs = s.recs := rfl
@[simp] theorem setCluster_nextRec (s : State) (k : Nat) (c : Cluster) : (s.setCluster k c).nextRec = s.nextRec := rfl
@[simp] theorem setCluster_nextGraph (s : State) (k : Nat) (c : Cluster) : (s.setCluster k c).nextGraph = s.nextGraph := rfl
@[simp] theorem setCluster_graphs (s : State) (k : Nat) (c : Cluster) : (s.setCluster k c).graphs = s.graphs := rfl
@[simp] theorem setCluster_inbox (s : State) (k : Nat) (c : Cluster) : (s.setCluster k c).inbox = s.inbox := rfl
@[simp] theorem setCluster_reqs (s : State) (k : Nat) (c : Cluster) : (s.setCluster k c).reqs = s.reqs := rfl
@[simp] theorem setCluster_nextTag (s : State) (k : Nat) (c : Cluster) : (s.setCluster k c).nextTag = s.nextTag := rfl
@[simp] theorem setCluster_egress (s : State) (k : Nat) (c : Cluster) : (s.setCluster k c).egress = s.egress := rfl
@[simp] theorem setCluster_poolOut (s : State) (k : Nat) (c : Cluster) : (s.setCluster k c).poolOut = s.poolOut := rfl
@[simp] theorem setCluster_backs (s : State) (k : Nat) (c : Cluster) : (s.setCluster k c).backs = s.backs := rfl
@[simp] theorem setCluster_hostOut (s : State) (k : Nat) (c : Cluster) : (s.setCluster k c).hostOut = s.hostOut := rfl
@[simp] theorem setCluster_hostInv (s : State) (k : Nat) (c : Cluster) : (s.setCluster k c).hostInv = s.hostInv := rfl
@[simp] theorem setCluster_flights (s : State) (k : Nat) (c : Cluster) : (s.setCluster k c).flights = s.flights := rfl
@[simp] theorem setCluster_expRows (s : State) (k : Nat) (c : Cluster) : (s.setCluster k c).expRows = s.expRows := rfl
@[simp] theorem setCluster_rings (s : State) (k : Nat) (c : Cluster) : (s.setCluster k c).rings = s.rings := rfl
@[simp] theorem setCluster_known (s : State) (k : Nat) (c : Cluster) : (s.setCluster k c).known = s.known := rfl
@[simp] theorem setCluster_redns (s : State) (k : Nat) (c : Cluster) : (s.setCluster k c).redns = s.redns := rfl
@[simp] theorem setCluster_migs (s : State) (k : Nat) (c : Cluster) : (s.setCluster k c).migs = s.migs := rfl
@[simp] theorem setCluster_burstHeld (s : State) (k : Nat) (c : Cluster) : (s.setCluster k c).burstHeld = s.burstHeld := rfl
@[simp] theorem setCluster_burstQ (s : State) (k : Nat) (c : Cluster) : (s.setCluster k c).burstQ = s.burstQ := rfl
@[simp] theorem setCluster_ident (s : State) (k : Nat) (c : Cluster) : (s.setCluster k c).ident = s.ident := rfl
@[simp] theorem setCluster_scrub (s : State) (k : Nat) (c : Cluster) : (s.setCluster k c).scrub = s.scrub := rfl
@[simp] theorem setCluster_removed (s : State) (k : Nat) (c : Cluster) : (s.setCluster k c).removed = s.removed := rfl
@[simp] theorem setCluster_asks (s : State) (k : Nat) (c : Cluster) : (s.setCluster k c).asks = s.asks := rfl
@[simp] theorem setCluster_touched (s : State) (k : Nat) (c : Cluster) : (s.setCluster k c).touched = s.touched := rfl
@[simp] theorem setCluster_agenda (s : State) (k : Nat) (c : Cluster) : (s.setCluster k c).agenda = s.agenda := rfl
@[simp] theorem setCluster_focus (s : State) (k : Nat) (c : Cluster) : (s.setCluster k c).focus = s.focus := rfl
@[simp] theorem setCluster_fresh (s : State) (k : Nat) (c : Cluster) : (s.setCluster k c).fresh = s.fresh := rfl

/-! ## State.setDie -/

@[simp] theorem setDie_now (s : State) (k : Nat) (c : Die) : (s.setDie k c).now = s.now := rfl
@[simp] theorem setDie_booted (s : State) (k : Nat) (c : Die) : (s.setDie k c).booted = s.booted := rfl
@[simp] theorem setDie_bootStep (s : State) (k : Nat) (c : Die) : (s.setDie k c).bootStep = s.bootStep := rfl
@[simp] theorem setDie_bootFail (s : State) (k : Nat) (c : Die) : (s.setDie k c).bootFail = s.bootFail := rfl
@[simp] theorem setDie_shut (s : State) (k : Nat) (c : Die) : (s.setDie k c).shut = s.shut := rfl
@[simp] theorem setDie_conf (s : State) (k : Nat) (c : Die) : (s.setDie k c).conf = s.conf := rfl
@[simp] theorem setDie_ctxs (s : State) (k : Nat) (c : Die) : (s.setDie k c).ctxs = s.ctxs := rfl
@[simp] theorem setDie_cores (s : State) (k : Nat) (c : Die) : (s.setDie k c).cores = s.cores := rfl
@[simp] theorem setDie_clusters (s : State) (k : Nat) (c : Die) : (s.setDie k c).clusters = s.clusters := rfl
@[simp] theorem setDie_funcs (s : State) (k : Nat) (c : Die) : (s.setDie k c).funcs = s.funcs := rfl
@[simp] theorem setDie_mem (s : State) (k : Nat) (c : Die) : (s.setDie k c).mem = s.mem := rfl
@[simp] theorem setDie_side (s : State) (k : Nat) (c : Die) : (s.setDie k c).side = s.side := rfl
@[simp] theorem setDie_frames (s : State) (k : Nat) (c : Die) : (s.setDie k c).frames = s.frames := rfl
@[simp] theorem setDie_commits (s : State) (k : Nat) (c : Die) : (s.setDie k c).commits = s.commits := rfl
@[simp] theorem setDie_eccBad (s : State) (k : Nat) (c : Die) : (s.setDie k c).eccBad = s.eccBad := rfl
@[simp] theorem setDie_eccFix (s : State) (k : Nat) (c : Die) : (s.setDie k c).eccFix = s.eccFix := rfl
@[simp] theorem setDie_svc (s : State) (k : Nat) (c : Die) : (s.setDie k c).svc = s.svc := rfl
@[simp] theorem setDie_rgen (s : State) (k : Nat) (c : Die) : (s.setDie k c).rgen = s.rgen := rfl
@[simp] theorem setDie_roster (s : State) (k : Nat) (c : Die) : (s.setDie k c).roster = s.roster := rfl
@[simp] theorem setDie_vertex (s : State) (k : Nat) (c : Die) : (s.setDie k c).vertex = s.vertex := rfl
@[simp] theorem setDie_fwver (s : State) (k : Nat) (c : Die) : (s.setDie k c).fwver = s.fwver := rfl
@[simp] theorem setDie_measures (s : State) (k : Nat) (c : Die) : (s.setDie k c).measures = s.measures := rfl
@[simp] theorem setDie_routes (s : State) (k : Nat) (c : Die) : (s.setDie k c).routes = s.routes := rfl
@[simp] theorem setDie_paths (s : State) (k : Nat) (c : Die) : (s.setDie k c).paths = s.paths := rfl
@[simp] theorem setDie_mcast (s : State) (k : Nat) (c : Die) : (s.setDie k c).mcast = s.mcast := rfl
@[simp] theorem setDie_ports (s : State) (k : Nat) (c : Die) : (s.setDie k c).ports = s.ports := rfl
@[simp] theorem setDie_errs (s : State) (k : Nat) (c : Die) : (s.setDie k c).errs = s.errs := rfl
@[simp] theorem setDie_errOvr (s : State) (k : Nat) (c : Die) : (s.setDie k c).errOvr = s.errOvr := rfl
@[simp] theorem setDie_mboxes (s : State) (k : Nat) (c : Die) : (s.setDie k c).mboxes = s.mboxes := rfl
@[simp] theorem setDie_mbOrder (s : State) (k : Nat) (c : Die) : (s.setDie k c).mbOrder = s.mbOrder := rfl
@[simp] theorem setDie_posts (s : State) (k : Nat) (c : Die) : (s.setDie k c).posts = s.posts := rfl
@[simp] theorem setDie_recs (s : State) (k : Nat) (c : Die) : (s.setDie k c).recs = s.recs := rfl
@[simp] theorem setDie_nextRec (s : State) (k : Nat) (c : Die) : (s.setDie k c).nextRec = s.nextRec := rfl
@[simp] theorem setDie_nextGraph (s : State) (k : Nat) (c : Die) : (s.setDie k c).nextGraph = s.nextGraph := rfl
@[simp] theorem setDie_graphs (s : State) (k : Nat) (c : Die) : (s.setDie k c).graphs = s.graphs := rfl
@[simp] theorem setDie_inbox (s : State) (k : Nat) (c : Die) : (s.setDie k c).inbox = s.inbox := rfl
@[simp] theorem setDie_reqs (s : State) (k : Nat) (c : Die) : (s.setDie k c).reqs = s.reqs := rfl
@[simp] theorem setDie_nextTag (s : State) (k : Nat) (c : Die) : (s.setDie k c).nextTag = s.nextTag := rfl
@[simp] theorem setDie_egress (s : State) (k : Nat) (c : Die) : (s.setDie k c).egress = s.egress := rfl
@[simp] theorem setDie_poolOut (s : State) (k : Nat) (c : Die) : (s.setDie k c).poolOut = s.poolOut := rfl
@[simp] theorem setDie_backs (s : State) (k : Nat) (c : Die) : (s.setDie k c).backs = s.backs := rfl
@[simp] theorem setDie_hostOut (s : State) (k : Nat) (c : Die) : (s.setDie k c).hostOut = s.hostOut := rfl
@[simp] theorem setDie_hostInv (s : State) (k : Nat) (c : Die) : (s.setDie k c).hostInv = s.hostInv := rfl
@[simp] theorem setDie_flights (s : State) (k : Nat) (c : Die) : (s.setDie k c).flights = s.flights := rfl
@[simp] theorem setDie_expRows (s : State) (k : Nat) (c : Die) : (s.setDie k c).expRows = s.expRows := rfl
@[simp] theorem setDie_rings (s : State) (k : Nat) (c : Die) : (s.setDie k c).rings = s.rings := rfl
@[simp] theorem setDie_known (s : State) (k : Nat) (c : Die) : (s.setDie k c).known = s.known := rfl
@[simp] theorem setDie_redns (s : State) (k : Nat) (c : Die) : (s.setDie k c).redns = s.redns := rfl
@[simp] theorem setDie_migs (s : State) (k : Nat) (c : Die) : (s.setDie k c).migs = s.migs := rfl
@[simp] theorem setDie_burstHeld (s : State) (k : Nat) (c : Die) : (s.setDie k c).burstHeld = s.burstHeld := rfl
@[simp] theorem setDie_burstQ (s : State) (k : Nat) (c : Die) : (s.setDie k c).burstQ = s.burstQ := rfl
@[simp] theorem setDie_ident (s : State) (k : Nat) (c : Die) : (s.setDie k c).ident = s.ident := rfl
@[simp] theorem setDie_scrub (s : State) (k : Nat) (c : Die) : (s.setDie k c).scrub = s.scrub := rfl
@[simp] theorem setDie_removed (s : State) (k : Nat) (c : Die) : (s.setDie k c).removed = s.removed := rfl
@[simp] theorem setDie_asks (s : State) (k : Nat) (c : Die) : (s.setDie k c).asks = s.asks := rfl
@[simp] theorem setDie_touched (s : State) (k : Nat) (c : Die) : (s.setDie k c).touched = s.touched := rfl
@[simp] theorem setDie_agenda (s : State) (k : Nat) (c : Die) : (s.setDie k c).agenda = s.agenda := rfl
@[simp] theorem setDie_focus (s : State) (k : Nat) (c : Die) : (s.setDie k c).focus = s.focus := rfl
@[simp] theorem setDie_fresh (s : State) (k : Nat) (c : Die) : (s.setDie k c).fresh = s.fresh := rfl

/-! ## State.setFunc -/

@[simp] theorem setFunc_now (s : State) (k : Nat) (c : Func) : (s.setFunc k c).now = s.now := rfl
@[simp] theorem setFunc_booted (s : State) (k : Nat) (c : Func) : (s.setFunc k c).booted = s.booted := rfl
@[simp] theorem setFunc_bootStep (s : State) (k : Nat) (c : Func) : (s.setFunc k c).bootStep = s.bootStep := rfl
@[simp] theorem setFunc_bootFail (s : State) (k : Nat) (c : Func) : (s.setFunc k c).bootFail = s.bootFail := rfl
@[simp] theorem setFunc_shut (s : State) (k : Nat) (c : Func) : (s.setFunc k c).shut = s.shut := rfl
@[simp] theorem setFunc_conf (s : State) (k : Nat) (c : Func) : (s.setFunc k c).conf = s.conf := rfl
@[simp] theorem setFunc_ctxs (s : State) (k : Nat) (c : Func) : (s.setFunc k c).ctxs = s.ctxs := rfl
@[simp] theorem setFunc_cores (s : State) (k : Nat) (c : Func) : (s.setFunc k c).cores = s.cores := rfl
@[simp] theorem setFunc_clusters (s : State) (k : Nat) (c : Func) : (s.setFunc k c).clusters = s.clusters := rfl
@[simp] theorem setFunc_dies (s : State) (k : Nat) (c : Func) : (s.setFunc k c).dies = s.dies := rfl
@[simp] theorem setFunc_mem (s : State) (k : Nat) (c : Func) : (s.setFunc k c).mem = s.mem := rfl
@[simp] theorem setFunc_side (s : State) (k : Nat) (c : Func) : (s.setFunc k c).side = s.side := rfl
@[simp] theorem setFunc_frames (s : State) (k : Nat) (c : Func) : (s.setFunc k c).frames = s.frames := rfl
@[simp] theorem setFunc_commits (s : State) (k : Nat) (c : Func) : (s.setFunc k c).commits = s.commits := rfl
@[simp] theorem setFunc_eccBad (s : State) (k : Nat) (c : Func) : (s.setFunc k c).eccBad = s.eccBad := rfl
@[simp] theorem setFunc_eccFix (s : State) (k : Nat) (c : Func) : (s.setFunc k c).eccFix = s.eccFix := rfl
@[simp] theorem setFunc_svc (s : State) (k : Nat) (c : Func) : (s.setFunc k c).svc = s.svc := rfl
@[simp] theorem setFunc_rgen (s : State) (k : Nat) (c : Func) : (s.setFunc k c).rgen = s.rgen := rfl
@[simp] theorem setFunc_roster (s : State) (k : Nat) (c : Func) : (s.setFunc k c).roster = s.roster := rfl
@[simp] theorem setFunc_vertex (s : State) (k : Nat) (c : Func) : (s.setFunc k c).vertex = s.vertex := rfl
@[simp] theorem setFunc_fwver (s : State) (k : Nat) (c : Func) : (s.setFunc k c).fwver = s.fwver := rfl
@[simp] theorem setFunc_measures (s : State) (k : Nat) (c : Func) : (s.setFunc k c).measures = s.measures := rfl
@[simp] theorem setFunc_routes (s : State) (k : Nat) (c : Func) : (s.setFunc k c).routes = s.routes := rfl
@[simp] theorem setFunc_paths (s : State) (k : Nat) (c : Func) : (s.setFunc k c).paths = s.paths := rfl
@[simp] theorem setFunc_mcast (s : State) (k : Nat) (c : Func) : (s.setFunc k c).mcast = s.mcast := rfl
@[simp] theorem setFunc_ports (s : State) (k : Nat) (c : Func) : (s.setFunc k c).ports = s.ports := rfl
@[simp] theorem setFunc_errs (s : State) (k : Nat) (c : Func) : (s.setFunc k c).errs = s.errs := rfl
@[simp] theorem setFunc_errOvr (s : State) (k : Nat) (c : Func) : (s.setFunc k c).errOvr = s.errOvr := rfl
@[simp] theorem setFunc_mboxes (s : State) (k : Nat) (c : Func) : (s.setFunc k c).mboxes = s.mboxes := rfl
@[simp] theorem setFunc_mbOrder (s : State) (k : Nat) (c : Func) : (s.setFunc k c).mbOrder = s.mbOrder := rfl
@[simp] theorem setFunc_posts (s : State) (k : Nat) (c : Func) : (s.setFunc k c).posts = s.posts := rfl
@[simp] theorem setFunc_recs (s : State) (k : Nat) (c : Func) : (s.setFunc k c).recs = s.recs := rfl
@[simp] theorem setFunc_nextRec (s : State) (k : Nat) (c : Func) : (s.setFunc k c).nextRec = s.nextRec := rfl
@[simp] theorem setFunc_nextGraph (s : State) (k : Nat) (c : Func) : (s.setFunc k c).nextGraph = s.nextGraph := rfl
@[simp] theorem setFunc_graphs (s : State) (k : Nat) (c : Func) : (s.setFunc k c).graphs = s.graphs := rfl
@[simp] theorem setFunc_inbox (s : State) (k : Nat) (c : Func) : (s.setFunc k c).inbox = s.inbox := rfl
@[simp] theorem setFunc_reqs (s : State) (k : Nat) (c : Func) : (s.setFunc k c).reqs = s.reqs := rfl
@[simp] theorem setFunc_nextTag (s : State) (k : Nat) (c : Func) : (s.setFunc k c).nextTag = s.nextTag := rfl
@[simp] theorem setFunc_egress (s : State) (k : Nat) (c : Func) : (s.setFunc k c).egress = s.egress := rfl
@[simp] theorem setFunc_poolOut (s : State) (k : Nat) (c : Func) : (s.setFunc k c).poolOut = s.poolOut := rfl
@[simp] theorem setFunc_backs (s : State) (k : Nat) (c : Func) : (s.setFunc k c).backs = s.backs := rfl
@[simp] theorem setFunc_hostOut (s : State) (k : Nat) (c : Func) : (s.setFunc k c).hostOut = s.hostOut := rfl
@[simp] theorem setFunc_hostInv (s : State) (k : Nat) (c : Func) : (s.setFunc k c).hostInv = s.hostInv := rfl
@[simp] theorem setFunc_flights (s : State) (k : Nat) (c : Func) : (s.setFunc k c).flights = s.flights := rfl
@[simp] theorem setFunc_expRows (s : State) (k : Nat) (c : Func) : (s.setFunc k c).expRows = s.expRows := rfl
@[simp] theorem setFunc_rings (s : State) (k : Nat) (c : Func) : (s.setFunc k c).rings = s.rings := rfl
@[simp] theorem setFunc_known (s : State) (k : Nat) (c : Func) : (s.setFunc k c).known = s.known := rfl
@[simp] theorem setFunc_redns (s : State) (k : Nat) (c : Func) : (s.setFunc k c).redns = s.redns := rfl
@[simp] theorem setFunc_migs (s : State) (k : Nat) (c : Func) : (s.setFunc k c).migs = s.migs := rfl
@[simp] theorem setFunc_burstHeld (s : State) (k : Nat) (c : Func) : (s.setFunc k c).burstHeld = s.burstHeld := rfl
@[simp] theorem setFunc_burstQ (s : State) (k : Nat) (c : Func) : (s.setFunc k c).burstQ = s.burstQ := rfl
@[simp] theorem setFunc_ident (s : State) (k : Nat) (c : Func) : (s.setFunc k c).ident = s.ident := rfl
@[simp] theorem setFunc_scrub (s : State) (k : Nat) (c : Func) : (s.setFunc k c).scrub = s.scrub := rfl
@[simp] theorem setFunc_removed (s : State) (k : Nat) (c : Func) : (s.setFunc k c).removed = s.removed := rfl
@[simp] theorem setFunc_asks (s : State) (k : Nat) (c : Func) : (s.setFunc k c).asks = s.asks := rfl
@[simp] theorem setFunc_touched (s : State) (k : Nat) (c : Func) : (s.setFunc k c).touched = s.touched := rfl
@[simp] theorem setFunc_agenda (s : State) (k : Nat) (c : Func) : (s.setFunc k c).agenda = s.agenda := rfl
@[simp] theorem setFunc_focus (s : State) (k : Nat) (c : Func) : (s.setFunc k c).focus = s.focus := rfl
@[simp] theorem setFunc_fresh (s : State) (k : Nat) (c : Func) : (s.setFunc k c).fresh = s.fresh := rfl

/-! ## Reading a part -/

@[simp] theorem setCtx_ctx_same (s : State) (k : Nat) (c : Ctx) : (s.setCtx k c).ctx k = c := by
  simp [State.setCtx, State.ctx]
theorem setCtx_ctx_ne (s : State) (k j : Nat) (c : Ctx) (h : j ≠ k) : (s.setCtx k c).ctx j = s.ctx j := by
  simp [State.setCtx, State.ctx, AMap.get_set_ne, h]
@[simp] theorem setCtx_core (s : State) (k j : Nat) (c : Ctx) : (s.setCtx k c).core j = s.core j := rfl
@[simp] theorem setCtx_cluster (s : State) (k j : Nat) (c : Ctx) : (s.setCtx k c).cluster j = s.cluster j := rfl
@[simp] theorem setCtx_die (s : State) (k j : Nat) (c : Ctx) : (s.setCtx k c).die j = s.die j := rfl
@[simp] theorem setCtx_func (s : State) (k j : Nat) (c : Ctx) : (s.setCtx k c).func j = s.func j := rfl
@[simp] theorem setCore_ctx (s : State) (k j : Nat) (c : Core) : (s.setCore k c).ctx j = s.ctx j := rfl
@[simp] theorem setCore_core_same (s : State) (k : Nat) (c : Core) : (s.setCore k c).core k = c := by
  simp [State.setCore, State.core]
theorem setCore_core_ne (s : State) (k j : Nat) (c : Core) (h : j ≠ k) : (s.setCore k c).core j = s.core j := by
  simp [State.setCore, State.core, AMap.get_set_ne, h]
@[simp] theorem setCore_cluster (s : State) (k j : Nat) (c : Core) : (s.setCore k c).cluster j = s.cluster j := rfl
@[simp] theorem setCore_die (s : State) (k j : Nat) (c : Core) : (s.setCore k c).die j = s.die j := rfl
@[simp] theorem setCore_func (s : State) (k j : Nat) (c : Core) : (s.setCore k c).func j = s.func j := rfl
@[simp] theorem setCluster_ctx (s : State) (k j : Nat) (c : Cluster) : (s.setCluster k c).ctx j = s.ctx j := rfl
@[simp] theorem setCluster_core (s : State) (k j : Nat) (c : Cluster) : (s.setCluster k c).core j = s.core j := rfl
@[simp] theorem setCluster_cluster_same (s : State) (k : Nat) (c : Cluster) : (s.setCluster k c).cluster k = c := by
  simp [State.setCluster, State.cluster]
theorem setCluster_cluster_ne (s : State) (k j : Nat) (c : Cluster) (h : j ≠ k) : (s.setCluster k c).cluster j = s.cluster j := by
  simp [State.setCluster, State.cluster, AMap.get_set_ne, h]
@[simp] theorem setCluster_die (s : State) (k j : Nat) (c : Cluster) : (s.setCluster k c).die j = s.die j := rfl
@[simp] theorem setCluster_func (s : State) (k j : Nat) (c : Cluster) : (s.setCluster k c).func j = s.func j := rfl
@[simp] theorem setDie_ctx (s : State) (k j : Nat) (c : Die) : (s.setDie k c).ctx j = s.ctx j := rfl
@[simp] theorem setDie_core (s : State) (k j : Nat) (c : Die) : (s.setDie k c).core j = s.core j := rfl
@[simp] theorem setDie_cluster (s : State) (k j : Nat) (c : Die) : (s.setDie k c).cluster j = s.cluster j := rfl
@[simp] theorem setDie_die_same (s : State) (k : Nat) (c : Die) : (s.setDie k c).die k = c := by
  simp [State.setDie, State.die]
theorem setDie_die_ne (s : State) (k j : Nat) (c : Die) (h : j ≠ k) : (s.setDie k c).die j = s.die j := by
  simp [State.setDie, State.die, AMap.get_set_ne, h]
@[simp] theorem setDie_func (s : State) (k j : Nat) (c : Die) : (s.setDie k c).func j = s.func j := rfl
@[simp] theorem setFunc_ctx (s : State) (k j : Nat) (c : Func) : (s.setFunc k c).ctx j = s.ctx j := rfl
@[simp] theorem setFunc_core (s : State) (k j : Nat) (c : Func) : (s.setFunc k c).core j = s.core j := rfl
@[simp] theorem setFunc_cluster (s : State) (k j : Nat) (c : Func) : (s.setFunc k c).cluster j = s.cluster j := rfl
@[simp] theorem setFunc_die (s : State) (k j : Nat) (c : Func) : (s.setFunc k c).die j = s.die j := rfl
@[simp] theorem setFunc_func_same (s : State) (k : Nat) (c : Func) : (s.setFunc k c).func k = c := by
  simp [State.setFunc, State.func]
theorem setFunc_func_ne (s : State) (k j : Nat) (c : Func) (h : j ≠ k) : (s.setFunc k c).func j = s.func j := by
  simp [State.setFunc, State.func, AMap.get_set_ne, h]
@[simp] theorem setCtx_rdMem (s : State) (k a n : Nat) (c : Ctx) : (s.setCtx k c).rdMem a n = s.rdMem a n := rfl
@[simp] theorem setCtx_rdMem8 (s : State) (k a : Nat) (c : Ctx) : (s.setCtx k c).rdMem8 a = s.rdMem8 a := rfl
@[simp] theorem setCore_rdMem (s : State) (k a n : Nat) (c : Core) : (s.setCore k c).rdMem a n = s.rdMem a n := rfl
@[simp] theorem setCore_rdMem8 (s : State) (k a : Nat) (c : Core) : (s.setCore k c).rdMem8 a = s.rdMem8 a := rfl
@[simp] theorem setCluster_rdMem (s : State) (k a n : Nat) (c : Cluster) : (s.setCluster k c).rdMem a n = s.rdMem a n := rfl
@[simp] theorem setCluster_rdMem8 (s : State) (k a : Nat) (c : Cluster) : (s.setCluster k c).rdMem8 a = s.rdMem8 a := rfl
@[simp] theorem setDie_rdMem (s : State) (k a n : Nat) (c : Die) : (s.setDie k c).rdMem a n = s.rdMem a n := rfl
@[simp] theorem setDie_rdMem8 (s : State) (k a : Nat) (c : Die) : (s.setDie k c).rdMem8 a = s.rdMem8 a := rfl
@[simp] theorem setFunc_rdMem (s : State) (k a n : Nat) (c : Func) : (s.setFunc k c).rdMem a n = s.rdMem a n := rfl
@[simp] theorem setFunc_rdMem8 (s : State) (k a : Nat) (c : Func) : (s.setFunc k c).rdMem8 a = s.rdMem8 a := rfl

end Sys2Proof.Machine
end

