-- ==== Sys2Proof/Laws/Ops.lean ====
section
/-!
SUPPORT. What the shared operations can do: issuing an operation, leaving its queue, and taking a trap.
-/

namespace Sys2Proof.Machine

/-! ## Eff -/

@[simp] theorem Eff.bind_ok {α β : Type} (a : α) (k : α → Eff β) : (Eff.ok a).bind k = k a := rfl
@[simp] theorem Eff.bind_wait {α β : Type} (k : α → Eff β) : (Eff.wait : Eff α).bind k = .wait := rfl
@[simp] theorem Eff.bind_late {α β : Type} (k : α → Eff β) : (Eff.late : Eff α).bind k = .late := rfl
@[simp] theorem Eff.bind_trap {α β : Type} (c : Nat) (v : W64) (k : α → Eff β) : (Eff.trap c v : Eff α).bind k = .trap c v := rfl

theorem Eff.bind_eq_ok {α β : Type} {x : Eff α} {k : α → Eff β} {b : β} (h : x.bind k = .ok b) :
    ∃ a, x = .ok a ∧ k a = .ok b := by
  cases x with
  | ok a => exact ⟨a, rfl, h⟩
  | wait => cases h
  | late => cases h
  | trap c v => cases h

@[simp] theorem waitUnless_true {α : Type} (k : Eff α) : waitUnless true k = k := rfl
@[simp] theorem waitUnless_false {α : Type} (k : Eff α) : waitUnless false k = .wait := rfl
@[simp] theorem trapIf_false {α : Type} (c : Nat) (v : W64) (k : Eff α) : trapIf false c v k = k := rfl
@[simp] theorem trapIf_true {α : Type} (c : Nat) (v : W64) (k : Eff α) : trapIf true c v k = .trap c v := rfl

/-! ## Issuing -/

theorem issueOp_ok {s : State} {f : Focus} {k : Focus → Ctx → Eff State} {s' : State} (hf : s.focus = some f)
    (hk : k f (s.ctx f.ctx) = .ok s') : issueOp s k = .next (s'.retire f) := by
  simp [issueOp, hf, hk]

theorem issueOp_wait {s : State} {f : Focus} {k : Focus → Ctx → Eff State} (hf : s.focus = some f)
    (hk : k f (s.ctx f.ctx) = .wait) : issueOp s k = waits s := by
  simp [issueOp, hf, hk, waits]

theorem issueOp_late {s : State} {f : Focus} {k : Focus → Ctx → Eff State} (hf : s.focus = some f)
    (hk : k f (s.ctx f.ctx) = .late) : issueOp s k = .next (s.holdLate f) := by
  simp [issueOp, hf, hk]

theorem issueOp_trap {s : State} {f : Focus} {k : Focus → Ctx → Eff State} {c : Nat} {v : W64} (hf : s.focus = some f)
    (hk : k f (s.ctx f.ctx) = .trap c v) : issueOp s k = .next (s.issueTrap f c v) := by
  simp [issueOp, hf, hk]

theorem onCtx_ok {s : State} {f : Focus} {k : Focus → Ctx → Eff Ctx} {c : Ctx} (hf : s.focus = some f)
    (hk : k f (s.ctx f.ctx) = .ok c) : onCtx s k = issued s f c :=
  issueOp_ok hf (by simp [hk])

theorem onCtx_wait {s : State} {f : Focus} {k : Focus → Ctx → Eff Ctx} (hf : s.focus = some f)
    (hk : k f (s.ctx f.ctx) = .wait) : onCtx s k = waits s :=
  issueOp_wait hf (by simp [hk])

theorem onCtx_trap {s : State} {f : Focus} {k : Focus → Ctx → Eff Ctx} {c : Nat} {v : W64} (hf : s.focus = some f)
    (hk : k f (s.ctx f.ctx) = .trap c v) : onCtx s k = .next (s.issueTrap f c v) :=
  issueOp_trap hf (by simp [hk])

/-- An operation that issues, waits or traps never ends in a fault or a refusal. -/
theorem issueOp_next (s : State) (k : Focus → Ctx → Eff State) : ∃ t, issueOp s k = .next t := by
  unfold issueOp
  split
  · exact ⟨_, rfl⟩
  · split <;> exact ⟨_, rfl⟩

theorem onCtx_next (s : State) (k : Focus → Ctx → Eff Ctx) : ∃ t, onCtx s k = .next t := issueOp_next s _

/-! ## Leaving the queue -/

/-- The yield of a context is resolved. -/
def Ctx.yielded (c : Ctx) : Ctx := { c with yldWord := none, yields := false }

/-- What may become of a context after issue: nothing, or its yield is resolved, and then it may give up its core. -/
theorem afterIssue_cases (s : State) (k : Nat) :
    s.afterIssue k = s ∨ s.afterIssue k = s.setCtx k (s.ctx k).yielded ∨
    s.afterIssue k = (s.setCtx k (s.ctx k).yielded).setCore (ctxCore k) ((s.core (ctxCore k)).release k) := by
  unfold State.afterIssue
  dsimp only
  split
  · exact .inl rfl
  · split
    · split
      · exact .inr (.inr rfl)
      · exact .inr (.inl rfl)
    · exact .inl rfl

/-- The cycle in which the last operation of a word with a yield issues is noted, and nothing else changes. -/
theorem noteYield_cases (c : Ctx) (now : Nat) : c.noteYield now = c ∨ c.noteYield now = { c with yieldCyc := now } := by
  unfold Ctx.noteYield; split
  · exact .inr rfl
  · exact .inl rfl

theorem Core.release_same (co : Core) (k : Nat) :
    { co.release k with holder := co.holder, last := co.last, spanEnd := co.spanEnd } = co := by
  unfold Core.release; split <;> rfl

theorem sameOutside_refl (s : State) (k : Nat) : SameOutside s s k := ⟨rfl, fun _ _ => rfl, fun _ _ => rfl, rfl⟩

theorem sameOutside_setCtx (s : State) (k : Nat) (c : Ctx) : SameOutside s (s.setCtx k c) k :=
  ⟨rfl, fun j h => by simp [State.ctx, State.setCtx, AMap.get_set_ne, h], fun _ _ => rfl, rfl⟩

theorem SameOutside.trans {s t u : State} {k : Nat} (h : SameOutside s t k) (g : SameOutside t u k) : SameOutside s u k := by
  obtain ⟨h1, h2, h3, h4⟩ := h
  obtain ⟨g1, g2, g3, g4⟩ := g
  refine ⟨?_, fun j hj => (g2 j hj).trans (h2 j hj), fun q hq => (g3 q hq).trans (h3 q hq), ?_⟩
  · rw [← h1]; rw [← g1]
  · rw [← h4]; rw [← g4]

theorem sameOutside_focus (s : State) (x : Option Focus) (k : Nat) : SameOutside s { s with focus := x } k :=
  ⟨rfl, fun _ _ => rfl, fun _ _ => rfl, rfl⟩

theorem sameOutside_release (s : State) (k : Nat) :
    SameOutside s (s.setCore (ctxCore k) ((s.core (ctxCore k)).release k)) k :=
  ⟨rfl, fun _ _ => rfl, fun q h => by simp [State.core, State.setCore, AMap.get_set_ne, h],
   by simp [Core.release_same]⟩

theorem sameOutside_afterIssue (s : State) (k : Nat) : SameOutside s (s.afterIssue k) k := by
  obtain h | h | h := afterIssue_cases s k <;> rw [h]
  · exact sameOutside_refl s k
  · exact sameOutside_setCtx s k _
  · exact (sameOutside_setCtx s k _).trans (sameOutside_release _ k)

/-- An entry leaves its queue: nothing outside its context changes, but for which context holds the core. -/
theorem sameOutside_retire (s : State) (f : Focus) : SameOutside s (s.retire f) f.ctx :=
  ((sameOutside_focus s none f.ctx).trans (sameOutside_setCtx _ f.ctx _)).trans (sameOutside_afterIssue _ f.ctx)

theorem afterIssue_focus (s : State) (k : Nat) : (s.afterIssue k).focus = s.focus := by
  obtain h | h | h := afterIssue_cases s k <;> rw [h] <;> rfl

theorem retire_focus (s : State) (f : Focus) : (s.retire f).focus = none := afterIssue_focus _ _

/-- The context after its entry has left the queue: its yield may be noted, and may be resolved. -/
theorem retire_ctx (s : State) (f : Focus) :
    (s.retire f).ctx f.ctx = ((s.ctx f.ctx).popQ f.slot f.ent.id).noteYield s.now ∨
    (s.retire f).ctx f.ctx = (((s.ctx f.ctx).popQ f.slot f.ent.id).noteYield s.now).yielded := by
  unfold State.retire
  obtain h | h | h := afterIssue_cases ({ s with focus := none }.setCtx f.ctx
    (((s.ctx f.ctx).popQ f.slot f.ent.id).noteYield s.now)) f.ctx <;> rw [h] <;> simp

/-! ## Memory that an engine reaches, and what an access notes -/

theorem whenAwake_awake {s : State} {pas : List Nat} {k : State → Out} (h : ∀ a ∈ pas, s.dieAwake (dieOfPa a) = true) :
    whenAwake s pas k = k s := by
  have : ((pas.map dieOfPa).filter fun d => !s.dieAwake d) = [] := by
    simp only [List.filter_eq_nil_iff, List.mem_map]
    rintro d ⟨a, ha, rfl⟩
    simp [h a ha]
  simp [whenAwake, this]

/-- An access that needs a die that sleeps only asks for it. -/
theorem whenAwake_cases (s : State) (pas : List Nat) (k : State → Out) :
    whenAwake s pas k = k s ∨ ∃ ds, whenAwake s pas k = .next { s with asks := s.asks ++ ds } := by
  unfold whenAwake
  dsimp only
  split
  · exact .inl rfl
  · exact .inr ⟨_, rfl⟩

theorem noteFixes_none {s : State} (h : s.eccFix = []) (ls : List Nat) : s.noteFixes ls = s := by
  have : ls.filter s.eccFix.elem = [] := by
    rw [h, List.filter_eq_nil_iff]
    exact fun _ _ h => Bool.noConfusion h
  simp only [State.noteFixes, this, List.foldl_nil]

@[simp] theorem record_mem (s : State) (kind code src vf addr : Nat) : (s.record kind code src vf addr).mem = s.mem := by
  unfold State.record; split <;> rfl
@[simp] theorem record_ctxs (s : State) (kind code src vf addr : Nat) : (s.record kind code src vf addr).ctxs = s.ctxs := by
  unfold State.record; split <;> rfl
@[simp] theorem record_cores (s : State) (kind code src vf addr : Nat) : (s.record kind code src vf addr).cores = s.cores := by
  unfold State.record; split <;> rfl

@[simp] theorem take_mem (s : State) (i : Nat) : (s.take i).mem = s.mem := rfl
@[simp] theorem take_ctxs (s : State) (i : Nat) : (s.take i).ctxs = s.ctxs := rfl
@[simp] theorem take_cores (s : State) (i : Nat) : (s.take i).cores = s.cores := rfl
@[simp] theorem touch_mem (s : State) (ls : List Nat) : (s.touch ls).mem = s.mem := rfl
@[simp] theorem touch_ctxs (s : State) (ls : List Nat) : (s.touch ls).ctxs = s.ctxs := rfl
@[simp] theorem touch_cores (s : State) (ls : List Nat) : (s.touch ls).cores = s.cores := rfl

end Sys2Proof.Machine
end

