-- ==== Sys2Proof/Laws/PerInstr.lean ====
section
/-!
SUPPORT. The statement made of every instruction: the decoder reads back what the encoder writes.
-/

set_option linter.all false
set_option linter.unusedSimpArgs false
set_option Elab.async false

open Sys2Proof Sys2Proof.Laws

/-- Decoding the operation field of a well-formed slot operation's encoding gives the operation. -/
def Sys2Proof.Laws.Encoding.Statement (i : Instr) : Prop :=
  ∀ e : Enc, i ≠ .nop → i.wf = true → encode i = some e → decOp e.slot e.opc e.opnd e.ext = .ok i

theorem Sys2Proof.Laws.Encoding.nop : Statement .nop := by
  intro e h; exact absurd rfl h
theorem Sys2Proof.Laws.Encoding.add sd sa b : Statement (.add sd sa b) := by
  intro e _ hw he
  cases he
  dsimp only [decOp, decS]
  try simp only [fld, bit, BitVec.toNat_ofNat, Nat.reducePow, Nat.reduceMod]
  try simp (disch := omega) only [ex_hi, ex_lo, gl_lo, gl_hi]
  try simp [withUnion, accept, noExt, hw]
theorem Sys2Proof.Laws.Encoding.sub sd sa b : Statement (.sub sd sa b) := by
  intro e _ hw he
  cases he
  dsimp only [decOp, decS]
  try simp only [fld, bit, BitVec.toNat_ofNat, Nat.reducePow, Nat.reduceMod]
  try simp (disch := omega) only [ex_hi, ex_lo, gl_lo, gl_hi]
  try simp [withUnion, accept, noExt, hw]
theorem Sys2Proof.Laws.Encoding.mul sd sa b : Statement (.mul sd sa b) := by
  intro e _ hw he
  cases he
  dsimp only [decOp, decS]
  try simp only [fld, bit, BitVec.toNat_ofNat, Nat.reducePow, Nat.reduceMod]
  try simp (disch := omega) only [ex_hi, ex_lo, gl_lo, gl_hi]
  try simp [withUnion, accept, noExt, hw]
theorem Sys2Proof.Laws.Encoding.mulh sd sa b : Statement (.mulh sd sa b) := by
  intro e _ hw he
  cases he
  dsimp only [decOp, decS]
  try simp only [fld, bit, BitVec.toNat_ofNat, Nat.reducePow, Nat.reduceMod]
  try simp (disch := omega) only [ex_hi, ex_lo, gl_lo, gl_hi]
  try simp [withUnion, accept, noExt, hw]
theorem Sys2Proof.Laws.Encoding.and sd sa b : Statement (.and sd sa b) := by
  intro e _ hw he
  cases he
  dsimp only [decOp, decS]
  try simp only [fld, bit, BitVec.toNat_ofNat, Nat.reducePow, Nat.reduceMod]
  try simp (disch := omega) only [ex_hi, ex_lo, gl_lo, gl_hi]
  try simp [withUnion, accept, noExt, hw]
theorem Sys2Proof.Laws.Encoding.or sd sa b : Statement (.or sd sa b) := by
  intro e _ hw he
  cases he
  dsimp only [decOp, decS]
  try simp only [fld, bit, BitVec.toNat_ofNat, Nat.reducePow, Nat.reduceMod]
  try simp (disch := omega) only [ex_hi, ex_lo, gl_lo, gl_hi]
  try simp [withUnion, accept, noExt, hw]
theorem Sys2Proof.Laws.Encoding.xor sd sa b : Statement (.xor sd sa b) := by
  intro e _ hw he
  cases he
  dsimp only [decOp, decS]
  try simp only [fld, bit, BitVec.toNat_ofNat, Nat.reducePow, Nat.reduceMod]
  try simp (disch := omega) only [ex_hi, ex_lo, gl_lo, gl_hi]
  try simp [withUnion, accept, noExt, hw]
theorem Sys2Proof.Laws.Encoding.shl sd sa b : Statement (.shl sd sa b) := by
  intro e _ hw he
  cases he
  dsimp only [decOp, decS]
  try simp only [fld, bit, BitVec.toNat_ofNat, Nat.reducePow, Nat.reduceMod]
  try simp (disch := omega) only [ex_hi, ex_lo, gl_lo, gl_hi]
  try simp [withUnion, accept, noExt, hw]
theorem Sys2Proof.Laws.Encoding.shr sd sa b : Statement (.shr sd sa b) := by
  intro e _ hw he
  cases he
  dsimp only [decOp, decS]
  try simp only [fld, bit, BitVec.toNat_ofNat, Nat.reducePow, Nat.reduceMod]
  try simp (disch := omega) only [ex_hi, ex_lo, gl_lo, gl_hi]
  try simp [withUnion, accept, noExt, hw]
theorem Sys2Proof.Laws.Encoding.sar sd sa b : Statement (.sar sd sa b) := by
  intro e _ hw he
  cases he
  dsimp only [decOp, decS]
  try simp only [fld, bit, BitVec.toNat_ofNat, Nat.reducePow, Nat.reduceMod]
  try simp (disch := omega) only [ex_hi, ex_lo, gl_lo, gl_hi]
  try simp [withUnion, accept, noExt, hw]
theorem Sys2Proof.Laws.Encoding.min sd sa b : Statement (.min sd sa b) := by
  intro e _ hw he
  cases he
  dsimp only [decOp, decS]
  try simp only [fld, bit, BitVec.toNat_ofNat, Nat.reducePow, Nat.reduceMod]
  try simp (disch := omega) only [ex_hi, ex_lo, gl_lo, gl_hi]
  try simp [withUnion, accept, noExt, hw]
theorem Sys2Proof.Laws.Encoding.max sd sa b : Statement (.max sd sa b) := by
  intro e _ hw he
  cases he
  dsimp only [decOp, decS]
  try simp only [fld, bit, BitVec.toNat_ofNat, Nat.reducePow, Nat.reduceMod]
  try simp (disch := omega) only [ex_hi, ex_lo, gl_lo, gl_hi]
  try simp [withUnion, accept, noExt, hw]
theorem Sys2Proof.Laws.Encoding.minu sd sa b : Statement (.minu sd sa b) := by
  intro e _ hw he
  cases he
  dsimp only [decOp, decS]
  try simp only [fld, bit, BitVec.toNat_ofNat, Nat.reducePow, Nat.reduceMod]
  try simp (disch := omega) only [ex_hi, ex_lo, gl_lo, gl_hi]
  try simp [withUnion, accept, noExt, hw]
theorem Sys2Proof.Laws.Encoding.maxu sd sa b : Statement (.maxu sd sa b) := by
  intro e _ hw he
  cases he
  dsimp only [decOp, decS]
  try simp only [fld, bit, BitVec.toNat_ofNat, Nat.reducePow, Nat.reduceMod]
  try simp (disch := omega) only [ex_hi, ex_lo, gl_lo, gl_hi]
  try simp [withUnion, accept, noExt, hw]
theorem Sys2Proof.Laws.Encoding.clz sd sa : Statement (.clz sd sa) := by
  intro e _ hw he
  cases he
  dsimp only [decOp, decS]
  try simp only [fld, bit, BitVec.toNat_ofNat, Nat.reducePow, Nat.reduceMod]
  try simp (disch := omega) only [ex_hi, ex_lo, gl_lo, gl_hi]
  try simp [withUnion, accept, noExt, hw]
theorem Sys2Proof.Laws.Encoding.popc sd sa : Statement (.popc sd sa) := by
  intro e _ hw he
  cases he
  dsimp only [decOp, decS]
  try simp only [fld, bit, BitVec.toNat_ofNat, Nat.reducePow, Nat.reduceMod]
  try simp (disch := omega) only [ex_hi, ex_lo, gl_lo, gl_hi]
  try simp [withUnion, accept, noExt, hw]
theorem Sys2Proof.Laws.Encoding.mov sd src : Statement (.mov sd src) := by
  intro e _ hw he
  cases he
  dsimp only [decOp, decS]
  try simp only [fld, bit, BitVec.toNat_ofNat, Nat.reducePow, Nat.reduceMod]
  try simp (disch := omega) only [ex_hi, ex_lo, gl_lo, gl_hi]
  try simp [withUnion, accept, noExt, hw]
theorem Sys2Proof.Laws.Encoding.sel sd sa pc alt : Statement (.sel sd sa pc alt) := by
  intro e _ hw he
  cases he
  dsimp only [decOp, decS]
  try simp only [fld, bit, BitVec.toNat_ofNat, Nat.reducePow, Nat.reduceMod]
  try simp (disch := omega) only [ex_hi, ex_lo, gl_lo, gl_hi]
  try simp [withUnion, accept, noExt, hw]
theorem Sys2Proof.Laws.Encoding.aset aj src : Statement (.aset aj src) := by
  intro e _ hw he
  cases he
  dsimp only [decOp, decS]
  try simp only [fld, bit, BitVec.toNat_ofNat, Nat.reducePow, Nat.reduceMod]
  try simp (disch := omega) only [ex_hi, ex_lo, gl_lo, gl_hi]
  try simp [withUnion, accept, noExt, hw]
theorem Sys2Proof.Laws.Encoding.aget sd aj src : Statement (.aget sd aj src) := by
  intro e _ hw he
  cases he
  dsimp only [decOp, decS]
  try simp only [fld, bit, BitVec.toNat_ofNat, Nat.reducePow, Nat.reduceMod]
  try simp (disch := omega) only [ex_hi, ex_lo, gl_lo, gl_hi]
  try simp [withUnion, accept, noExt, hw]
theorem Sys2Proof.Laws.Encoding.cmpEq pd sa b : Statement (.cmpEq pd sa b) := by
  intro e _ hw he
  cases he
  dsimp only [decOp, decS]
  try simp only [fld, bit, BitVec.toNat_ofNat, Nat.reducePow, Nat.reduceMod]
  try simp (disch := omega) only [ex_hi, ex_lo, gl_lo, gl_hi]
  try simp [withUnion, accept, noExt, hw]
theorem Sys2Proof.Laws.Encoding.cmpNe pd sa b : Statement (.cmpNe pd sa b) := by
  intro e _ hw he
  cases he
  dsimp only [decOp, decS]
  try simp only [fld, bit, BitVec.toNat_ofNat, Nat.reducePow, Nat.reduceMod]
  try simp (disch := omega) only [ex_hi, ex_lo, gl_lo, gl_hi]
  try simp [withUnion, accept, noExt, hw]
theorem Sys2Proof.Laws.Encoding.cmpLt pd sa b : Statement (.cmpLt pd sa b) := by
  intro e _ hw he
  cases he
  dsimp only [decOp, decS]
  try simp only [fld, bit, BitVec.toNat_ofNat, Nat.reducePow, Nat.reduceMod]
  try simp (disch := omega) only [ex_hi, ex_lo, gl_lo, gl_hi]
  try simp [withUnion, accept, noExt, hw]
theorem Sys2Proof.Laws.Encoding.cmpLe pd sa b : Statement (.cmpLe pd sa b) := by
  intro e _ hw he
  cases he
  dsimp only [decOp, decS]
  try simp only [fld, bit, BitVec.toNat_ofNat, Nat.reducePow, Nat.reduceMod]
  try simp (disch := omega) only [ex_hi, ex_lo, gl_lo, gl_hi]
  try simp [withUnion, accept, noExt, hw]
theorem Sys2Proof.Laws.Encoding.cmpLtu pd sa b : Statement (.cmpLtu pd sa b) := by
  intro e _ hw he
  cases he
  dsimp only [decOp, decS]
  try simp only [fld, bit, BitVec.toNat_ofNat, Nat.reducePow, Nat.reduceMod]
  try simp (disch := omega) only [ex_hi, ex_lo, gl_lo, gl_hi]
  try simp [withUnion, accept, noExt, hw]
theorem Sys2Proof.Laws.Encoding.cmpLeu pd sa b : Statement (.cmpLeu pd sa b) := by
  intro e _ hw he
  cases he
  dsimp only [decOp, decS]
  try simp only [fld, bit, BitVec.toNat_ofNat, Nat.reducePow, Nat.reduceMod]
  try simp (disch := omega) only [ex_hi, ex_lo, gl_lo, gl_hi]
  try simp [withUnion, accept, noExt, hw]
theorem Sys2Proof.Laws.Encoding.pand pd pa pb : Statement (.pand pd pa pb) := by
  intro e _ hw he
  cases he
  dsimp only [decOp, decS]
  try simp only [fld, bit, BitVec.toNat_ofNat, Nat.reducePow, Nat.reduceMod]
  try simp (disch := omega) only [ex_hi, ex_lo, gl_lo, gl_hi]
  try simp [withUnion, accept, noExt, hw]
theorem Sys2Proof.Laws.Encoding.por pd pa pb : Statement (.por pd pa pb) := by
  intro e _ hw he
  cases he
  dsimp only [decOp, decS]
  try simp only [fld, bit, BitVec.toNat_ofNat, Nat.reducePow, Nat.reduceMod]
  try simp (disch := omega) only [ex_hi, ex_lo, gl_lo, gl_hi]
  try simp [withUnion, accept, noExt, hw]
theorem Sys2Proof.Laws.Encoding.fadd sd sa sb : Statement (.fadd sd sa sb) := by
  intro e _ hw he
  cases he
  dsimp only [decOp, decS]
  try simp only [fld, bit, BitVec.toNat_ofNat, Nat.reducePow, Nat.reduceMod]
  try simp (disch := omega) only [ex_hi, ex_lo, gl_lo, gl_hi]
  try simp [withUnion, accept, noExt, hw]
theorem Sys2Proof.Laws.Encoding.fsub sd sa sb : Statement (.fsub sd sa sb) := by
  intro e _ hw he
  cases he
  dsimp only [decOp, decS]
  try simp only [fld, bit, BitVec.toNat_ofNat, Nat.reducePow, Nat.reduceMod]
  try simp (disch := omega) only [ex_hi, ex_lo, gl_lo, gl_hi]
  try simp [withUnion, accept, noExt, hw]
theorem Sys2Proof.Laws.Encoding.fmul sd sa sb : Statement (.fmul sd sa sb) := by
  intro e _ hw he
  cases he
  dsimp only [decOp, decS]
  try simp only [fld, bit, BitVec.toNat_ofNat, Nat.reducePow, Nat.reduceMod]
  try simp (disch := omega) only [ex_hi, ex_lo, gl_lo, gl_hi]
  try simp [withUnion, accept, noExt, hw]
theorem Sys2Proof.Laws.Encoding.ffma sd sa sb : Statement (.ffma sd sa sb) := by
  intro e _ hw he
  cases he
  dsimp only [decOp, decS]
  try simp only [fld, bit, BitVec.toNat_ofNat, Nat.reducePow, Nat.reduceMod]
  try simp (disch := omega) only [ex_hi, ex_lo, gl_lo, gl_hi]
  try simp [withUnion, accept, noExt, hw]
theorem Sys2Proof.Laws.Encoding.fmin sd sa sb : Statement (.fmin sd sa sb) := by
  intro e _ hw he
  cases he
  dsimp only [decOp, decS]
  try simp only [fld, bit, BitVec.toNat_ofNat, Nat.reducePow, Nat.reduceMod]
  try simp (disch := omega) only [ex_hi, ex_lo, gl_lo, gl_hi]
  try simp [withUnion, accept, noExt, hw]
theorem Sys2Proof.Laws.Encoding.fmax sd sa sb : Statement (.fmax sd sa sb) := by
  intro e _ hw he
  cases he
  dsimp only [decOp, decS]
  try simp only [fld, bit, BitVec.toNat_ofNat, Nat.reducePow, Nat.reduceMod]
  try simp (disch := omega) only [ex_hi, ex_lo, gl_lo, gl_hi]
  try simp [withUnion, accept, noExt, hw]
theorem Sys2Proof.Laws.Encoding.fcmpEq pd sa sb : Statement (.fcmpEq pd sa sb) := by
  intro e _ hw he
  cases he
  dsimp only [decOp, decS]
  try simp only [fld, bit, BitVec.toNat_ofNat, Nat.reducePow, Nat.reduceMod]
  try simp (disch := omega) only [ex_hi, ex_lo, gl_lo, gl_hi]
  try simp [withUnion, accept, noExt, hw]
theorem Sys2Proof.Laws.Encoding.fcmpLt pd sa sb : Statement (.fcmpLt pd sa sb) := by
  intro e _ hw he
  cases he
  dsimp only [decOp, decS]
  try simp only [fld, bit, BitVec.toNat_ofNat, Nat.reducePow, Nat.reduceMod]
  try simp (disch := omega) only [ex_hi, ex_lo, gl_lo, gl_hi]
  try simp [withUnion, accept, noExt, hw]
theorem Sys2Proof.Laws.Encoding.fcmpLe pd sa sb : Statement (.fcmpLe pd sa sb) := by
  intro e _ hw he
  cases he
  dsimp only [decOp, decS]
  try simp only [fld, bit, BitVec.toNat_ofNat, Nat.reducePow, Nat.reduceMod]
  try simp (disch := omega) only [ex_hi, ex_lo, gl_lo, gl_hi]
  try simp [withUnion, accept, noExt, hw]
theorem Sys2Proof.Laws.Encoding.br off : Statement (.br off) := by
  intro e _ hw he
  cases he
  dsimp only [decOp, decS]
  try simp only [fld, bit, BitVec.toNat_ofNat, Nat.reducePow, Nat.reduceMod]
  try simp (disch := omega) only [ex_hi, ex_lo, gl_lo, gl_hi]
  try simp [withUnion, accept, noExt, hw]
theorem Sys2Proof.Laws.Encoding.brx sa : Statement (.brx sa) := by
  intro e _ hw he
  cases he
  dsimp only [decOp, decS]
  try simp only [fld, bit, BitVec.toNat_ofNat, Nat.reducePow, Nat.reduceMod]
  try simp (disch := omega) only [ex_hi, ex_lo, gl_lo, gl_hi]
  try simp [withUnion, accept, noExt, hw]
theorem Sys2Proof.Laws.Encoding.call off : Statement (.call off) := by
  intro e _ hw he
  cases he
  dsimp only [decOp, decS]
  try simp only [fld, bit, BitVec.toNat_ofNat, Nat.reducePow, Nat.reduceMod]
  try simp (disch := omega) only [ex_hi, ex_lo, gl_lo, gl_hi]
  try simp [withUnion, accept, noExt, hw]
theorem Sys2Proof.Laws.Encoding.ret : Statement .ret := by
  intro e _ hw he
  cases he
  dsimp only [decOp, decS]
  try simp only [fld, bit, BitVec.toNat_ofNat, Nat.reducePow, Nat.reduceMod]
  try simp (disch := omega) only [ex_hi, ex_lo, gl_lo, gl_hi]
  try simp [withUnion, accept, noExt, hw]
theorem Sys2Proof.Laws.Encoding.loop frame cnt last : Statement (.loop frame cnt last) := by
  intro e _ hw he
  cases he
  dsimp only [decOp, decS]
  try simp only [fld, bit, BitVec.toNat_ofNat, Nat.reducePow, Nat.reduceMod]
  try simp (disch := omega) only [ex_hi, ex_lo, gl_lo, gl_hi]
  try simp [withUnion, accept, noExt, hw]
theorem Sys2Proof.Laws.Encoding.loopS frame sa last : Statement (.loopS frame sa last) := by
  intro e _ hw he
  cases he
  dsimp only [decOp, decS]
  try simp only [fld, bit, BitVec.toNat_ofNat, Nat.reducePow, Nat.reduceMod]
  try simp (disch := omega) only [ex_hi, ex_lo, gl_lo, gl_hi]
  try simp [withUnion, accept, noExt, hw]
theorem Sys2Proof.Laws.Encoding.yieldT sa : Statement (.yieldT sa) := by
  intro e _ hw he
  cases he
  dsimp only [decOp, decS]
  try simp only [fld, bit, BitVec.toNat_ofNat, Nat.reducePow, Nat.reduceMod]
  try simp (disch := omega) only [ex_hi, ex_lo, gl_lo, gl_hi]
  try simp [withUnion, accept, noExt, hw]
theorem Sys2Proof.Laws.Encoding.yieldB sa : Statement (.yieldB sa) := by
  intro e _ hw he
  cases he
  dsimp only [decOp, decS]
  try simp only [fld, bit, BitVec.toNat_ofNat, Nat.reducePow, Nat.reduceMod]
  try simp (disch := omega) only [ex_hi, ex_lo, gl_lo, gl_hi]
  try simp [withUnion, accept, noExt, hw]
theorem Sys2Proof.Laws.Encoding.spec off : Statement (.spec off) := by
  intro e _ hw he
  cases he
  dsimp only [decOp, decS]
  try simp only [fld, bit, BitVec.toNat_ofNat, Nat.reducePow, Nat.reduceMod]
  try simp (disch := omega) only [ex_hi, ex_lo, gl_lo, gl_hi]
  try simp [withUnion, accept, noExt, hw]
theorem Sys2Proof.Laws.Encoding.specCommit pc : Statement (.specCommit pc) := by
  intro e _ hw he
  cases he
  dsimp only [decOp, decS]
  try simp only [fld, bit, BitVec.toNat_ofNat, Nat.reducePow, Nat.reduceMod]
  try simp (disch := omega) only [ex_hi, ex_lo, gl_lo, gl_hi]
  try simp [withUnion, accept, noExt, hw]
theorem Sys2Proof.Laws.Encoding.specAbort : Statement .specAbort := by
  intro e _ hw he
  cases he
  dsimp only [decOp, decS]
  try simp only [fld, bit, BitVec.toNat_ofNat, Nat.reducePow, Nat.reduceMod]
  try simp (disch := omega) only [ex_hi, ex_lo, gl_lo, gl_hi]
  try simp [withUnion, accept, noExt, hw]
theorem Sys2Proof.Laws.Encoding.exit : Statement .exit := by
  intro e _ hw he
  cases he
  dsimp only [decOp, decS]
  try simp only [fld, bit, BitVec.toNat_ofNat, Nat.reducePow, Nat.reduceMod]
  try simp (disch := omega) only [ex_hi, ex_lo, gl_lo, gl_hi]
  try simp [withUnion, accept, noExt, hw]
theorem Sys2Proof.Laws.Encoding.trap imm : Statement (.trap imm) := by
  intro e _ hw he
  cases he
  dsimp only [decOp, decS]
  try simp only [fld, bit, BitVec.toNat_ofNat, Nat.reducePow, Nat.reduceMod]
  try simp (disch := omega) only [ex_hi, ex_lo, gl_lo, gl_hi]
  try simp [withUnion, accept, noExt, hw]
theorem Sys2Proof.Laws.Encoding.rti next : Statement (.rti next) := by
  intro e _ hw he
  cases he
  dsimp only [decOp, decS]
  try simp only [fld, bit, BitVec.toNat_ofNat, Nat.reducePow, Nat.reduceMod]
  try simp (disch := omega) only [ex_hi, ex_lo, gl_lo, gl_hi]
  try simp [withUnion, accept, noExt, hw]
theorem Sys2Proof.Laws.Encoding.csrd sd csr : Statement (.csrd sd csr) := by
  intro e _ hw he
  cases he
  dsimp only [decOp, decS]
  try simp only [fld, bit, BitVec.toNat_ofNat, Nat.reducePow, Nat.reduceMod]
  try simp (disch := omega) only [ex_hi, ex_lo, gl_lo, gl_hi]
  try simp [withUnion, accept, noExt, hw]
theorem Sys2Proof.Laws.Encoding.csrw csr v : Statement (.csrw csr v) := by
  intro e _ hw he
  cases he
  dsimp only [decOp, decS]
  try simp only [fld, bit, BitVec.toNat_ofNat, Nat.reducePow, Nat.reduceMod]
  try simp (disch := omega) only [ex_hi, ex_lo, gl_lo, gl_hi]
  try simp [withUnion, accept, noExt, hw]
theorem Sys2Proof.Laws.Encoding.csrs csr v : Statement (.csrs csr v) := by
  intro e _ hw he
  cases he
  dsimp only [decOp, decS]
  try simp only [fld, bit, BitVec.toNat_ofNat, Nat.reducePow, Nat.reduceMod]
  try simp (disch := omega) only [ex_hi, ex_lo, gl_lo, gl_hi]
  try simp [withUnion, accept, noExt, hw]
theorem Sys2Proof.Laws.Encoding.csrc csr v : Statement (.csrc csr v) := by
  intro e _ hw he
  cases he
  dsimp only [decOp, decS]
  try simp only [fld, bit, BitVec.toNat_ofNat, Nat.reducePow, Nat.reduceMod]
  try simp (disch := omega) only [ex_hi, ex_lo, gl_lo, gl_hi]
  try simp [withUnion, accept, noExt, hw]
theorem Sys2Proof.Laws.Encoding.launch sd sa n : Statement (.launch sd sa n) := by
  intro e _ hw he
  cases he
  dsimp only [decOp, decS]
  try simp only [fld, bit, BitVec.toNat_ofNat, Nat.reducePow, Nat.reduceMod]
  try simp (disch := omega) only [ex_hi, ex_lo, gl_lo, gl_hi]
  try simp [withUnion, accept, noExt, hw]
theorem Sys2Proof.Laws.Encoding.watch sd sa sb timeout : Statement (.watch sd sa sb timeout) := by
  intro e _ hw he
  cases he
  dsimp only [decOp, decS]
  try simp only [fld, bit, BitVec.toNat_ofNat, Nat.reducePow, Nat.reduceMod]
  try simp (disch := omega) only [ex_hi, ex_lo, gl_lo, gl_hi]
  try simp [withUnion, accept, noExt, hw]
theorem Sys2Proof.Laws.Encoding.ntreq : Statement .ntreq := by
  intro e _ hw he
  cases he
  dsimp only [decOp, decK]
  try simp only [fld, bit, BitVec.toNat_ofNat, Nat.reducePow, Nat.reduceMod]
  try simp (disch := omega) only [ex_hi, ex_lo, gl_lo, gl_hi]
  try simp [withUnion, accept, noExt, hw]
theorem Sys2Proof.Laws.Encoding.sctl aj off : Statement (.sctl aj off) := by
  intro e _ hw he
  cases he
  dsimp only [decOp, decK]
  try simp only [fld, bit, BitVec.toNat_ofNat, Nat.reducePow, Nat.reduceMod]
  try simp (disch := omega) only [ex_hi, ex_lo, gl_lo, gl_hi]
  try simp [withUnion, accept, noExt, hw]
theorem Sys2Proof.Laws.Encoding.sctlEnt k sa : Statement (.sctlEnt k sa) := by
  intro e _ hw he
  cases he
  dsimp only [decOp, decK]
  try simp only [fld, bit, BitVec.toNat_ofNat, Nat.reducePow, Nat.reduceMod]
  try simp (disch := omega) only [ex_hi, ex_lo, gl_lo, gl_hi]
  try simp [withUnion, accept, noExt, hw]
theorem Sys2Proof.Laws.Encoding.srtIota vd c : Statement (.srtIota vd c) := by
  intro e _ hw he
  cases he
  dsimp only [decOp, decK]
  try simp only [fld, bit, BitVec.toNat_ofNat, Nat.reducePow, Nat.reduceMod]
  try simp (disch := omega) only [ex_hi, ex_lo, gl_lo, gl_hi]
  try simp [withUnion, accept, noExt, hw]
theorem Sys2Proof.Laws.Encoding.srtCeA vk dist flip : Statement (.srtCeA vk dist flip) := by
  intro e _ hw he
  cases he
  dsimp only [decOp, decK]
  try simp only [fld, bit, BitVec.toNat_ofNat, Nat.reducePow, Nat.reduceMod]
  try simp (disch := omega) only [ex_hi, ex_lo, gl_lo, gl_hi]
  try simp [withUnion, accept, noExt, hw]
theorem Sys2Proof.Laws.Encoding.srtCeD vk dist flip : Statement (.srtCeD vk dist flip) := by
  intro e _ hw he
  cases he
  dsimp only [decOp, decK]
  try simp only [fld, bit, BitVec.toNat_ofNat, Nat.reducePow, Nat.reduceMod]
  try simp (disch := omega) only [ex_hi, ex_lo, gl_lo, gl_hi]
  try simp [withUnion, accept, noExt, hw]
theorem Sys2Proof.Laws.Encoding.srtTop va vb : Statement (.srtTop va vb) := by
  intro e _ hw he
  cases he
  dsimp only [decOp, decK]
  try simp only [fld, bit, BitVec.toNat_ofNat, Nat.reducePow, Nat.reduceMod]
  try simp (disch := omega) only [ex_hi, ex_lo, gl_lo, gl_hi]
  try simp [withUnion, accept, noExt, hw]
theorem Sys2Proof.Laws.Encoding.ptRd sd sa : Statement (.ptRd sd sa) := by
  intro e _ hw he
  cases he
  dsimp only [decOp, decK]
  try simp only [fld, bit, BitVec.toNat_ofNat, Nat.reducePow, Nat.reduceMod]
  try simp (disch := omega) only [ex_hi, ex_lo, gl_lo, gl_hi]
  try simp [withUnion, accept, noExt, hw]
theorem Sys2Proof.Laws.Encoding.ptWr sa sb : Statement (.ptWr sa sb) := by
  intro e _ hw he
  cases he
  dsimp only [decOp, decK]
  try simp only [fld, bit, BitVec.toNat_ofNat, Nat.reducePow, Nat.reduceMod]
  try simp (disch := omega) only [ex_hi, ex_lo, gl_lo, gl_hi]
  try simp [withUnion, accept, noExt, hw]
theorem Sys2Proof.Laws.Encoding.ptUpd sa pc : Statement (.ptUpd sa pc) := by
  intro e _ hw he
  cases he
  dsimp only [decOp, decK]
  try simp only [fld, bit, BitVec.toNat_ofNat, Nat.reducePow, Nat.reduceMod]
  try simp (disch := omega) only [ex_hi, ex_lo, gl_lo, gl_hi]
  try simp [withUnion, accept, noExt, hw]
theorem Sys2Proof.Laws.Encoding.ptClr sa sb : Statement (.ptClr sa sb) := by
  intro e _ hw he
  cases he
  dsimp only [decOp, decK]
  try simp only [fld, bit, BitVec.toNat_ofNat, Nat.reducePow, Nat.reduceMod]
  try simp (disch := omega) only [ex_hi, ex_lo, gl_lo, gl_hi]
  try simp [withUnion, accept, noExt, hw]
theorem Sys2Proof.Laws.Encoding.demand sd sa sb : Statement (.demand sd sa sb) := by
  intro e _ hw he
  cases he
  dsimp only [decOp, decK]
  try simp only [fld, bit, BitVec.toNat_ofNat, Nat.reducePow, Nat.reduceMod]
  try simp (disch := omega) only [ex_hi, ex_lo, gl_lo, gl_hi]
  try simp [withUnion, accept, noExt, hw]
theorem Sys2Proof.Laws.Encoding.redem sd sa sb : Statement (.redem sd sa sb) := by
  intro e _ hw he
  cases he
  dsimp only [decOp, decK]
  try simp only [fld, bit, BitVec.toNat_ofNat, Nat.reducePow, Nat.reduceMod]
  try simp (disch := omega) only [ex_hi, ex_lo, gl_lo, gl_hi]
  try simp [withUnion, accept, noExt, hw]
theorem Sys2Proof.Laws.Encoding.tolShare sd sa sb : Statement (.tolShare sd sa sb) := by
  intro e _ hw he
  cases he
  dsimp only [decOp, decK]
  try simp only [fld, bit, BitVec.toNat_ofNat, Nat.reducePow, Nat.reduceMod]
  try simp (disch := omega) only [ex_hi, ex_lo, gl_lo, gl_hi]
  try simp [withUnion, accept, noExt, hw]
theorem Sys2Proof.Laws.Encoding.tolMin sd sa cls : Statement (.tolMin sd sa cls) := by
  intro e _ hw he
  cases he
  dsimp only [decOp, decK]
  try simp only [fld, bit, BitVec.toNat_ofNat, Nat.reducePow, Nat.reduceMod]
  try simp (disch := omega) only [ex_hi, ex_lo, gl_lo, gl_hi]
  try simp [withUnion, accept, noExt, hw]
theorem Sys2Proof.Laws.Encoding.itrDef it sa : Statement (.itrDef it sa) := by
  intro e _ hw he
  cases he
  dsimp only [decOp, decK]
  try simp only [fld, bit, BitVec.toNat_ofNat, Nat.reducePow, Nat.reduceMod]
  try simp (disch := omega) only [ex_hi, ex_lo, gl_lo, gl_hi]
  try simp [withUnion, accept, noExt, hw]
theorem Sys2Proof.Laws.Encoding.itrFit sd it : Statement (.itrFit sd it) := by
  intro e _ hw he
  cases he
  dsimp only [decOp, decK]
  try simp only [fld, bit, BitVec.toNat_ofNat, Nat.reducePow, Nat.reduceMod]
  try simp (disch := omega) only [ex_hi, ex_lo, gl_lo, gl_hi]
  try simp [withUnion, accept, noExt, hw]
theorem Sys2Proof.Laws.Encoding.stGrade aj sa adj off : Statement (.stGrade aj sa adj off) := by
  intro e _ hw he
  cases he
  dsimp only [decOp, decK]
  try simp only [fld, bit, BitVec.toNat_ofNat, Nat.reducePow, Nat.reduceMod]
  try simp (disch := omega) only [ex_hi, ex_lo, gl_lo, gl_hi]
  try simp [withUnion, accept, noExt, hw]
theorem Sys2Proof.Laws.Encoding.ldB sd aj off : Statement (.ldB sd aj off) := by
  intro e _ hw he
  cases he
  dsimp only [decOp, decL]
  try simp only [fld, bit, BitVec.toNat_ofNat, Nat.reducePow, Nat.reduceMod]
  try simp (disch := omega) only [ex_hi, ex_lo, gl_lo, gl_hi]
  try simp [withUnion, accept, noExt, hw]
theorem Sys2Proof.Laws.Encoding.ldBu sd aj off : Statement (.ldBu sd aj off) := by
  intro e _ hw he
  cases he
  dsimp only [decOp, decL]
  try simp only [fld, bit, BitVec.toNat_ofNat, Nat.reducePow, Nat.reduceMod]
  try simp (disch := omega) only [ex_hi, ex_lo, gl_lo, gl_hi]
  try simp [withUnion, accept, noExt, hw]
theorem Sys2Proof.Laws.Encoding.ldH sd aj off : Statement (.ldH sd aj off) := by
  intro e _ hw he
  cases he
  dsimp only [decOp, decL]
  try simp only [fld, bit, BitVec.toNat_ofNat, Nat.reducePow, Nat.reduceMod]
  try simp (disch := omega) only [ex_hi, ex_lo, gl_lo, gl_hi]
  try simp [withUnion, accept, noExt, hw]
theorem Sys2Proof.Laws.Encoding.ldHu sd aj off : Statement (.ldHu sd aj off) := by
  intro e _ hw he
  cases he
  dsimp only [decOp, decL]
  try simp only [fld, bit, BitVec.toNat_ofNat, Nat.reducePow, Nat.reduceMod]
  try simp (disch := omega) only [ex_hi, ex_lo, gl_lo, gl_hi]
  try simp [withUnion, accept, noExt, hw]
theorem Sys2Proof.Laws.Encoding.ldW sd aj off : Statement (.ldW sd aj off) := by
  intro e _ hw he
  cases he
  dsimp only [decOp, decL]
  try simp only [fld, bit, BitVec.toNat_ofNat, Nat.reducePow, Nat.reduceMod]
  try simp (disch := omega) only [ex_hi, ex_lo, gl_lo, gl_hi]
  try simp [withUnion, accept, noExt, hw]
theorem Sys2Proof.Laws.Encoding.ldWu sd aj off : Statement (.ldWu sd aj off) := by
  intro e _ hw he
  cases he
  dsimp only [decOp, decL]
  try simp only [fld, bit, BitVec.toNat_ofNat, Nat.reducePow, Nat.reduceMod]
  try simp (disch := omega) only [ex_hi, ex_lo, gl_lo, gl_hi]
  try simp [withUnion, accept, noExt, hw]
theorem Sys2Proof.Laws.Encoding.ldD sd aj off : Statement (.ldD sd aj off) := by
  intro e _ hw he
  cases he
  dsimp only [decOp, decL]
  try simp only [fld, bit, BitVec.toNat_ofNat, Nat.reducePow, Nat.reduceMod]
  try simp (disch := omega) only [ex_hi, ex_lo, gl_lo, gl_hi]
  try simp [withUnion, accept, noExt, hw]
theorem Sys2Proof.Laws.Encoding.stB sd aj off : Statement (.stB sd aj off) := by
  intro e _ hw he
  cases he
  dsimp only [decOp, decL]
  try simp only [fld, bit, BitVec.toNat_ofNat, Nat.reducePow, Nat.reduceMod]
  try simp (disch := omega) only [ex_hi, ex_lo, gl_lo, gl_hi]
  try simp [withUnion, accept, noExt, hw]
theorem Sys2Proof.Laws.Encoding.stH sd aj off : Statement (.stH sd aj off) := by
  intro e _ hw he
  cases he
  dsimp only [decOp, decL]
  try simp only [fld, bit, BitVec.toNat_ofNat, Nat.reducePow, Nat.reduceMod]
  try simp (disch := omega) only [ex_hi, ex_lo, gl_lo, gl_hi]
  try simp [withUnion, accept, noExt, hw]
theorem Sys2Proof.Laws.Encoding.stW sd aj off : Statement (.stW sd aj off) := by
  intro e _ hw he
  cases he
  dsimp only [decOp, decL]
  try simp only [fld, bit, BitVec.toNat_ofNat, Nat.reducePow, Nat.reduceMod]
  try simp (disch := omega) only [ex_hi, ex_lo, gl_lo, gl_hi]
  try simp [withUnion, accept, noExt, hw]
theorem Sys2Proof.Laws.Encoding.stD sd aj off : Statement (.stD sd aj off) := by
  intro e _ hw he
  cases he
  dsimp only [decOp, decL]
  try simp only [fld, bit, BitVec.toNat_ofNat, Nat.reducePow, Nat.reduceMod]
  try simp (disch := omega) only [ex_hi, ex_lo, gl_lo, gl_hi]
  try simp [withUnion, accept, noExt, hw]
theorem Sys2Proof.Laws.Encoding.ldVF32 vd aj off : Statement (.ldVF32 vd aj off) := by
  intro e _ hw he
  cases he
  dsimp only [decOp, decL]
  try simp only [fld, bit, BitVec.toNat_ofNat, Nat.reducePow, Nat.reduceMod]
  try simp (disch := omega) only [ex_hi, ex_lo, gl_lo, gl_hi]
  try simp [withUnion, accept, noExt, hw]
theorem Sys2Proof.Laws.Encoding.ldVF16 vd aj off : Statement (.ldVF16 vd aj off) := by
  intro e _ hw he
  cases he
  dsimp only [decOp, decL]
  try simp only [fld, bit, BitVec.toNat_ofNat, Nat.reducePow, Nat.reduceMod]
  try simp (disch := omega) only [ex_hi, ex_lo, gl_lo, gl_hi]
  try simp [withUnion, accept, noExt, hw]
theorem Sys2Proof.Laws.Encoding.ldVBf16 vd aj off : Statement (.ldVBf16 vd aj off) := by
  intro e _ hw he
  cases he
  dsimp only [decOp, decL]
  try simp only [fld, bit, BitVec.toNat_ofNat, Nat.reducePow, Nat.reduceMod]
  try simp (disch := omega) only [ex_hi, ex_lo, gl_lo, gl_hi]
  try simp [withUnion, accept, noExt, hw]
theorem Sys2Proof.Laws.Encoding.ldVE4m3 vd aj off : Statement (.ldVE4m3 vd aj off) := by
  intro e _ hw he
  cases he
  dsimp only [decOp, decL]
  try simp only [fld, bit, BitVec.toNat_ofNat, Nat.reducePow, Nat.reduceMod]
  try simp (disch := omega) only [ex_hi, ex_lo, gl_lo, gl_hi]
  try simp [withUnion, accept, noExt, hw]
theorem Sys2Proof.Laws.Encoding.ldVE5m2 vd aj off : Statement (.ldVE5m2 vd aj off) := by
  intro e _ hw he
  cases he
  dsimp only [decOp, decL]
  try simp only [fld, bit, BitVec.toNat_ofNat, Nat.reducePow, Nat.reduceMod]
  try simp (disch := omega) only [ex_hi, ex_lo, gl_lo, gl_hi]
  try simp [withUnion, accept, noExt, hw]
theorem Sys2Proof.Laws.Encoding.ldVI8 vd aj off : Statement (.ldVI8 vd aj off) := by
  intro e _ hw he
  cases he
  dsimp only [decOp, decL]
  try simp only [fld, bit, BitVec.toNat_ofNat, Nat.reducePow, Nat.reduceMod]
  try simp (disch := omega) only [ex_hi, ex_lo, gl_lo, gl_hi]
  try simp [withUnion, accept, noExt, hw]
theorem Sys2Proof.Laws.Encoding.ldVI32 vd aj off : Statement (.ldVI32 vd aj off) := by
  intro e _ hw he
  cases he
  dsimp only [decOp, decL]
  try simp only [fld, bit, BitVec.toNat_ofNat, Nat.reducePow, Nat.reduceMod]
  try simp (disch := omega) only [ex_hi, ex_lo, gl_lo, gl_hi]
  try simp [withUnion, accept, noExt, hw]
theorem Sys2Proof.Laws.Encoding.ldVSx7 vd aj off : Statement (.ldVSx7 vd aj off) := by
  intro e _ hw he
  cases he
  dsimp only [decOp, decL]
  try simp only [fld, bit, BitVec.toNat_ofNat, Nat.reducePow, Nat.reduceMod]
  try simp (disch := omega) only [ex_hi, ex_lo, gl_lo, gl_hi]
  try simp [withUnion, accept, noExt, hw]
theorem Sys2Proof.Laws.Encoding.ldVSx4 vd aj off : Statement (.ldVSx4 vd aj off) := by
  intro e _ hw he
  cases he
  dsimp only [decOp, decL]
  try simp only [fld, bit, BitVec.toNat_ofNat, Nat.reducePow, Nat.reduceMod]
  try simp (disch := omega) only [ex_hi, ex_lo, gl_lo, gl_hi]
  try simp [withUnion, accept, noExt, hw]
theorem Sys2Proof.Laws.Encoding.ldVSx2 vd aj off : Statement (.ldVSx2 vd aj off) := by
  intro e _ hw he
  cases he
  dsimp only [decOp, decL]
  try simp only [fld, bit, BitVec.toNat_ofNat, Nat.reducePow, Nat.reduceMod]
  try simp (disch := omega) only [ex_hi, ex_lo, gl_lo, gl_hi]
  try simp [withUnion, accept, noExt, hw]
theorem Sys2Proof.Laws.Encoding.ldVAq8 vd aj off : Statement (.ldVAq8 vd aj off) := by
  intro e _ hw he
  cases he
  dsimp only [decOp, decL]
  try simp only [fld, bit, BitVec.toNat_ofNat, Nat.reducePow, Nat.reduceMod]
  try simp (disch := omega) only [ex_hi, ex_lo, gl_lo, gl_hi]
  try simp [withUnion, accept, noExt, hw]
theorem Sys2Proof.Laws.Encoding.ldVBcast vd aj t off : Statement (.ldVBcast vd aj t off) := by
  intro e _ hw he
  cases he
  dsimp only [decOp, decL]
  try simp only [fld, bit, BitVec.toNat_ofNat, Nat.reducePow, Nat.reduceMod]
  try simp (disch := omega) only [ex_hi, ex_lo, gl_lo, gl_hi]
  try simp [withUnion, accept, noExt, hw]
theorem Sys2Proof.Laws.Encoding.ldVx vd aj vi i32 mk disp : Statement (.ldVx vd aj vi i32 mk disp) := by
  intro e _ hw he
  cases he
  dsimp only [decOp, decL]
  try simp only [fld, bit, BitVec.toNat_ofNat, Nat.reducePow, Nat.reduceMod]
  try simp (disch := omega) only [ex_hi, ex_lo, gl_lo, gl_hi]
  try simp [withUnion, accept, noExt, hw]
theorem Sys2Proof.Laws.Encoding.stVx vs aj vi mk disp : Statement (.stVx vs aj vi mk disp) := by
  intro e _ hw he
  cases he
  dsimp only [decOp, decL]
  try simp only [fld, bit, BitVec.toNat_ofNat, Nat.reducePow, Nat.reduceMod]
  try simp (disch := omega) only [ex_hi, ex_lo, gl_lo, gl_hi]
  try simp [withUnion, accept, noExt, hw]
theorem Sys2Proof.Laws.Encoding.stV vs aj mk off : Statement (.stV vs aj mk off) := by
  intro e _ hw he
  cases he
  dsimp only [decOp, decL]
  try simp only [fld, bit, BitVec.toNat_ofNat, Nat.reducePow, Nat.reduceMod]
  try simp (disch := omega) only [ex_hi, ex_lo, gl_lo, gl_hi]
  try simp [withUnion, accept, noExt, hw]
theorem Sys2Proof.Laws.Encoding.stVCmp vs aj mk off : Statement (.stVCmp vs aj mk off) := by
  intro e _ hw he
  cases he
  dsimp only [decOp, decL]
  try simp only [fld, bit, BitVec.toNat_ofNat, Nat.reducePow, Nat.reduceMod]
  try simp (disch := omega) only [ex_hi, ex_lo, gl_lo, gl_hi]
  try simp [withUnion, accept, noExt, hw]
theorem Sys2Proof.Laws.Encoding.ldM mk aj off : Statement (.ldM mk aj off) := by
  intro e _ hw he
  cases he
  dsimp only [decOp, decL]
  try simp only [fld, bit, BitVec.toNat_ofNat, Nat.reducePow, Nat.reduceMod]
  try simp (disch := omega) only [ex_hi, ex_lo, gl_lo, gl_hi]
  try simp [withUnion, accept, noExt, hw]
theorem Sys2Proof.Laws.Encoding.stM mk aj off : Statement (.stM mk aj off) := by
  intro e _ hw he
  cases he
  dsimp only [decOp, decL]
  try simp only [fld, bit, BitVec.toNat_ofNat, Nat.reducePow, Nat.reduceMod]
  try simp (disch := omega) only [ex_hi, ex_lo, gl_lo, gl_hi]
  try simp [withUnion, accept, noExt, hw]
theorem Sys2Proof.Laws.Encoding.vaddF32 ops : Statement (.vaddF32 ops) := by
  intro e _ hw he
  cases he
  dsimp only [decOp, decV]
  try simp only [fld, bit, BitVec.toNat_ofNat, Nat.reducePow, Nat.reduceMod]
  try simp (disch := omega) only [ex_hi, ex_lo, gl_lo, gl_hi]
  try simp [withUnion, accept, noExt, hw]
theorem Sys2Proof.Laws.Encoding.vsubF32 ops : Statement (.vsubF32 ops) := by
  intro e _ hw he
  cases he
  dsimp only [decOp, decV]
  try simp only [fld, bit, BitVec.toNat_ofNat, Nat.reducePow, Nat.reduceMod]
  try simp (disch := omega) only [ex_hi, ex_lo, gl_lo, gl_hi]
  try simp [withUnion, accept, noExt, hw]
theorem Sys2Proof.Laws.Encoding.vmulF32 ops : Statement (.vmulF32 ops) := by
  intro e _ hw he
  cases he
  dsimp only [decOp, decV]
  try simp only [fld, bit, BitVec.toNat_ofNat, Nat.reducePow, Nat.reduceMod]
  try simp (disch := omega) only [ex_hi, ex_lo, gl_lo, gl_hi]
  try simp [withUnion, accept, noExt, hw]
theorem Sys2Proof.Laws.Encoding.vfmaF32 ops : Statement (.vfmaF32 ops) := by
  intro e _ hw he
  cases he
  dsimp only [decOp, decV]
  try simp only [fld, bit, BitVec.toNat_ofNat, Nat.reducePow, Nat.reduceMod]
  try simp (disch := omega) only [ex_hi, ex_lo, gl_lo, gl_hi]
  try simp [withUnion, accept, noExt, hw]
theorem Sys2Proof.Laws.Encoding.vminF32 ops : Statement (.vminF32 ops) := by
  intro e _ hw he
  cases he
  dsimp only [decOp, decV]
  try simp only [fld, bit, BitVec.toNat_ofNat, Nat.reducePow, Nat.reduceMod]
  try simp (disch := omega) only [ex_hi, ex_lo, gl_lo, gl_hi]
  try simp [withUnion, accept, noExt, hw]
theorem Sys2Proof.Laws.Encoding.vmaxF32 ops : Statement (.vmaxF32 ops) := by
  intro e _ hw he
  cases he
  dsimp only [decOp, decV]
  try simp only [fld, bit, BitVec.toNat_ofNat, Nat.reducePow, Nat.reduceMod]
  try simp (disch := omega) only [ex_hi, ex_lo, gl_lo, gl_hi]
  try simp [withUnion, accept, noExt, hw]
theorem Sys2Proof.Laws.Encoding.vabsF32 ops : Statement (.vabsF32 ops) := by
  intro e _ hw he
  cases he
  dsimp only [decOp, decV]
  try simp only [fld, bit, BitVec.toNat_ofNat, Nat.reducePow, Nat.reduceMod]
  try simp (disch := omega) only [ex_hi, ex_lo, gl_lo, gl_hi]
  try simp [withUnion, accept, noExt, hw]
theorem Sys2Proof.Laws.Encoding.vnegF32 ops : Statement (.vnegF32 ops) := by
  intro e _ hw he
  cases he
  dsimp only [decOp, decV]
  try simp only [fld, bit, BitVec.toNat_ofNat, Nat.reducePow, Nat.reduceMod]
  try simp (disch := omega) only [ex_hi, ex_lo, gl_lo, gl_hi]
  try simp [withUnion, accept, noExt, hw]
theorem Sys2Proof.Laws.Encoding.vaddBf16 ops : Statement (.vaddBf16 ops) := by
  intro e _ hw he
  cases he
  dsimp only [decOp, decV]
  try simp only [fld, bit, BitVec.toNat_ofNat, Nat.reducePow, Nat.reduceMod]
  try simp (disch := omega) only [ex_hi, ex_lo, gl_lo, gl_hi]
  try simp [withUnion, accept, noExt, hw]
theorem Sys2Proof.Laws.Encoding.vsubBf16 ops : Statement (.vsubBf16 ops) := by
  intro e _ hw he
  cases he
  dsimp only [decOp, decV]
  try simp only [fld, bit, BitVec.toNat_ofNat, Nat.reducePow, Nat.reduceMod]
  try simp (disch := omega) only [ex_hi, ex_lo, gl_lo, gl_hi]
  try simp [withUnion, accept, noExt, hw]
theorem Sys2Proof.Laws.Encoding.vmulBf16 ops : Statement (.vmulBf16 ops) := by
  intro e _ hw he
  cases he
  dsimp only [decOp, decV]
  try simp only [fld, bit, BitVec.toNat_ofNat, Nat.reducePow, Nat.reduceMod]
  try simp (disch := omega) only [ex_hi, ex_lo, gl_lo, gl_hi]
  try simp [withUnion, accept, noExt, hw]
theorem Sys2Proof.Laws.Encoding.vfmaBf16 ops : Statement (.vfmaBf16 ops) := by
  intro e _ hw he
  cases he
  dsimp only [decOp, decV]
  try simp only [fld, bit, BitVec.toNat_ofNat, Nat.reducePow, Nat.reduceMod]
  try simp (disch := omega) only [ex_hi, ex_lo, gl_lo, gl_hi]
  try simp [withUnion, accept, noExt, hw]
theorem Sys2Proof.Laws.Encoding.vminBf16 ops : Statement (.vminBf16 ops) := by
  intro e _ hw he
  cases he
  dsimp only [decOp, decV]
  try simp only [fld, bit, BitVec.toNat_ofNat, Nat.reducePow, Nat.reduceMod]
  try simp (disch := omega) only [ex_hi, ex_lo, gl_lo, gl_hi]
  try simp [withUnion, accept, noExt, hw]
theorem Sys2Proof.Laws.Encoding.vmaxBf16 ops : Statement (.vmaxBf16 ops) := by
  intro e _ hw he
  cases he
  dsimp only [decOp, decV]
  try simp only [fld, bit, BitVec.toNat_ofNat, Nat.reducePow, Nat.reduceMod]
  try simp (disch := omega) only [ex_hi, ex_lo, gl_lo, gl_hi]
  try simp [withUnion, accept, noExt, hw]
theorem Sys2Proof.Laws.Encoding.vabsBf16 ops : Statement (.vabsBf16 ops) := by
  intro e _ hw he
  cases he
  dsimp only [decOp, decV]
  try simp only [fld, bit, BitVec.toNat_ofNat, Nat.reducePow, Nat.reduceMod]
  try simp (disch := omega) only [ex_hi, ex_lo, gl_lo, gl_hi]
  try simp [withUnion, accept, noExt, hw]
theorem Sys2Proof.Laws.Encoding.vnegBf16 ops : Statement (.vnegBf16 ops) := by
  intro e _ hw he
  cases he
  dsimp only [decOp, decV]
  try simp only [fld, bit, BitVec.toNat_ofNat, Nat.reducePow, Nat.reduceMod]
  try simp (disch := omega) only [ex_hi, ex_lo, gl_lo, gl_hi]
  try simp [withUnion, accept, noExt, hw]
theorem Sys2Proof.Laws.Encoding.vaddI32 ops : Statement (.vaddI32 ops) := by
  intro e _ hw he
  cases he
  dsimp only [decOp, decV]
  try simp only [fld, bit, BitVec.toNat_ofNat, Nat.reducePow, Nat.reduceMod]
  try simp (disch := omega) only [ex_hi, ex_lo, gl_lo, gl_hi]
  try simp [withUnion, accept, noExt, hw]
theorem Sys2Proof.Laws.Encoding.vsubI32 ops : Statement (.vsubI32 ops) := by
  intro e _ hw he
  cases he
  dsimp only [decOp, decV]
  try simp only [fld, bit, BitVec.toNat_ofNat, Nat.reducePow, Nat.reduceMod]
  try simp (disch := omega) only [ex_hi, ex_lo, gl_lo, gl_hi]
  try simp [withUnion, accept, noExt, hw]
theorem Sys2Proof.Laws.Encoding.vmulI32 ops : Statement (.vmulI32 ops) := by
  intro e _ hw he
  cases he
  dsimp only [decOp, decV]
  try simp only [fld, bit, BitVec.toNat_ofNat, Nat.reducePow, Nat.reduceMod]
  try simp (disch := omega) only [ex_hi, ex_lo, gl_lo, gl_hi]
  try simp [withUnion, accept, noExt, hw]
theorem Sys2Proof.Laws.Encoding.vminI32 ops : Statement (.vminI32 ops) := by
  intro e _ hw he
  cases he
  dsimp only [decOp, decV]
  try simp only [fld, bit, BitVec.toNat_ofNat, Nat.reducePow, Nat.reduceMod]
  try simp (disch := omega) only [ex_hi, ex_lo, gl_lo, gl_hi]
  try simp [withUnion, accept, noExt, hw]
theorem Sys2Proof.Laws.Encoding.vmaxI32 ops : Statement (.vmaxI32 ops) := by
  intro e _ hw he
  cases he
  dsimp only [decOp, decV]
  try simp only [fld, bit, BitVec.toNat_ofNat, Nat.reducePow, Nat.reduceMod]
  try simp (disch := omega) only [ex_hi, ex_lo, gl_lo, gl_hi]
  try simp [withUnion, accept, noExt, hw]
theorem Sys2Proof.Laws.Encoding.vand ops : Statement (.vand ops) := by
  intro e _ hw he
  cases he
  dsimp only [decOp, decV]
  try simp only [fld, bit, BitVec.toNat_ofNat, Nat.reducePow, Nat.reduceMod]
  try simp (disch := omega) only [ex_hi, ex_lo, gl_lo, gl_hi]
  try simp [withUnion, accept, noExt, hw]
theorem Sys2Proof.Laws.Encoding.vor ops : Statement (.vor ops) := by
  intro e _ hw he
  cases he
  dsimp only [decOp, decV]
  try simp only [fld, bit, BitVec.toNat_ofNat, Nat.reducePow, Nat.reduceMod]
  try simp (disch := omega) only [ex_hi, ex_lo, gl_lo, gl_hi]
  try simp [withUnion, accept, noExt, hw]
theorem Sys2Proof.Laws.Encoding.vxor ops : Statement (.vxor ops) := by
  intro e _ hw he
  cases he
  dsimp only [decOp, decV]
  try simp only [fld, bit, BitVec.toNat_ofNat, Nat.reducePow, Nat.reduceMod]
  try simp (disch := omega) only [ex_hi, ex_lo, gl_lo, gl_hi]
  try simp [withUnion, accept, noExt, hw]
theorem Sys2Proof.Laws.Encoding.vshl ops : Statement (.vshl ops) := by
  intro e _ hw he
  cases he
  dsimp only [decOp, decV]
  try simp only [fld, bit, BitVec.toNat_ofNat, Nat.reducePow, Nat.reduceMod]
  try simp (disch := omega) only [ex_hi, ex_lo, gl_lo, gl_hi]
  try simp [withUnion, accept, noExt, hw]
theorem Sys2Proof.Laws.Encoding.vshr ops : Statement (.vshr ops) := by
  intro e _ hw he
  cases he
  dsimp only [decOp, decV]
  try simp only [fld, bit, BitVec.toNat_ofNat, Nat.reducePow, Nat.reduceMod]
  try simp (disch := omega) only [ex_hi, ex_lo, gl_lo, gl_hi]
  try simp [withUnion, accept, noExt, hw]
theorem Sys2Proof.Laws.Encoding.vsar ops : Statement (.vsar ops) := by
  intro e _ hw he
  cases he
  dsimp only [decOp, decV]
  try simp only [fld, bit, BitVec.toNat_ofNat, Nat.reducePow, Nat.reduceMod]
  try simp (disch := omega) only [ex_hi, ex_lo, gl_lo, gl_hi]
  try simp [withUnion, accept, noExt, hw]
theorem Sys2Proof.Laws.Encoding.vcmpF32 cond md va vb : Statement (.vcmpF32 cond md va vb) := by
  intro e _ hw he
  cases he
  dsimp only [decOp, decV]
  try simp only [fld, bit, BitVec.toNat_ofNat, Nat.reducePow, Nat.reduceMod]
  try simp (disch := omega) only [ex_hi, ex_lo, gl_lo, gl_hi]
  try simp [withUnion, accept, noExt, hw]
theorem Sys2Proof.Laws.Encoding.vcmpBf16 cond md va vb : Statement (.vcmpBf16 cond md va vb) := by
  intro e _ hw he
  cases he
  dsimp only [decOp, decV]
  try simp only [fld, bit, BitVec.toNat_ofNat, Nat.reducePow, Nat.reduceMod]
  try simp (disch := omega) only [ex_hi, ex_lo, gl_lo, gl_hi]
  try simp [withUnion, accept, noExt, hw]
theorem Sys2Proof.Laws.Encoding.vcmpI32 cond md va vb : Statement (.vcmpI32 cond md va vb) := by
  intro e _ hw he
  cases he
  dsimp only [decOp, decV]
  try simp only [fld, bit, BitVec.toNat_ofNat, Nat.reducePow, Nat.reduceMod]
  try simp (disch := omega) only [ex_hi, ex_lo, gl_lo, gl_hi]
  try simp [withUnion, accept, noExt, hw]
theorem Sys2Proof.Laws.Encoding.vrcpF32 ops : Statement (.vrcpF32 ops) := by
  intro e _ hw he
  cases he
  dsimp only [decOp, decV]
  try simp only [fld, bit, BitVec.toNat_ofNat, Nat.reducePow, Nat.reduceMod]
  try simp (disch := omega) only [ex_hi, ex_lo, gl_lo, gl_hi]
  try simp [withUnion, accept, noExt, hw]
theorem Sys2Proof.Laws.Encoding.vrsqrtF32 ops : Statement (.vrsqrtF32 ops) := by
  intro e _ hw he
  cases he
  dsimp only [decOp, decV]
  try simp only [fld, bit, BitVec.toNat_ofNat, Nat.reducePow, Nat.reduceMod]
  try simp (disch := omega) only [ex_hi, ex_lo, gl_lo, gl_hi]
  try simp [withUnion, accept, noExt, hw]
theorem Sys2Proof.Laws.Encoding.vexp2F32 ops : Statement (.vexp2F32 ops) := by
  intro e _ hw he
  cases he
  dsimp only [decOp, decV]
  try simp only [fld, bit, BitVec.toNat_ofNat, Nat.reducePow, Nat.reduceMod]
  try simp (disch := omega) only [ex_hi, ex_lo, gl_lo, gl_hi]
  try simp [withUnion, accept, noExt, hw]
theorem Sys2Proof.Laws.Encoding.vlog2F32 ops : Statement (.vlog2F32 ops) := by
  intro e _ hw he
  cases he
  dsimp only [decOp, decV]
  try simp only [fld, bit, BitVec.toNat_ofNat, Nat.reducePow, Nat.reduceMod]
  try simp (disch := omega) only [ex_hi, ex_lo, gl_lo, gl_hi]
  try simp [withUnion, accept, noExt, hw]
theorem Sys2Proof.Laws.Encoding.vredAddF32 sd va mk : Statement (.vredAddF32 sd va mk) := by
  intro e _ hw he
  cases he
  dsimp only [decOp, decV]
  try simp only [fld, bit, BitVec.toNat_ofNat, Nat.reducePow, Nat.reduceMod]
  try simp (disch := omega) only [ex_hi, ex_lo, gl_lo, gl_hi]
  try simp [withUnion, accept, noExt, hw]
theorem Sys2Proof.Laws.Encoding.vredMaxF32 sd va mk : Statement (.vredMaxF32 sd va mk) := by
  intro e _ hw he
  cases he
  dsimp only [decOp, decV]
  try simp only [fld, bit, BitVec.toNat_ofNat, Nat.reducePow, Nat.reduceMod]
  try simp (disch := omega) only [ex_hi, ex_lo, gl_lo, gl_hi]
  try simp [withUnion, accept, noExt, hw]
theorem Sys2Proof.Laws.Encoding.vredAddI32 sd va mk : Statement (.vredAddI32 sd va mk) := by
  intro e _ hw he
  cases he
  dsimp only [decOp, decV]
  try simp only [fld, bit, BitVec.toNat_ofNat, Nat.reducePow, Nat.reduceMod]
  try simp (disch := omega) only [ex_hi, ex_lo, gl_lo, gl_hi]
  try simp [withUnion, accept, noExt, hw]
theorem Sys2Proof.Laws.Encoding.vperm vd va vi : Statement (.vperm vd va vi) := by
  intro e _ hw he
  cases he
  dsimp only [decOp, decV]
  try simp only [fld, bit, BitVec.toNat_ofNat, Nat.reducePow, Nat.reduceMod]
  try simp (disch := omega) only [ex_hi, ex_lo, gl_lo, gl_hi]
  try simp [withUnion, accept, noExt, hw]
theorem Sys2Proof.Laws.Encoding.vbcast vd va n : Statement (.vbcast vd va n) := by
  intro e _ hw he
  cases he
  dsimp only [decOp, decV]
  try simp only [fld, bit, BitVec.toNat_ofNat, Nat.reducePow, Nat.reduceMod]
  try simp (disch := omega) only [ex_hi, ex_lo, gl_lo, gl_hi]
  try simp [withUnion, accept, noExt, hw]
theorem Sys2Proof.Laws.Encoding.vrot vd va n : Statement (.vrot vd va n) := by
  intro e _ hw he
  cases he
  dsimp only [decOp, decV]
  try simp only [fld, bit, BitVec.toNat_ofNat, Nat.reducePow, Nat.reduceMod]
  try simp (disch := omega) only [ex_hi, ex_lo, gl_lo, gl_hi]
  try simp [withUnion, accept, noExt, hw]
theorem Sys2Proof.Laws.Encoding.vsel vd va vb mk : Statement (.vsel vd va vb mk) := by
  intro e _ hw he
  cases he
  dsimp only [decOp, decV]
  try simp only [fld, bit, BitVec.toNat_ofNat, Nat.reducePow, Nat.reduceMod]
  try simp (disch := omega) only [ex_hi, ex_lo, gl_lo, gl_hi]
  try simp [withUnion, accept, noExt, hw]
theorem Sys2Proof.Laws.Encoding.mand md ma mb : Statement (.mand md ma mb) := by
  intro e _ hw he
  cases he
  dsimp only [decOp, decV]
  try simp only [fld, bit, BitVec.toNat_ofNat, Nat.reducePow, Nat.reduceMod]
  try simp (disch := omega) only [ex_hi, ex_lo, gl_lo, gl_hi]
  try simp [withUnion, accept, noExt, hw]
theorem Sys2Proof.Laws.Encoding.mor md ma mb : Statement (.mor md ma mb) := by
  intro e _ hw he
  cases he
  dsimp only [decOp, decV]
  try simp only [fld, bit, BitVec.toNat_ofNat, Nat.reducePow, Nat.reduceMod]
  try simp (disch := omega) only [ex_hi, ex_lo, gl_lo, gl_hi]
  try simp [withUnion, accept, noExt, hw]
theorem Sys2Proof.Laws.Encoding.mxor md ma mb : Statement (.mxor md ma mb) := by
  intro e _ hw he
  cases he
  dsimp only [decOp, decV]
  try simp only [fld, bit, BitVec.toNat_ofNat, Nat.reducePow, Nat.reduceMod]
  try simp (disch := omega) only [ex_hi, ex_lo, gl_lo, gl_hi]
  try simp [withUnion, accept, noExt, hw]
theorem Sys2Proof.Laws.Encoding.mandn md ma mb : Statement (.mandn md ma mb) := by
  intro e _ hw he
  cases he
  dsimp only [decOp, decV]
  try simp only [fld, bit, BitVec.toNat_ofNat, Nat.reducePow, Nat.reduceMod]
  try simp (disch := omega) only [ex_hi, ex_lo, gl_lo, gl_hi]
  try simp [withUnion, accept, noExt, hw]
theorem Sys2Proof.Laws.Encoding.mpop sd ma : Statement (.mpop sd ma) := by
  intro e _ hw he
  cases he
  dsimp only [decOp, decV]
  try simp only [fld, bit, BitVec.toNat_ofNat, Nat.reducePow, Nat.reduceMod]
  try simp (disch := omega) only [ex_hi, ex_lo, gl_lo, gl_hi]
  try simp [withUnion, accept, noExt, hw]
theorem Sys2Proof.Laws.Encoding.vsplatF32 vd src : Statement (.vsplatF32 vd src) := by
  intro e _ hw he
  cases he
  dsimp only [decOp, decV]
  try simp only [fld, bit, BitVec.toNat_ofNat, Nat.reducePow, Nat.reduceMod]
  try simp (disch := omega) only [ex_hi, ex_lo, gl_lo, gl_hi]
  try simp [withUnion, accept, noExt, hw]
theorem Sys2Proof.Laws.Encoding.vsplatI32 vd src : Statement (.vsplatI32 vd src) := by
  intro e _ hw he
  cases he
  dsimp only [decOp, decV]
  try simp only [fld, bit, BitVec.toNat_ofNat, Nat.reducePow, Nat.reduceMod]
  try simp (disch := omega) only [ex_hi, ex_lo, gl_lo, gl_hi]
  try simp [withUnion, accept, noExt, hw]
theorem Sys2Proof.Laws.Encoding.vmov vd va mk : Statement (.vmov vd va mk) := by
  intro e _ hw he
  cases he
  dsimp only [decOp, decV]
  try simp only [fld, bit, BitVec.toNat_ofNat, Nat.reducePow, Nat.reduceMod]
  try simp (disch := omega) only [ex_hi, ex_lo, gl_lo, gl_hi]
  try simp [withUnion, accept, noExt, hw]
theorem Sys2Proof.Laws.Encoding.cvt vd va t part : Statement (.cvt vd va t part) := by
  intro e _ hw he
  cases he
  dsimp only [decOp, decV]
  try simp only [fld, bit, BitVec.toNat_ofNat, Nat.reducePow, Nat.reduceMod]
  try simp (disch := omega) only [ex_hi, ex_lo, gl_lo, gl_hi]
  try simp [withUnion, accept, noExt, hw]
theorem Sys2Proof.Laws.Encoding.cvtFit vd va cls k : Statement (.cvtFit vd va cls k) := by
  intro e _ hw he
  cases he
  dsimp only [decOp, decV]
  try simp only [fld, bit, BitVec.toNat_ofNat, Nat.reducePow, Nat.reduceMod]
  try simp (disch := omega) only [ex_hi, ex_lo, gl_lo, gl_hi]
  try simp [withUnion, accept, noExt, hw]
theorem Sys2Proof.Laws.Encoding.cvtSx vd va fmt k : Statement (.cvtSx vd va fmt k) := by
  intro e _ hw he
  cases he
  dsimp only [decOp, decV]
  try simp only [fld, bit, BitVec.toNat_ofNat, Nat.reducePow, Nat.reduceMod]
  try simp (disch := omega) only [ex_hi, ex_lo, gl_lo, gl_hi]
  try simp [withUnion, accept, noExt, hw]
theorem Sys2Proof.Laws.Encoding.cvtAq8 vd va : Statement (.cvtAq8 vd va) := by
  intro e _ hw he
  cases he
  dsimp only [decOp, decV]
  try simp only [fld, bit, BitVec.toNat_ofNat, Nat.reducePow, Nat.reduceMod]
  try simp (disch := omega) only [ex_hi, ex_lo, gl_lo, gl_hi]
  try simp [withUnion, accept, noExt, hw]
theorem Sys2Proof.Laws.Encoding.mxPermit sd lvl : Statement (.mxPermit sd lvl) := by
  intro e _ hw he
  cases he
  dsimp only [decOp, decX]
  try simp only [fld, bit, BitVec.toNat_ofNat, Nat.reducePow, Nat.reduceMod]
  try simp (disch := omega) only [ex_hi, ex_lo, gl_lo, gl_hi]
  try simp [withUnion, accept, noExt, hw]
theorem Sys2Proof.Laws.Encoding.mxRel : Statement .mxRel := by
  intro e _ hw he
  cases he
  dsimp only [decOp, decX]
  try simp only [fld, bit, BitVec.toNat_ofNat, Nat.reducePow, Nat.reduceMod]
  try simp (disch := omega) only [ex_hi, ex_lo, gl_lo, gl_hi]
  try simp [withUnion, accept, noExt, hw]
theorem Sys2Proof.Laws.Encoding.mxCfg src : Statement (.mxCfg src) := by
  intro e _ hw he
  cases he
  dsimp only [decOp, decX]
  try simp only [fld, bit, BitVec.toNat_ofNat, Nat.reducePow, Nat.reduceMod]
  try simp (disch := omega) only [ex_hi, ex_lo, gl_lo, gl_hi]
  try simp [withUnion, accept, noExt, hw]
theorem Sys2Proof.Laws.Encoding.mxLd wd aj fmt disp : Statement (.mxLd wd aj fmt disp) := by
  intro e _ hw he
  cases he
  dsimp only [decOp, decX]
  try simp only [fld, bit, BitVec.toNat_ofNat, Nat.reducePow, Nat.reduceMod]
  try simp (disch := omega) only [ex_hi, ex_lo, gl_lo, gl_hi]
  try simp [withUnion, accept, noExt, hw]
theorem Sys2Proof.Laws.Encoding.mxLdT wd aj fmt disp : Statement (.mxLdT wd aj fmt disp) := by
  intro e _ hw he
  cases he
  dsimp only [decOp, decX]
  try simp only [fld, bit, BitVec.toNat_ofNat, Nat.reducePow, Nat.reduceMod]
  try simp (disch := omega) only [ex_hi, ex_lo, gl_lo, gl_hi]
  try simp [withUnion, accept, noExt, hw]
theorem Sys2Proof.Laws.Encoding.mxLdr wd aj fmt kx t disp : Statement (.mxLdr wd aj fmt kx t disp) := by
  intro e _ hw he
  cases he
  dsimp only [decOp, decX]
  try simp only [fld, bit, BitVec.toNat_ofNat, Nat.reducePow, Nat.reduceMod]
  try simp (disch := omega) only [ex_hi, ex_lo, gl_lo, gl_hi]
  try simp [withUnion, accept, noExt, hw]
theorem Sys2Proof.Laws.Encoding.mxWsel wd ws t : Statement (.mxWsel wd ws t) := by
  intro e _ hw he
  cases he
  dsimp only [decOp, decX]
  try simp only [fld, bit, BitVec.toNat_ofNat, Nat.reducePow, Nat.reduceMod]
  try simp (disch := omega) only [ex_hi, ex_lo, gl_lo, gl_hi]
  try simp [withUnion, accept, noExt, hw]
theorem Sys2Proof.Laws.Encoding.mxCsum ws : Statement (.mxCsum ws) := by
  intro e _ hw he
  cases he
  dsimp only [decOp, decX]
  try simp only [fld, bit, BitVec.toNat_ofNat, Nat.reducePow, Nat.reduceMod]
  try simp (disch := omega) only [ex_hi, ex_lo, gl_lo, gl_hi]
  try simp [withUnion, accept, noExt, hw]
theorem Sys2Proof.Laws.Encoding.mxRun acc w op st : Statement (.mxRun acc w op st) := by
  intro e _ hw he
  cases he
  dsimp only [decOp, decX]
  try simp only [fld, bit, BitVec.toNat_ofNat, Nat.reducePow, Nat.reduceMod]
  try simp (disch := omega) only [ex_hi, ex_lo, gl_lo, gl_hi]
  try simp [withUnion, accept, noExt, hw]
theorem Sys2Proof.Laws.Encoding.mxRunSet acc w op st : Statement (.mxRunSet acc w op st) := by
  intro e _ hw he
  cases he
  dsimp only [decOp, decX]
  try simp only [fld, bit, BitVec.toNat_ofNat, Nat.reducePow, Nat.reduceMod]
  try simp (disch := omega) only [ex_hi, ex_lo, gl_lo, gl_hi]
  try simp [withUnion, accept, noExt, hw]
theorem Sys2Proof.Laws.Encoding.mxClr acc ninf : Statement (.mxClr acc ninf) := by
  intro e _ hw he
  cases he
  dsimp only [decOp, decX]
  try simp only [fld, bit, BitVec.toNat_ofNat, Nat.reducePow, Nat.reduceMod]
  try simp (disch := omega) only [ex_hi, ex_lo, gl_lo, gl_hi]
  try simp [withUnion, accept, noExt, hw]
theorem Sys2Proof.Laws.Encoding.mxDrain st acc cvt strm rows : Statement (.mxDrain st acc cvt strm rows) := by
  intro e _ hw he
  cases he
  dsimp only [decOp, decX]
  try simp only [fld, bit, BitVec.toNat_ofNat, Nat.reducePow, Nat.reduceMod]
  try simp (disch := omega) only [ex_hi, ex_lo, gl_lo, gl_hi]
  try simp [withUnion, accept, noExt, hw]
theorem Sys2Proof.Laws.Encoding.fdA aj fk fmt : Statement (.fdA aj fk fmt) := by
  intro e _ hw he
  cases he
  dsimp only [decOp, decF]
  try simp only [fld, bit, BitVec.toNat_ofNat, Nat.reducePow, Nat.reduceMod]
  try simp (disch := omega) only [ex_hi, ex_lo, gl_lo, gl_hi]
  try simp [withUnion, accept, noExt, hw]
theorem Sys2Proof.Laws.Encoding.fdAMc aj fk fmt kx members : Statement (.fdAMc aj fk fmt kx members) := by
  intro e _ hw he
  cases he
  dsimp only [decOp, decF]
  try simp only [fld, bit, BitVec.toNat_ofNat, Nat.reducePow, Nat.reduceMod]
  try simp (disch := omega) only [ex_hi, ex_lo, gl_lo, gl_hi]
  try simp [withUnion, accept, noExt, hw]
theorem Sys2Proof.Laws.Encoding.fdAr aj fk fmt kx : Statement (.fdAr aj fk fmt kx) := by
  intro e _ hw he
  cases he
  dsimp only [decOp, decF]
  try simp only [fld, bit, BitVec.toNat_ofNat, Nat.reducePow, Nat.reduceMod]
  try simp (disch := omega) only [ex_hi, ex_lo, gl_lo, gl_hi]
  try simp [withUnion, accept, noExt, hw]
theorem Sys2Proof.Laws.Encoding.fdZ : Statement .fdZ := by
  intro e _ hw he
  cases he
  dsimp only [decOp, decF]
  try simp only [fld, bit, BitVec.toNat_ofNat, Nat.reducePow, Nat.reduceMod]
  try simp (disch := omega) only [ex_hi, ex_lo, gl_lo, gl_hi]
  try simp [withUnion, accept, noExt, hw]
theorem Sys2Proof.Laws.Encoding.fdWin aj ak fk fmt wl : Statement (.fdWin aj ak fk fmt wl) := by
  intro e _ hw he
  cases he
  dsimp only [decOp, decF]
  try simp only [fld, bit, BitVec.toNat_ofNat, Nat.reducePow, Nat.reduceMod]
  try simp (disch := omega) only [ex_hi, ex_lo, gl_lo, gl_hi]
  try simp [withUnion, accept, noExt, hw]
theorem Sys2Proof.Laws.Encoding.fdTap aj ak fk fmt wl : Statement (.fdTap aj ak fk fmt wl) := by
  intro e _ hw he
  cases he
  dsimp only [decOp, decF]
  try simp only [fld, bit, BitVec.toNat_ofNat, Nat.reducePow, Nat.reduceMod]
  try simp (disch := omega) only [ex_hi, ex_lo, gl_lo, gl_hi]
  try simp [withUnion, accept, noExt, hw]
theorem Sys2Proof.Laws.Encoding.fdOff fk src : Statement (.fdOff fk src) := by
  intro e _ hw he
  cases he
  dsimp only [decOp, decF]
  try simp only [fld, bit, BitVec.toNat_ofNat, Nat.reducePow, Nat.reduceMod]
  try simp (disch := omega) only [ex_hi, ex_lo, gl_lo, gl_hi]
  try simp [withUnion, accept, noExt, hw]
theorem Sys2Proof.Laws.Encoding.fdInc fk src : Statement (.fdInc fk src) := by
  intro e _ hw he
  cases he
  dsimp only [decOp, decF]
  try simp only [fld, bit, BitVec.toNat_ofNat, Nat.reducePow, Nat.reduceMod]
  try simp (disch := omega) only [ex_hi, ex_lo, gl_lo, gl_hi]
  try simp [withUnion, accept, noExt, hw]
theorem Sys2Proof.Laws.Encoding.cpIn st ch rc : Statement (.cpIn st ch rc) := by
  intro e _ hw he
  cases he
  dsimp only [decOp, decC]
  try simp only [fld, bit, BitVec.toNat_ofNat, Nat.reducePow, Nat.reduceMod]
  try simp (disch := omega) only [ex_hi, ex_lo, gl_lo, gl_hi]
  try simp [withUnion, accept, noExt, hw]
theorem Sys2Proof.Laws.Encoding.cpOut st ch rc : Statement (.cpOut st ch rc) := by
  intro e _ hw he
  cases he
  dsimp only [decOp, decC]
  try simp only [fld, bit, BitVec.toNat_ofNat, Nat.reducePow, Nat.reduceMod]
  try simp (disch := omega) only [ex_hi, ex_lo, gl_lo, gl_hi]
  try simp [withUnion, accept, noExt, hw]
theorem Sys2Proof.Laws.Encoding.cpPf st ch rc : Statement (.cpPf st ch rc) := by
  intro e _ hw he
  cases he
  dsimp only [decOp, decC]
  try simp only [fld, bit, BitVec.toNat_ofNat, Nat.reducePow, Nat.reduceMod]
  try simp (disch := omega) only [ex_hi, ex_lo, gl_lo, gl_hi]
  try simp [withUnion, accept, noExt, hw]
theorem Sys2Proof.Laws.Encoding.cpGat st ch rc : Statement (.cpGat st ch rc) := by
  intro e _ hw he
  cases he
  dsimp only [decOp, decC]
  try simp only [fld, bit, BitVec.toNat_ofNat, Nat.reducePow, Nat.reduceMod]
  try simp (disch := omega) only [ex_hi, ex_lo, gl_lo, gl_hi]
  try simp [withUnion, accept, noExt, hw]
theorem Sys2Proof.Laws.Encoding.cpCst st ch rc : Statement (.cpCst st ch rc) := by
  intro e _ hw he
  cases he
  dsimp only [decOp, decC]
  try simp only [fld, bit, BitVec.toNat_ofNat, Nat.reducePow, Nat.reduceMod]
  try simp (disch := omega) only [ex_hi, ex_lo, gl_lo, gl_hi]
  try simp [withUnion, accept, noExt, hw]
theorem Sys2Proof.Laws.Encoding.accLd st ch acc rc : Statement (.accLd st ch acc rc) := by
  intro e _ hw he
  cases he
  dsimp only [decOp, decC]
  try simp only [fld, bit, BitVec.toNat_ofNat, Nat.reducePow, Nat.reduceMod]
  try simp (disch := omega) only [ex_hi, ex_lo, gl_lo, gl_hi]
  try simp [withUnion, accept, noExt, hw]
theorem Sys2Proof.Laws.Encoding.accSt st ch acc rc : Statement (.accSt st ch acc rc) := by
  intro e _ hw he
  cases he
  dsimp only [decOp, decC]
  try simp only [fld, bit, BitVec.toNat_ofNat, Nat.reducePow, Nat.reduceMod]
  try simp (disch := omega) only [ex_hi, ex_lo, gl_lo, gl_hi]
  try simp [withUnion, accept, noExt, hw]
theorem Sys2Proof.Laws.Encoding.gld sd sa size sx disp : Statement (.gld sd sa size sx disp) := by
  intro e _ hw he
  cases he
  dsimp only [decOp, decC]
  try simp only [fld, bit, BitVec.toNat_ofNat, Nat.reducePow, Nat.reduceMod]
  try simp (disch := omega) only [ex_hi, ex_lo, gl_lo, gl_hi]
  try simp [withUnion, accept, noExt, hw]
theorem Sys2Proof.Laws.Encoding.gst sb sa size disp : Statement (.gst sb sa size disp) := by
  intro e _ hw he
  cases he
  dsimp only [decOp, decC]
  try simp only [fld, bit, BitVec.toNat_ofNat, Nat.reducePow, Nat.reduceMod]
  try simp (disch := omega) only [ex_hi, ex_lo, gl_lo, gl_hi]
  try simp [withUnion, accept, noExt, hw]
theorem Sys2Proof.Laws.Encoding.atAdd sd sa sb w disp : Statement (.atAdd sd sa sb w disp) := by
  intro e _ hw he
  cases he
  dsimp only [decOp, decC]
  try simp only [fld, bit, BitVec.toNat_ofNat, Nat.reducePow, Nat.reduceMod]
  try simp (disch := omega) only [ex_hi, ex_lo, gl_lo, gl_hi]
  try simp [withUnion, accept, noExt, hw]
theorem Sys2Proof.Laws.Encoding.atFadd sd sa sb disp : Statement (.atFadd sd sa sb disp) := by
  intro e _ hw he
  cases he
  dsimp only [decOp, decC]
  try simp only [fld, bit, BitVec.toNat_ofNat, Nat.reducePow, Nat.reduceMod]
  try simp (disch := omega) only [ex_hi, ex_lo, gl_lo, gl_hi]
  try simp [withUnion, accept, noExt, hw]
theorem Sys2Proof.Laws.Encoding.atMin sd sa sb w disp : Statement (.atMin sd sa sb w disp) := by
  intro e _ hw he
  cases he
  dsimp only [decOp, decC]
  try simp only [fld, bit, BitVec.toNat_ofNat, Nat.reducePow, Nat.reduceMod]
  try simp (disch := omega) only [ex_hi, ex_lo, gl_lo, gl_hi]
  try simp [withUnion, accept, noExt, hw]
theorem Sys2Proof.Laws.Encoding.atMax sd sa sb w disp : Statement (.atMax sd sa sb w disp) := by
  intro e _ hw he
  cases he
  dsimp only [decOp, decC]
  try simp only [fld, bit, BitVec.toNat_ofNat, Nat.reducePow, Nat.reduceMod]
  try simp (disch := omega) only [ex_hi, ex_lo, gl_lo, gl_hi]
  try simp [withUnion, accept, noExt, hw]
theorem Sys2Proof.Laws.Encoding.atFmin sd sa sb disp : Statement (.atFmin sd sa sb disp) := by
  intro e _ hw he
  cases he
  dsimp only [decOp, decC]
  try simp only [fld, bit, BitVec.toNat_ofNat, Nat.reducePow, Nat.reduceMod]
  try simp (disch := omega) only [ex_hi, ex_lo, gl_lo, gl_hi]
  try simp [withUnion, accept, noExt, hw]
theorem Sys2Proof.Laws.Encoding.atFmax sd sa sb disp : Statement (.atFmax sd sa sb disp) := by
  intro e _ hw he
  cases he
  dsimp only [decOp, decC]
  try simp only [fld, bit, BitVec.toNat_ofNat, Nat.reducePow, Nat.reduceMod]
  try simp (disch := omega) only [ex_hi, ex_lo, gl_lo, gl_hi]
  try simp [withUnion, accept, noExt, hw]
theorem Sys2Proof.Laws.Encoding.atAnd sd sa sb w disp : Statement (.atAnd sd sa sb w disp) := by
  intro e _ hw he
  cases he
  dsimp only [decOp, decC]
  try simp only [fld, bit, BitVec.toNat_ofNat, Nat.reducePow, Nat.reduceMod]
  try simp (disch := omega) only [ex_hi, ex_lo, gl_lo, gl_hi]
  try simp [withUnion, accept, noExt, hw]
theorem Sys2Proof.Laws.Encoding.atOr sd sa sb w disp : Statement (.atOr sd sa sb w disp) := by
  intro e _ hw he
  cases he
  dsimp only [decOp, decC]
  try simp only [fld, bit, BitVec.toNat_ofNat, Nat.reducePow, Nat.reduceMod]
  try simp (disch := omega) only [ex_hi, ex_lo, gl_lo, gl_hi]
  try simp [withUnion, accept, noExt, hw]
theorem Sys2Proof.Laws.Encoding.atXor sd sa sb w disp : Statement (.atXor sd sa sb w disp) := by
  intro e _ hw he
  cases he
  dsimp only [decOp, decC]
  try simp only [fld, bit, BitVec.toNat_ofNat, Nat.reducePow, Nat.reduceMod]
  try simp (disch := omega) only [ex_hi, ex_lo, gl_lo, gl_hi]
  try simp [withUnion, accept, noExt, hw]
theorem Sys2Proof.Laws.Encoding.atSwap sd sa sb w disp : Statement (.atSwap sd sa sb w disp) := by
  intro e _ hw he
  cases he
  dsimp only [decOp, decC]
  try simp only [fld, bit, BitVec.toNat_ofNat, Nat.reducePow, Nat.reduceMod]
  try simp (disch := omega) only [ex_hi, ex_lo, gl_lo, gl_hi]
  try simp [withUnion, accept, noExt, hw]
theorem Sys2Proof.Laws.Encoding.atCas sd sa sb w disp : Statement (.atCas sd sa sb w disp) := by
  intro e _ hw he
  cases he
  dsimp only [decOp, decC]
  try simp only [fld, bit, BitVec.toNat_ofNat, Nat.reducePow, Nat.reduceMod]
  try simp (disch := omega) only [ex_hi, ex_lo, gl_lo, gl_hi]
  try simp [withUnion, accept, noExt, hw]
theorem Sys2Proof.Laws.Encoding.barInit sa n : Statement (.barInit sa n) := by
  intro e _ hw he
  cases he
  dsimp only [decOp, decC]
  try simp only [fld, bit, BitVec.toNat_ofNat, Nat.reducePow, Nat.reduceMod]
  try simp (disch := omega) only [ex_hi, ex_lo, gl_lo, gl_hi]
  try simp [withUnion, accept, noExt, hw]
theorem Sys2Proof.Laws.Encoding.barArr sd sa m : Statement (.barArr sd sa m) := by
  intro e _ hw he
  cases he
  dsimp only [decOp, decC]
  try simp only [fld, bit, BitVec.toNat_ofNat, Nat.reducePow, Nat.reduceMod]
  try simp (disch := omega) only [ex_hi, ex_lo, gl_lo, gl_hi]
  try simp [withUnion, accept, noExt, hw]
theorem Sys2Proof.Laws.Encoding.drain scope loads stores copies tiles : Statement (.drain scope loads stores copies tiles) := by
  intro e _ hw he
  cases he
  dsimp only [decOp, decC]
  try simp only [fld, bit, BitVec.toNat_ofNat, Nat.reducePow, Nat.reduceMod]
  try simp (disch := omega) only [ex_hi, ex_lo, gl_lo, gl_hi]
  try simp [withUnion, accept, noExt, hw]
theorem Sys2Proof.Laws.Encoding.qpoint : Statement .qpoint := by
  intro e _ hw he
  cases he
  dsimp only [decOp, decC]
  try simp only [fld, bit, BitVec.toNat_ofNat, Nat.reducePow, Nat.reduceMod]
  try simp (disch := omega) only [ex_hi, ex_lo, gl_lo, gl_hi]
  try simp [withUnion, accept, noExt, hw]
theorem Sys2Proof.Laws.Encoding.anchor hj sd cid : Statement (.anchor hj sd cid) := by
  intro e _ hw he
  cases he
  dsimp only [decOp, decC]
  try simp only [fld, bit, BitVec.toNat_ofNat, Nat.reducePow, Nat.reduceMod]
  try simp (disch := omega) only [ex_hi, ex_lo, gl_lo, gl_hi]
  try simp [withUnion, accept, noExt, hw]
theorem Sys2Proof.Laws.Encoding.hznRel hj cid : Statement (.hznRel hj cid) := by
  intro e _ hw he
  cases he
  dsimp only [decOp, decC]
  try simp only [fld, bit, BitVec.toNat_ofNat, Nat.reducePow, Nat.reduceMod]
  try simp (disch := omega) only [ex_hi, ex_lo, gl_lo, gl_hi]
  try simp [withUnion, accept, noExt, hw]
theorem Sys2Proof.Laws.Encoding.cld sd sa hj size sx disp : Statement (.cld sd sa hj size sx disp) := by
  intro e _ hw he
  cases he
  dsimp only [decOp, decC]
  try simp only [fld, bit, BitVec.toNat_ofNat, Nat.reducePow, Nat.reduceMod]
  try simp (disch := omega) only [ex_hi, ex_lo, gl_lo, gl_hi]
  try simp [withUnion, accept, noExt, hw]
theorem Sys2Proof.Laws.Encoding.publish sd sa ver : Statement (.publish sd sa ver) := by
  intro e _ hw he
  cases he
  dsimp only [decOp, decC]
  try simp only [fld, bit, BitVec.toNat_ofNat, Nat.reducePow, Nat.reduceMod]
  try simp (disch := omega) only [ex_hi, ex_lo, gl_lo, gl_hi]
  try simp [withUnion, accept, noExt, hw]
theorem Sys2Proof.Laws.Encoding.gred st ch rc : Statement (.gred st ch rc) := by
  intro e _ hw he
  cases he
  dsimp only [decOp, decC]
  try simp only [fld, bit, BitVec.toNat_ofNat, Nat.reducePow, Nat.reduceMod]
  try simp (disch := omega) only [ex_hi, ex_lo, gl_lo, gl_hi]
  try simp [withUnion, accept, noExt, hw]
theorem Sys2Proof.Laws.Encoding.xdisp st ch q rc : Statement (.xdisp st ch q rc) := by
  intro e _ hw he
  cases he
  dsimp only [decOp, decC]
  try simp only [fld, bit, BitVec.toNat_ofNat, Nat.reducePow, Nat.reduceMod]
  try simp (disch := omega) only [ex_hi, ex_lo, gl_lo, gl_hi]
  try simp [withUnion, accept, noExt, hw]
theorem Sys2Proof.Laws.Encoding.resolve st ch k rc : Statement (.resolve st ch k rc) := by
  intro e _ hw he
  cases he
  dsimp only [decOp, decC]
  try simp only [fld, bit, BitVec.toNat_ofNat, Nat.reducePow, Nat.reduceMod]
  try simp (disch := omega) only [ex_hi, ex_lo, gl_lo, gl_hi]
  try simp [withUnion, accept, noExt, hw]
theorem Sys2Proof.Laws.Encoding.send vs sa : Statement (.send vs sa) := by
  intro e _ hw he
  cases he
  dsimp only [decOp, decN]
  try simp only [fld, bit, BitVec.toNat_ofNat, Nat.reducePow, Nat.reduceMod]
  try simp (disch := omega) only [ex_hi, ex_lo, gl_lo, gl_hi]
  try simp [withUnion, accept, noExt, hw]
theorem Sys2Proof.Laws.Encoding.sendQ vs sa : Statement (.sendQ vs sa) := by
  intro e _ hw he
  cases he
  dsimp only [decOp, decN]
  try simp only [fld, bit, BitVec.toNat_ofNat, Nat.reducePow, Nat.reduceMod]
  try simp (disch := omega) only [ex_hi, ex_lo, gl_lo, gl_hi]
  try simp [withUnion, accept, noExt, hw]
theorem Sys2Proof.Laws.Encoding.sendMc vs sa : Statement (.sendMc vs sa) := by
  intro e _ hw he
  cases he
  dsimp only [decOp, decN]
  try simp only [fld, bit, BitVec.toNat_ofNat, Nat.reducePow, Nat.reduceMod]
  try simp (disch := omega) only [ex_hi, ex_lo, gl_lo, gl_hi]
  try simp [withUnion, accept, noExt, hw]
theorem Sys2Proof.Laws.Encoding.recv vd qj : Statement (.recv vd qj) := by
  intro e _ hw he
  cases he
  dsimp only [decOp, decN]
  try simp only [fld, bit, BitVec.toNat_ofNat, Nat.reducePow, Nat.reduceMod]
  try simp (disch := omega) only [ex_hi, ex_lo, gl_lo, gl_hi]
  try simp [withUnion, accept, noExt, hw]
theorem Sys2Proof.Laws.Encoding.recvAdd vd qj : Statement (.recvAdd vd qj) := by
  intro e _ hw he
  cases he
  dsimp only [decOp, decN]
  try simp only [fld, bit, BitVec.toNat_ofNat, Nat.reducePow, Nat.reduceMod]
  try simp (disch := omega) only [ex_hi, ex_lo, gl_lo, gl_hi]
  try simp [withUnion, accept, noExt, hw]
theorem Sys2Proof.Laws.Encoding.recvMax vd qj : Statement (.recvMax vd qj) := by
  intro e _ hw he
  cases he
  dsimp only [decOp, decN]
  try simp only [fld, bit, BitVec.toNat_ofNat, Nat.reducePow, Nat.reduceMod]
  try simp (disch := omega) only [ex_hi, ex_lo, gl_lo, gl_hi]
  try simp [withUnion, accept, noExt, hw]
theorem Sys2Proof.Laws.Encoding.collStart sd sa gs : Statement (.collStart sd sa gs) := by
  intro e _ hw he
  cases he
  dsimp only [decOp, decN]
  try simp only [fld, bit, BitVec.toNat_ofNat, Nat.reducePow, Nat.reduceMod]
  try simp (disch := omega) only [ex_hi, ex_lo, gl_lo, gl_hi]
  try simp [withUnion, accept, noExt, hw]
theorem Sys2Proof.Laws.Encoding.collAbort sd : Statement (.collAbort sd) := by
  intro e _ hw he
  cases he
  dsimp only [decOp, decN]
  try simp only [fld, bit, BitVec.toNat_ofNat, Nat.reducePow, Nat.reduceMod]
  try simp (disch := omega) only [ex_hi, ex_lo, gl_lo, gl_hi]
  try simp [withUnion, accept, noExt, hw]
theorem Sys2Proof.Laws.Encoding.wordDispatch core : Statement (.wordDispatch core) := by
  intro e _ _ he; cases he
theorem Sys2Proof.Laws.Encoding.markCommit ctx : Statement (.markCommit ctx) := by
  intro e _ _ he; cases he
theorem Sys2Proof.Laws.Encoding.specForcedAbort ctx : Statement (.specForcedAbort ctx) := by
  intro e _ _ he; cases he
theorem Sys2Proof.Laws.Encoding.watchFire ctx : Statement (.watchFire ctx) := by
  intro e _ _ he; cases he
theorem Sys2Proof.Laws.Encoding.watchTimeout ctx : Statement (.watchTimeout ctx) := by
  intro e _ _ he; cases he
theorem Sys2Proof.Laws.Encoding.shootdownStart cluster : Statement (.shootdownStart cluster) := by
  intro e _ _ he; cases he
theorem Sys2Proof.Laws.Encoding.tileCounterServe cluster : Statement (.tileCounterServe cluster) := by
  intro e _ _ he; cases he
theorem Sys2Proof.Laws.Encoding.nextTileDelivery ctx : Statement (.nextTileDelivery ctx) := by
  intro e _ _ he; cases he
theorem Sys2Proof.Laws.Encoding.predictorTableApply cluster : Statement (.predictorTableApply cluster) := by
  intro e _ _ he; cases he
theorem Sys2Proof.Laws.Encoding.toleranceDemandServe cluster ext : Statement (.toleranceDemandServe cluster ext) := by
  intro e _ _ he; cases he
theorem Sys2Proof.Laws.Encoding.permitGrant die : Statement (.permitGrant die) := by
  intro e _ _ he; cases he
theorem Sys2Proof.Laws.Encoding.fabricBurstPermit : Statement .fabricBurstPermit := by
  intro e _ _ he; cases he
theorem Sys2Proof.Laws.Encoding.passRowWrite core : Statement (.passRowWrite core) := by
  intro e _ _ he; cases he
theorem Sys2Proof.Laws.Encoding.mcRendezvousClose cluster : Statement (.mcRendezvousClose cluster) := by
  intro e _ _ he; cases he
theorem Sys2Proof.Laws.Encoding.copyRowLanding ctx op : Statement (.copyRowLanding ctx op) := by
  intro e _ _ he; cases he
theorem Sys2Proof.Laws.Encoding.copyCompletion ctx op : Statement (.copyCompletion ctx op) := by
  intro e _ _ he; cases he
theorem Sys2Proof.Laws.Encoding.combiningBufferSend core lane : Statement (.combiningBufferSend core lane) := by
  intro e _ _ he; cases he
theorem Sys2Proof.Laws.Encoding.barrierNotify core : Statement (.barrierNotify core) := by
  intro e _ _ he; cases he
theorem Sys2Proof.Laws.Encoding.sendReservation ctx : Statement (.sendReservation ctx) := by
  intro e _ _ he; cases he
theorem Sys2Proof.Laws.Encoding.sendArrival i : Statement (.sendArrival i) := by
  intro e _ _ he; cases he
theorem Sys2Proof.Laws.Encoding.walkerTransfer ctx op : Statement (.walkerTransfer ctx op) := by
  intro e _ _ he; cases he
theorem Sys2Proof.Laws.Encoding.collectiveCompletion ctx op : Statement (.collectiveCompletion ctx op) := by
  intro e _ _ he; cases he
theorem Sys2Proof.Laws.Encoding.reductionComplete i : Statement (.reductionComplete i) := by
  intro e _ _ he; cases he
theorem Sys2Proof.Laws.Encoding.rdPkt i : Statement (.rdPkt i) := by
  intro e _ _ he; cases he
theorem Sys2Proof.Laws.Encoding.wrPkt i : Statement (.wrPkt i) := by
  intro e _ _ he; cases he
theorem Sys2Proof.Laws.Encoding.wrmPkt i : Statement (.wrmPkt i) := by
  intro e _ _ he; cases he
theorem Sys2Proof.Laws.Encoding.wrcPkt i : Statement (.wrcPkt i) := by
  intro e _ _ he; cases he
theorem Sys2Proof.Laws.Encoding.rdcPkt i : Statement (.rdcPkt i) := by
  intro e _ _ he; cases he
theorem Sys2Proof.Laws.Encoding.atPkt i : Statement (.atPkt i) := by
  intro e _ _ he; cases he
theorem Sys2Proof.Laws.Encoding.ancPkt i : Statement (.ancPkt i) := by
  intro e _ _ he; cases he
theorem Sys2Proof.Laws.Encoding.pubPkt i : Statement (.pubPkt i) := by
  intro e _ _ he; cases he
theorem Sys2Proof.Laws.Encoding.barPkt i : Statement (.barPkt i) := by
  intro e _ _ he; cases he
theorem Sys2Proof.Laws.Encoding.redPkt i : Statement (.redPkt i) := by
  intro e _ _ he; cases he
theorem Sys2Proof.Laws.Encoding.qrptPkt i : Statement (.qrptPkt i) := by
  intro e _ _ he; cases he
theorem Sys2Proof.Laws.Encoding.mgmtPkt i : Statement (.mgmtPkt i) := by
  intro e _ _ he; cases he
theorem Sys2Proof.Laws.Encoding.replyPkt i : Statement (.replyPkt i) := by
  intro e _ _ he; cases he
theorem Sys2Proof.Laws.Encoding.unknownOpPacket i : Statement (.unknownOpPacket i) := by
  intro e _ _ he; cases he
theorem Sys2Proof.Laws.Encoding.forwardedRequest i : Statement (.forwardedRequest i) := by
  intro e _ _ he; cases he
theorem Sys2Proof.Laws.Encoding.multicastWr i : Statement (.multicastWr i) := by
  intro e _ _ he; cases he
theorem Sys2Proof.Laws.Encoding.packetRoute port p : Statement (.packetRoute port p) := by
  intro e _ _ he; cases he
theorem Sys2Proof.Laws.Encoding.laneNonminimalMove dst lane : Statement (.laneNonminimalMove dst lane) := by
  intro e _ _ he; cases he
theorem Sys2Proof.Laws.Encoding.laneMinimalReturn dst lane : Statement (.laneMinimalReturn dst lane) := by
  intro e _ _ he; cases he
theorem Sys2Proof.Laws.Encoding.requestTimeout tag : Statement (.requestTimeout tag) := by
  intro e _ _ he; cases he
theorem Sys2Proof.Laws.Encoding.expertRowArrival i : Statement (.expertRowArrival i) := by
  intro e _ _ he; cases he
theorem Sys2Proof.Laws.Encoding.overflowAfterWait ctx op : Statement (.overflowAfterWait ctx op) := by
  intro e _ _ he; cases he
theorem Sys2Proof.Laws.Encoding.pageWalk ctx op : Statement (.pageWalk ctx op) := by
  intro e _ _ he; cases he
theorem Sys2Proof.Laws.Encoding.shootdownWatchdog cluster : Statement (.shootdownWatchdog cluster) := by
  intro e _ _ he; cases he
theorem Sys2Proof.Laws.Encoding.shootdownEnd cluster : Statement (.shootdownEnd cluster) := by
  intro e _ _ he; cases he
theorem Sys2Proof.Laws.Encoding.migrationService : Statement .migrationService := by
  intro e _ _ he; cases he
theorem Sys2Proof.Laws.Encoding.pageMove vf va home frame ext : Statement (.pageMove vf va home frame ext) := by
  intro e _ _ he; cases he
theorem Sys2Proof.Laws.Encoding.stepGraphAccept cluster ext : Statement (.stepGraphAccept cluster ext) := by
  intro e _ _ he; cases he
theorem Sys2Proof.Laws.Encoding.taskBind core : Statement (.taskBind core) := by
  intro e _ _ he; cases he
theorem Sys2Proof.Laws.Encoding.taskAging core : Statement (.taskAging core) := by
  intro e _ _ he; cases he
theorem Sys2Proof.Laws.Encoding.recordCompletion rc : Statement (.recordCompletion rc) := by
  intro e _ _ he; cases he
theorem Sys2Proof.Laws.Encoding.spanLimit core : Statement (.spanLimit core) := by
  intro e _ _ he; cases he
theorem Sys2Proof.Laws.Encoding.swapOut ctx : Statement (.swapOut ctx) := by
  intro e _ _ he; cases he
theorem Sys2Proof.Laws.Encoding.reload core : Statement (.reload core) := by
  intro e _ _ he; cases he
theorem Sys2Proof.Laws.Encoding.pipelinePreempt rc : Statement (.pipelinePreempt rc) := by
  intro e _ _ he; cases he
theorem Sys2Proof.Laws.Encoding.loaderTile rc ext : Statement (.loaderTile rc ext) := by
  intro e _ _ he; cases he
theorem Sys2Proof.Laws.Encoding.storerWriteback rc : Statement (.storerWriteback rc) := by
  intro e _ _ he; cases he
theorem Sys2Proof.Laws.Encoding.faultQueueService cluster : Statement (.faultQueueService cluster) := by
  intro e _ _ he; cases he
theorem Sys2Proof.Laws.Encoding.lineRetire line : Statement (.lineRetire line) := by
  intro e _ _ he; cases he
theorem Sys2Proof.Laws.Encoding.patrolScrub line : Statement (.patrolScrub line) := by
  intro e _ _ he; cases he
theorem Sys2Proof.Laws.Encoding.coreRetire core : Statement (.coreRetire core) := by
  intro e _ _ he; cases he
theorem Sys2Proof.Laws.Encoding.rosterRemove vertex : Statement (.rosterRemove vertex) := by
  intro e _ _ he; cases he
theorem Sys2Proof.Laws.Encoding.laneSpare port : Statement (.laneSpare port) := by
  intro e _ _ he; cases he
theorem Sys2Proof.Laws.Encoding.portDown port : Statement (.portDown port) := by
  intro e _ _ he; cases he
theorem Sys2Proof.Laws.Encoding.linkUp port ouv : Statement (.linkUp port ouv) := by
  intro e _ _ he; cases he
theorem Sys2Proof.Laws.Encoding.hostAccess acc : Statement (.hostAccess acc) := by
  intro e _ _ he; cases he
theorem Sys2Proof.Laws.Encoding.hifVersionWrite fn ver : Statement (.hifVersionWrite fn ver) := by
  intro e _ _ he; cases he
theorem Sys2Proof.Laws.Encoding.submissionQueueServe vf ext : Statement (.submissionQueueServe vf ext) := by
  intro e _ _ he; cases he
theorem Sys2Proof.Laws.Encoding.functionLevelReset vf : Statement (.functionLevelReset vf) := by
  intro e _ _ he; cases he
theorem Sys2Proof.Laws.Encoding.placeSubq fn : Statement (.placeSubq fn) := by
  intro e _ _ he; cases he
theorem Sys2Proof.Laws.Encoding.placeRepl fn : Statement (.placeRepl fn) := by
  intro e _ _ he; cases he
theorem Sys2Proof.Laws.Encoding.cstCreate fn : Statement (.cstCreate fn) := by
  intro e _ _ he; cases he
theorem Sys2Proof.Laws.Encoding.cstDestroy fn : Statement (.cstDestroy fn) := by
  intro e _ _ he; cases he
theorem Sys2Proof.Laws.Encoding.errlog fn : Statement (.errlog fn) := by
  intro e _ _ he; cases he
theorem Sys2Proof.Laws.Encoding.roster fn : Statement (.roster fn) := by
  intro e _ _ he; cases he
theorem Sys2Proof.Laws.Encoding.faultAns fn : Statement (.faultAns fn) := by
  intro e _ _ he; cases he
theorem Sys2Proof.Laws.Encoding.debugCmd fn : Statement (.debugCmd fn) := by
  intro e _ _ he; cases he
theorem Sys2Proof.Laws.Encoding.setLtr fn : Statement (.setLtr fn) := by
  intro e _ _ he; cases he
theorem Sys2Proof.Laws.Encoding.quote fn : Statement (.quote fn) := by
  intro e _ _ he; cases he
theorem Sys2Proof.Laws.Encoding.preempt fn : Statement (.preempt fn) := by
  intro e _ _ he; cases he
theorem Sys2Proof.Laws.Encoding.flr fn : Statement (.flr fn) := by
  intro e _ _ he; cases he
theorem Sys2Proof.Laws.Encoding.faultNext fn : Statement (.faultNext fn) := by
  intro e _ _ he; cases he
theorem Sys2Proof.Laws.Encoding.mailboxUnknownCmd fn : Statement (.mailboxUnknownCmd fn) := by
  intro e _ _ he; cases he
theorem Sys2Proof.Laws.Encoding.mailboxGoBusy fn : Statement (.mailboxGoBusy fn) := by
  intro e _ _ he; cases he
theorem Sys2Proof.Laws.Encoding.powerLevelEnter cluster : Statement (.powerLevelEnter cluster) := by
  intro e _ _ he; cases he
theorem Sys2Proof.Laws.Encoding.powerWake cluster : Statement (.powerWake cluster) := by
  intro e _ _ he; cases he
theorem Sys2Proof.Laws.Encoding.thermalGrantHold die temp : Statement (.thermalGrantHold die temp) := by
  intro e _ _ he; cases he
theorem Sys2Proof.Laws.Encoding.thermalClockHalve die temp : Statement (.thermalClockHalve die temp) := by
  intro e _ _ he; cases he
theorem Sys2Proof.Laws.Encoding.thermalShutdown die temp : Statement (.thermalShutdown die temp) := by
  intro e _ _ he; cases he
theorem Sys2Proof.Laws.Encoding.powerOnBoot : Statement .powerOnBoot := by
  intro e _ _ he; cases he
theorem Sys2Proof.Laws.Encoding.writeQueueBankWrite core : Statement (.writeQueueBankWrite core) := by
  intro e _ _ he; cases he
theorem Sys2Proof.Laws.Encoding.remoteReadArrival ctx : Statement (.remoteReadArrival ctx) := by
  intro e _ _ he; cases he
theorem Sys2Proof.Laws.Encoding.barrierQueryAnswer ctx : Statement (.barrierQueryAnswer ctx) := by
  intro e _ _ he; cases he
theorem Sys2Proof.Laws.Encoding.occupancyReport i : Statement (.occupancyReport i) := by
  intro e _ _ he; cases he
theorem Sys2Proof.Laws.Encoding.thermalGrantResume die temp : Statement (.thermalGrantResume die temp) := by
  intro e _ _ he; cases he
theorem Sys2Proof.Laws.Encoding.thermalClockRestore die temp : Statement (.thermalClockRestore die temp) := by
  intro e _ _ he; cases he
theorem Sys2Proof.Laws.Encoding.pooledMemoryReply i ext : Statement (.pooledMemoryReply i ext) := by
  intro e _ _ he; cases he
end

