-- ==== Sys2Proof/Tests/Slice0.lean ====
section
/-!
SUPPORT. Small tests: ill-formed operands refused, words written out from the spec's encodings, results of single operations
computed by hand from the rules, and for every statement with hypotheses a state and operands that meet them.
-/

set_option linter.all false
set_option maxRecDepth 4000
set_option Elab.async false

namespace Sys2Proof.Tests

open Sys2Proof Sys2Proof.Machine

/-! ## Ill-formed operands (R19, reason 5) -/

/-- One ill-formed term for each check of `Instr.wf`, and its well-formed neighbour. -/
theorem test_wf_smoke :
    (Instr.csrd 1#4 0x004#12).wf = false ∧ (Instr.csrd 1#4 0x003#12).wf = true ∧
    (Instr.csrd 1#4 0x820#12).wf = false ∧ (Instr.csrd 1#4 0x81F#12).wf = true ∧
    (Instr.csrw 0x003#12 (.reg 1#4)).wf = false ∧ (Instr.csrw 0x013#12 (.reg 1#4)).wf = true ∧
    (Instr.csrs 0x100#12 (.reg 1#4)).wf = false ∧ (Instr.csrc 0x805#12 (.reg 1#4)).wf = false ∧
    (Instr.srtCeA 0#4 6#3 0#3).wf = false ∧ (Instr.srtCeA 0#4 5#3 5#3).wf = true ∧
    (Instr.srtCeD 0#4 0#3 6#3).wf = false ∧
    (Instr.cvt 0#5 1#5 0#4 0#2).wf = false ∧ (Instr.cvt 0#5 1#5 8#4 0#2).wf = false ∧ (Instr.cvt 0#5 1#5 7#4 3#2).wf = true ∧
    (Instr.cvtSx 0#5 1#5 3#2 0#4).wf = false ∧
    (Instr.mxLd 0#2 0#3 0#4 none).wf = false ∧ (Instr.mxLd 0#2 0#3 11#4 none).wf = false ∧
    (Instr.mxLd 1#2 0#3 1#4 none).wf = false ∧ (Instr.mxLd 2#2 0#3 1#4 none).wf = true ∧
    (Instr.mxLdT 3#2 0#3 1#4 none).wf = false ∧ (Instr.mxLdr 0#2 0#3 12#4 0#3 false none).wf = false ∧
    (Instr.mxRun 0#3 0#2 3#2 0#5).wf = false ∧ (Instr.mxRunSet 0#3 0#2 3#2 0#5).wf = false ∧ (Instr.mxRun 7#3 3#2 2#2 31#5).wf = true ∧
    (Instr.fdA 0#3 0#2 12#4).wf = false ∧ (Instr.fdAMc 0#3 0#2 15#4 0#3 0#3).wf = false ∧ (Instr.fdAr 0#3 0#2 12#4 0#3).wf = false ∧
    (Instr.fdWin 0#3 1#3 0#2 12#4 0#3).wf = false ∧ (Instr.fdTap 0#3 1#3 0#2 12#4 0#3).wf = false ∧ (Instr.fdA 0#3 0#2 11#4).wf = true ∧
    (Instr.drain 6#3 0#3 0#3 0#3 0#4).wf = false ∧ (Instr.drain 5#3 0#3 0#3 0#3 0#4).wf = true := by
  decide

/-! ## Words, bit by bit -/

/-- The loop word of Fragment 1, as R18's worked example prints it: `+step(a0) st.d s1, a0, 0 | add s1, s1, 3`. -/
theorem test_decode_fragment_word :
    (decodeWord false 0x000000400010847000000000B080000000000000000000000000000000000000#256).toOption.map (fun w => (w.step, w.mark, w.yld, w.slots.map (·.op))) =
      some (1#8, false, false, [.add 1#5 1#5 (.imm 3#5), .nop, .stD 1#5 0#3 (.imm 0#8), .nop, .nop, .nop, .nop, .nop]) := by
  decide +kernel

/-- Its bytes 18, 19, 24, 25, 26 and 28, as the same example lists them, and no other that is not zero. -/
theorem test_fragment_word_bytes :
    ((bytesOfWord 0x000000400010847000000000B080000000000000000000000000000000000000#256).zipIdx.filter fun p => decide (p.1 ≠ 0#8)) =
      [(0x80#8, 18), (0xB0#8, 19), (0x70#8, 24), (0x84#8, 25), (0x10#8, 26), (0x40#8, 28)] := by
  decide +kernel

/-- S slot (R18, R87, R93, R101): guard, opcode, then the operand fields. -/
theorem test_decode_S :
    decSlot .S (0b0000#4 ++ 0x02#8 ++ (0b11111#5 ++ 0b00001#5 ++ 0b00010#5 ++ 0b0#1)) none = .ok ⟨0#4, .sub 31#5 1#5 (.reg 2#5)⟩ ∧
    decSlot .S (0b0011#4 ++ 0x01#8 ++ (0b00011#5 ++ 0b00100#5 ++ 0b00000#5 ++ 0b1#1)) (some 0xFFFFFFF#28) =
      .ok ⟨3#4, .add 3#5 4#5 (.ext 0xFFFFFFF#28)⟩ ∧
    decSlot .S (0b0000#4 ++ 0x15#8 ++ (0b00100#5 ++ 0b00001#5 ++ 0b11111#5 ++ 0b1#1)) none = .ok ⟨0#4, .cmpEq 2#3 1#5 (.imm 31#5)⟩ ∧
    decSlot .S (0b0000#4 ++ 0x1B#8 ++ (0b0110#4 ++ 0b0001#4 ++ 0b1111#4 ++ 0b0000#4)) none = .ok ⟨0#4, .pand 3#3 1#4 15#4⟩ ∧
    decSlot .S (0b0000#4 ++ 0x2B#8 ++ (0b1#1 ++ 0b00#2 ++ 0b00111#5 ++ 0b00000011#8)) none = .ok ⟨0#4, .loopS true 7#5 3#8⟩ ∧
    decSlot .S (0b0000#4 ++ 0x15#8 ++ (0b00101#5 ++ 0b00001#5 ++ 0b11111#5 ++ 0b1#1)) none = .error 5 := by
  decide

/-- K slot (R170, R171). -/
theorem test_decode_K :
    decSlot .K (0b0000#4 ++ 0x04#8 ++ (0b00101#5 ++ 0b11111111111#11)) none = .ok ⟨0#4, .srtIota 5#5 2047#11⟩ ∧
    decSlot .K (0b0000#4 ++ 0x05#8 ++ (0b00110#5 ++ 0b101#3 ++ 0b010#3 ++ 0b00000#5)) none = .ok ⟨0#4, .srtCeA 3#4 5#3 2#3⟩ ∧
    decSlot .K (0b0000#4 ++ 0x06#8 ++ (0b00110#5 ++ 0b110#3 ++ 0b010#3 ++ 0b00000#5)) none = .error 5 ∧
    decSlot .K (0b0000#4 ++ 0x05#8 ++ (0b00111#5 ++ 0b101#3 ++ 0b010#3 ++ 0b00000#5)) none = .error 5 := by
  decide

/-- L slot (R18, R122, R124, R125). -/
theorem test_decode_L :
    decSlot .L (0b0000#4 ++ 0x07#8 ++ (0b01010#5 ++ 0b011#3 ++ 0b11111111#8)) none = .ok ⟨0#4, .ldD 10#5 3#3 (.imm 255#8)⟩ ∧
    decSlot .L (0b0001#4 ++ 0x08#8 ++ (0b01010#5 ++ 0b011#3 ++ 0b00000000#8)) (some 1#28) = .ok ⟨1#4, .stB 10#5 3#3 (.ext 1#28)⟩ ∧
    decSlot .L (0b0000#4 ++ 0x17#8 ++ (0b00001#5 ++ 0b010#3 ++ 0b10#2 ++ 0b000011#6)) none = .ok ⟨0#4, .ldVBcast 1#5 2#3 2#2 (.imm 3#6)⟩ ∧
    decSlot .L (0b0000#4 ++ 0x18#8 ++ (0b00001#5 ++ 0b010#3 ++ 0b00100#5 ++ 0b1#1 ++ 0b11#2)) none =
      .ok ⟨0#4, .ldVx 1#5 2#3 4#5 true 3#2 none⟩ ∧
    decSlot .L (0b0000#4 ++ 0x1B#8 ++ (0b00001#5 ++ 0b010#3 ++ 0b00100#5 ++ 0b111#3)) none = .ok ⟨0#4, .stVx 1#5 2#3 4#5 7#3 none⟩ := by
  decide

/-- V slot (R153, R154, R158, R164). -/
theorem test_decode_V :
    decSlot .V (0b0000#4 ++ 0x01#8 ++ (0b0#1 ++ 0b00001#5 ++ 0b00010#5 ++ 0b11111#5)) none = .ok ⟨0#4, .vaddF32 (.plain 1#5 2#5 31#5)⟩ ∧
    decSlot .V (0b0000#4 ++ 0x0C#8 ++ (0b1#1 ++ 0b00001#5 ++ 0b00010#5 ++ 0b111#3 ++ 0b11#2)) none =
      .ok ⟨0#4, .vfmaBf16 (.masked 1#5 2#5 7#3 3#2)⟩ ∧
    decSlot .V (0b0000#4 ++ 0x08#8 ++ (0b0#1 ++ 0b00001#5 ++ 0b00010#5 ++ 0b00000#5)) none = .ok ⟨0#4, .vnegF32 (.plain 1#5 2#5)⟩ ∧
    decSlot .V (0b0000#4 ++ 0x23#8 ++ (0b00110#5 ++ 0b00010#5 ++ 0b101#3 ++ 0b000#3)) none = .ok ⟨0#4, .vredAddF32 6#5 2#5 5#3⟩ ∧
    decSlot .V (0b0000#4 ++ 0x32#8 ++ (0b00110#5 ++ 0b00010#5 ++ 0b0011#4 ++ 0b01#2)) none = .ok ⟨0#4, .cvt 6#5 2#5 3#4 1#2⟩ ∧
    decSlot .V (0b0000#4 ++ 0x32#8 ++ (0b00110#5 ++ 0b00010#5 ++ 0b1000#4 ++ 0b01#2)) none = .error 5 := by
  decide

/-- X slot (R179, R180, R184, R195). -/
theorem test_decode_X :
    decSlot .X (0b0000#4 ++ 0x03#8 ++ 0#16) (some (0#18 ++ 0b111#3 ++ 0b0000001#7)) = .ok ⟨0#4, .mxCfg (.ext 0b1110000001#10)⟩ ∧
    decSlot .X (0b0000#4 ++ 0x06#8 ++ (0b10#2 ++ 0b101#3 ++ 0b0011#4 ++ 0b110#3 ++ 0b1#1 ++ 0b000#3)) none =
      .ok ⟨0#4, .mxLdr 2#2 5#3 3#4 6#3 true none⟩ ∧
    decSlot .X (0b0000#4 ++ 0x09#8 ++ (0b111#3 ++ 0b10#2 ++ 0b01#2 ++ 0b01001#5 ++ 0b0000#4)) none = .ok ⟨0#4, .mxRun 7#3 2#2 1#2 9#5⟩ ∧
    decSlot .X (0b0000#4 ++ 0x0C#8 ++ (0b01001#5 ++ 0b101#3 ++ 0b11#2 ++ 0b00#2 ++ 0b1111#4)) none =
      .ok ⟨0#4, .mxDrain 9#5 5#3 3#2 15#4 none⟩ := by
  decide

/-- F slot (R193): `fd.off f2, 512·5` and `fd.inc f1` by −16 bytes. -/
theorem test_decode_F :
    decSlot .F (0b0000#4 ++ 0x07#8 ++ (0b10#2 ++ 0b0#1 ++ 0b0000000000101#13)) none = .ok ⟨0#4, .fdOff 2#2 (.imm 5#13)⟩ ∧
    decSlot .F (0b0000#4 ++ 0x08#8 ++ (0b01#2 ++ 0b0#1 ++ 0b0#1 ++ 0b111111111111#12)) none = .ok ⟨0#4, .fdInc 1#2 (.imm 0xFFF#12)⟩ ∧
    decSlot .F (0b0000#4 ++ 0x08#8 ++ (0b01#2 ++ 0b1#1 ++ 0b00110#5 ++ 0b00000000#8)) none = .ok ⟨0#4, .fdInc 1#2 (.reg 6#5)⟩ ∧
    decSlot .F (0b0000#4 ++ 0x04#8 ++ 0#16) none = .ok ⟨0#4, .fdZ⟩ := by
  decide

/-- C slot (R135, R138, R147, R215, R216). -/
theorem test_decode_C :
    decSlot .C (0b0000#4 ++ 0x08#8 ++ (0b00001#5 ++ 0b00010#5 ++ 0b10#2 ++ 0b1#1 ++ 0b000#3)) none = .ok ⟨0#4, .gld 1#5 2#5 2#2 true none⟩ ∧
    decSlot .C (0b0000#4 ++ 0x0A#8 ++ (0b00001#5 ++ 0b00010#5 ++ 0b00011#5 ++ 0b1#1)) (some 8#28) =
      .ok ⟨0#4, .atAdd 1#5 2#5 3#5 true (some 8#28)⟩ ∧
    decSlot .C (0b0000#4 ++ 0x19#8 ++ (0b11#2 ++ 0b00001#5 ++ 0b00010#5 ++ 0b0000#4)) none = .ok ⟨0#4, .anchor 3#2 1#5 (.reg 2#5)⟩ ∧
    decSlot .C (0b0000#4 ++ 0x1E#8 ++ (0b00001#5 ++ 0b0111#4 ++ 0b1#1 ++ 0b000010#6)) none = .ok ⟨0#4, .xdisp 1#5 7#4 true (.imm 2#6)⟩ ∧
    decSlot .C (0b0000#4 ++ 0x1F#8 ++ (0b00001#5 ++ 0b0111#4 ++ 0b001#3 ++ 0b0010#4)) none = .ok ⟨0#4, .resolve 1#5 7#4 1#3 (.imm 2#4)⟩ := by
  decide

/-- N slot (R208). -/
theorem test_decode_N :
    decSlot .N (0b0000#4 ++ 0x07#8 ++ (0b00001#5 ++ 0b00010#5 ++ 0b11#2 ++ 0b0000#4)) none = .ok ⟨0#4, .collStart 1#5 2#5 3#2⟩ ∧
    decSlot .N (0b0000#4 ++ 0x07#8 ++ (0b00001#5 ++ 0b00010#5 ++ 0b11#2 ++ 0b0001#4)) none = .error 5 := by
  decide

/-- The reasons of R19 that a whole word shows: an unassigned opcode; a guard on opcode 0; an extension beside an operation that
takes none; `watch` and an X opcode on the wrong kind of core; a pass without its feed. -/
theorem test_illegal_words :
    decodeWord false (placeSlot .V (0x0FF0000#28)) = .error ⟨2, 3, false⟩ ∧
    decodeWord false (placeSlot .N (0x1000000#28)) = .error ⟨3, 7, false⟩ ∧
    decodeWord false (placeSlot .S (0x00F0000#28) ||| (1#256) <<< 226) = .error ⟨4, 0, false⟩ ∧
    decodeWord true (placeSlot .X (0x0020000#28)) = .error ⟨6, 4, false⟩ ∧
    decodeWord false (placeSlot .S (0x0390000#28)) = .error ⟨6, 0, false⟩ ∧
    decodeWord false (placeSlot .X (0x0090000#28)) = .error ⟨5, 4, false⟩ := by
  decide +kernel

/-- The host's words: an `add` alone in its word, and two operations, which are no single instruction. -/
theorem test_table_word :
    decodeTableWord 256 (0x0010847 * 2 ^ 196) = some (.add 1#5 1#5 (.imm 3#5)) ∧
    decodeTableWord 256 (0x0010847 * 2 ^ 196 + 0x0010000 * 2 ^ 168) = none := by
  decide +kernel

/-! ## One operation on a small state -/

/-- Registers of the tests: s1 = 10, s2 = 3, s3 = −1, s4 = 1.5 and s5 = 2^-24 as FP32, p2, m1 = 0xF, a1 = {256, 16}; v1 holds 3 in every
lane and v2 lane numbers, both I32; v4 and v5 hold 1.0 and 2.0 in every lane, F32. -/
def demo : Ctx :=
  { Ctx.idle with
    run := .ready, word := 6, serial := 20, wmap := 15, amap := 3, cmap := 3,
    stat := { Stat.none with vf := 0 },
    s := ⟨[(1, 10#64), (2, 3#64), (3, 0xFFFFFFFFFFFFFFFF#64), (4, 0x3FC00000#64), (5, 0x33800000#64)], []⟩,
    p := ⟨[(2, true)], []⟩, m := ⟨[(1, 0xF#64)], []⟩, a := ⟨[(1, .set 256#24 16#24)], []⟩,
    v := ⟨[(1, ofElems 32 (List.replicate 64 3)), (2, ofElems 32 (List.range 64)), (4, ofElems 32 (List.replicate 64 0x3F800000)),
      (5, ofElems 32 (List.replicate 64 0x40000000))], []⟩,
    vt := ⟨[(1, tI32), (2, tI32), (4, tF32), (5, tF32)], []⟩ }

def entOf (i : Instr) : Entry := ⟨7, 5, 64, i, 0#8, 0, false, false, false⟩
def focOf (slot : Nat) (i : Instr) : Focus := ⟨0, slot, entOf i, false⟩

/-- The context with the operation at the head of its slot, and the writes that its dispatch announced. -/
def armed (c : Ctx) (slot : Nat) (i : Instr) : Ctx :=
  let c := ((dests i).foldl (fun c d => c.expect 7 5 slot d) c).expectFlags 7 5 slot i
  { c with queues := [(slot, [entOf i])] }

/-- A booted device whose context 0 holds core 0, at cycle 1000, the operation about to run. -/
def about (c : Ctx) (slot : Nat) (i : Instr) : State :=
  { State.reset with booted := true, svc := 0, now := 1000, ctxs := [(0, armed c slot i)],
                     cores := [(0, { Core.reset with holder := some 0 })], focus := some (focOf slot i) }

/-- The state after one `exec`. -/
def after (s : State) (i : Instr) : Option State := match exec i s with | .next t => some t | _ => none

/-- What the context of `about` is like after the operation. -/
def ran (c : Ctx) (slot : Nat) (i : Instr) : Option Ctx := (after (about c slot i) i).map fun t => t.ctx 0

/-- A scalar register once the latency of R24 has passed. -/
def sAfter (slot : Nat) (i : Instr) (r : SReg) : Option (Eff W64) := (ran demo slot i).map fun c => c.rdS 30 r
def pAfter (slot : Nat) (i : Instr) (r : PReg) : Option (Eff Bool) := (ran demo slot i).map fun c => c.rdP 30 r
def mAfter (slot : Nat) (i : Instr) (r : MReg) : Option (Eff W64) := (ran demo slot i).map fun c => c.rdM 30 r
/-- One lane of a vector register. -/
def vAfter (slot : Nat) (i : Instr) (r : VReg) (j : Nat) : Option W32 :=
  (ran demo slot i).bind fun c => match c.rdV 30 r with | .ok v => some (lane v j) | _ => none

/-- 64-bit wrap, signed high half, shift counts modulo 64, unsigned minimum (R87, R88). -/
theorem test_scalar_integer :
    sAfter 0 (.add 9#5 3#5 (.reg 2#5)) 9#5 = some (.ok 2#64) ∧
    sAfter 0 (.sub 9#5 2#5 (.imm 5#5)) 9#5 = some (.ok 0xFFFFFFFFFFFFFFFE#64) ∧
    sAfter 0 (.mul 9#5 3#5 (.ext 0xFFFFFFF#28)) 9#5 = some (.ok 1#64) ∧
    sAfter 0 (.mulh 9#5 3#5 (.reg 1#5)) 9#5 = some (.ok 0xFFFFFFFFFFFFFFFF#64) ∧
    sAfter 0 (.shl 9#5 1#5 (.ext 65#28)) 9#5 = some (.ok 20#64) ∧
    sAfter 0 (.shr 9#5 3#5 (.ext 63#28)) 9#5 = some (.ok 1#64) ∧
    sAfter 0 (.sar 9#5 3#5 (.imm 4#5)) 9#5 = some (.ok 0xFFFFFFFFFFFFFFFF#64) ∧
    sAfter 0 (.min 9#5 3#5 (.reg 1#5)) 9#5 = some (.ok 0xFFFFFFFFFFFFFFFF#64) ∧
    sAfter 0 (.minu 9#5 3#5 (.reg 1#5)) 9#5 = some (.ok 10#64) ∧
    sAfter 0 (.maxu 9#5 3#5 (.reg 1#5)) 9#5 = some (.ok 0xFFFFFFFFFFFFFFFF#64) ∧
    sAfter 0 (.clz 9#5 1#5) 9#5 = some (.ok 60#64) ∧ sAfter 0 (.clz 9#5 0#5) 9#5 = some (.ok 64#64) ∧
    sAfter 0 (.popc 9#5 3#5) 9#5 = some (.ok 64#64) := by
  decide +kernel

/-- A write of s0 is discarded, and the destination may be a source (R39). -/
theorem test_scalar_zero_and_self :
    sAfter 0 (.add 0#5 1#5 (.reg 2#5)) 0#5 = some (.ok 0#64) ∧ sAfter 0 (.add 1#5 1#5 (.reg 1#5)) 1#5 = some (.ok 20#64) := by
  decide +kernel

/-- Sign and zero extension of `mov`; `sel` and its alternative; `aget` modulo 2^24 (R89 to R92). -/
theorem test_moves :
    sAfter 0 (.mov 9#5 (.imm 0x1FF#9)) 9#5 = some (.ok 0xFFFFFFFFFFFFFFFF#64) ∧
    sAfter 0 (.mov 9#5 (.extS 0x8000000#28)) 9#5 = some (.ok 0xFFFFFFFFF8000000#64) ∧
    sAfter 0 (.mov 9#5 (.extZ 0x8000000#28)) 9#5 = some (.ok 0x8000000#64) ∧
    sAfter 0 (.sel 1#5 2#5 3#4 none) 1#5 = some (.ok 10#64) ∧ sAfter 0 (.sel 1#5 2#5 2#4 none) 1#5 = some (.ok 3#64) ∧
    sAfter 0 (.sel 1#5 2#5 3#4 (some 0xFFFFFFF#28)) 1#5 = some (.ok 0xFFFFFFFFFFFFFFFF#64) ∧
    sAfter 0 (.aget 9#5 1#3 (.disp 127#7)) 9#5 = some (.ok 383#64) ∧ sAfter 0 (.aget 9#5 1#3 .stride) 9#5 = some (.ok 16#64) ∧
    sAfter 0 (.aget 9#5 1#3 (.ext 0xFFFFEFF#28)) 9#5 = some (.ok 0xFFFFFF#64) := by
  decide +kernel

/-- A comparison writes the pair, signed and unsigned (R40, R93); `pand` and `por` (R94). -/
theorem test_predicates :
    pAfter 0 (.cmpLt 2#3 3#5 (.reg 1#5)) 4#4 = some (.ok true) ∧ pAfter 0 (.cmpLt 2#3 3#5 (.reg 1#5)) 5#4 = some (.ok false) ∧
    pAfter 0 (.cmpLtu 2#3 3#5 (.reg 1#5)) 4#4 = some (.ok false) ∧ pAfter 0 (.cmpLeu 2#3 1#5 (.imm 10#5)) 4#4 = some (.ok true) ∧
    pAfter 0 (.pand 2#3 2#4 3#4) 4#4 = some (.ok false) ∧ pAfter 0 (.por 2#3 2#4 3#4) 5#4 = some (.ok false) := by
  decide +kernel

/-- FP32: 1.5 + 1.5 = 3; 1.5 · 1.5 = 2.25; 1.5 · 1.5 + 2^-24 is 2.25 to nearest, inexact (R95, R96). -/
theorem test_scalar_float :
    sAfter 0 (.fadd 9#5 4#5 4#5) 9#5 = some (.ok 0x40400000#64) ∧ sAfter 0 (.fsub 9#5 4#5 4#5) 9#5 = some (.ok 0#64) ∧
    sAfter 0 (.fmul 9#5 4#5 4#5) 9#5 = some (.ok 0x40100000#64) ∧ sAfter 0 (.ffma 5#5 4#5 4#5) 5#5 = some (.ok 0x40100000#64) ∧
    sAfter 0 (.fmax 9#5 4#5 5#5) 9#5 = some (.ok 0x3FC00000#64) ∧ pAfter 0 (.fcmpLt 2#3 5#5 4#5) 4#4 = some (.ok true) ∧
    (ran demo 0 (.ffma 5#5 4#5 4#5)).map (fun c => c.rdFstat 30) = some (.ok fNX) := by
  decide +kernel

/-- The end of the mask operations' range, and the population count (R162). -/
theorem test_masks :
    mAfter 3 (.mandn 2#3 0#3 1#3) 2#3 = some (.ok 0xFFFFFFFFFFFFFFF0#64) ∧ mAfter 3 (.mxor 0#3 0#3 1#3) 0#3 = some (.ok (BitVec.allOnes 64)) ∧
    sAfter 3 (.mpop 9#5 1#3) 9#5 = some (.ok 4#64) := by
  decide +kernel

/-- Vector lanes: the masked form keeps inactive lanes; rotation and broadcast name lanes; the splat's float immediate (R153 to R161). -/
theorem test_vector_lanes :
    vAfter 3 (.vaddI32 (.masked 1#5 2#5 1#3 1#2)) 1#5 3 = some 6#32 ∧ vAfter 3 (.vaddI32 (.masked 1#5 2#5 1#3 1#2)) 1#5 4 = some 3#32 ∧
    vAfter 3 (.vsubI32 (.plain 9#5 2#5 1#5)) 9#5 0 = some 0xFFFFFFFD#32 ∧ vAfter 3 (.vmulI32 (.plain 9#5 2#5 2#5)) 9#5 63 = some 3969#32 ∧
    vAfter 3 (.vrot 9#5 2#5 1#6) 9#5 63 = some 0#32 ∧ vAfter 3 (.vbcast 9#5 2#5 63#6) 9#5 0 = some 63#32 ∧
    vAfter 3 (.vperm 9#5 2#5 1#5) 9#5 0 = some 3#32 ∧ vAfter 3 (.vsel 9#5 2#5 1#3 1#3) 9#5 4 = some 3#32 ∧
    vAfter 3 (.vsplatI32 9#5 (.imm 0x3FF#10)) 9#5 0 = some 0xFFFFFFFF#32 ∧ vAfter 3 (.vsplatF32 9#5 (.imm 0xFE#10)) 9#5 63 = some 0x3F800000#32 := by
  decide +kernel

/-- 1.0 + 2.0, 1.0 · 2.0, 2.0 · 2.0 + 1.0, and estimates at powers of two (R154, R157). -/
theorem test_vector_float :
    vAfter 3 (.vaddF32 (.plain 9#5 4#5 5#5)) 9#5 63 = some 0x40400000#32 ∧ vAfter 3 (.vmulF32 (.plain 9#5 4#5 5#5)) 9#5 0 = some 0x40000000#32 ∧
    vAfter 3 (.vfmaF32 (.plain 4#5 5#5 5#5)) 4#5 7 = some 0x40A00000#32 ∧ vAfter 3 (.vnegF32 (.plain 9#5 4#5)) 9#5 1 = some 0xBF800000#32 ∧
    vAfter 3 (.vexp2F32 (.plain 9#5 5#5)) 9#5 0 = some 0x40800000#32 ∧ vAfter 3 (.vlog2F32 (.plain 9#5 5#5)) 9#5 0 = some 0x3F800000#32 ∧
    vAfter 3 (.vrcpF32 (.plain 9#5 5#5)) 9#5 0 = some 0x3F000000#32 := by
  decide +kernel

/-- Sums over the 64 lanes, all and under a mask (R158): 64 · 3, 4 · 3, 0 + 1 + 2 + 3, 64 · 1.0. -/
theorem test_reductions :
    sAfter 3 (.vredAddI32 9#5 1#5 0#3) 9#5 = some (.ok 192#64) ∧ sAfter 3 (.vredAddI32 9#5 2#5 1#3) 9#5 = some (.ok 6#64) ∧
    sAfter 3 (.vredAddF32 9#5 4#5 0#3) 9#5 = some (.ok 0x42800000#64) ∧ sAfter 3 (.vredMaxF32 9#5 5#5 1#3) 9#5 = some (.ok 0x40000000#64) := by
  decide +kernel

/-- Lane numbers of a chunk, and a compare-exchange of lanes 0 and 1 in descending order (R170, R171). -/
theorem test_sort :
    vAfter 1 (.srtIota 9#5 2047#11) 9#5 63 = some 131071#32 ∧ vAfter 1 (.srtCeD 1#4 0#3 0#3) 2#5 0 = some 1#32 ∧
    vAfter 1 (.srtCeA 1#4 0#3 0#3) 2#5 0 = some 0#32 := by
  decide +kernel

/-- R220: 10 + 3 is in range and 255 + 10 is held to 255; the least grade of each class that suffices for 10. -/
theorem test_tolerance :
    sAfter 1 (.tolShare 9#5 1#5 2#5) 9#5 = some (.ok 13#64) ∧ sAfter 1 (.tolShare 9#5 3#5 1#5) 9#5 = some (.ok 255#64) ∧
    sAfter 1 (.tolMin 9#5 1#5 false) 9#5 = some (.ok 12#64) ∧ sAfter 1 (.tolMin 9#5 1#5 true) 9#5 = some (.ok 24#64) := by
  decide +kernel

/-! ## Scratchpad, marks, traps and the step -/

/-- `about` with bytes 256 to 263 of the scratchpad holding 0x80, 1, 2, … 7. -/
def aboutSp (c : Ctx) (slot : Nat) (i : Instr) : State :=
  let s := about c slot i
  s.setCore 0 { s.core 0 with sp := memSets [] (cellsAt 256 [0x80#8, 1#8, 2#8, 3#8, 4#8, 5#8, 6#8, 7#8]) }

def spLoad (i : Instr) (r : SReg) : Option (Eff W64) := (after (aboutSp demo 2 i) i).map fun t => (t.ctx 0).rdS 30 r

/-- Little-endian loads, sign and zero extension, and an EXT offset in bytes (R121, R122). -/
theorem test_scratchpad_loads :
    spLoad (.ldB 9#5 1#3 (.imm 0#8)) 9#5 = some (.ok 0xFFFFFFFFFFFFFF80#64) ∧ spLoad (.ldBu 9#5 1#3 (.imm 0#8)) 9#5 = some (.ok 0x80#64) ∧
    spLoad (.ldH 9#5 1#3 (.imm 0#8)) 9#5 = some (.ok 0x180#64) ∧ spLoad (.ldWu 9#5 1#3 (.imm 1#8)) 9#5 = some (.ok 0x07060504#64) ∧
    spLoad (.ldD 9#5 1#3 (.imm 0#8)) 9#5 = some (.ok 0x0706050403020180#64) ∧ spLoad (.ldHu 9#5 1#3 (.ext 6#28)) 9#5 = some (.ok 0x0706#64) := by
  decide +kernel

/-- The last doubleword of the scratchpad, one past it, and a misaligned one: trap 0x04 before 0x05 (R121, R346). -/
theorem test_scratchpad_range :
    (after (about { demo with a := ⟨[(1, .set 0x3FFFF8#24 0#24)], []⟩ } 2 (.ldD 9#5 1#3 (.imm 0#8))) (.ldD 9#5 1#3 (.imm 0#8))).map
      (fun t => ((t.ctx 0).rdS 30 9#5, (t.ctx 0).trapCause)) = some (.ok 0#64, 0#64) ∧
    (after (about { demo with a := ⟨[(1, .set 0x3FFFF9#24 0#24)], []⟩ } 2 (.ldD 9#5 1#3 (.imm 0#8))) (.ldD 9#5 1#3 (.imm 0#8))).map
      (fun t => ((t.ctx 0).trapCause, (t.ctx 0).trapVal, (t.ctx 0).run)) = some (4#64, 0x3FFFF9#64, .trapped) ∧
    (after (about demo 2 (.ldD 9#5 1#3 (.ext 4#28))) (.ldD 9#5 1#3 (.ext 4#28))).map
      (fun t => ((t.ctx 0).trapCause, (t.ctx 0).trapVal, (t.ctx 0).trapPc)) = some (5#64, 260#64, 64#64) := by
  decide +kernel

/-- A store is gated: the next word of its context reads it, its own word and another context do not (R121, R128). -/
theorem test_store_is_gated :
    (after (about demo 2 (.stH 3#5 1#3 (.imm 1#8))) (.stH 3#5 1#3 (.imm 1#8))).map
      (fun t => (t.spRead 0 6 258 2, t.spRead 0 5 258 2, t.spRead 1 6 258 2, (t.core 0).byte 258)) =
      some ([0xFF#8, 0xFF#8], [0#8, 0#8], [0#8, 0#8], 0#8) := by
  decide +kernel

/-- Its bytes leave through the write queue at the commit, and reach the bank from there (R107, R247). -/
theorem test_commit_releases :
    ((after (about demo 2 (.stB 2#5 1#3 (.imm 0#8))) (.stB 2#5 1#3 (.imm 0#8))).map fun t => t.releaseTo 0 5).map
      (fun t => ((t.core 0).wq, (t.ctx 0).gstores, (t.core 0).byte 256)) = some ([⟨0, 42, 256, 3#8⟩], [], 3#8) := by
  decide +kernel

/-- A control core's context after a trap. -/
def inHandler : Ctx := ((State.reset.setCtx 64 demo).enterTrap 64 2 96 7#64).ctx 64

/-- A software trap saves its word and operand; a control core enters its handler, and a second trap there halts it (R114, R115). -/
theorem test_software_trap :
    (after (about demo 0 (.trap 0xBEEF#16)) (.trap 0xBEEF#16)).map
      (fun t => ((t.ctx 0).trapCause, (t.ctx 0).trapVal, (t.ctx 0).trapPc, (t.ctx 0).run, (t.core 0).holder)) =
      some (9#64, 0xBEEF#64, 64#64, .trapped, none) ∧
    inHandler.trapCause = 2#64 ∧ inHandler.trapPc = 96#64 ∧ inHandler.trapVal = 7#64 ∧ inHandler.stat.inTrap = true ∧
    inHandler.pc = 0x20 ∧ inHandler.run = .ready ∧
    (((State.reset.setCtx 64 inHandler).enterTrap 64 2 96 7#64).ctx 64).run = .halted := by
  decide +kernel

/-- A store into a full restart buffer makes its word a mark of the Overflow cause (R106, R128). -/
theorem test_overflow_mark :
    (ran { demo with gstores := (List.range 64).map (fun i => ⟨i + 6, 2, []⟩), words := [⟨5, 64, 96, 0#8⟩] } 2 (.stB 2#5 1#3 (.imm 0#8))).map
      (fun c => (c.marks, c.gstores.length)) = some ([⟨5, 96, true⟩], 65) := by
  decide +kernel

/-- A word loaded as a program is the next step's: `add s1, s0, 7` (R22). -/
theorem test_step_runs_word :
    (match step (State.reset.withFetchWord 256 (0x001080F * 2 ^ 196)) with
     | .next t => some ((t.ctx 0).rdS 2 1#5, (t.ctx 0).pc, t.agenda)
     | _ => none) = some (.ok 7#64, 32, []) := by
  decide +kernel

/-- A guard that reads false leaves the register (R16): p1 is false at reset. -/
theorem test_guard_false :
    (match step (State.reset.withFetchWord 256 (0x101080F * 2 ^ 196)) with
     | .next t => some ((t.ctx 0).rdS 2 1#5) | _ => none) = some (.ok 0#64) := by
  decide +kernel

/-- `launch` in a context without the capability traps at dispatch with the privilege trap (R20). -/
theorem test_privilege :
    ({ demo with stat := Stat.none }).privFault (.launch 1#5 2#5 (.imm 1#5)) = true ∧
    ({ demo with stat := { Stat.none with launch := true } }).privFault (.launch 1#5 2#5 (.imm 1#5)) = false := by
  decide

/-- `fmode` takes a reserved rounding mode as nearest, and `lfsr` never holds 0 (R55, R80, R118). -/
theorem test_control_registers :
    ((ran demo 0 (.csrw 0x010#12 (.ext 0xF#28))).map fun c => c.rdU 30 uFmode) = some (.ok 8#64) ∧
    ((ran demo 0 (.csrw 0x012#12 (.reg 0#4))).map fun c => c.rdLfsr 30 0) = some (.ok 1#32) ∧
    ((ran demo 0 (.csrw 0x011#12 (.ext 0xFF#28))).map fun c => c.rdFstat 30) = some (.ok 0xFF#8) := by
  decide +kernel

/-! ## Engines and homes -/

/-- A frame of function 0 that grants reads, writes and atomics, and one packet in the inbox. -/
def home (p : Pkt) : State :=
  { State.reset with booted := true, svc := 0, now := 1000, frames := [(0, 0x21C0000000000000#64)], inbox := [⟨p, 0, 0, 0, 0, 0⟩],
                     mem := memSets [] (cellsAt 256 [1#8, 2#8, 3#8, 4#8]) }

def request (op addr : Nat) (args data : List Byte) : Pkt := ⟨0, 5, 9, 0, false, 0, 0, false, op, 0, 0, 77, 0, addr, args, data⟩

/-- What the home answered: the code, and the data of the reply. -/
def answers (i : Nat → Instr) (s : State) : Option (Nat × List Byte × List Byte) :=
  (after s (i 0)).bind fun t => t.egress.getLast?.map fun q => (q.2.code, q.2.args, q.2.data)

/-- RD of 16 bytes; an 8-byte and a 4-byte add; WR; a frame of another function (R138, R297, R321). -/
theorem test_home_requests :
    answers .rdPkt (home (request 0x01 256 [1#8] [])) = some (0, [], [1#8, 2#8, 3#8, 4#8] ++ List.replicate 12 0#8) ∧
    (after (home (request 0x02 258 [] [9#8, 8#8])) (.wrPkt 0)).map (fun t => memRead t.mem 256 4) = some [1#8, 2#8, 9#8, 8#8] ∧
    (after (home (request 0x06 256 [0#8] ([0xFF#8] ++ List.replicate 15 0#8))) (.atPkt 0)).map (fun t => memRead t.mem 256 4) =
      some [0#8, 3#8, 3#8, 4#8] ∧
    answers .rdPkt (home { request 0x01 256 [1#8] [] with vf := 3 }) = some (2, [], []) ∧
    answers .rdPkt (home (request 0x01 65536 [1#8] [])) = some (1, [], []) := by
  decide +kernel

/-- A barrier of two: the first arrival leaves one to come, the second ends the generation and arms the next (R139, R140). -/
theorem test_barrier :
    ((((State.reset.barStep 0x40 0 2).1.barStep 0x40 1 0).1.core 0).bar 0x40) = ⟨1, 0, 0, 2⟩ ∧
    (((((State.reset.barStep 0x40 0 2).1.barStep 0x40 1 0).1.barStep 0x40 1 0).1.core 0).bar 0x40) = ⟨2, 0, 1, 2⟩ := by
  decide +kernel

/-- A predictor hit and a miss at their bounds, and a clear that wraps around the table (R210, R211). -/
theorem test_predictor :
    ptHit 0xFFFFFFF8#32 = 0xFFFFFFF8#32 ∧ ptMiss 0x00000000#32 = 0x00000008#32 ∧
    AMap.get 0#32 (ptApply [(0, 5#32), (2, 6#32), (16383, 7#32)] (.clr 16383 2)) 0 = 0#32 ∧
    AMap.get 0#32 (ptApply [(0, 5#32), (2, 6#32), (16383, 7#32)] (.clr 16383 2)) 2 = 6#32 := by
  decide +kernel

/-! ## The spec's worked numbers -/

/-- The 32 inputs of the SX4 block worked under R73, as FP32. -/
def sxInputs : List Nat :=
  [0x40400000, 0xBF400000, 0x3ED00000, 0x3DCCCCCD, 0xC039999A, 0x3F000000, 0x40000000, 0x3FF00000,
   0x3FC00000, 0x3FC00000, 0xBFA00000, 0x3E800000, 0x3E000000, 0x00000000, 0x3D800000, 0xBD000000,
   0x3F400000, 0xBF000000, 0x3E99999A, 0x3DCCCCCD, 0x00000000, 0x00000000, 0x00000000, 0x3F666666,
   0x3E800000, 0xBE000000, 0x3EF00000, 0x3C800000, 0xBED00000, 0x00000000, 0x00000000, 0x3D000000]

/-- R73's block: the 22 bytes that the chapter prints, three all-zero blocks, the trailer, and NX alone; scale entry 0 is 1.0. -/
theorem test_sx4_block :
    (let q := sxOf tSX4 [0x3F800000#32] 0 ⟨0, false⟩ ((sxInputs ++ List.replicate 96 0).map fun x => dec32 false (BitVec.ofNat 32 x)) 0#32
     decide ((q.1.take 22) = [0x80#8, 0xE4#8, 0xAC#8, 0x0B#8, 0x40#8, 0x05#8, 0x42#8, 0x8C#8, 0x59#8, 0x11#8, 0x00#8, 0x00#8, 0x0C#8, 0x17#8,
         0x01#8, 0x00#8, 0x70#8, 0x88#8, 0x3F#8, 0x30#8, 0x01#8, 0x08#8] ∧
       q.1.drop 88 = List.replicate 8 0#8 ∧ q.2 = fNX)) = true := by
  decide +kernel

/-- R77's row: −1.0, 0.5, 2.0, 3.0 and zeros take scale code 0x49 and zero point 57; one of 10^8 saturates and raises QCL. -/
theorem test_aq8_row :
    (aqQuantise (([0xBF800000, 0x3F000000, 0x40000000, 0x40400000] ++ List.replicate 124 0).map fun x => dec32 false (BitVec.ofNat 32 x))).map
      (fun q => (q.bytes.take 5, (q.bytes.drop 127).take 4, q.clamped)) =
      some ([0x00#8, 0x55#8, 0xAB#8, 0xE4#8, 0x39#8], [0x39#8, 0x49#8, 0x39#8, 0#8], false) ∧
    (aqQuantise (([0x4CBEBC20] ++ List.replicate 127 0).map fun x => dec32 false (BitVec.ofNat 32 x))).map
      (fun q => (q.bytes.take 2, (q.bytes.drop 128).take 2, q.clamped)) = some ([0xFF#8, 0#8], [0xFF#8, 0#8], true) := by
  decide +kernel

/-- R80's draws from 1, and its rounding of 1 + 2^-9 to BF16 with the first of them. -/
theorem test_lfsr :
    stepLfsr 1#32 = 0x80200003#32 ∧ stepLfsr 0x80200003#32 = 0xC0300002#32 ∧ stepLfsr 0xC0300002#32 = 0x60180001#32 ∧
    drawOf 0x80200003#32 = 3 ∧ cvtElem tF32 tBF16 ⟨4, false⟩ 3 (dec32 false 0x3F804000#32) = (0x3F80, fNX) := by
  decide +kernel

/-- The estimate of R157's example: 1/√2.0. -/
theorem test_rsqrt : (estimate .rsqrt false 0x40000000#32).1 = 0x3F350000#32 := by
  decide +kernel

/-- R161's immediates, and the word of R166. -/
theorem test_splat_and_cvt_word :
    vAfter 3 (.vsplatF32 9#5 (.imm 0x0F8#10)) 9#5 0 = some 0x3E000000#32 ∧ vAfter 3 (.vsplatF32 9#5 (.imm 0x3FE#10)) 9#5 0 = some 0xFF800000#32 ∧
    decSlot .V 0x034A110#28 none = .ok ⟨0#4, .cvtSx 20#5 4#5 1#2 0#4⟩ := by
  decide +kernel

/-- R167's choices: with CLS 0 the tolerances 60, 55, 0 and 200. -/
theorem test_fit_choice :
    fitChoice false 60 = tBF16 ∧ fitChoice false 55 = tSX7 ∧ fitChoice false 0 = tSX2 ∧ fitChoice false 200 = tF32 := by
  decide

/-- R221's example: grades 96, 187, 190 and 192 meet tol 64 and 72 with no step, 120 with one, and 193 with none of them. -/
theorem test_itr_fit :
    (let fit : Nat → Option (Eff W64) := fun tol =>
       (ran { demo with u := ⟨[(uTol, BitVec.ofNat 64 tol), (uItr + 1, 0xC0BEBB60#64)], []⟩ } 1 (.itrFit 9#5 1#2)).map fun c => c.rdS 30 9#5
     decide (fit 64 = some (.ok 0#64) ∧ fit 72 = some (.ok 0#64) ∧ fit 120 = some (.ok 1#64) ∧ fit 193 = some (.ok 0x8000000000000007#64))) = true := by
  decide +kernel

/-- The first stage of the sort of R172's example: 0.75/0, 3.0/1, 0.75/2, −∞/3 under `srt.ce.d 0, 1`. -/
theorem test_sort_stage :
    (let c := { demo with v := ⟨[(8, ofElems 32 [0x3F400000, 0x40400000, 0x3F400000, 0xFF800000]), (9, ofElems 32 [0, 1, 2, 3])], []⟩,
                          vt := ⟨[(8, tF32), (9, tI32)], []⟩ }
     (ran c 1 (.srtCeD 4#4 0#3 1#3)).map fun c => match c.rdV 30 8#5, c.rdV 30 9#5 with
       | .ok k, .ok p => ((vElems 32 k).take 4, (vElems 32 p).take 4)
       | _, _ => ([], [])) =
      some ([0x40400000, 0x3F400000, 0xFF800000, 0x3F400000], [1, 0, 3, 2]) := by
  decide +kernel

/-! ## States and operands that meet the hypotheses of each statement -/

/-- Statements 1 and 3: operands at the ends of their ranges, of every slot. -/
theorem witness_EncodingRoundTrip :
    ∀ i ∈ [Instr.add 31#5 0#5 (.ext 0x8000000#28), .rti true, .csrd 15#4 0x81F#12, .srtCeD 15#4 5#3 5#3, .stGrade 7#3 31#5 true 127#7,
      .stVCmp 31#5 7#3 7#3 (.ext 0xFFFFFFF#28), .cvt 31#5 31#5 7#4 3#2, .mxLd 2#2 7#3 1#4 none, .mxDrain 31#5 7#3 3#2 15#4 (some 127#7),
      .fdTap 7#3 7#3 3#2 11#4 7#3, .drain 5#3 7#3 7#3 7#3 15#4, .collStart 31#5 31#5 3#2],
      i ≠ .nop ∧ i.wf = true ∧ (encode i).isSome = true := by
  decide

theorem witness_EncodedWordDecodes :
    ∀ i ∈ [Instr.nop, .watch 31#5 31#5 31#5 (some 0xFFFFFFF#28), .loop true (.ext 0xFFFFFF#24) 255#8, .mxCfg (.ext 1023#10), .gst 31#5 31#5 3#2 (some 0#28),
      .recvMax 31#5 7#3], i.wf = true ∧ (encode i).isSome = true ∧ i.isPass = false ∧ i.isFeed = false := by
  decide

theorem witness_WordFieldsAndBytes : Slot.S ≠ Slot.N := by decide

theorem witness_IllegalWordReasons :
    (headerBits ((1#256) <<< 225)).extractLsb' 0 2 ≠ 0#2 ∧ (headerBits ((1#256) <<< 226)).extractLsb' 0 2 = 0#2 ∧
    isExtSlot (headerBits ((1#256) <<< 226)) .K = true ∧ Slot.lastOpc .N < (9#8).toNat ∧ (8#8).toNat ≤ Slot.lastOpc .N ∧ Slot.takesExt .S 0x0F = false ∧ (0#4 ≠ 0#4 ∨ 1#16 ≠ 0#16) ∧ (15#4 ≠ 0#4 ∨ 0#16 ≠ 0#16) ∧ (0x20#6 ≠ 0#6) := by
  decide

/-- A slot's turn at cycle 1000 with an entry dispatched at 999, one dispatched at 1000, and an empty queue. -/
def turn (cyc : Nat) : State :=
  let s := about demo 0 (.add 9#5 1#5 (.reg 2#5))
  { s.setCtx 0 { s.ctx 0 with queues := [(0, [{ entOf (.add 9#5 1#5 (.reg 2#5)) with cyc := cyc }])] } with focus := none, agenda := [.issue 0 0] }

theorem witness_StepRunsDecodedOperation :
    (about demo 0 .nop).focus = some (focOf 0 .nop) ∧
    (turn 999).focus = none ∧ (turn 999).agenda = [.issue 0 0] ∧ (turn 999).slotsRun 0 = true ∧
    ((turn 999).ctx 0).queue 0 = [{ entOf (.add 9#5 1#5 (.reg 2#5)) with cyc := 999 }] ∧
    ((turn 999).ctx 0).mayIssue { entOf (.add 9#5 1#5 (.reg 2#5)) with cyc := 999 } (turn 999).now = true ∧ (0#8).getLsbD 0 = false ∧
    ((turn 999).ctx 0).queue 1 = [] ∧
    ((turn 1000).ctx 0).mayIssue { entOf (.add 9#5 1#5 (.reg 2#5)) with cyc := 1000 } (turn 1000).now = false := by
  decide +kernel

/-- A context that holds its core, its image one word and a `nop`. -/
def atWord : State := { State.reset.readyFor 0 (BitVec.ofNat 256 (0x0010847 * 2 ^ 196)) with agenda := [.own (.core .wordDispatch 0)] }

theorem witness_StepDispatchesDecodedWord :
    atWord.focus = none ∧ atWord.agenda = [.own (.core .wordDispatch 0)] ∧ coreExists 0 = true ∧ (atWord.core 0).holder = some 0 ∧
    atWord.mayDispatch 0 = true ∧ ctxCore 0 = 0 ∧
    (decodeWord (isControl 0) (wordOfBytes (((atWord.imageOf 0).drop (atWord.ctx 0).pc).take 32))).toBool = true ∧
    (match ({ atWord with agenda := [] } : State).dispatchWord 0 with | .ok _ => true | _ => false) = true := by
  decide +kernel

theorem witness_StepFollowsTheAgenda :
    atWord.focus = none ∧ atWord.agenda = .own (.core .wordDispatch 0) :: [] ∧
    ({ atWord with agenda := [.event (.linkUp 0 0x100), .tick] } : State).agenda = .event (.linkUp 0 0x100) :: [.tick] ∧
    ({ atWord with agenda := [.tick] } : State).agenda = .tick :: [] ∧ ({ atWord with agenda := [] } : State).agenda = [] ∧ atWord.booted = true := by
  decide +kernel

theorem witness_ResetValues : (31#5 ≠ 0#5) ∧ (1#4 ≠ 0#4) ∧ (7#3 ≠ 0#3) := by decide

/-- The boot ROM's last step, still before boot. -/
def lastBootStep : State := { State.reset with bootStep := 5, agenda := [.own (.dev .powerOnBoot), .tick] }

theorem witness_PreBootInvariant : PreBoot lastBootStep ∧ ∃ t, step lastBootStep = .next t := by
  exact ⟨⟨rfl, rfl, rfl, rfl, rfl, Or.inr (Or.inl rfl), fun k => ⟨rfl, rfl, rfl⟩, fun k _ => rfl, fun q => rfl, fun _ => rfl, fun _ => rfl,
    rfl, fun _ => rfl, fun a _ _ => rfl⟩, _, rfl⟩

theorem witness_BootRefusesBadImages :
    (∃ s : State, s.booted = false ∧ s.bootFail = 0 ∧ s.bootStep = 1 ∧ s.conf.valid = false) ∧
    (∃ s : State, s.booted = false ∧ s.bootFail = 0 ∧ s.bootStep = 2 ∧ s.conf.fwValid = false) ∧
    (∃ s : State, s.bootFail ≠ 0) ∧ lastBootStep.booted = false ∧ lastBootStep.bootFail = 0 ∧ lastBootStep.bootStep = 5 ∧
    Memory.wf lastBootStep.mem = true :=
  ⟨⟨{ State.reset with bootStep := 1, conf := { Image.factory with valid := false } }, rfl, rfl, rfl, rfl⟩,
   ⟨{ State.reset with bootStep := 2, conf := { Image.factory with fwValid := false } }, rfl, rfl, rfl, rfl⟩,
   ⟨{ State.reset with bootFail := 2 }, by decide⟩, rfl, rfl, rfl, rfl⟩

/-- A core with one byte in its write queue. -/
def queuedByte : State := State.reset.setCore 0 { Core.reset with wq := [⟨0, 42, 8, 1#8⟩] }

theorem witness_MemoryStaysCanonical :
    Memory.wf [(0, 1#8), (2 ^ 39 - 1, 0xFF#8)] = true ∧ (∀ p ∈ [(0, 0#8)], p.1 ≠ 1) ∧ queuedByte.memoriesWf ∧
    (queuedByte.core 0).wq = ⟨0, 42, 8, 1#8⟩ :: [] ∧ (State.reset.core 0).wq = [] ∧ ∃ t, exec (.writeQueueBankWrite 0) queuedByte = .next t := by
  refine ⟨by decide, by decide, ⟨rfl, fun q => ?_⟩, rfl, rfl, ⟨_, rfl⟩⟩
  cases q <;> rfl

/-- A step before boot, and one of a core in the middle of its work. -/
theorem witness_StepKeepsMemoriesCanonical :
    (lastBootStep.memoriesWf ∧ ∃ t, step lastBootStep = .next t) ∧
    (({ queuedByte with agenda := [.own (.core .writeQueueBankWrite 0), .tick] } : State).memoriesWf ∧
      ∃ t, step { queuedByte with agenda := [.own (.core .writeQueueBankWrite 0), .tick] } = .next t) := by
  refine ⟨⟨⟨rfl, fun q => rfl⟩, _, rfl⟩, ⟨rfl, fun q => ?_⟩, _, rfl⟩
  cases q <;> rfl

theorem witness_ConstantRegisters : (1#5 ≠ 0#5) ∧ (1#3 ≠ 0#3) ∧ 2 ≤ (2#4).toNat := by decide

/-- A file with an earlier write of register 9, then one of word 5 and latency 3. -/
def twoWrites : RegFile W64 := ⟨[(9, 1#64)], [⟨3, 9, 4, 8, 0, false, false, some 2#64, .plain⟩]⟩

theorem witness_WrittenRegisterReadsBack :
    ({ demo with s := twoWrites.expect (wrAt 7 5 0 ⟨.s, 9, 3, false, false⟩) }).closers = [] ∧
    ({ demo with s := twoWrites.expect (wrAt 7 5 0 ⟨.s, 9, 3, false, false⟩) }).s = twoWrites.expect (wrAt 7 5 0 ⟨.s, 9, 3, false, false⟩) ∧
    (∀ e ∈ twoWrites.log, e.id ≠ 7) ∧ (∀ e ∈ twoWrites.log, e.idx = 9 → e.vis ≤ 5 + 3) ∧ 5 + 3 ≤ 8 ∧ 7 < 5 + 3 := by
  decide

/-- The context of `about`. -/
def ready (slot : Nat) (i : Instr) : Ctx := (about demo slot i).ctx 0

theorem witness_ScalarIntegerAndMoveResults :
    (about demo 0 .nop).focus = some (focOf 0 .nop) ∧ (ready 0 .nop).rdS 5 1#5 = .ok 10#64 ∧ (ready 0 .nop).rdB 5 (.reg 3#5) = .ok 0xFFFFFFFFFFFFFFFF#64 ∧
    (ready 0 .nop).rdB 5 (.ext 0x8000000#28) = .ok 0xFFFFFFFFF8000000#64 ∧
    (60 ≤ 64 ∧ (∀ i, i < 60 → (10#64).getMsbD i = false) ∧ (10#64).getMsbD 60 = true) ∧
    (64 ≤ 64 ∧ (∀ i, i < 64 → (0#64).getMsbD i = false)) ∧ ((0xFFFFFFFFFFFFFFFF#64).getMsbD 0 = true) ∧
    (ready 0 .nop).rdMov 5 (.nt 3#2) = .ok 0#64 ∧ (ready 0 .nop).rdP 5 2#4 = .ok true ∧ (ready 0 .nop).rdP 5 3#4 = .ok false ∧
    (ready 0 .nop).rdA 5 1#3 = .ok (256#24, 16#24) ∧
    ({ demo with s := ⟨[], [⟨3, 9, 4, 5, 0, false, false, none, .plain⟩]⟩ }).rdS 5 9#5 = .wait := by
  decide +kernel

theorem witness_ComparesAndScalarFloats :
    (ready 0 .nop).rdS 5 3#5 = .ok 0xFFFFFFFFFFFFFFFF#64 ∧ (ready 0 .nop).rdB 5 (.imm 31#5) = .ok 31#64 ∧ (ready 0 .nop).rdP 5 0#4 = .ok true ∧
    (ready 0 .nop).rdP 5 15#4 = .ok false := by
  decide +kernel

/-- The demo context under the stochastic mode. -/
def stochastic : Ctx := { demo with u := ⟨[(uFmode, 4#64)], []⟩ }

theorem witness_ComparesAndScalarFloats_floats :
    (ready 0 .nop).rdEnv 5 = .ok ⟨0, false⟩ ∧ (ready 0 .nop).rdF 5 4#5 = .ok 0x3FC00000 ∧ (ready 0 .nop).rdF 5 5#5 = .ok 0x33800000 ∧
    (ready 0 .nop).rdF 5 0#5 = .ok 0 ∧ (0 = 4 → (ready 0 .nop).rdLfsr 5 0 = .ok 0#32) ∧
    stochastic.rdEnv 5 = .ok ⟨4, false⟩ ∧ stochastic.rdLfsr 5 0 = .ok 1#32 ∧
    (XV.isNan (dec32 false 0x7FC00000#32) = true) ∧ (XV.isNan (dec32 false 0x3F800000#32) = false) := by
  decide +kernel

theorem witness_RegisterOnlyFrame :
    (about demo 0 (.add 9#5 1#5 (.reg 2#5))).focus = some (focOf 0 (.add 9#5 1#5 (.reg 2#5))) ∧ (ready 0 (.add 9#5 1#5 (.reg 2#5))).rdS 5 1#5 = .ok 10#64 ∧
    (ready 0 (.add 9#5 1#5 (.reg 2#5))).rdB 5 (.reg 2#5) = .ok 3#64 ∧ (ready 0 (.add 9#5 1#5 (.reg 2#5))).rdMov 5 (.imm 0x100#9) = .ok 0xFFFFFFFFFFFFFF00#64 ∧
    (after (about demo 0 (.add 9#5 1#5 (.reg 2#5))) (.add 9#5 1#5 (.reg 2#5))).isSome = true ∧
    (ready 3 (.mand 1#3 0#3 1#3)).rdM 5 0#3 = .ok (BitVec.allOnes 64) ∧ (ready 3 (.mand 1#3 0#3 1#3)).rdM 5 1#3 = .ok 0xF#64 ∧
    (after (about demo 3 (.mand 1#3 0#3 1#3)) (.mand 1#3 0#3 1#3)).isSome = true := by
  decide +kernel

/-- A context with an image of eight words. -/
def coded : Ctx := { demo with codesz := 256 }

theorem witness_BranchesAndLoops :
    ({ focOf 0 (.br (.short 0#16)) with disp := true }).disp = true ∧ (64 : Int) + 32 * brWords (.short 5#16) = 224 ∧ coded.legalTarget 224 = true ∧
    coded.legalTarget 256 = false ∧ coded.legalTarget (64 + 32 * brWords (.short 0xFFFD#16)) = false ∧ coded.rdS 5 31#5 = .ok 0#64 ∧
    coded.legalTarget 0 = true ∧ loopCount (.imm 0#7) = 0 ∧ coded.legalTarget (64 + 32 + 32 * ((3#8).toNat + 1) : Nat) = true ∧
    coded.rdS 5 0#5 = .ok 0#64 ∧ (focOf 0 .ret).disp = false ∧
    (255 < 256 ∧ 0xFFFFFFFF < 2 ^ 32 ∧ 0xFFFFFF < 2 ^ 24) ∧
    ({ coded with s := ⟨[(30, mkFrame 1 64 2)], []⟩ }).rdS 5 30#5 = .ok (mkFrame 1 64 2) ∧ ({ coded with s := ⟨[(30, mkFrame 1 64 2)], []⟩ }).rdS 5 29#5 = .ok 0#64 ∧
    frCount 0#64 = 0 ∧ 1 < frCount (mkFrame 1 64 2) ∧ 96 = frBegin (mkFrame 1 64 2) + 32 * frLast (mkFrame 1 64 2) ∧ frCount (mkFrame 1 64 1) = 1 ∧
    64 ≠ frBegin (mkFrame 1 64 2) + 32 * frLast (mkFrame 1 64 2) := by
  decide +kernel

/-- A context whose s9 an engine has still to write, and which has arrived at barrier 0x40. -/
def tokenOut : Ctx := { demo with s := ⟨[(1, 0x40#64)], [⟨3, 9, 4, 5, 6, true, false, none, .plain⟩]⟩, barRec := some (0x40, 3) }

theorem witness_YieldOperations :
    tokenOut.tokPending (9#5).toNat 5 = true ∧ tokenOut.rdS 5 9#5 = .wait ∧ tokenOut.tokPending (1#5).toNat 5 = false ∧ tokenOut.rdS 5 1#5 = .ok 0x40#64 ∧
    (0x40#64).toNat < 2 ^ 41 ∧ State.reset.barOutside tokenOut (0x40#64).toNat = false ∧ (0x40#64).toNat % 16 = 0 ∧
    (tokenOut.ops.any fun o => decide (o.kind = .barArr) && o.released && decide (o.addr = (0x40#64).toNat)) = false ∧
    tokenOut.barRec = some ((0x40#64).toNat, 3) ∧ demo.barRec = none ∧ 2 ^ 41 ≤ (0x20000000000#64).toNat := by
  decide +kernel

/-- A context with a checkpoint that word 5 opened. -/
def inCheckpoint : Ctx := { demo with chk := some ⟨4, 160, none⟩, lastMark := 4, dspec := true }

theorem witness_CheckpointOperations :
    (entOf (.spec 1#16)).checked = false ∧ ({ entOf (.spec 1#16) with checked := true }).checked = true ∧ demo.lastMark < (entOf (.spec 1#16)).word ∧
    (entOf (.spec 1#16)).word ≤ ({ demo with lastMark := 5 }).lastMark ∧ inCheckpoint.rdP 5 2#4 = .ok true ∧ inCheckpoint.rdP 5 4#4 = .ok false ∧
    inCheckpoint.chk = some ⟨4, 160, none⟩ ∧ (armed inCheckpoint 0 .specAbort).abortReady 0 5 = true := by
  decide +kernel

theorem witness_RollbackKeepsOnlyTheShadow :
    (let c := { demo with s := twoWrites, u := ⟨[], [⟨0, uTol, 4, 5, 0, false, false, some 60#64, .plain⟩]⟩, lastMark := 3 }
     (∀ e ∈ c.u.log, e.idx = uTol → e.val = none → e.async = false) ∧ (∀ e ∈ c.w.log, e.idx = 0 → e.val = none → e.async = false) ∧
     (c.s.log.any fun e => decide (3 < e.word)) = true ∧ (c.rollback.s.log.any fun e => decide (3 < e.word)) = false) := by
  decide

theorem witness_SoftwareTrap :
    (about demo 0 (.trap 0xFFFF#16)).focus = some (focOf 0 (.trap 0xFFFF#16)) ∧ (ready 0 (.trap 0xFFFF#16)).trapReady 0 5 = true ∧
    (ready 0 (.trap 0xFFFF#16)).chk = none ∧
    ({ ready 0 (.trap 0xFFFF#16) with queues := [(0, [entOf (.trap 0xFFFF#16)]), (2, [{ entOf .nop with word := 4 }])] }).trapReady 0 5 = false ∧
    isControl (ctxCore 0) = false ∧ isControl (ctxCore 64) = true := by
  decide +kernel

theorem witness_TrapEntry :
    demo.chk = none ∧ isControl (ctxCore 0) = false ∧ (State.reset.func demo.stat.vf).flr = 0 ∧ isControl (ctxCore 71) = true ∧ demo.stat.inTrap = false ∧
    inHandler.stat.inTrap = true ∧ inHandler.chk = none ∧ State.reset.errs.length < 65536 ∧
    inCheckpoint.chk.any (·.commit.isNone) = true ∧ demo.chk.any (·.commit.isNone) = false ∧
    ((State.setCtx State.reset 64 inCheckpoint).ctx 64).chk.any (·.commit.isNone) = true ∧ ((some ⟨4, 160, some 5⟩ : Option Checkpoint)).any (·.commit.isNone) = false ∧
    (((State.setCtx State.reset 64 inCheckpoint).rollbackCtx 64).ctx 64).chk.any (·.commit.isNone) = true := by
  decide +kernel

theorem witness_PreciseTrapUndoesTheWord : demo.chk = none ∧ (0x04 : Nat) ≠ 0x0D ∧ (0x04 : Nat) ≠ 0x13 ∧ isControl (ctxCore 0) = false := by decide

theorem witness_PrivilegeTraps :
    demo.stat.priv = false ∧ 0x800 ≤ (0x800#12).toNat ∧ (0x013#12).toNat < 0x800 ∧ ({ demo.stat with priv := true }).priv = true ∧
    (let as : List Act := [⟨0, .rti false, true⟩, ⟨1, .sctl 0#3 0#13, false⟩]
     as = [] ++ ⟨0, .rti false, true⟩ :: [⟨1, .sctl 0#3 0#13, false⟩]) ∧ demo.privFault (.rti false) = true ∧ demo.privFault (.sctl 0#3 0#13) = true := by
  decide +kernel

theorem witness_ReturnFromTrap :
    inHandler.stat.inTrap = true ∧ (armed inHandler 0 (.rti true)).othersIssued 0 5 = true ∧ demo.stat.inTrap = false ∧
    (armed inHandler 0 (.rti true)).allIssuedBefore 5 = true ∧ inHandler.heldChk = none ∧
    ({ inHandler with heldChk := some (⟨4, 160, none⟩, 192) }).heldChk = some (⟨4, 160, none⟩, 192) ∧ inHandler.marks = [] ∧ inHandler.passedTo 5 = true ∧
    ({ inHandler with marks := [⟨4, 96, false⟩] }).marks ≠ [] ∧ ({ inHandler with ops := [{ Op.blank with word := 4, passed := false }] }).passedTo 5 = false := by
  decide +kernel

theorem witness_ExitEndsTheTask :
    (entOf .exit).checked = false ∧ (ready 0 .exit).allIssuedBefore 5 = true ∧ (ready 0 .exit).othersIssued 0 5 = true ∧
    demo.lastMark < 5 ∧ demo.marks = [] ∧ (ready 0 .exit).passedTo 5 = true ∧ 5 ≤ ({ demo with lastMark := 5 }).lastMark ∧ demo.gstErr = [] ∧
    (let c := { ready 0 .exit with gstErr := [2] }
     c.gstErr = 2 :: [] ∧ c.allIssuedBefore 5 = true ∧ c.marks = [] ∧ c.chk = none ∧ isControl (ctxCore 0) = false ∧ (about c 0 .exit).gstOut 0 = false) ∧
    (about demo 0 .exit).quiet 0 = true ∧ demo.permit = none ∧ (about { demo with ops := [Op.blank] } 0 .exit).quiet 0 = false := by
  decide +kernel

theorem witness_ControlRegisters :
    (about demo 0 .nop).csrGet 0 5 0x000#12 = .ok 0x01000000#64 ∧ (about demo 0 .nop).csrGet 0 5 0x010#12 = .ok 0#64 ∧
    (ready 0 .nop).rdCsrSrc 5 (.ext 0xFFFFFFF#28) = .ok 0xFFFFFFF#64 ∧ (ready 0 (.csrw 0x801#12 (.reg 1#4))).allIssuedBefore 5 = true ∧
    (ready 0 (.csrw 0x801#12 (.reg 1#4))).othersIssued 0 5 = true ∧ (4#64).toNat % 8 ≤ 4 ∧ 3 < 4 ∧ 71 < 4096 ∧ State.reset.vertex < 2048 := by
  decide +kernel

theorem witness_IrrevocableOperations :
    (ready 0 .ntreq).rdS 5 1#5 = .ok 10#64 ∧ (ready 0 .ntreq).rdS 5 2#5 = .ok 3#64 ∧ (ready 0 .ntreq).rdB 5 (.imm 1#5) = .ok 1#64 ∧
    (entOf .ntreq).checked = false ∧ ({ entOf .ntreq with checked := true }).checked = true ∧ demo.lastMark < 5 ∧ 5 ≤ ({ demo with lastMark := 5 }).lastMark := by
  decide +kernel

theorem witness_IssuingOperationFrame :
    (about demo 0 .nop).focus = some (focOf 0 .nop) ∧ (match issued (about demo 0 .nop) (focOf 0 .nop) demo with | .next _ => true | _ => false) = true ∧
    (1#5 ≠ 0#5) ∧ (1#3 ≠ 0#3) ∧ uTol ≠ uFmode := by
  decide +kernel

theorem witness_ToleranceShares : (ready 1 .nop).rdS 5 3#5 = .ok 0xFFFFFFFFFFFFFFFF#64 ∧ (ready 1 .nop).rdS 5 1#5 = .ok 10#64 := by decide +kernel

/-- A context with a convergence table whose grades are 96, 187, 190 and 192, then 0. -/
def converging (tol : Nat) : Ctx := { demo with u := ⟨[(uTol, BitVec.ofNat 64 tol), (uItr + 1, 0xC0BEBB60#64)], []⟩ }

theorem witness_PredictorAndIterationOperations :
    (ready 1 .nop).rdS 5 1#5 = .ok 10#64 ∧ (ready 1 .nop).rdP 5 2#4 = .ok true ∧ (entOf (.ptRd 1#5 2#5)).checked = false ∧
    (about demo 1 .nop).now < ({ entOf (.ptRd 1#5 2#5) with cyc := 999 }).cyc + 2 ∧ ({ entOf (.ptRd 1#5 2#5) with cyc := 998 }).cyc + 2 ≤ (about demo 1 .nop).now ∧
    demo.remoteUsed < 16 ∧ (converging 120).rdU 5 uTol = .ok 120#64 ∧ (converging 120).rdU 5 (uItr + (1#2).toNat) = .ok 0xC0BEBB60#64 ∧
    (1 < 8 ∧ (∀ j, j < 1 → (0xC0BEBB60#64 >>> (8 * j)).toNat % 256 < 120) ∧ 120 ≤ (0xC0BEBB60#64 >>> (8 * 1)).toNat % 256) ∧
    (∀ j, j < 8 → (0xC0BEBB60#64 >>> (8 * j)).toNat % 256 < 193) ∧ (ready 1 .nop).rdA 5 1#3 = .ok (256#24, 16#24) ∧
    ((about demo 1 .nop).ctx 0).outside (256 + 64 * 8191 : Nat) 64 = false ∧ ((256 + 64 * 8191 : Nat) : Int) % 64 = 0 := by
  decide +kernel

theorem witness_PredictorTableUpdates :
    (7 < 8 ∧ 8191 < 8192) ∧ (([(0, 1#32), (16383, 2#32)] : AMap W32).map (·.1)).Pairwise (· < ·) ∧ (16383 < 16384 ∧ 16384 ≤ 16384) ∧
    (State.reset.setCluster 0 { Cluster.reset with ptq := [⟨0, 3, true, .hit 5, 0⟩] }).nextPt 0 = some (0, ⟨0, 3, true, .hit 5, 0⟩) ∧
    State.reset.nextPt 0 = none := by
  decide +kernel

theorem witness_SortStageResults :
    (ready 1 .nop).rdV 5 (1#4 ++ 0#1) = .ok (ofElems 32 (List.range 64)) ∧ (ready 1 .nop).rdVt 5 (1#4 ++ 0#1) = .ok tI32 ∧ (5#3).toNat ≤ 5 ∧
    31 < 64 ∧ 31 / 2 ^ 5 % 2 = 0 ∧ (0xFFFFFFFF#32).toInt < (0#32).toInt ∧ (0x7FC00000#32).toNat % 2 ^ 31 > 0x7F800000 ∧ (0xFF800000#32).toNat % 2 ^ 31 ≤ 0x7F800000 := by
  decide +kernel

theorem witness_ScratchpadLoads :
    (ready 2 .nop).rdA 5 1#3 = .ok (256#24, 16#24) ∧ (ready 2 .nop).ea 5 1#3 (.imm 255#8 : Off8) 8 = .ok (256 + 255 * 8) ∧
    (ready 2 .nop).outside (256 + 255 * 8) 8 = false ∧ ((256 + 255 * 8 : Int) % 8 = 0) ∧ (ready 2 .nop).storesPending 5 [(256 + 255 * 8, 8)] = false ∧
    (ready 2 .nop).wmStall 2296 8 = false ∧ ((about demo 2 .nop).core 0).ecc = [] ∧
    (ready 2 .nop).outside 0x3FFFF8 8 = false ∧ (ready 2 .nop).outside 0x3FFFF9 8 = true ∧ (ready 2 .nop).outside (-1) 1 = true ∧
    ((0x3FFFF1 : Int) % 8 ≠ 0) ∧ (ready 2 .nop).outside 0x3FFFF1 8 = false ∧
    ({ demo with queues := [(2, [{ entOf (.stB 1#5 1#3 (.imm 0#8)) with word := 4 }])] }).storesPending 5 [(256, 8)] = true ∧
    ({ demo with queues := [(2, [{ entOf (.stB 1#5 1#3 (.imm 0#8)) with word := 4 }])] }).storesPending 5 [(257, 8)] = false ∧
    ({ Core.reset with ecc := [2296] }).eccAt 2296 8 = some 2296 := by
  decide +kernel

theorem witness_ScratchpadStores :
    (ready 2 .nop).storeUsed 5 < 64 ∧ (ready 2 .nop).rdS 5 3#5 = .ok 0xFFFFFFFFFFFFFFFF#64 ∧ (ready 2 .nop).rdM 5 1#3 = .ok 0xF#64 ∧
    (ready 2 .nop).ea 5 1#3 (.imm 0#8 : Off8) 8 = .ok 256 ∧ (ready 2 .nop).outside 256 8 = false ∧ (∀ i, i < 8 → (ready 2 .nop).wmStall (256 + i) 1 = false) ∧
    (ready 2 .nop).rdFstat 5 = .ok 0#8 ∧ (ready 2 .nop).outside (256 + 64 * 127 : Nat) 64 = false ∧
    (match stored (about demo 2 .nop) (focOf 2 .nop) [(256, 1#8)] with | .next _ => true | _ => false) = true ∧
    5 < 6 ∧ lastByte [(256, 1#8)] 256 = some 1#8 ∧ (∀ p ∈ [(256, 1#8)], p.1 ≠ 257) ∧
    64 ≤ (List.replicate 64 (⟨4, 2, []⟩ : GStore)).length ∧ inCheckpoint.inSpec = true ∧ demo.specAhead 5 = false := by
  decide +kernel

theorem witness_LaneIndexedAndVectorStores :
    (ready 2 .nop).rdV 5 2#5 = .ok (ofElems 32 (List.range 64)) ∧ (ready 2 .nop).rdM 5 ((1#2).setWidth 3) = .ok 0xF#64 ∧
    (ready 2 .nop).rdV 5 9#5 = .ok 0#2048 ∧
    (∀ j, j < 64 → (0xF#64).getLsbD j = true → (ready 2 .nop).outside (256 + (lane (ofElems 32 [0, 4, 8, 12]) j).toInt) 4 = false ∧
      (256 + (lane (ofElems 32 [0, 4, 8, 12]) j).toInt) % 4 = 0) ∧
    (ready 2 .nop).ea 5 1#3 (.imm 31#5 : Off5) 16 = .ok 752 ∧ (ready 2 .nop).rdVt 5 9#5 = .ok tRAW ∧ (ready 2 .nop).outside 752 (tagBytes tRAW) = false ∧ (752 : Int) % 4 = 0 := by
  decide +kernel

theorem witness_VectorFloatResults :
    (ready 3 .nop).rdEnv 5 = .ok ⟨0, false⟩ ∧ (ready 3 .nop).rdV 5 (VaOp.masked 4#5 5#5 4#3 1#2).va = .ok (ofElems 32 (List.replicate 64 0x40000000)) ∧
    (ready 3 .nop).rdV 5 (VaOp.masked 4#5 5#5 4#3 1#2).vb = .ok (ofElems 32 (List.replicate 64 0x3F800000)) ∧
    (ready 3 .nop).rdM 5 ((1#2).setWidth 3) = .ok 0xF#64 ∧ (VaOp.plain 4#5 5#5 5#5).mk = none ∧ (VaOp.masked 4#5 5#5 4#3 1#2).mk.isSome = true ∧
    (ready 3 .nop).rdV 5 4#5 = .ok (ofElems 32 (List.replicate 64 0x3F800000)) ∧ stochastic.rdEnv 5 = .ok ⟨4, false⟩ ∧ stochastic.rdLfsr 5 3 = .ok 1#32 := by
  decide +kernel

theorem witness_VectorUnaryFloatResults :
    (ready 3 .nop).rdEnv 5 = .ok ⟨0, false⟩ ∧ (ready 3 .nop).rdV 5 (VuOp.masked 4#5 5#5 1#2).va = .ok (ofElems 32 (List.replicate 64 0x40000000)) ∧
    (ready 3 .nop).rdM 5 ((1#2).setWidth 3) = .ok 0xF#64 ∧ (ready 3 .nop).rdV 5 (VuOp.masked 4#5 5#5 1#2).vd = .ok (ofElems 32 (List.replicate 64 0x3F800000)) ∧
    (0xFF800001#32).toNat % 2 ^ 31 > 0x7F800000 ∧ (0x00800000 ≤ (0x80800000#32).toNat % 2 ^ 31 ∧ (0x80800000#32).toNat % 2 ^ 31 ≤ 0x7F800000 ∧ (0x80800000#32).getLsbD 31 = true) ∧
    (0xFF800000#32).toNat % 2 ^ 31 ≤ 0x7F800000 := by
  decide +kernel

theorem witness_VectorIntegerAndMoveResults :
    (ready 3 .nop).rdV 5 1#5 = .ok (ofElems 32 (List.replicate 64 3)) ∧ (ready 3 .nop).rdV 5 2#5 = .ok (ofElems 32 (List.range 64)) ∧
    (ready 3 .nop).rdM 5 1#3 = .ok 0xF#64 ∧ (ready 3 .nop).rdV 5 ((7#3).setWidth 5) = .ok 0#2048 ∧ (ready 3 .nop).rdS 5 3#5 = .ok 0xFFFFFFFFFFFFFFFF#64 ∧ 63 < 64 := by
  decide +kernel

theorem witness_MaskOperationResults : (ready 3 .nop).rdM 5 0#3 = .ok (BitVec.allOnes 64) ∧ (ready 3 .nop).rdM 5 1#3 = .ok 0xF#64 := by decide +kernel

theorem witness_VectorCompareAndReductionResults :
    (ready 3 .nop).rdV 5 2#5 = .ok (ofElems 32 (List.range 64)) ∧ (ready 3 .nop).rdEnv 5 = .ok ⟨0, false⟩ ∧ (ready 3 .nop).rdM 5 1#3 = .ok 0xF#64 ∧
    stochastic.rdLfsr 5 3 = .ok 1#32 ∧ (dec32 false 0x7F800001#32).isNan = true ∧ (dec32 false 0x3F800000#32).isNan = false ∧
    ((List.range 64).filter fun j => (0xF#64).getLsbD j) ≠ [] ∧ ((List.range 64).filter fun j => (0#64).getLsbD j) = [] := by
  decide +kernel

theorem witness_ConversionResults :
    (ready 3 .nop).rdEnv 5 = .ok ⟨0, false⟩ ∧ (ready 3 .nop).rdVt 5 4#5 = .ok tF32 ∧ (ready 3 .nop).rdVt 5 9#5 = .ok tRAW ∧
    (about demo 3 .nop).scaleFor 0 5 = .ok [] ∧ (1 ≤ tF32.toNat ∧ tAQ8.toNat ≤ 0xB ∧ tI8.toNat ≤ 7) ∧
    (1#2).toNat * min (tagCount tF32) (tagCount tBF16) < max (tagCount tF32) (tagCount tBF16) ∧ (0#2).toNat * min (tagCount tF32) (tagCount tI32) < max (tagCount tF32) (tagCount tI32) ∧
    (match (ready 3 .nop).rdSrc 5 4#5 with | .ok xs => decide (xs.length = 128) | _ => false) = true ∧ (ready 3 .nop).rdU 5 uTol = .ok 0#64 ∧
    isSX (fitChoice false 55) = true ∧ fitChoice false 89 = tF32 ∧ fitChoice true 0 = tE5M2 ∧
    (aqQuantise (List.replicate 128 (dec32 false 0x3F800000#32))).isSome = true ∧ (aqQuantise [dec32 false 0x7F800000#32]).isSome = false := by
  decide +kernel

/-- Holding a granted permit, one requested, and a die with the last of its budget asked for. -/
def permitted (g : Bool) : State := State.reset.setCtx 0 { demo with permit := some ⟨3, 2, g⟩ }
def governed (held : Nat) : State := State.reset.setDie 0 { Die.reset with queue := [(0, 3, 3)], held := held }

theorem witness_MatrixConfigurationAndPermits :
    (ready 4 .mxRel).rdS 5 1#5 = .ok 10#64 ∧ (ready 4 .mxRel).allIssuedBefore 5 = true ∧ (ready 4 .mxRel).othersIssued 4 5 = true ∧
    ({ ready 4 .mxRel with queues := [(0, [entOf .nop]), (4, [entOf .mxRel])] }).othersIssued 4 5 = false ∧
    (demo.permit = none) ∧ ((permitted true).ctx 0).permit = some ⟨3, 2, true⟩ ∧ ((permitted false).ctx 0).permit = some ⟨3, 2, false⟩ ∧
    ((governed 32).die 0).queue = (0, 3, 3) :: [] ∧ ((governed 32).die 0).hold = false ∧ ((governed 32).die 0).held + 2 ^ 3 ≤ ((governed 32).die 0).budget ∧
    ((governed 33).die 0).budget < ((governed 33).die 0).held + 2 ^ 3 := by
  decide +kernel

/-- Weight registers w0, tagged BF16 and ready at cycle 1000, and w2. -/
def weighted : Ctx := { demo with w := ⟨[(0, ⟨tBF16, false, [], 1000, [], 0⟩)], []⟩, a := ⟨[(1, .set 0x1000#24 256#24)], []⟩ }

theorem witness_WeightRegisterOperations :
    (tBF16 ≠ tF32 ∧ 0 % 2 = 0 ∧ 3 % 2 = 1) ∧ weighted.rdW 5 (3 - 1) = .ok WReg.blank ∧ WReg.blank.tag ≠ tF32 ∧
    weighted.rdA 5 1#3 = .ok (0x1000#24, 256#24) ∧ weighted.rdW 5 0 = .ok ⟨tBF16, false, [], 1000, [], 0⟩ ∧ (1000 ≤ (about weighted 4 .nop).now) ∧
    (∀ r ∈ List.range 128, weighted.outside (0x1000 + r * 256 : Nat) 256 = false ∧ ((0x1000 + r * 256 : Nat) : Int) % 16 = 0) ∧
    (weighted.writeW (focOf 4 .nop) 0 tBF16 [] 0 matches .ok _) = true ∧ (armed weighted 4 .nop).stageOf 5 4 = none ∧
    (armed weighted 4 .nop).allIssuedBefore 5 = true ∧
    ({ weighted with stages := [⟨5, 4, 1, [0x1000], 256, none, some [[]], 990⟩] }).stageOf 5 4 = some ⟨5, 4, 1, [0x1000], 256, none, some [[]], 990⟩ ∧
    127 < 128 := by
  decide +kernel

/-- A context that may start the pass of word 5 with the feed it has read. -/
def fedPass : Ctx := { weighted with permit := some ⟨3, 2, true⟩, lastMark := 5, feed := some ⟨5, tBF16, [[]]⟩, u := ⟨[(uMxc, 0x3FF#64)], []⟩ }

theorem witness_MatrixPasses :
    (ready 4 (.mxRun 0#3 0#2 0#2 0#5)).issuedBefore 4 5 = true ∧ demo.permit = none ∧ fedPass.permit ≠ none ∧ fedPass.stCheck 5 0#5 = .ok () ∧ demo.lastMark < 5 ∧
    5 ≤ fedPass.lastMark ∧ fedPass.rdS 5 0#5 = .ok 0#64 ∧ fedPass.rdW 5 0 = .ok ⟨tBF16, false, [], 1000, [], 0⟩ ∧ fedPass.rdU 5 uMxc = .ok 0x3FF#64 ∧
    fedPass.rdEnv 5 = .ok ⟨0, false⟩ ∧ fedPass.feed = some ⟨5, tBF16, [[]]⟩ ∧ feedTag tBF16 tBF16 ≠ tAQ8 ∧ feedTag tAQ8 tI8 = tAQ8 ∧
    ((about fedPass 4 .nop).core 0).passCyc + ((about fedPass 4 .nop).core 0).passInt ≤ (about fedPass 4 .nop).now ∧ fedPass.accBusy 0 = false ∧
    (⟨3, 5, 0, 1000, 128, false, .clr true, 127⟩ : Pass).done ≤ 127 ∧ 127 < 128 ∧ 1000 + 136 + 127 ≤ 1263 := by
  decide +kernel

/-- A context with stream 15 open, and one with two drains in the port. -/
def streaming : Ctx :=
  let r := { Coll.parse (List.replicate 128 0#8) with strm := true, sstr := 15 }
  { demo with ops := [{ Op.blank with id := 3, kind := .coll, gated := true, released := true, coll := some r }] }

theorem witness_DrainsAndFeeds :
    demo.streamOpen 15 = false ∧ streaming.streamOpen 15 = true ∧ streaming.drains.length < 2 ∧ streaming.accBusy 0 = false ∧
    2 ≤ (List.replicate 2 (⟨1, 2, 3, 15, 0, [], true, 0, false, false⟩ : DrainOp)).length ∧
    (armed weighted 5 .fdZ).issuedBefore 4 5 = true ∧ weighted.rdU 5 uMxc = .ok 0x3FF#64 ∧ weighted.rdFeedTag 5 tBF16 = .ok tBF16 ∧ weighted.rdFeedTag 5 0#4 = .ok tRAW ∧
    weighted.rdA 5 0#3 = .ok (0#24, 0#24) ∧ weighted.rdFo 5 3#2 = .ok 0#24 ∧ weighted.rdFi 5 3#2 = .ok 0#16 ∧
    (∀ i ∈ List.range 128, weighted.outside (0x1000 + i * 256 : Nat) (rowBytes tBF16) = false ∧ ((0x1000 + i * 256 : Nat) : Int) % 16 = 0 ∧
      weighted.wmStall (0x1000 + i * 256) (rowBytes tBF16) = false) ∧
    (entOf .fdZ).checked = false ∧ ({ entOf .fdZ with checked := true }).checked = true ∧ 5 ≤ fedPass.lastMark ∧
    State.reset.coreFor 0 1 ≠ ctxCore 0 ∧
    (let r : Rendez := ⟨1, 0, 0, 3, 128, 2, 1000, [(0, 5), (1, 9)]⟩
     ([r].any fun r => r.closed 1000 && !r.members.any (about demo 5 .nop).memberHeld) = true ∧
     (([] : List Rendez).any fun r => r.closed 1000 && !r.members.any (about demo 5 .nop).memberHeld) = false ∧
     [r].find? (fun r => r.closed 1000 && !r.members.any (about demo 5 .nop).memberHeld) = some r ∧ decide (r.m ≤ r.members.length) = true ∧ (decide (({ r with members := [] }).m ≤ 0) || decide (1000 + 4096 ≤ 5095)) = false ∧ 1000 + 4096 ≤ 5096) := by
  decide +kernel

/-- A shape record at scratchpad 0x40: one row of 16 bytes from 0x1000 to scratchpad 0x100, with FLAGS and AUX as given; the 32 bytes
at 0x200 are a dispatch row. -/
def recBytes (rows bytes flags aux : Nat) : List Byte :=
  leBytes 8 0x1000 ++ leBytes 2 rows ++ leBytes 2 0 ++ leBytes 4 bytes ++ leBytes 8 0 ++ leBytes 4 0x100 ++ leBytes 4 bytes ++ leBytes 8 0 ++
    leBytes 4 flags ++ leBytes 12 0 ++ leBytes 4 aux ++ leBytes 4 0
def withRecord (rows bytes flags aux : Nat) : State :=
  let s := about demo 6 .nop
  s.setCore 0 { s.core 0 with sp := memSets [] (cellsAt 0x40 (recBytes rows bytes flags aux) ++ [(0x20C, 1#8)]) }
def parsed (rows bytes flags aux : Nat) : List Byte := (withRecord rows bytes flags aux).spRead 0 5 0x40 64

theorem witness_CopyOperationsIssue :
    demo.gstWaiting = false ∧ ((withRecord 1 16 0 0).core 0).ecc = [] ∧ (ready 6 .nop).storesPending 5 [(0x40, 64)] = false ∧ (about demo 6 .nop).cFree 0 = true ∧ (ready 6 .nop).chanBusy 15#4 = false ∧
    ({ demo with chans := [(15, ⟨0, 15, true, true, 0⟩)] }).chanBusy 15#4 = true ∧ recAddr (.imm 1#7 : Rec7) = 0x40 ∧ recAddr (.ext 0xFFFF#16 : Rec4) = 0x3FFFC0 ∧
    demo.outside 0x40 64 = false ∧ demo.outside (0x3FFFC0 + 64 : Nat) 64 = true ∧
    (withRecord 1 16 0 0).shapeFaults demo .plain (parsed 1 16 0 0) = [] ∧ (withRecord 0 16 0 0).shapeFaults demo .plain (parsed 0 16 0 0) = 8 :: [] ∧
    (withRecord 1 16 0 4).shapeFaults demo .prefetch (parsed 1 16 0 4) = [] ∧ (withRecord 1 16 0 0x200).shapeFaults demo .gather (parsed 1 16 0 0x200) = [] ∧
    (withRecord 1 16 0x100 0).shapeFaults demo .reduce (parsed 1 16 0x100 0) = [] ∧ (withRecord 1 256 0x10 0).shapeFaults demo .tile (parsed 1 256 0x10 0) = [] ∧
    demo.recHorizon 5 (Shape.parse (parsed 1 16 0 0)) = .ok (0, 0) ∧
    ({ demo with u := ⟨[(uHzn, 0x8000000100000002#64)], []⟩ }).recHorizon 5 (Shape.parse (parsed 1 16 1 0)) = .ok (1, 2) ∧
    (Shape.parse (parsed 1 16 0 0)).barV = false ∧ demo.xdispFaults false (Shape.parse (parsed 1 256 0x110 0x200)) = [] ∧
    dispOk 1 ((withRecord 1 256 0x110 0x200).spRead 0 5 0x200 32) = true := by
  decide +kernel

theorem witness_GlobalAccessesIssue :
    demo.gstWaiting = false ∧ (ready 6 .nop).rdS 5 1#5 = .ok 10#64 ∧ (ready 6 .nop).rdRegExt 5 (.ext 0xFFFFFFF#28) = .ok 0xFFFFFFF#64 ∧
    (10#64 + BitVec.ofInt 64 (-2)).toNat % 2 ^ (3#2).toNat = 0 ∧ (10#64).toNat % 2 ^ (2#2).toNat ≠ 0 ∧ demo.remoteUsed < 16 ∧
    ({ demo with u := ⟨[(uHzn + 3, 0x8000000100000002#64)], []⟩ }).rdU 5 (uHzn + 3) = .ok 0x8000000100000002#64 ∧ (0x8000000100000002#64).getLsbD 63 = true ∧
    demo.rdU 5 (uHzn + 3) = .ok 0#64 ∧ (0#64).getLsbD 63 = false ∧ 2 ^ 41 ≤ (2#64 ^ 41).toNat ∧ (0x3FFFF0#64).toNat < 2 ^ 41 ∧
    State.reset.barOutside demo 0x3FFFF0 = false ∧ 0x3FFFF0 % 16 = 0 ∧ demo.rdCid 5 (.ext 0xFFFFFF#24) = .ok 0xFFFFFF ∧
    ({ demo with gstErr := [2] }).gstErr = 2 :: [] ∧ demo.gstErr = [] ∧ (0 : Nat) < ({ demo with ops := [{ Op.blank with kind := .cpIn }] }).copiesOut ∧
    demo.loadsOut ≤ 0 ∧ (about demo 6 .nop).storesOut 0 0 ≤ 0 ∧ demo.copiesOut ≤ 0 ∧ demo.tilesBefore 5 1000 ≤ 0 ∧ demo.marksDone 5 = true ∧ demo.trapReady 6 5 = true ∧ (15#4 ≠ 0#4) ∧
    (∀ o ∈ demo.ops, o.word < 5 → o.passed = true) ∧ (about demo 6 .qpoint).sdPending 0 = false := by
  decide +kernel

/-! ## Witnesses of the events' statements -/

/-- A context with an entry of ones in FP32 at the head of queue 2, and one with a plain AQ8 row's BF16 escape. -/
def received (t : Tag) : Ctx :=
  { demo with rq := [(2, ⟨[⟨ofElems 32 (List.replicate 64 0x3F800000), t, false⟩], 0⟩)], vt := ⟨[(1, tI32), (2, tI32), (4, tF32), (5, tF32)], []⟩,
              gs := [(1, 0x8000000100000002#64)] }

def sending (released : Bool) (dests reserved : List Nat) : SendOp := ⟨3, 4, 0#2048, tF32, dests, reserved, released, 0, 0⟩

theorem witness_NetworkOperations :
    (about demo 7 .nop).focus = some (focOf 7 .nop) ∧ demo.rdS 5 1#5 = .ok 10#64 ∧ (about demo 7 .nop).owner (qaCluster 10#64) = demo.stat.vf ∧
    State.owner { State.reset with conf := { Image.factory with owner := List.replicate 32 3 } } (qaCluster 10#64) ≠ demo.stat.vf ∧
    demo.sends.length < 16 ∧ 16 ≤ ({ demo with sends := List.replicate 16 (sending false [8] []) }).sends.length ∧ demo.remoteUsed < 16 ∧
    demo.rdV 5 4#5 = .ok (ofElems 32 (List.replicate 64 0x3F800000)) ∧ demo.rdVt 5 4#5 = .ok tF32 ∧
    (aqQuantise (List.replicate 128 (XV.nan false))).isNone = true ∧ (aqQuantise (List.replicate 128 (decElem tF32 0x3F800000))).isSome = true ∧
    (0x40#64).toNat % 64 = 0 ∧ ((received tF32).gs.get 0#64 (1#2).toNat).getLsbD 63 = true ∧ (demo.gs.get 0#64 (1#2).toNat).getLsbD 63 = false ∧
    demo.outside (0x40#64).toNat 128 = false ∧ demo.storesPending 5 [(0x40, 128)] = false ∧ ((about demo 7 .nop).core 0).ecc = [] ∧
    demo.collFaults (leBytes 2 0x0100 ++ [0#8, 0#8, 1#8, 0#8] ++ leBytes 2 0 ++ leBytes 4 16 ++ leBytes 4 0 ++ leBytes 8 0 ++ leBytes 4 1 ++ List.replicate 36 0#8 ++
      leBytes 2 1 ++ List.replicate 62 0#8) = [] ∧
    demo.tokPending 9 5 = false ∧ demo.head 2 5 = .wait ∧ (received tF32).head 2 5 = .ok ⟨ofElems 32 (List.replicate 64 0x3F800000), tF32, false⟩ ∧
    tF32 ≠ tI32 ∧ (6#5).toNat % 2 = 0 ∧ demo.rdVt 5 (4#5 + 1) = .ok tF32 ∧ (received tBF16).rdEnv 5 = .ok ⟨0, false⟩ ∧
    ([64 + 8] : List Nat).Nodup ∧ (∀ d ∈ [72], d ∈ [72]) ∧ (72 : Nat) / 8 ≠ 0 ∧ 16 ≤ (⟨List.replicate 15 ⟨0#2048, 0#4, false⟩, 1⟩ : RQueue).ents.length + 1 ∧
    RQueue.none.ents.length + RQueue.none.reserved < 16 ∧ (999 : Nat) < 1000 ∧ (demo.ops.filter fun o => decide (o.kind = .coll)).length < 2 ∧
    (about demo 7 .nop).askedBefore 0 { sending true [8] [] with asked := 1001 } 8 = false ∧
    (State.setCtx (about demo 7 .nop) 9 { demo with sends := [{ sending true [8] [] with asked := 1000 }] }).askedBefore 0 { sending true [8] [] with asked := 1001 } 8 = true ∧
    (∀ b ∈ ([⟨1012, 0, 8, 0#2048, tF32⟩, ⟨1013, 9, 8, 0#2048, tF32⟩] : List Flight), b.dest = 8 → b.before ⟨1012, 0, 8, 0#2048, tF32⟩ = false) ∧ coreCluster 0 = coreCluster 7 ∧ coreCluster 0 ≠ coreCluster 16 ∧
    coreCluster 0 / 8 ≠ coreCluster 128 / 8 := by
  decide +kernel

/-- A context that holds its core before a word whose format field is nonzero. -/
def atWordImage : State := State.reset.readyFor 0 (BitVec.ofNat 256 (1 * 2 ^ 225))

/-- A checkpoint with a full buffer, a store at the head of slot A and slot S full. -/
def inCheckpoint' : Ctx :=
  { demo with chk := some ⟨4, 160, none⟩, gstores := (List.range 64).map (fun i => ⟨i + 6, 2, []⟩),
              queues := [(0, List.replicate 16 (entOf .nop)), (2, [entOf (.stB 2#5 1#3 (.imm 0#8))])] }

/-- Context 0 waits at a barrier of core 1, context 1 is ready, and both have something to be told. -/
def waitingAt (n : Bool) : Ctx := { demo with run := .waitBar 0x40000040 0 true n, word := 6 }

theorem witness_ContextAndCoreEvents :
    coreExists 10 = false ∧ coreExists 512 = false ∧ coreExists 0 = true ∧ State.reset.mayDispatch 0 = false ∧ (State.reset.core 0).holder = none ∧
    (∀ i, i < 8 → (State.reset.ctx (8 * 0 + i)).isReady = false) ∧ ((about demo 0 .nop).core 0).holder = some 0 ∧
    (State.setCtx State.reset 2 demo).mayDispatch 2 = true ∧ ((State.setCtx State.reset 2 demo).ctx (8 * 0 + ((State.reset.core 0).last + 1 + 2) % 8)).isReady = true ∧
    (∀ j, j < 2 → ((State.setCtx State.reset 2 demo).ctx (8 * 0 + ((State.reset.core 0).last + 1 + j) % 8)).isReady = false) ∧
    demo.legalTarget demo.pc = false ∧ (atWordImage.ctx 0).legalTarget 0 = true ∧
    (decodeWord (isControl 0) (wordOfBytes (((atWordImage.imageOf 0).drop 0).take 32))).toBool = false ∧
    ({ demo with marks := [⟨5, 96, false⟩] }).marks = ⟨5, 96, false⟩ :: [] ∧ ({ demo with marks := [⟨5, 96, false⟩] }).markIssued 5 = true ∧
    ({ demo with marks := [⟨5, 96, false⟩] }).passedTo 5 = true ∧ demo.chk = none ∧
    ({ demo with queues := [(0, [{ entOf .nop with word := 5 }])] }).markIssued 5 = false ∧ inCheckpoint'.inSpec = true ∧ demo.inSpec = false ∧
    64 ≤ inCheckpoint'.storeUsed 5 ∧ isSpStore (.stB 2#5 1#3 (.imm 0#8)) = true ∧ 16 ≤ (inCheckpoint'.queue 0).length ∧
    inCheckpoint'.queue 2 = entOf (.stB 2#5 1#3 (.imm 0#8)) :: [] ∧
    ({ demo with watch := some ⟨3, 0, 0, 999, false⟩ }).watch = some ⟨3, 0, 0, 999, false⟩ ∧ (999 ≠ 0 ∧ 999 ≤ (about demo 0 .nop).now) ∧
    (State.setCluster State.reset 0 { Cluster.reset with deliv := [(0, 3, 7)] }).clusters = [(0, { Cluster.reset with deliv := [(0, 3, 7)] })] ∧
    (waitingAt false).run = .waitBar 0x40000040 0 true false ∧ barDev 0x40 = State.reset.vertex ∧
    ((State.reset.core 0).bar 0x40).gen = 0 ∧ ((State.reset.core 0).bar 0x40).pend = 0 ∧
    (⟨0x40, 0, true, 0, true⟩ : BarWait).hit = true ∧ ((about demo 0 .nop).core 0).turn + 65536 ≤ 66000 ∧
    (([⟨0, 3, 1⟩] : List TileReq) = ⟨0, 3, 1⟩ :: []) ∧ State.reset.recs.find? 1 = none := by
  decide +kernel

/-- The checkpoint of `inCheckpoint` before its `spec.commit`, and after one in word 5; a core that a trap halted. -/
theorem witness_ContextAndCoreEvents_checkpoints :
    (∀ w, (none : Option Nat) = some w → 5 < w) ∧ (∀ w, some 6 = some w → 5 < w) ∧
    (⟨4, 160, some 5⟩ : Checkpoint).commit = some 5 ∧ ((⟨4, 160, some 4⟩ : Checkpoint).commit = some 4 ∧ 4 < 5) ∧
    inCheckpoint.chk = some ⟨4, 160, none⟩ ∧ (State.reset.core 0).halted = false ∧
    ({ Core.reset with halted := true }).halted = true ∧ ({ Core.reset with halted := true }).holder = none := by
  decide

/-- Function 0 has an address space: a leaf of level 2 maps its first 512 MiB to this device's, frames granted. -/
def mapped : State :=
  { State.reset with
      booted := true, svc := 0, now := 100000,
      frames := [(0, 0x21C0000000000000#64), (1, 0x21C0000000000000#64), (2, 0x21C0000000000000#64)],
      funcs := [(0, { Func.reset with tr := 0x8000000000000001#64, memActive := true })],
      mem := memSets [] (cellsAt 0x10000 (leBytes 8 (2 ^ 63 + 2)) ++ cellsAt 0x20000 (leBytes 8 (2 ^ 63 + 2 ^ 62 + 2 ^ 56 + 2 ^ 55 + 2 ^ 54))) }

/-- The same, with the leaf's MIG or READ-DUPLICATE field set. -/
def mappedWith (x : Nat) : State :=
  { mapped with mem := memSets mapped.mem (cellsAt 0x20000 (leBytes 8 (2 ^ 63 + 2 ^ 62 + 2 ^ 56 + 2 ^ 55 + 2 ^ 54 + x))) }

/-- An operation 3 of context 0 with one piece. -/
def copying (kind : OpKind) (st : PieceSt) : Op :=
  { Op.blank with id := 3, word := 4, kind := kind, pieces := [⟨0, 0x100, 0x200, 16, none, false, List.replicate 16 1#8, st, none⟩] }
def withOp (o : Op) : State := mapped.setCtx 0 { demo with ops := [o] }
/-- An `xdisp` that has read the entry of expert 2 and the descriptor of its one replica, on device 5, one row deep and full. -/
def fullReplica : Op :=
  { Op.blank with kind := .xdisp false, pieces := [⟨rowEntry + 2, 0, 0, 32, some (0, 0), false, leBytes 8 1 ++ leBytes 8 0x1000 ++ List.replicate 48 0#8, .replied, none⟩,
    ⟨rowDesc + 8, 0x1000, 0, 128, some (5, 0x1000), false, leBytes 8 0 ++ leBytes 8 1 ++ leBytes 8 1 ++ leBytes 8 0 ++ List.replicate 96 0#8, .replied, none⟩] }
/-- A translation of page 0 of address space 0, granting reads. -/
def hitEnt : TlbEnt := ⟨0, 0, 1, true, true, true, false, false, 0, 0, 0⟩
def expRow : ExpRow := ⟨0, 3, 0, 0x100, 0, none, false, ⟨0, 0, 0, 0, 0, 0, 0, false, [], 0, 0⟩, []⟩

theorem witness_CopyEngineEvents :
    (mapped.ctx 0).findOp 3 = none ∧ ((withOp (copying .cpIn .fresh)).ctx 0).findOp 3 = some (copying .cpIn .fresh) ∧
    (∀ p ∈ (copying .cpIn .replied).pieces, p.st ≠ .fresh) ∧ (withOp (copying .cpIn .fresh)).mayWalk 0 (copying .cpIn .fresh) = true ∧
    (State.setCtx mapped 0 { demo with run := .halted }).mayWalk 0 (copying .cpIn .fresh) = false ∧ (State.reset.func 0).space = none ∧
    (mapped.func 0).space = some (0, 1) ∧ (∀ e ∈ (mapped.core 0).tlb, e.maps 0 0x100 = false) ∧
    (copying .cpIn .fresh).icnt = (mapped.core 0).icnt ∧ ({ copying .cpIn .fresh with icnt := 7 }).icnt ≠ (mapped.core 0).icnt ∧
    (match mapped.walkFrom 0 0x100 3 1 1 with | .ok e => e.maps 0 0x100 && e.r && decide (e.size = 8192) | .fault _ => false) = true ∧
    (match State.reset.walkFrom 0 0x100 3 1 1 with | .ok _ => 9 | .fault k => k) = 0 ∧
    (match (mappedWith (2 ^ 60)).walkFrom 0 0x100 3 1 1 with | .ok _ => 9 | .fault k => k) = 5 ∧
    OpKind.cpIn ≠ .cpPf ∧ demo.run ≠ .trapped ∧ (copying .cpIn .replied).fractured = none ∧
    (∀ p ∈ (copying .cpIn .sent).pieces, (copying .cpIn .sent).mayLand p = false) ∧
    (∀ p ∈ (copying .cpIn .replied).pieces, (copying .cpIn .replied).mayLand p = true) ∧ (copying .cpIn .replied).shape.barV = false ∧
    (copying .cpIn .sent).finished = false ∧ (copying .cpIn .landed).finished = true ∧ (copying .cpIn .landed).burst ≠ 2 ∧
    (copying .cpIn .landed).defer = false ∧ (({ copying .cpPf .landed with defer := true, fault := some (0x14, 0x100) }).fault = some (0x14, 0x100)) ∧
    (∀ x ∈ [(⟨0, 0, 0, 0, 0, 0, 0, false, [], 1000, 4⟩ : XRow)], x.st = 4 ∧ x.waited ≠ 0 ∧ x.waited + 4095 ≤ 5095) ∧ (5094 < 1000 + 4095) ∧
    mapped.replicas 0 fullReplica 2 = (5, 0x1000, 1, 1) :: [] ∧ (1 ≤ 1) ∧ mapped.burstOk 0 { fullReplica with burst := 2 } = true ∧
    (∀ e ∈ ((mapped.core 0).tlb), e.maps 0 0x100 = true → e.refuses [.rd] ≠ none) ∧
    List.find? (fun e => e.maps 0 0x100 && (e.refuses [.rd]).isNone) [hitEnt] = some hitEnt ∧
    (∀ e ∈ [{ hitEnt with r := false }], e.maps 0 0x100 = true → e.refuses [.rd] ≠ none) ∧ ({ hitEnt with r := false }).refuses [.rd] = some 1 ∧
    ({ copying .cpIn .replied with pieces := [⟨0, 0x100, 0x200, 8, none, false, [], .replied, some (7, 1)⟩,
      ⟨0, 0x180, 0x208, 8, none, false, [], .replied, some (7, 2)⟩] }).fractured = some 7 := by
  decide +kernel

/-- A receive buffer's descriptor at 0x100: four rows of 16 bytes from 0x400, none of them held. -/
def withRing : State := { mapped with mem := memSets mapped.mem (cellsAt 0x100 (leBytes 8 0x400 ++ leBytes 4 4 ++ leBytes 4 16)) }

theorem witness_CopyEngineEvents_queues :
    (∀ e ∈ ((mapped.core 0).cb), e.sent = true ∨ e.lane ≠ 0) ∧
    (∀ e ∈ [(⟨0, 4, 0, 5, 0x80, 0x80, 1, [(0x80, 1#8)], false, 0, 1⟩ : CbEnt)], e.sent = false ∧ e.lane = 1) ∧
    (mapped.burstQ = [] ∧ mapped.burstHeld < 32) ∧ 32 ≤ ({ mapped with burstHeld := 32 }).burstHeld ∧ ({ mapped with burstQ := [(0, 3)] }).burstQ = (0, 3) :: [] ∧
    mapped.expRows[0]? = none ∧ ({ mapped with expRows := [expRow] }).expRows[0]? = some expRow ∧ (∀ x ∈ [expRow].take 0, x.desc ≠ expRow.desc) ∧
    (∃ x ∈ [expRow, expRow].take 1, x.desc = expRow.desc) ∧ mapped.frameCheck 0x100 0 .write = .ok ∧ mapped.frameCheck 0x100 1 .write = .code 2 ∧
    mapped.badLine 2 = false ∧ ({ mapped with eccBad := [2] }).badLine 2 = true ∧ mapped.rings[0]? = none ∧
    ({ mapped with rings := [⟨0x100, 0, [⟨5, 1, 3⟩], 1, 0, true, 0⟩] }).rings[0]? = some ⟨0x100, 0, [⟨5, 1, 3⟩], 1, 0, true, 0⟩ ∧ (5 ≠ mapped.vertex) ∧
    (⟨0x100, 0, [], 1, 0, false, 0⟩ : Ring).changed = false ∧ (⟨0x100, 0, [], 1, 0, true, 0⟩ : Ring).srcs = [] ∧ 0 + 64 ≤ mapped.now ∧ 100000 < 99999 + 64 ∧
    (mapped.die 4).hold = false ∧ ({ Die.reset with hold := true }).hold = true ∧
    (Desc.parse (mapped.rdMem 0x100 128)).full = true ∧ (Desc.parse (mapped.rdMem 0x100 128)).ocap ≤ (Desc.parse (mapped.rdMem 0x100 128)).ocnt ∧
    (Desc.parse (withRing.rdMem 0x100 128)).full = false ∧
    (match withRing.ringPut 0 0x100 false (List.replicate 16 7#8) with | .ok t => memRead t.mem 0x400 2 | .error _ => []) = [7#8, 7#8] ∧
    (match (withRing.setFunc 0 Func.reset).ringPut 0 0x100 false (List.replicate 16 7#8) with | .ok _ => 0 | .error c => c) = 1 := by
  decide +kernel

/-- A packet in the inbox of `mapped`: a request of device 5's engine 9. -/
def asked (op addr : Nat) (args data : List Byte) : Pkt := ⟨0, 5, 9, 0, false, 0, 0, false, op, 0, 0, 77, 0, addr, args, data⟩
def inbox (p : Pkt) : State := { mapped with inbox := [⟨p, 0, 0, 0, 0, 0⟩] }

/-- A home with a twin line at 0x100 of constellation 7: slot A holds version 1, slot B version 2, and C is 1. -/
def twins : State :=
  { mapped with
    frames := [(0, 0x21E0000000000000#64), (1, 0x21C0000000000000#64)], commits := [(7, ⟨0, 1⟩)],
    side := [(2, ⟨7, 1, 0, 1⟩), (514, ⟨7, 2, 0, 1⟩)] }

theorem witness_HomeRequests :
    mapped.inbox[0]? = none ∧ (inbox (asked 1 0x100 [1#8] [])).inbox[0]? = some ⟨asked 1 0x100 [1#8] [], 0, 0, 0, 0, 0⟩ ∧ (asked 1 0x100 [1#8] []).dst ≠ 0x7FF ∧
    (inbox (asked 1 0x100 [1#8] [])).mayApply 0 ⟨asked 1 0x100 [1#8] [], 0, 0, 0, 0, 0⟩ = true ∧
    ({ inbox (asked 1 0x100 [1#8] []) with inbox := [⟨asked 2 0x108 [] [], 0, 0, 0, 0, 0⟩, ⟨asked 1 0x100 [1#8] [], 1, 0, 0, 0, 0⟩] }).mayApply 1
      ⟨asked 1 0x100 [1#8] [], 1, 0, 0, 0, 0⟩ = false ∧
    (mapped.setFunc 0 { Func.reset with flr := 2 }).resetting 0 = true ∧ mapped.resetting 0 = false ∧
    (match mapped.checkFrame (asked 1 0x100 [1#8] []) .read with | .ok => true | _ => false) = true ∧
    (match mapped.checkFrame (asked 1 (2 ^ 37) [1#8] []) .read with | .code c => c | _ => 0) = 1 ∧
    bitAt (mapped.frameEnt 0x100) 53 = false ∧ (∀ l ∈ linesAt 0x100 (16 * pktArg (asked 1 0x100 [1#8] []) 0 1), mapped.badLine l = false) ∧
    linesAt 0x100 16 = 2 :: [] ∧ ({ mapped with eccBad := [2] }).badLine 2 = true ∧
    bitAt (twins.frameEnt 0x100) 53 = true ∧ twins.lineCid 0x100 = 7 ∧ 7 / 8192 = twins.vertex ∧ twins.commits.find? (7 % 8192) = some ⟨0, 1⟩ ∧
    twins.slotAt 0x100 7 1 = some 0x100 ∧ twins.slotAt 0x100 7 2 = some 0x10100 ∧ twins.slotAt 0x100 7 0 = none ∧ (twins.sideOf 0x100).cid = 7 ∧
    (match twins.checkFrame (asked 5 0x100 [] []) .member with | .ok => true | _ => false) = true ∧
    (match twins.checkFrame (asked 5 0x100 [] []) .read with | .ok => true | _ => false) = true ∧
    (match twins.frameCheck 0x100 0 .atomic with | .code c => c | _ => 0) = 0x0A ∧
    pktArg (asked 4 0x100 (leBytes 3 7 ++ leBytes 4 2 ++ leBytes 4 0) []) 0 3 = 7 ∧ pktArg (asked 4 0x100 (leBytes 3 7 ++ leBytes 4 2 ++ leBytes 4 0) []) 3 4 = (1 + 1) % 2 ^ 32 ∧
    mapped.rings = [] ∧ mapped.resolves = [] ∧ mapped.redns = [] ∧ mapped.commits.find? (7 % 8192) = none ∧ (0 : Nat) ≠ 3 ∧
    (leNat (mapped.rdMem 0x100 4) + 1) % 2 ^ 32 = rfld (leBytes 16 0 ++ leBytes 2 0 ++ leBytes 2 1) 18 2 ∧
    (leNat (mapped.rdMem 0x100 4) + 1) % 2 ^ 32 ≠ rfld (leBytes 16 0 ++ leBytes 2 0 ++ leBytes 2 2) 18 2 ∧
    (match mapped.checkFrame (asked 0x0A 0x100 [] []) .atomic with | .ok => true | _ => false) = true := by
  decide +kernel

/-- An outstanding atomic, and a released collective that has one transfer of 16 bytes to make. -/
def outstanding : Req := ⟨77, .piece 0 3 0, 5, 6, 0, 0x100, 0, none, 9, 0⟩
def walking (released : Bool) : Op :=
  let r := { Coll.parse (leBytes 2 0x0100 ++ [0#8, 0#8, 1#8, 0#8] ++ leBytes 2 0 ++ leBytes 4 16 ++ leBytes 12 0 ++ leBytes 4 1 ++ List.replicate 36 0#8 ++
    leBytes 4 1 ++ List.replicate 60 0#8) with next := 0 }
  { Op.blank with id := 3, word := 4, kind := .coll, gated := true, released := released, coll := some r }
def walkRec : Coll := ((walking true).coll).getD (Coll.parse [])

theorem witness_FabricAndCollectiveEvents :
    mapped.inbox[0]? = none ∧ (inbox { asked 0x20 0 [] [] with dst := 0 }).mayApply 0 ⟨asked 0x20 0 [] [], 0, 0, 0, 0, 0⟩ = true ∧
    (∀ q ∈ mapped.reqs, q.tag ≠ 77) ∧ List.find? (fun x => decide (x.tag = 77)) ({ mapped with reqs := [outstanding] }).reqs = some outstanding ∧
    (inbox (asked 0x3F 0 [] [])).resetting 0 = false ∧ State.reset.jobFunc 0 0 = none ∧ rfld (asked 0x3F 0 [] []).data 8 1 ≠ 7 ∧
    (match ({ inbox (asked 1 0x100 [1#8] []) with frames := [(0, BitVec.ofNat 64 (2 * 2 ^ 61 + 5 * 2 ^ 42 + 9))], svc := 1 }).checkFrame (asked 1 0x100 [1#8] []) .read with
      | .peer d f => (d, f) | _ => (0, 0)) = (5, 9) ∧
    (match ({ inbox (asked 1 0x100 [1#8] []) with frames := [(0, BitVec.ofNat 64 (3 * 2 ^ 61 + 9))] }).checkFrame (asked 1 0x100 [1#8] []) .read with
      | .pool g => g | _ => 0) = 9 ∧
    (0x15 : Nat) ∉ [0x01, 0x02, 0x03, 0x04, 0x05, 0x06, 0x07, 0x08, 0x09, 0x0A, 0x0B, 0x20, 0x3F] ∧ ({ asked 2 0x100 [] [] with dst := 0x7FF, mcg := 0 }).dst = 0x7FF ∧
    (inbox { asked 2 0x100 [] [] with dst := 0x7FF }).mayApply 0 ⟨{ asked 2 0x100 [] [] with dst := 0x7FF }, 0, 0, 0, 0, 0⟩ = true ∧
    bitAt (AMap.get 0#64 [(3, 0x8000000000000006#64)] 3).toNat 63 = true ∧ bitAt (AMap.get 0#64 [(3, 0x8000000200000006#64)] 3).toNat 33 = true ∧
    bitAt (AMap.get 0#64 ([] : AMap W64) 3).toNat 63 = false ∧ mapped.poolOut[0]? = none ∧
    ({ mapped with poolOut := [⟨asked 1 0x100 [1#8] [], 0x100⟩] }).poolOut[0]? = some ⟨asked 1 0x100 [1#8] [], 0x100⟩ ∧
    (∀ q ∈ [(⟨{ asked 1 0x100 [1#8] [] with eng := 8 }, 0x200⟩ : PoolReq)], sameStream q.pkt (asked 1 0x100 [1#8] []) = false ∧ q.addr / 128 ≠ 0x100 / 128) ∧
    sameStream (asked 1 0x200 [] []) (asked 1 0x100 [] []) = true ∧ (asked 6 0x100 [0#8] []).code = 0 ∧
    (100000 < outstanding.sentAt + 8388608) ∧ outstanding.sentAt + 8388608 ≤ 8388608 ∧ mapped.roster.elem 5 = false ∧
    ({ mapped with roster := [5] }).roster.elem 5 = true ∧ (5 ≠ mapped.vertex) ∧ ({ asked 1 0 [] [] with nm := true, via := 0 }).via = mapped.vertex ∧
    mapped.routes.find? 5 = none ∧ AMap.find? [(5, (2, [7, 9]))] 5 = some (2, [7, 9]) ∧ ([7, 9] : List Nat)[3 % 2]? = some 9 := by
  decide +kernel

theorem witness_FabricAndCollectiveEvents_walkers :
    (mapped.lanePath 5 0).via = none ∧ ({ mapped with paths := [(40, ⟨some 7, 0, 0, 1, none, 0⟩)] }).lanePath 5 0 = ⟨some 7, 0, 0, 1, none, 0⟩ ∧
    mapped.pathUp 5 none = false ∧ ({ mapped with roster := (List.range 1056).map (· + 1) }).pathUp 5 none = true ∧ 0 + 65536 ≤ mapped.now ∧ (mapped.ctx 0).findOp 3 = none ∧ ((withOp (walking true)).ctx 0).findOp 3 = some (walking true) ∧
    (walking true).coll = some walkRec ∧ (walking true).abandoned = false ∧ ((withOp (walking true)).ctx 0).collActive 3 = true ∧
    (walking true).pieces = [] ∧ walkRec.next = 0 ∧ walkRec.aborted = false ∧ walkRec.held = false ∧ 0 < walkRec.total ∧ (walking true).xferOut walkRec < 64 ∧
    walkRec.total * (walkRec.blk + 32) ≤ 2 ^ 20 ∧ (walking true).collOver walkRec = false ∧ (walking true).collOver { walkRec with next := 1 } = true ∧
    ({ walking true with burst := 2 }).burst = 2 ∧ walkRec.cst = false ∧
    ({ Op.blank with id := 3, kind := .collAbort, released := true }).kind = .collAbort ∧ mapped.redns[0]? = none ∧
    (let r : Redn := ⟨0x100, false, [0], leBytes 16 0 ++ leBytes 2 0 ++ leBytes 2 1 ++ leBytes 4 0 ++ leBytes 4 16, 0, true, 0, false, none⟩
     ({ mapped with redns := [r] }).redns[0]? = some r ∧ r.due = true ∧ r.started = false ∧ mapped.reqsOf (engPort 32) = [] ∧ (∀ l ∈ r.lines, mapped.lineBusy l = false) ∧
     r.lines = [3] ∧ ({ mapped with touched := [(0, 3)] }).lineBusy 3 = true ∧ ({ r with started := true }).started = true ∧ mapped.lineBusy (r.hdr / 128) = false ∧
     r.hdr % 4 = 0 ∧ mapped.badLine (r.hdr / 128) = false ∧ mapped.eccFix = [] ∧ r.pool = none) := by
  decide +kernel

/-- A record of one tile of function 0 on cluster 0, and the same as a pipeline with one buffer on core 0 that holds every permit. -/
def oneTile : LRec :=
  { va := 0x800, prio := 1, vf := 0, flags := 0, code := 0, codesz := 32, img := List.replicate 32 0#8, x := 1, y := 1, z := 1, nres := 0, res := 0,
    splo := 0, sphi := 0x3FFFFF, arg := 0, grps := [], tol := 0, place := 1, dep := [], compl := 0x300, dgraph := 0, pipe := none, graph := 0, index := 0,
    queued := false, readyAt := 0, dealt := 0, live := 0, failed := 0, counter := [], completing := false, done := false, retiles := none, redem := none,
    node := none }
def ring : Pipe :=
  ⟨0x900, { Shape.none with va := 0x1000, rows := 1, bytes := 16, sp := 0x100 }, { Shape.none with va := 0x2000, rows := 1, bytes := 16, sp := 0x100 }, 1, 16,
    0x40, 0x80, [(0, 0)], [(0, 0)], [], [], [], 0, 0, [0]⟩
def ended : LRec := { oneTile with queued := true, dealt := 1 }
def withRec (r : LRec) : State := { mapped with recs := [(0, r)], nextRec := 1 }
def withPipe (p : Pipe) : State := withRec { ended with flags := 2, nres := 1, pipe := some p }
/-- Core 0 has asked for the next tile of a pipeline that has tiles left, one that has none, and one that a preemption stops. -/
theorem witness_ContextAndCoreEvents_pipelines :
    ring.stop = 0 ∧ ({ ring with stop := 1 }).stop ≠ 0 ∧ ended.counter = [] ∧ ({ ended with counter := [(0, 2)], pipe := some ring }).counter = (0, 2) :: [] ∧
    (withPipe ring).recs.find? 0 = some { ended with flags := 2, nres := 1, pipe := some ring } ∧
    ((withPipe ring).setCluster 0 { Cluster.reset with tileq := [⟨0, 3, 0⟩] }).cluster 0 = { Cluster.reset with tileq := [⟨0, 3, 0⟩] } := by
  decide +kernel

def aDemand : DemReq := ⟨0, 3, false, 0, 100, 0⟩
/-- A context that waits at `yield.t` for a token that an engine has still to write, and a spilled one that is ready. -/
def spillable : Ctx :=
  { demo with run := .waitTok 9 5, yieldCyc := 10, s := ⟨[], [⟨3, 9, 4, 5, 6, true, false, none, .plain⟩]⟩, ops := [{ Op.blank with id := 3 }], splo := 0x200000, sphi := 0x2FFFFF }
def spilled : State := { withRec ended with ctxs := [(4096, { demo with wmap := 0, amap := 0, cmap := 0 })] }

theorem witness_SchedulerEvents :
    (mapped.cluster 0).graphs = [] ∧
    signed 64 0 = 0 ∧ signed 64 (2 ^ 64 - 1) < 0 ∧ 4096 < signed 64 4097 ∧ (0 < signed 64 4096 ∧ signed 64 4096 ≤ 4096 ∧ 0x840 % 128 ≠ 0 ∧ 0x800 % 128 = 0) ∧
    (mapped.readRecs [] 0 0x800 1).map (fun r => match r with | .ok bs => bs.length | .error _ => 0) = [128] ∧
    (match (mapped.checkAll [] 0 ⟨0, true, true⟩ [.ok (List.replicate 128 0#8)] 0 [.ok (List.replicate 128 0#8)]).2 with | .ok _ => none | .error e => some e) = some (1, 0) ∧
    (match (mapped.checkAll [] 0 ⟨0, false, true⟩ [] 0 []).2 with | .ok xs => some xs.length | .error _ => none) = some 0 ∧
    ((mapped.takeDemands 0).cluster 0).demq = [] ∧ aDemand.redem = false ∧ (mapped.graphOf aDemand.record).isNone = true ∧
    (let g : DGraph := ⟨0xA00, 0, 0, 0, [⟨1, 0, 0, 0, 0, 0, [], some 120, none⟩]⟩
     ({ withRec { oneTile with dgraph := 0xA00 } with graphs := [g] }).graphOf 0 = some g ∧ g.nodes[0]? = some ⟨1, 0, 0, 0, 0, 0, [], some 120, none⟩ ∧ aDemand.grade ≤ 120) ∧
    (mapped.schedule.core 0).dq = [] ∧ ((withRec oneTile).schedule.core 0).dq.map (fun t => (t.record, t.tile)) = [(0, 0)] ∧
    (withRec oneTile).schedule.recs.isEmpty = false ∧ (withRec oneTile).schedule.coreRuns 0 = true ∧ (withRec oneTile).schedule.reloadsDue 0 = [] ∧
    (∀ t ∈ ((withRec oneTile).schedule.core 0).dq, (withRec oneTile).schedule.couldBind 0 none t = true) ∧ (withRec oneTile).schedule.freeSlot 0 = some 0 ∧
    oneTile.units ((withRec oneTile).schedule.unitsUsed 0 none) = some (0, 0, 0) ∧ bitAt oneTile.flags 1 = false ∧
    (let t : Task := ⟨0, 0, none, 0, false⟩
     t.aged = false ∧ t.since + 2 ^ 20 ≤ 2 ^ 20 ∧ 100000 < t.since + 2 ^ 20) ∧
    spilled.reloadsDue 0 = [] ++ 4096 :: [] ∧ spilled.freeSlot 0 = some 0 ∧ spilled.coreRuns 0 = true ∧ (spilled.ctx 0).settled = true ∧
    ({ demo with ops := [Op.blank] }).settled = false ∧ (spilled.reloadTo 4096 0).isSome = true := by
  decide +kernel

theorem witness_SchedulerEvents_pipelines :
    mapped.maySpill 0 = false ∧ isControl 8 = true ∧ isSpilled 0 = false ∧ (State.setCtx mapped 0 spillable).maySpill 0 = true ∧
    (let s := (State.setCtx (withRec { oneTile with sphi := 0xFFFFF }).schedule 0 spillable)
     spillable.yieldCyc + (s.core 0).swapthr < s.now ∧ (s.core 0).dq.any (fun t => s.couldBind 0 (some 0) t) = true ∧ (s.saveSlot 0).isSome = true ∧
       (s.ctx 0).waitsAt = none) ∧
    ({ spillable with spillDue := some spillable.word }).spillDue = some spillable.word ∧ spillable.spillDue ≠ some spillable.word ∧
    ((withPipe ring).setCtx 0 { spillable with run := .ready }).maySpill 0 = false ∧
    ((ring.parts 0 ring.lrec 0).any ((withPipe ring).lineTaken { ended with flags := 2, nres := 1, pipe := some ring })) = false ∧
    mapped.recs.find? 0 = none ∧ ({ ended with done := true }).done = true ∧ oneTile.ended mapped = false ∧ ended.ended mapped = true ∧
    ended.pipe = none ∧ ended.redem = none ∧ (match mapped.xlate 0 0x300 .wr with | .ok p => some p | .error _ => none) = some (0, 0x300) ∧
    ring.loads = (0, 0) :: [] ∧ ring.permits.elem (0, 0 % ring.nbuf) = true ∧ ring.held.elem (0, false) = false ∧ (withPipe ring).resetting 0 = false ∧
    (withPipe ring).partFault [] 0 0 .rd (ring.parts 0 ring.lrec 0) = none ∧ (mappedWith (2 ^ 60)).partFault [] 0 0 .rd (ring.parts 0 ring.lrec 0) ≠ none ∧
    ring.writing = [] ∧ ({ ring with writing := [(0, 0)] }).writing = (0, 0) :: [] ∧ ring.srec.barV = false ∧ (withPipe ring).reqs = [] ∧
    (withPipe ring).computed ring (0, 0, 1) = true ∧ (withPipe ring).computed ring (0, 0, 0) = false ∧
    (withPipe ring).partFault [] 0 0 .wr (ring.parts 0 ring.srec 0) = none ∧ (withPipe ring).class0Waits 0 ring = false ∧
    (let s := (withPipe ring).setCore 0 { Core.reset with dq := [⟨1, 0, none, 0, false⟩] }
     ({ s with recs := s.recs ++ [(1, { oneTile with prio := 0 })] }).class0Waits 0 ring = true) ∧
    ({ ring with stop := 1 }).stop ≠ 0 ∧ ended.live = 0 ∧ (∀ f ∈ ring.full, (withPipe ring).computed ring f = false) := by
  decide +kernel

/-- A shoot-down of core 0 alone, at a point of its course. -/
def shooting (start : Nat) (effect : Bool) (pending : List Nat) : State :=
  mapped.setCluster 0 { Cluster.reset with sd := { Shoot.reset with busy := true, asid := 0, kmask := 1, npg := 1, va := 0, start := start, effect := effect, pending := pending } }
def faulted (walker : Bool) (cause val : Nat) : FaultEnt := ⟨0, 3, walker, cause, 64, val, 0, 0⟩

theorem witness_TranslationAndFirmwareEvents :
    (mapped.cluster 0).sd.busy = false ∧ ((shooting 0 true []).cluster 0).sd.effect = true ∧ ((shooting 0 false [0]).cluster 0).sd.pending = 0 :: [] ∧
    (∀ j, j < 8 → ((shooting 0 false [0]).ctx (8 * maskCore 0 0 + j)).quiescent = true) ∧ (shooting 0 false [0]).now < 0 + 210000 ∧
    (0 : Nat) + 210000 ≤ 210000 ∧ (shooting 0 true []).sdInflight 0 = false ∧
    ((shooting 0 true []).setCtx 0 { demo with ops := [{ copying .cpIn .sent with
      pieces := [⟨0, 0x100, 0x200, 16, some (0, 0x100), false, [], .sent, none⟩] }] }).sdInflight 0 = true ∧
    ({ shooting 0 true [] with reqs := [{ outstanding with va := some 0x100 }] }).sdInflight 0 = true ∧
    (mapped.cluster 0).faults = [] ∧ (0x0D : Nat) ≠ 0x14 ∧ bits (4 * 2 ^ 58 + 0x100) 58 3 = 4 ∧ bits (2 * 2 ^ 58 + 0x100) 58 3 ≠ 5 ∧
    (mapped.func 0).debug = false ∧ ({ Func.reset with debug := true }).debug = true ∧ (0x07 : Nat) ∉ [0x00, 0x09, 0x0D, 0x13, 0x14] ∧
    (faulted true 0x14 0).walker = true ∧ (faulted true 0x14 0).ctx < 8192 ∧
    mapped.migs = [] ∧ ({ mapped with migs := [⟨0, 0, 0x100, 0, 5, 0, [], []⟩] }).migs = [⟨0, 0, 0x100, 0, 5, 0, [], []⟩] ∧ (mapped.func 0).mh = mapped.vertex ∧
    (mappedWith (2 ^ 60)).pageBusy 0 0x100 = true ∧ mapped.pageBusy 0 0x100 = false ∧ mapped.leafOfVa 0 0x100 = some (0x20000, 2) ∧
    mapped.jobFunc 0 0 = some 0 ∧ rfld (asked 0x3F 0 [] (leBytes 8 0x100 ++ [20#8, 0#8, 0#8])).data 8 1 = 20 ∧ (asked 0x3F 0 [] []).dst ≠ 0x7FF ∧
    (inbox (asked 0x3F 0 [] (leBytes 8 0x100 ++ [20#8, 0#8, 0#8]))).mayApply 0 ⟨asked 0x3F 0 [] (leBytes 8 0x100 ++ [20#8, 0#8, 0#8]), 0, 0, 0, 0, 0⟩ = true ∧
    (⟨0, 0, 0x100, 0, 4, 2, [], []⟩ : Migration).phase = 2 ∧ mapped.mgmtOut = false ∧ ({ mapped with reqs := [{ outstanding with op := 0x3F }] }).mgmtOut = true ∧
    mapped.copyOut 0 = false ∧ ({ mapped with reqs := [{ outstanding with owner := .firmware, op := 2 }] }).copyOut 0 = true ∧
    (8 * maskCore 0 0 + 3 ∈ ({ Shoot.reset with stopped := [8 * maskCore 0 0 + 3] }).stopped) ∧
    State.reset.leafOfVa 0 0x100 = none ∧ bitAt ((mappedWith (2 ^ 58)).rdMem8 0x20000) 58 = true ∧ bitAt (mapped.rdMem8 0x20000) 58 = false ∧
    pteMig ((mappedWith (2 ^ 60)).rdMem8 0x20000) ≠ 0 ∧ pteMig (mapped.rdMem8 0x20000) = 0 := by
  decide +kernel

theorem witness_TranslationAndFirmwareEvents_repair :
    mapped.eccBad.elem 2 = false ∧ ({ mapped with eccBad := [2] }).eccBad.elem 2 = true ∧ (∀ x ∈ (mapped.die (dieOfPa (2 * 128))).retired, x.1 ≠ 2) ∧
    2048 ≤ (List.replicate 2048 (1, 0, true)).length ∧ (mapped.die (dieOfPa (2 * 128))).retired.length < 2048 ∧ ({ mapped with eccFix := [2] }).eccFix.elem 2 = true ∧
    coreExists 10 = false ∧ isControl 8 = true ∧ coreExists 0 = true ∧ (mapped.core 0).retired = false ∧ mapped.coreFails 0 = false ∧
    (mapped.setCore 0 { Core.reset with ecc := [0] }).coreFails 0 = true ∧ ({ Core.reset with retired := true }).retired = true ∧
    (∃ i, i < 8 ∧ (State.setCtx mapped 0 demo).holds (8 * 0 + i) = true) ∧ (∀ i, i < 8 → mapped.holds (8 * 0 + i) = false) ∧ coreK 0 < 8 ∧
    (mapped.cluster (coreCluster 0)).spare.getLsbD 7 = false ∧ (mapped.core (16 * coreCluster 0 + 9)).retired = false ∧
    mapped.roster.elem 5 = false ∧ ({ mapped with roster := [5] }).roster.elem 5 = true ∧ 5 ≠ mapped.vertex ∧ mapped.reqs = [] ∧
    (mapped.port 0).spareUsed = false ∧ ({ mapped with ports := [(0, ⟨true, 4, true, 0⟩)] }).port 0 = ⟨true, 4, true, 0⟩ ∧ 0x200 / 256 ≠ 1 ∧ 0x105 / 256 = 1 ∧
    (portPeer mapped.vertex 1).isSome = true ∧ portPeer mapped.vertex 40 = none := by
  decide +kernel

/-- Function 0's mailbox holds a command whose turn it is. -/
def commanded (cmd a0 a1 : Nat) : State := mapped.setMbox 0 { Mbox.reset with go := true, cmd := cmd, arg0 := a0, arg1 := a1 }
def posted : Posting := ⟨1, 0, false, 0x14, 0, 0, 0, 0, 64, 0, 0, 0⟩

theorem witness_HostAndMailboxEvents :
    (State.reset.func 0).enabled = true ∧ ({ Func.reset with hif := 0x0200 }).enabled = false ∧ (mapped.func 0).memActive = true ∧ (State.reset.func 0).memActive = false ∧
    mapped.granted 0 0x100 16 = true ∧ mapped.granted 1 0x100 16 = false ∧ (16 < 17 ∧ 16 ≤ 16) ∧ (0x800000000000000D#64).getLsbD 63 = true ∧
    (commanded 4 1 0).mgmtOut = false ∧ ({ commanded 4 1 0 with reqs := [{ outstanding with op := 0x3F }] }).mgmtOut = true ∧
    ((commanded 4 1 0).mbox 0).sent = false ∧ ({ Mbox.reset with sent := true }).sent = true ∧ (16 < 17 ∧ 0 ≤ 16) ∧
    (mapped.mbox 0).go = false ∧ ((commanded 1 0 0).mbox 0).go = true ∧ mapped.bootFail = 0 ∧ mapped.mboxTurn 0 = false ∧ (commanded 1 0 0).mboxTurn 0 = true ∧
    ((commanded 0x0E 0 0).mbox 0).cmd = 0x0E ∧ 0x180 % 128 = 0 ∧ 0x1C0 % 128 ≠ 0 ∧ 0x1C0 % 64 = 0 ∧ 0x1A0 % 64 ≠ 0 ∧ (commanded 2 0 0).roster = [] ∧
    (commanded 3 0 0).commits.find? 1 = none ∧ (∀ j, j < 1 → 0 < j → twins.commits.find? j ≠ none) ∧
    7 / 8192 = mapped.vertex ∧ (496 ≤ 496 ∧ 496 < 497 ∧ (8192 + 7) / 8192 ≠ mapped.vertex) ∧ twins.commits.find? (7 % 8192) = some ⟨0, 1⟩ ∧
    (∀ p ∈ mapped.posts, p.num ≠ 1 ∨ p.vf ≠ 0) ∧ ({ mapped with posts := [posted] }).posts = posted :: [] ∧ posted.num = 1 ∧ posted.walker = false ∧
    mapped.debugged 0 = [] ∧ (2 ^ 32 - 1 < 2 ^ 32) ∧ (∀ x ∈ mapped.recs, x.2.va ≠ 0x800) ∧ (withPipe ring).recs = (0, { ended with flags := 2, nres := 1, pipe := some ring }) :: [] ∧
    oneTile.va = 0x800 ∧ ended.done = false ∧ (mapped.func 0).flr = 0 ∧ (∀ p ∈ mapped.posts, p.vf ≠ 0) ∧
    (∀ q ∈ [posted], q.vf = 0 → q ≠ posted → posted.num < q.num) := by
  decide +kernel

/-- Function 0's doorbell line stands at 0x400: PROD and CONS, the ring at 0x800, the results at 0xC00, four entries. -/
def submitting (prod cons : Nat) (served : Nat) (out : Bool) : State :=
  { mapped with
    funcs := [(0, { mapped.func 0 with subq := some 0x400, served := served, resultOut := out })],
    mem := memSets mapped.mem (cellsAt 0x400 (leBytes 4 prod ++ leBytes 4 cons ++ leBytes 8 0x800 ++ leBytes 8 0xC00 ++ leBytes 2 4)) }

theorem witness_PowerResetAndSubmissionEvents :
    95 ≤ 95 ∧ 94 < 95 ∧ 89 < 90 ∧ 105 ≤ 105 ∧ 99 < 100 ∧ 115 ≤ 115 ∧ mapped.shut = false ∧
    mapped.clusterIdle 0 = true ∧ (mapped.cluster 0).power = .run ∧ mapped.dieAsked (clusterDie 0) = false ∧
    mapped.dieRefresh (clusterDie 0) = false ∧ 1050000000 ≤ 21 * 50000000 ∧ 21 * 49999999 < 1050000000 ∧ 420000 ≤ 21 * 20000 ∧ 21 * 19999 < 420000 ∧
    ({ mapped with clusters := (List.range 8).map fun q => (q, { Cluster.reset with power := .off }), funcs := [(0, { Func.reset with ltr := 4294967295 })] }).dieRefresh
      (clusterDie 0) = true ∧ (inbox (asked 1 0x100 [1#8] [])).dieAsked 0 = true ∧
    (State.setCtx mapped 0 demo).clusterIdle 0 = false ∧ (640 ≤ 21 * 31 ∧ 21 * 30 < 640 ∧ 42000 ≤ 21 * 2000 ∧ 21 * 1999 < 42000) ∧ mapped.wakes 0 = false ∧
    ((State.setCtx mapped 0 demo).setCluster 0 { Cluster.reset with power := .off }).wakes 0 = true ∧ Power.off ≠ .run ∧
    (16 ≤ 16 ∧ 15 < 16) ∧ (mapped.func 0).flr = 0 ∧ ((mapped.setFunc 1 { mapped.func 1 with flr := 2 }).flrDiscard 1).flrBusy 1 = false ∧
    (({ mapped.setFunc 1 { mapped.func 1 with flr := 2 } with reqs := [{ outstanding with vf := 1 }] }).flrDiscard 1).flrBusy 1 = true ∧
    (mapped.func 0).subq = none ∧ ((submitting 3 1 3 false).func 0).subq = some 0x400 ∧ (submitting 3 1 3 false).resetting 0 = false ∧ (submitting 3 1 3 false).reqs = [] ∧
    (match (submitting 3 1 3 false).readVa [] 0 0x400 128 with | .ok l => [rfld l 0 4, rfld l 4 4, rfld l 8 8, rfld l 16 8, rfld l 24 2] | .error _ => []) =
      [3, 1, 0x800, 0xC00, 4] ∧
    ((submitting 3 1 3 false).func 0).served ≠ 2 ^ 32 ∧ ((submitting 3 1 1 true).func 0).resultOut = true ∧ ((submitting 3 1 1 false).func 0).served = 1 ∧
    (match (submitting 3 1 3 false).readVa [] 0 (0x800 + 16 * (1 % 4)) 16 with | .ok e => rfld e 8 4 | .error _ => 9) < 1 := by
  decide +kernel

/-- Software writes byte 12 of a header whose token's `resolve` is outstanding: the token is marked, and a write outside bytes 0 to 13
marks nothing (R277). -/
theorem test_software_writes_header :
    (let o : Op := { Op.blank with
       id := 3, kind := .resolve 2, shape := { Shape.none with rows := 1, ks := 1 }, pieces := [⟨0, 0x100, 0, 128, some (0, 0x100), false, [], .replied, none⟩] }
     let s := mapped.setCtx 0 { demo with ops := [o] }
     ((((s.spoil (asked 2 0x100 [] []) [(0x10C, 1#8)]).ctx 0).findOp 3).map (·.spoiled), (((s.spoil (asked 2 0x100 [] []) [(0x10E, 1#8)]).ctx 0).findOp 3).map (·.spoiled))) =
      (some [0], some []) := by
  decide +kernel

/-! ## More witnesses, one for each further clause -/

/-- A tile row that cannot be read, and a pass that accumulates over it; a feed of the own core whose rows a channel holds, and one that joins. -/
theorem witness_MatrixPasses_errors :
    (let s := (about fedPass 4 .nop).setCore 0 { Core.reset with ecc := [2 ^ 24 + 5] }
     s.tileBad 0 0 5 = true ∧ (5 < mxcRows 0x3FF#64) ∧ (match s.eccTile 0 0 5 with | .ok _ => true | _ => false) = true ∧
       (match s.eccTile 0 0 6 with | .trap 0x15 _ => true | _ => false) = true) := by
  decide +kernel

/-- A context whose stage of word 5 waits for rows of its own core that a copy still brings. -/
def staging : Ctx :=
  { weighted with chans := [(3, ⟨0x1000, 0x2000, true, true, 0⟩)], stages := [⟨5, 5, 0, [0x1000], 256, none, none, 0⟩] }

theorem witness_DrainsAndFeeds_rendezvous :
    (∃ a, a ∈ [0x1000] ∧ staging.wmStall a 256 = true) ∧ (⟨5, 5, 0, [0x1000], 256, none, none, 0⟩ : Stage) ∈ staging.stages ∧ 0 = ctxCore 0 ∧
    (let r : Rendez := ⟨1, 0x1000, 256, 3, 128, 2, 1000, [(0, 5)]⟩
     r.members.length < r.m ∧ 5095 < r.opened + 4096 ∧ ¬ (5096 < r.opened + 4096)) ∧
    (armed weighted 5 .fdZ).stageOf 5 5 = none ∧ (armed weighted 5 .fdZ).allIssuedBefore 5 = true := by
  decide +kernel

/-- A quiescent context while its cluster's shoot-down is pending, with a copy whose pieces failed as they were issued. -/
def held : State :=
  (State.setCtx mapped 0 { demo with quiet := true }).setCluster 0 { Cluster.reset with sd := { Shoot.reset with busy := true, kmask := 1, pending := [0] } }

theorem witness_GlobalAccessesIssue_shootdown :
    held.cFree 0 = false ∧ mapped.cFree 0 = true ∧ held.sdPending 0 = true ∧ (∀ o ∈ (held.ctx 0).ops, o.word < 5 → o.passed = true) := by
  decide +kernel

/-- The first die asleep, and an engine that has used every tag. -/
def dozing : State := { mapped with clusters := [(0, { Cluster.reset with power := .retention })] }

theorem witness_CopyEngineEvents_dies :
    (∀ a ∈ mapped.walkPas 0 0x100, mapped.dieAwake (dieOfPa a) = true) ∧ (∃ a, a ∈ dozing.walkPas 0 0x100 ∧ dozing.dieAwake (dieOfPa a) = false) ∧
    ({ copying .cpOut .failed with lost := [3] }).lost ≠ [] ∧ mapped.tagLeft 9 = true ∧ fullReplica.descsRead 2 = true ∧
    (∀ a ∈ 0x100 :: (withRing.walkPas 0 0x400 ++ withRing.walkPas 0 0), withRing.dieAwake (dieOfPa a) = true) ∧
    ({ withRing with touched := [(0, 2)] }).touched.elem (0, 0x100 / 128) = true := by
  decide +kernel

theorem witness_CopyEngineEvents_tags : ∀ n, 65536 ≤ n → State.tagLeft { mapped with reqs := List.replicate n outstanding } 9 = false := by
  intro n h
  simp [State.tagLeft, State.reqsOf, List.filter_replicate, outstanding]
  omega

theorem witness_HomeRequests_more :
    mapped.eccFix = [] ∧ pktArg (asked 2 0x100 [] []) 0 1 ≠ 1 ∧ pktArg (asked 2 0x100 [] []) 0 1 ≠ 2 ∧
    ((leNat (State.rdMem { mapped with mem := memSets mapped.mem [(0x100, 1#8)] } 0x100 4) + 1) % 2 ^ 32 ≠ 1) ∧
    (let p := asked 1 0x100 [1#8] []
     let s := { inbox p with frames := [(0, BitVec.ofNat 64 (3 * 2 ^ 61 + 9))] }
     frameAcc p.op = some .read ∧ (match s.checkFrame p .read with | .pool _ => true | _ => false) = true) ∧
    ({ inbox (asked 1 0x100 [1#8] []) with touched := [(0, 2)] }).mayApply 0 ⟨asked 1 0x100 [1#8] [], 0, 0, 0, 0, 0⟩ = false := by
  decide +kernel

theorem witness_FabricAndCollectiveEvents_more :
    List.find? (fun x => decide (x.tag = 77) && decide (x.eng = 9)) [outstanding] = some outstanding ∧
    (∀ q ∈ [{ outstanding with eng := 8 }], q.tag = 77 → q.eng ≠ 9) ∧
    ({ outstanding with owner := .host 0x100 8, dst := 0 }).owner = .host 0x100 8 ∧ (0 : Nat) ≠ 0x0A ∧ rfld (asked 0x3F 0 [] []).data 8 1 ≠ 12 ∧
    mapped.jobFunc 0 0 = some 0 ∧ (asked 6 0x100 [0#8] []).code = 0 ∧ ({ asked 6 0x100 [0#8] [] with code := 1 }).code ≠ 0 ∧
    List.find? (fun x => decide (x.tag = 77) && decide (x.sentAt + 8388608 ≤ 8388608)) [outstanding] = some outstanding ∧
    (∀ a ∈ mapped.walkPas 0 (vaOf (walkRec.target walkRec.next)), mapped.dieAwake (dieOfPa a) = true) ∧ mapped.tagLeft (engPort 0) = true ∧
    (mapped.setFunc 0 { Func.reset with flr := 2 }).resetting 0 = true := by
  decide +kernel

theorem witness_SchedulerEvents_dies :
    (∀ a ∈ mapped.vaPas 0 0x800 128, mapped.dieAwake (dieOfPa a) = true) ∧ (∀ a ∈ mapped.gradePas 0, mapped.dieAwake (dieOfPa a) = true) ∧
    (∀ a ∈ mapped.walkPas 0 0x300, mapped.dieAwake (dieOfPa a) = true) ∧
    (∀ x ∈ ring.parts 0 ring.lrec 0, ∀ a ∈ (withPipe ring).vaPas 0 x.va x.len, (withPipe ring).dieAwake (dieOfPa a) = true) ∧
    (∀ x ∈ ring.parts 0 ring.srec 0, ∀ a ∈ (withPipe ring).walkPas 0 x.va, (withPipe ring).dieAwake (dieOfPa a) = true) := by
  decide +kernel

theorem witness_TranslationAndFirmwareEvents_more :
    pteMig ((mappedWith (2 ^ 60)).pteRead 0x20000) = 1 ∧ pteMig (mapped.pteRead 0x20000) ≠ 1 ∧ bitAt ((mappedWith (2 ^ 58)).pteRead 0x20000) 58 = true ∧
    rfld (asked 0x3F 0 [] (leBytes 8 7 ++ [12#8])).data 8 1 = 12 ∧ rfld (asked 0x3F 0 [] (leBytes 8 7 ++ [28#8])).data 8 1 = 28 ∧
    (0x10100 % 65536 / 256 = 1 ∧ 0x10100 / 65536 % 4 = 1 ∧ 0x20100 / 65536 % 4 = 2 ∧ 0x100 / 65536 % 4 = 0 ∧ 0x200 % 65536 / 256 ≠ 1) ∧
    ((portPeer mapped.vertex 1).all fun y => decide (y ≠ mapped.vertex) && !mapped.removed.elem y && !mapped.roster.elem y) = true ∧
    5 ∈ ({ mapped with removed := [5] }).removed := by
  decide +kernel

/-- The same queue with an entry at index 1: one record at 0x900, which is of function `vf`, or lies in a line that cannot be read. -/
def entered (n va vf : Nat) (bad : List Nat) : State :=
  { submitting 3 1 3 false with
    mem := memSets (submitting 3 1 3 false).mem (cellsAt 0x810 (leBytes 8 va ++ leBytes 4 n) ++ cellsAt 0x903 (leBytes 1 vf)), eccBad := bad }

theorem witness_PowerResetAndSubmissionEvents_entries :
    (∀ a ∈ (submitting 3 1 3 false).vaPas 0 0x400 128, (submitting 3 1 3 false).dieAwake (dieOfPa a) = true) ∧
    (∀ a ∈ (submitting 3 1 3 false).vaPas 0 (0x800 + 16 * (1 % 4)) 16 ++ (submitting 3 1 3 false).vaPas 0 (0xC00 + 8 * (1 % 4)) 8,
      (submitting 3 1 3 false).dieAwake (dieOfPa a) = true) ∧
    (match (entered 1 0x900 0 []).readVa [] 0 0x810 16 with | .ok e => (rfld e 0 8, rfld e 8 4) | .error _ => (0, 0)) = (0x900, 1) ∧ 0x900 % 128 = 0 ∧ 0x908 % 128 ≠ 0 ∧
    (((entered 1 0x900 0 []).readRecs [] 0 0x900 1).map fun r => match r with | .ok b => rfld b 3 1 % 16 | .error _ => 99) = [0] ∧
    (((entered 1 0x900 3 []).readRecs [] 0 0x900 1).map fun r => match r with | .ok b => rfld b 3 1 % 16 | .error _ => 99) = [3] ∧
    (((entered 1 0x900 0 [18]).readRecs [] 0 0x900 1).map fun r => match r with | .ok _ => 0 | .error _ => 99) = [99] := by
  decide +kernel

end Sys2Proof.Tests
end

section
/-!
PROOFS. What the decoder reads from the encoding of every instruction.
-/

namespace Sys2Proof.Laws
/-- What the decoder reads from the fields of an encoding, for every instruction: one case for each row of the opcode table. -/
theorem encoding_statement : ∀ i : Instr, Encoding.Statement i
  | .nop => Encoding.nop
  | .add sd sa b => Encoding.add sd sa b
  | .sub sd sa b => Encoding.sub sd sa b
  | .mul sd sa b => Encoding.mul sd sa b
  | .mulh sd sa b => Encoding.mulh sd sa b
  | .and sd sa b => Encoding.and sd sa b
  | .or sd sa b => Encoding.or sd sa b
  | .xor sd sa b => Encoding.xor sd sa b
  | .shl sd sa b => Encoding.shl sd sa b
  | .shr sd sa b => Encoding.shr sd sa b
  | .sar sd sa b => Encoding.sar sd sa b
  | .min sd sa b => Encoding.min sd sa b
  | .max sd sa b => Encoding.max sd sa b
  | .minu sd sa b => Encoding.minu sd sa b
  | .maxu sd sa b => Encoding.maxu sd sa b
  | .clz sd sa => Encoding.clz sd sa
  | .popc sd sa => Encoding.popc sd sa
  | .mov sd src => Encoding.mov sd src
  | .sel sd sa pc alt => Encoding.sel sd sa pc alt
  | .aset aj src => Encoding.aset aj src
  | .aget sd aj src => Encoding.aget sd aj src
  | .cmpEq pd sa b => Encoding.cmpEq pd sa b
  | .cmpNe pd sa b => Encoding.cmpNe pd sa b
  | .cmpLt pd sa b => Encoding.cmpLt pd sa b
  | .cmpLe pd sa b => Encoding.cmpLe pd sa b
  | .cmpLtu pd sa b => Encoding.cmpLtu pd sa b
  | .cmpLeu pd sa b => Encoding.cmpLeu pd sa b
  | .pand pd pa pb => Encoding.pand pd pa pb
  | .por pd pa pb => Encoding.por pd pa pb
  | .fadd sd sa sb => Encoding.fadd sd sa sb
  | .fsub sd sa sb => Encoding.fsub sd sa sb
  | .fmul sd sa sb => Encoding.fmul sd sa sb
  | .ffma sd sa sb => Encoding.ffma sd sa sb
  | .fmin sd sa sb => Encoding.fmin sd sa sb
  | .fmax sd sa sb => Encoding.fmax sd sa sb
  | .fcmpEq pd sa sb => Encoding.fcmpEq pd sa sb
  | .fcmpLt pd sa sb => Encoding.fcmpLt pd sa sb
  | .fcmpLe pd sa sb => Encoding.fcmpLe pd sa sb
  | .br off => Encoding.br off
  | .brx sa => Encoding.brx sa
  | .call off => Encoding.call off
  | .ret => Encoding.ret
  | .loop frame cnt last => Encoding.loop frame cnt last
  | .loopS frame sa last => Encoding.loopS frame sa last
  | .yieldT sa => Encoding.yieldT sa
  | .yieldB sa => Encoding.yieldB sa
  | .spec off => Encoding.spec off
  | .specCommit pc => Encoding.specCommit pc
  | .specAbort => Encoding.specAbort
  | .exit => Encoding.exit
  | .trap imm => Encoding.trap imm
  | .rti next => Encoding.rti next
  | .csrd sd csr => Encoding.csrd sd csr
  | .csrw csr v => Encoding.csrw csr v
  | .csrs csr v => Encoding.csrs csr v
  | .csrc csr v => Encoding.csrc csr v
  | .launch sd sa n => Encoding.launch sd sa n
  | .watch sd sa sb timeout => Encoding.watch sd sa sb timeout
  | .ntreq => Encoding.ntreq
  | .sctl aj off => Encoding.sctl aj off
  | .sctlEnt k sa => Encoding.sctlEnt k sa
  | .srtIota vd c => Encoding.srtIota vd c
  | .srtCeA vk dist flip => Encoding.srtCeA vk dist flip
  | .srtCeD vk dist flip => Encoding.srtCeD vk dist flip
  | .srtTop va vb => Encoding.srtTop va vb
  | .ptRd sd sa => Encoding.ptRd sd sa
  | .ptWr sa sb => Encoding.ptWr sa sb
  | .ptUpd sa pc => Encoding.ptUpd sa pc
  | .ptClr sa sb => Encoding.ptClr sa sb
  | .demand sd sa sb => Encoding.demand sd sa sb
  | .redem sd sa sb => Encoding.redem sd sa sb
  | .tolShare sd sa sb => Encoding.tolShare sd sa sb
  | .tolMin sd sa cls => Encoding.tolMin sd sa cls
  | .itrDef it sa => Encoding.itrDef it sa
  | .itrFit sd it => Encoding.itrFit sd it
  | .stGrade aj sa adj off => Encoding.stGrade aj sa adj off
  | .ldB sd aj off => Encoding.ldB sd aj off
  | .ldBu sd aj off => Encoding.ldBu sd aj off
  | .ldH sd aj off => Encoding.ldH sd aj off
  | .ldHu sd aj off => Encoding.ldHu sd aj off
  | .ldW sd aj off => Encoding.ldW sd aj off
  | .ldWu sd aj off => Encoding.ldWu sd aj off
  | .ldD sd aj off => Encoding.ldD sd aj off
  | .stB sd aj off => Encoding.stB sd aj off
  | .stH sd aj off => Encoding.stH sd aj off
  | .stW sd aj off => Encoding.stW sd aj off
  | .stD sd aj off => Encoding.stD sd aj off
  | .ldVF32 vd aj off => Encoding.ldVF32 vd aj off
  | .ldVF16 vd aj off => Encoding.ldVF16 vd aj off
  | .ldVBf16 vd aj off => Encoding.ldVBf16 vd aj off
  | .ldVE4m3 vd aj off => Encoding.ldVE4m3 vd aj off
  | .ldVE5m2 vd aj off => Encoding.ldVE5m2 vd aj off
  | .ldVI8 vd aj off => Encoding.ldVI8 vd aj off
  | .ldVI32 vd aj off => Encoding.ldVI32 vd aj off
  | .ldVSx7 vd aj off => Encoding.ldVSx7 vd aj off
  | .ldVSx4 vd aj off => Encoding.ldVSx4 vd aj off
  | .ldVSx2 vd aj off => Encoding.ldVSx2 vd aj off
  | .ldVAq8 vd aj off => Encoding.ldVAq8 vd aj off
  | .ldVBcast vd aj t off => Encoding.ldVBcast vd aj t off
  | .ldVx vd aj vi i32 mk disp => Encoding.ldVx vd aj vi i32 mk disp
  | .stVx vs aj vi mk disp => Encoding.stVx vs aj vi mk disp
  | .stV vs aj mk off => Encoding.stV vs aj mk off
  | .stVCmp vs aj mk off => Encoding.stVCmp vs aj mk off
  | .ldM mk aj off => Encoding.ldM mk aj off
  | .stM mk aj off => Encoding.stM mk aj off
  | .vaddF32 ops => Encoding.vaddF32 ops
  | .vsubF32 ops => Encoding.vsubF32 ops
  | .vmulF32 ops => Encoding.vmulF32 ops
  | .vfmaF32 ops => Encoding.vfmaF32 ops
  | .vminF32 ops => Encoding.vminF32 ops
  | .vmaxF32 ops => Encoding.vmaxF32 ops
  | .vabsF32 ops => Encoding.vabsF32 ops
  | .vnegF32 ops => Encoding.vnegF32 ops
  | .vaddBf16 ops => Encoding.vaddBf16 ops
  | .vsubBf16 ops => Encoding.vsubBf16 ops
  | .vmulBf16 ops => Encoding.vmulBf16 ops
  | .vfmaBf16 ops => Encoding.vfmaBf16 ops
  | .vminBf16 ops => Encoding.vminBf16 ops
  | .vmaxBf16 ops => Encoding.vmaxBf16 ops
  | .vabsBf16 ops => Encoding.vabsBf16 ops
  | .vnegBf16 ops => Encoding.vnegBf16 ops
  | .vaddI32 ops => Encoding.vaddI32 ops
  | .vsubI32 ops => Encoding.vsubI32 ops
  | .vmulI32 ops => Encoding.vmulI32 ops
  | .vminI32 ops => Encoding.vminI32 ops
  | .vmaxI32 ops => Encoding.vmaxI32 ops
  | .vand ops => Encoding.vand ops
  | .vor ops => Encoding.vor ops
  | .vxor ops => Encoding.vxor ops
  | .vshl ops => Encoding.vshl ops
  | .vshr ops => Encoding.vshr ops
  | .vsar ops => Encoding.vsar ops
  | .vcmpF32 cond md va vb => Encoding.vcmpF32 cond md va vb
  | .vcmpBf16 cond md va vb => Encoding.vcmpBf16 cond md va vb
  | .vcmpI32 cond md va vb => Encoding.vcmpI32 cond md va vb
  | .vrcpF32 ops => Encoding.vrcpF32 ops
  | .vrsqrtF32 ops => Encoding.vrsqrtF32 ops
  | .vexp2F32 ops => Encoding.vexp2F32 ops
  | .vlog2F32 ops => Encoding.vlog2F32 ops
  | .vredAddF32 sd va mk => Encoding.vredAddF32 sd va mk
  | .vredMaxF32 sd va mk => Encoding.vredMaxF32 sd va mk
  | .vredAddI32 sd va mk => Encoding.vredAddI32 sd va mk
  | .vperm vd va vi => Encoding.vperm vd va vi
  | .vbcast vd va n => Encoding.vbcast vd va n
  | .vrot vd va n => Encoding.vrot vd va n
  | .vsel vd va vb mk => Encoding.vsel vd va vb mk
  | .mand md ma mb => Encoding.mand md ma mb
  | .mor md ma mb => Encoding.mor md ma mb
  | .mxor md ma mb => Encoding.mxor md ma mb
  | .mandn md ma mb => Encoding.mandn md ma mb
  | .mpop sd ma => Encoding.mpop sd ma
  | .vsplatF32 vd src => Encoding.vsplatF32 vd src
  | .vsplatI32 vd src => Encoding.vsplatI32 vd src
  | .vmov vd va mk => Encoding.vmov vd va mk
  | .cvt vd va t part => Encoding.cvt vd va t part
  | .cvtFit vd va cls k => Encoding.cvtFit vd va cls k
  | .cvtSx vd va fmt k => Encoding.cvtSx vd va fmt k
  | .cvtAq8 vd va => Encoding.cvtAq8 vd va
  | .mxPermit sd lvl => Encoding.mxPermit sd lvl
  | .mxRel => Encoding.mxRel
  | .mxCfg src => Encoding.mxCfg src
  | .mxLd wd aj fmt disp => Encoding.mxLd wd aj fmt disp
  | .mxLdT wd aj fmt disp => Encoding.mxLdT wd aj fmt disp
  | .mxLdr wd aj fmt kx t disp => Encoding.mxLdr wd aj fmt kx t disp
  | .mxWsel wd ws t => Encoding.mxWsel wd ws t
  | .mxCsum ws => Encoding.mxCsum ws
  | .mxRun acc w op st => Encoding.mxRun acc w op st
  | .mxRunSet acc w op st => Encoding.mxRunSet acc w op st
  | .mxClr acc ninf => Encoding.mxClr acc ninf
  | .mxDrain st acc cvt strm rows => Encoding.mxDrain st acc cvt strm rows
  | .fdA aj fk fmt => Encoding.fdA aj fk fmt
  | .fdAMc aj fk fmt kx members => Encoding.fdAMc aj fk fmt kx members
  | .fdAr aj fk fmt kx => Encoding.fdAr aj fk fmt kx
  | .fdZ => Encoding.fdZ
  | .fdWin aj ak fk fmt wl => Encoding.fdWin aj ak fk fmt wl
  | .fdTap aj ak fk fmt wl => Encoding.fdTap aj ak fk fmt wl
  | .fdOff fk src => Encoding.fdOff fk src
  | .fdInc fk src => Encoding.fdInc fk src
  | .cpIn st ch rc => Encoding.cpIn st ch rc
  | .cpOut st ch rc => Encoding.cpOut st ch rc
  | .cpPf st ch rc => Encoding.cpPf st ch rc
  | .cpGat st ch rc => Encoding.cpGat st ch rc
  | .cpCst st ch rc => Encoding.cpCst st ch rc
  | .accLd st ch acc rc => Encoding.accLd st ch acc rc
  | .accSt st ch acc rc => Encoding.accSt st ch acc rc
  | .gld sd sa size sx disp => Encoding.gld sd sa size sx disp
  | .gst sb sa size disp => Encoding.gst sb sa size disp
  | .atAdd sd sa sb w disp => Encoding.atAdd sd sa sb w disp
  | .atFadd sd sa sb disp => Encoding.atFadd sd sa sb disp
  | .atMin sd sa sb w disp => Encoding.atMin sd sa sb w disp
  | .atMax sd sa sb w disp => Encoding.atMax sd sa sb w disp
  | .atFmin sd sa sb disp => Encoding.atFmin sd sa sb disp
  | .atFmax sd sa sb disp => Encoding.atFmax sd sa sb disp
  | .atAnd sd sa sb w disp => Encoding.atAnd sd sa sb w disp
  | .atOr sd sa sb w disp => Encoding.atOr sd sa sb w disp
  | .atXor sd sa sb w disp => Encoding.atXor sd sa sb w disp
  | .atSwap sd sa sb w disp => Encoding.atSwap sd sa sb w disp
  | .atCas sd sa sb w disp => Encoding.atCas sd sa sb w disp
  | .barInit sa n => Encoding.barInit sa n
  | .barArr sd sa m => Encoding.barArr sd sa m
  | .drain scope loads stores copies tiles => Encoding.drain scope loads stores copies tiles
  | .qpoint => Encoding.qpoint
  | .anchor hj sd cid => Encoding.anchor hj sd cid
  | .hznRel hj cid => Encoding.hznRel hj cid
  | .cld sd sa hj size sx disp => Encoding.cld sd sa hj size sx disp
  | .publish sd sa ver => Encoding.publish sd sa ver
  | .gred st ch rc => Encoding.gred st ch rc
  | .xdisp st ch q rc => Encoding.xdisp st ch q rc
  | .resolve st ch k rc => Encoding.resolve st ch k rc
  | .send vs sa => Encoding.send vs sa
  | .sendQ vs sa => Encoding.sendQ vs sa
  | .sendMc vs sa => Encoding.sendMc vs sa
  | .recv vd qj => Encoding.recv vd qj
  | .recvAdd vd qj => Encoding.recvAdd vd qj
  | .recvMax vd qj => Encoding.recvMax vd qj
  | .collStart sd sa gs => Encoding.collStart sd sa gs
  | .collAbort sd => Encoding.collAbort sd
  | .wordDispatch core => Encoding.wordDispatch core
  | .markCommit ctx => Encoding.markCommit ctx
  | .specForcedAbort ctx => Encoding.specForcedAbort ctx
  | .watchFire ctx => Encoding.watchFire ctx
  | .watchTimeout ctx => Encoding.watchTimeout ctx
  | .shootdownStart cluster => Encoding.shootdownStart cluster
  | .tileCounterServe cluster => Encoding.tileCounterServe cluster
  | .nextTileDelivery ctx => Encoding.nextTileDelivery ctx
  | .predictorTableApply cluster => Encoding.predictorTableApply cluster
  | .toleranceDemandServe cluster ext => Encoding.toleranceDemandServe cluster ext
  | .permitGrant die => Encoding.permitGrant die
  | .fabricBurstPermit => Encoding.fabricBurstPermit
  | .passRowWrite core => Encoding.passRowWrite core
  | .mcRendezvousClose cluster => Encoding.mcRendezvousClose cluster
  | .copyRowLanding ctx op => Encoding.copyRowLanding ctx op
  | .copyCompletion ctx op => Encoding.copyCompletion ctx op
  | .combiningBufferSend core lane => Encoding.combiningBufferSend core lane
  | .barrierNotify core => Encoding.barrierNotify core
  | .sendReservation ctx => Encoding.sendReservation ctx
  | .sendArrival i => Encoding.sendArrival i
  | .walkerTransfer ctx op => Encoding.walkerTransfer ctx op
  | .collectiveCompletion ctx op => Encoding.collectiveCompletion ctx op
  | .reductionComplete i => Encoding.reductionComplete i
  | .rdPkt i => Encoding.rdPkt i
  | .wrPkt i => Encoding.wrPkt i
  | .wrmPkt i => Encoding.wrmPkt i
  | .wrcPkt i => Encoding.wrcPkt i
  | .rdcPkt i => Encoding.rdcPkt i
  | .atPkt i => Encoding.atPkt i
  | .ancPkt i => Encoding.ancPkt i
  | .pubPkt i => Encoding.pubPkt i
  | .barPkt i => Encoding.barPkt i
  | .redPkt i => Encoding.redPkt i
  | .qrptPkt i => Encoding.qrptPkt i
  | .mgmtPkt i => Encoding.mgmtPkt i
  | .replyPkt i => Encoding.replyPkt i
  | .unknownOpPacket i => Encoding.unknownOpPacket i
  | .forwardedRequest i => Encoding.forwardedRequest i
  | .multicastWr i => Encoding.multicastWr i
  | .packetRoute port p => Encoding.packetRoute port p
  | .laneNonminimalMove dst lane => Encoding.laneNonminimalMove dst lane
  | .laneMinimalReturn dst lane => Encoding.laneMinimalReturn dst lane
  | .requestTimeout tag => Encoding.requestTimeout tag
  | .expertRowArrival i => Encoding.expertRowArrival i
  | .overflowAfterWait ctx op => Encoding.overflowAfterWait ctx op
  | .pageWalk ctx op => Encoding.pageWalk ctx op
  | .shootdownWatchdog cluster => Encoding.shootdownWatchdog cluster
  | .shootdownEnd cluster => Encoding.shootdownEnd cluster
  | .migrationService => Encoding.migrationService
  | .pageMove vf va home frame ext => Encoding.pageMove vf va home frame ext
  | .stepGraphAccept cluster ext => Encoding.stepGraphAccept cluster ext
  | .taskBind core => Encoding.taskBind core
  | .taskAging core => Encoding.taskAging core
  | .recordCompletion rc => Encoding.recordCompletion rc
  | .spanLimit core => Encoding.spanLimit core
  | .swapOut ctx => Encoding.swapOut ctx
  | .reload core => Encoding.reload core
  | .pipelinePreempt rc => Encoding.pipelinePreempt rc
  | .loaderTile rc ext => Encoding.loaderTile rc ext
  | .storerWriteback rc => Encoding.storerWriteback rc
  | .faultQueueService cluster => Encoding.faultQueueService cluster
  | .lineRetire line => Encoding.lineRetire line
  | .patrolScrub line => Encoding.patrolScrub line
  | .coreRetire core => Encoding.coreRetire core
  | .rosterRemove vertex => Encoding.rosterRemove vertex
  | .laneSpare port => Encoding.laneSpare port
  | .portDown port => Encoding.portDown port
  | .linkUp port ouv => Encoding.linkUp port ouv
  | .hostAccess acc => Encoding.hostAccess acc
  | .hifVersionWrite fn ver => Encoding.hifVersionWrite fn ver
  | .submissionQueueServe vf ext => Encoding.submissionQueueServe vf ext
  | .functionLevelReset vf => Encoding.functionLevelReset vf
  | .placeSubq fn => Encoding.placeSubq fn
  | .placeRepl fn => Encoding.placeRepl fn
  | .cstCreate fn => Encoding.cstCreate fn
  | .cstDestroy fn => Encoding.cstDestroy fn
  | .errlog fn => Encoding.errlog fn
  | .roster fn => Encoding.roster fn
  | .faultAns fn => Encoding.faultAns fn
  | .debugCmd fn => Encoding.debugCmd fn
  | .setLtr fn => Encoding.setLtr fn
  | .quote fn => Encoding.quote fn
  | .preempt fn => Encoding.preempt fn
  | .flr fn => Encoding.flr fn
  | .faultNext fn => Encoding.faultNext fn
  | .mailboxUnknownCmd fn => Encoding.mailboxUnknownCmd fn
  | .mailboxGoBusy fn => Encoding.mailboxGoBusy fn
  | .powerLevelEnter cluster => Encoding.powerLevelEnter cluster
  | .powerWake cluster => Encoding.powerWake cluster
  | .thermalGrantHold die temp => Encoding.thermalGrantHold die temp
  | .thermalClockHalve die temp => Encoding.thermalClockHalve die temp
  | .thermalShutdown die temp => Encoding.thermalShutdown die temp
  | .powerOnBoot => Encoding.powerOnBoot
  | .writeQueueBankWrite core => Encoding.writeQueueBankWrite core
  | .remoteReadArrival ctx => Encoding.remoteReadArrival ctx
  | .barrierQueryAnswer ctx => Encoding.barrierQueryAnswer ctx
  | .occupancyReport i => Encoding.occupancyReport i
  | .thermalGrantResume die temp => Encoding.thermalGrantResume die temp
  | .thermalClockRestore die temp => Encoding.thermalClockRestore die temp
  | .pooledMemoryReply i ext => Encoding.pooledMemoryReply i ext

end Sys2Proof.Laws

end

section
/-!
PROOFS. The bits of a slot, the slots and the header of a word, and its bytes.
-/

open Sys2Proof Sys2Proof.Laws
namespace Sys2Proof.Laws

/-! ## One slot: its bits, and the operation they hold -/

theorem Enc.bits_guard (e : Enc) (g : PReg) : (e.bits g).extractLsb' 24 4 = g := by
  simp (disch := omega) only [Enc.bits, ex_hi]
  simp

theorem Enc.bits_opc (e : Enc) (g : PReg) : (e.bits g).extractLsb' 16 8 = e.opc := by
  simp (disch := omega) only [Enc.bits, ex_hi, ex_lo]
  simp

theorem Enc.bits_opnd (e : Enc) (g : PReg) : (e.bits g).extractLsb' 0 16 = e.opnd := by
  simp (disch := omega) only [Enc.bits, ex_lo]
  simp

/-- No map assigns OPC 0x00 (R15). -/
theorem decOp_zero (k : Slot) (o : BitVec 16) (x : Option Ext) : decOp k 0#8 o x = .error 2 := by
  cases k <;> rfl

/-- Where the opcode map reads an operation from the fields of `e`, the slot reads it under the guard of its bits. -/
theorem decSlot_bits {e : Enc} {i : Instr} (g : PReg) (h : decOp e.slot e.opc e.opnd e.ext = .ok i) :
    decSlot e.slot (e.bits g) e.ext = .ok ⟨g, i⟩ := by
  have hz : e.opc ≠ 0#8 := by
    intro hz
    rw [hz, decOp_zero] at h
    cases h
  simp [decSlot, Enc.bits_guard, Enc.bits_opc, Enc.bits_opnd, hz, h]

end Sys2Proof.Laws

/-- Settles O1: the opcode map gives the operation back (one case per constructor), and the guard has bits of its own. -/
theorem Sys2Proof.Laws.encodingRoundTrip : Obligations.EncodingRoundTrip :=
  fun i e g hi hw he => decSlot_bits g (encoding_statement i e hi hw he)

namespace Sys2Proof.Laws

/-! ## The slots and the header within a word -/

/-- Bits of a 28-bit value that stands at bit `s` of a word. -/
theorem getLsbD_placed (v : BitVec 28) (s i : Nat) (hs : s + 28 ≤ 256) :
    ((v.setWidth 256) <<< s).getLsbD i = (decide (s ≤ i) && v.getLsbD (i - s)) := by
  by_cases h : s ≤ i
  · by_cases h' : i - s < 28
    · simp [h, show i < 256 by omega]
    · simp [BitVec.getLsbD_of_ge v (i - s) (by omega)]
  · simp [h]

theorem extract_placed_same (v : BitVec 28) (s : Nat) (hs : s + 28 ≤ 256) :
    ((v.setWidth 256) <<< s).extractLsb' s 28 = v := by
  apply BitVec.eq_of_getLsbD_eq
  intro i hi
  simp only [BitVec.getLsbD_extractLsb', getLsbD_placed v s _ hs]
  simp [hi]

theorem extract_placed_apart (v : BitVec 28) (s t n : Nat) (hs : s + 28 ≤ 256) (h : t + n ≤ s ∨ s + 28 ≤ t) :
    ((v.setWidth 256) <<< s).extractLsb' t n = 0#n := by
  apply BitVec.eq_of_getLsbD_eq
  intro i hi
  simp only [BitVec.getLsbD_extractLsb', getLsbD_placed v s _ hs, hi, BitVec.getLsbD_zero, decide_true, Bool.true_and]
  rcases h with h | h
  · simp; omega
  · rw [BitVec.getLsbD_of_ge v _ (by omega), Bool.and_false]

theorem Slot.num_le (k : Slot) : k.num ≤ 7 := by cases k <;> decide

theorem Slot.num_inj {j k : Slot} (h : j.num = k.num) : j = k := by
  revert h
  cases j <;> cases k <;> decide

theorem slotBits_placeSlot_same (k : Slot) (v : BitVec 28) : slotBits (placeSlot k v) k = v :=
  extract_placed_same v _ (by omega)

theorem slotBits_placeSlot_ne {j k : Slot} (v : BitVec 28) (h : j ≠ k) : slotBits (placeSlot k v) j = 0#28 := by
  have hn : j.num ≠ k.num := fun e => h (Slot.num_inj e)
  have hj := Slot.num_le j
  have hk := Slot.num_le k
  exact extract_placed_apart v _ _ _ (by omega) (by omega)

theorem headerBits_placeSlot (k : Slot) (v : BitVec 28) : headerBits (placeSlot k v) = 0#32 :=
  extract_placed_apart v _ _ _ (by omega) (by omega)

/-- Bit `i` of a word is bit `i % 8` of byte `i / 8` (R11). -/
theorem getLsbD_wordOfBytes (bs : List Byte) (i : Nat) (hi : i < 256) :
    (wordOfBytes bs).getLsbD i = (bs.getD (i / 8) 0#8).getLsbD (i % 8) := by
  induction bs generalizing i with
  | nil => simp [wordOfBytes]
  | cons b rest ih =>
    have hw : wordOfBytes (b :: rest) = (wordOfBytes rest <<< 8) ||| b.setWidth 256 := rfl
    rw [hw, BitVec.getLsbD_or, BitVec.getLsbD_shiftLeft, BitVec.getLsbD_setWidth]
    by_cases h : i < 8
    · simp [h, hi, show i / 8 = 0 by omega, show i % 8 = i by omega]
    · rw [ih (i - 8) (by omega), BitVec.getLsbD_of_ge b i (by omega), show i / 8 = (i - 8) / 8 + 1 by omega,
        show i % 8 = (i - 8) % 8 by omega]
      simp [h, hi]

theorem wordOfBytes_bytesOfWord (w : W256) : wordOfBytes (bytesOfWord w) = w := by
  apply BitVec.eq_of_getLsbD_eq
  intro i hi
  have hb : (bytesOfWord w).getD (i / 8) 0#8 = w.extractLsb' (8 * (i / 8)) 8 := by
    simp [bytesOfWord, List.getElem?_range (show i / 8 < 32 by omega)]
  rw [getLsbD_wordOfBytes _ _ hi, hb, BitVec.getLsbD_extractLsb', show 8 * (i / 8) + i % 8 = i by omega]
  simp [Nat.mod_lt]

end Sys2Proof.Laws

/-- Settles O2: fields at different places share no bit, and bit i of a word lies in byte i / 8. -/
theorem Sys2Proof.Laws.wordFieldsAndBytes : Obligations.WordFieldsAndBytes :=
  ⟨fun k v => ⟨slotBits_placeSlot_same k v, headerBits_placeSlot k v, fun _ h => slotBits_placeSlot_ne v h⟩,
    wordOfBytes_bytesOfWord⟩

end

section
/-!
PROOFS. Operands as numbers, and the operand forms read only from the bits that encode them.
-/

open Sys2Proof Sys2Proof.Laws
namespace Sys2Proof.Laws

/-! ## Operands as numbers -/

theorem toNat_append {a b : Nat} (x : BitVec a) (y : BitVec b) : (x ++ y).toNat = x.toNat * 2 ^ b + y.toNat := by
  rw [BitVec.toNat_append, ← Nat.shiftLeft_add_eq_or_of_lt y.isLt, Nat.shiftLeft_eq]

theorem toNat_extract {n : Nat} (b : BitVec n) (lo w : Nat) : (b.extractLsb' lo w).toNat = b.toNat / 2 ^ lo % 2 ^ w := by
  rw [BitVec.extractLsb'_toNat, Nat.shiftRight_eq_div_pow]

theorem toNat_ofBool_getLsbD {n : Nat} (b : BitVec n) (lo : Nat) : (BitVec.ofBool (b.getLsbD lo)).toNat = b.toNat / 2 ^ lo % 2 := by
  rw [BitVec.toNat_ofBool, BitVec.getLsbD, Nat.testBit_eq_decide_div_mod_eq]
  rcases Nat.mod_two_eq_zero_or_one (b.toNat / 2 ^ lo) with h | h <;> simp [h]

theorem getLsbD_eq_true {n : Nat} (b : BitVec n) (lo : Nat) : b.getLsbD lo = true ↔ b.toNat / 2 ^ lo % 2 = 1 := by
  rw [BitVec.getLsbD, Nat.testBit_eq_decide_div_mod_eq, decide_eq_true_eq]

set_option linter.unusedSimpArgs false

/-! ## An operand form is read only from the bits that encode it -/

theorem encSrcB_of_dec {b : BitVec 6} {x : Option Ext} {u : SrcB} (h : decSrcB b x = some u) : encSrcB u = (b, x) := by
  have hb := b.isLt
  rcases x with _ | e <;> simp only [decSrcB] at h <;> (repeat' split at h) <;> cases h <;>
    simp only [encSrcB, Prod.mk.injEq, Option.some.injEq, and_true, true_and]
  all_goals
    simp only [← BitVec.toNat_inj, toNat_append, toNat_extract, getLsbD_eq_true, BitVec.toNat_ofNat, Nat.reducePow, Nat.div_one] at *
    omega

theorem encMovSrc_of_dec {b : BitVec 11} {x : Option Ext} {u : MovSrc} (h : decMovSrc b x = some u) : encMovSrc u = (b, x) := by
  have hb := b.isLt
  rcases x with _ | e <;> simp only [decMovSrc] at h <;> (repeat' split at h) <;> cases h <;>
    simp only [encMovSrc, Prod.mk.injEq, Option.some.injEq, and_true, true_and]
  all_goals
    simp only [← BitVec.toNat_inj, toNat_append, toNat_extract, getLsbD_eq_true, BitVec.toNat_ofNat, Nat.reducePow, Nat.div_one] at *
    omega

theorem encAsetSrc_of_dec {b : BitVec 13} {x : Option Ext} {u : AsetSrc} (h : decAsetSrc b x = some u) : encAsetSrc u = (b, x) := by
  have hb := b.isLt
  have he : (x.getD 0#28).toNat < 2 ^ 28 := (x.getD 0#28).isLt
  rcases x with _ | e <;> simp only [decAsetSrc] at h <;> split at h <;> cases h <;>
    simp only [encAsetSrc, Prod.mk.injEq, Option.some.injEq, and_true, true_and]
  all_goals
    simp only [← BitVec.toNat_inj, toNat_append, toNat_extract, BitVec.toNat_ofNat, Nat.reducePow, Nat.div_one, Option.getD] at *
    omega

theorem encAgetSrc_of_dec {b : BitVec 8} {x : Option Ext} {u : AgetSrc} (h : decAgetSrc b x = some u) : encAgetSrc u = (b, x) := by
  have hb := b.isLt
  rcases x with _ | e <;> simp only [decAgetSrc] at h <;> (repeat' split at h) <;> cases h <;>
    simp only [encAgetSrc, Prod.mk.injEq, Option.some.injEq, and_true, true_and]
  all_goals
    simp only [← BitVec.toNat_inj, toNat_append, toNat_extract, getLsbD_eq_true, BitVec.toNat_ofNat, Nat.reducePow, Nat.div_one] at *
    omega

theorem encBrOff_of_dec {b : BitVec 16} {x : Option Ext} {u : BrOff} (h : decBrOff b x = some u) : encBrOff u = (b, x) := by
  have hb := b.isLt
  rcases x with _ | e <;> simp only [decBrOff] at h <;> (repeat' split at h) <;> cases h <;>
    simp only [encBrOff, Prod.mk.injEq, Option.some.injEq, and_true, true_and]
  all_goals
    simp only [← BitVec.toNat_inj, toNat_append, toNat_extract, getLsbD_eq_true, BitVec.toNat_ofNat, Nat.reducePow, Nat.div_one] at *
    omega

theorem encLoopCnt_of_dec {b : BitVec 7} {x : Option Ext} {u : LoopCnt} (h : decLoopCnt b x = some u) : encLoopCnt u = (b, x) := by
  have hb := b.isLt
  rcases x with _ | e <;> simp only [decLoopCnt] at h <;> (repeat' split at h) <;> cases h <;>
    simp only [encLoopCnt, Prod.mk.injEq, Option.some.injEq, and_true, true_and]
  all_goals
    simp only [← BitVec.toNat_inj, toNat_append, toNat_extract, getLsbD_eq_true, BitVec.toNat_ofNat, Nat.reducePow, Nat.div_one] at *
    omega

theorem encCsrSrc_of_dec {b : BitVec 4} {x : Option Ext} {u : CsrSrc} (h : decCsrSrc b x = some u) : encCsrSrc u = (b, x) := by
  have hb := b.isLt
  rcases x with _ | e <;> simp only [decCsrSrc] at h <;> (repeat' split at h) <;> cases h <;>
    simp only [encCsrSrc, Prod.mk.injEq, Option.some.injEq, and_true, true_and]
  all_goals
    simp only [← BitVec.toNat_inj, toNat_append, toNat_extract, getLsbD_eq_true, BitVec.toNat_ofNat, Nat.reducePow, Nat.div_one] at *
    omega

theorem encRegExt_of_dec {b : BitVec 5} {x : Option Ext} {u : RegExt} (h : decRegExt b x = some u) : encRegExt u = (b, x) := by
  have hb := b.isLt
  rcases x with _ | e <;> simp only [decRegExt] at h <;> (repeat' split at h) <;> cases h <;>
    simp only [encRegExt, Prod.mk.injEq, Option.some.injEq, and_true, true_and]
  all_goals
    simp only [← BitVec.toNat_inj, toNat_append, toNat_extract, getLsbD_eq_true, BitVec.toNat_ofNat, Nat.reducePow, Nat.div_one] at *
    omega

theorem encCidSrc_of_dec {b : BitVec 5} {x : Option Ext} {u : CidSrc} (h : decCidSrc b x = some u) : encCidSrc u = (b, x) := by
  have hb := b.isLt
  rcases x with _ | e <;> simp only [decCidSrc] at h <;> (repeat' split at h) <;> cases h <;>
    simp only [encCidSrc, Prod.mk.injEq, Option.some.injEq, and_true, true_and]
  all_goals
    simp only [← BitVec.toNat_inj, toNat_append, toNat_extract, getLsbD_eq_true, BitVec.toNat_ofNat, Nat.reducePow, Nat.div_one] at *
    omega

theorem encCfgSrc_of_dec {b : BitVec 16} {x : Option Ext} {u : CfgSrc} (h : decCfgSrc b x = some u) : encCfgSrc u = (b, x) := by
  have hb := b.isLt
  rcases x with _ | e <;> simp only [decCfgSrc] at h <;> (repeat' split at h) <;> cases h <;>
    simp only [encCfgSrc, Prod.mk.injEq, Option.some.injEq, and_true, true_and]
  all_goals
    simp only [← BitVec.toNat_inj, toNat_append, toNat_extract, getLsbD_eq_true, BitVec.toNat_ofNat, Nat.reducePow, Nat.div_one] at *
    omega

theorem encOff_of_dec {n : Nat} {b : BitVec n} {x : Option Ext} {u : Off n} (h : decOff b x = some u) : encOff u = (b, x) := by
  have hb := b.isLt
  rcases x with _ | e <;> simp only [decOff] at h <;> (repeat' split at h) <;> cases h <;>
    simp only [encOff, Prod.mk.injEq, Option.some.injEq, and_true, true_and]
  all_goals
    simp only [← BitVec.toNat_inj, toNat_append, toNat_extract, getLsbD_eq_true, BitVec.toNat_ofNat, Nat.reducePow, Nat.div_one] at *
    omega

theorem encRec_of_dec {n : Nat} {b : BitVec n} {x : Option Ext} {u : Rec n} (h : decRec b x = some u) : encRec u = (b, x) := by
  have hb := b.isLt
  rcases x with _ | e <;> simp only [decRec] at h <;> (repeat' split at h) <;> cases h <;>
    simp only [encRec, Prod.mk.injEq, Option.some.injEq, and_true, true_and]
  all_goals
    simp only [← BitVec.toNat_inj, toNat_append, toNat_extract, getLsbD_eq_true, BitVec.toNat_ofNat, Nat.reducePow, Nat.div_one] at *
    omega

theorem encVaOp_of_dec {b : BitVec 16} {u : VaOp} (h : decVaOp b = some u) : encVaOp u = b := by
  have hb := b.isLt
  unfold decVaOp at h
  (repeat' split at h) <;> cases h <;> simp only [encVaOp]
  all_goals
    simp only [fld, bit, ← BitVec.toNat_inj, toNat_append, toNat_extract, getLsbD_eq_true, BitVec.toNat_ofNat, Nat.reducePow, Nat.div_one] at *
    omega

theorem encVuOp_of_dec {b : BitVec 16} {u : VuOp} (h : decVuOp b = some u) : encVuOp u = b := by
  have hb := b.isLt
  unfold decVuOp at h
  (repeat' split at h) <;> cases h <;> simp only [encVuOp]
  all_goals
    simp only [fld, bit, ← BitVec.toNat_inj, toNat_append, toNat_extract, getLsbD_eq_true, BitVec.toNat_ofNat, Nat.reducePow, Nat.div_one] at *
    omega

theorem encSplatSrc_of_dec {b : BitVec 11} {u : SplatSrc} (h : decSplatSrc b = some u) : encSplatSrc u = b := by
  have hb := b.isLt
  unfold decSplatSrc at h
  (repeat' split at h) <;> cases h <;> simp only [encSplatSrc]
  all_goals
    simp only [fld, bit, ← BitVec.toNat_inj, toNat_append, toNat_extract, getLsbD_eq_true, BitVec.toNat_ofNat, Nat.reducePow, Nat.div_one] at *
    omega

theorem encFOffSrc_of_dec {b : BitVec 14} {u : FOffSrc} (h : decFOffSrc b = some u) : encFOffSrc u = b := by
  have hb := b.isLt
  unfold decFOffSrc at h
  (repeat' split at h) <;> cases h <;> simp only [encFOffSrc]
  all_goals
    simp only [fld, bit, ← BitVec.toNat_inj, toNat_append, toNat_extract, getLsbD_eq_true, BitVec.toNat_ofNat, Nat.reducePow, Nat.div_one] at *
    omega

theorem encFIncSrc_of_dec {b : BitVec 14} {u : FIncSrc} (h : decFIncSrc b = some u) : encFIncSrc u = b := by
  have hb := b.isLt
  unfold decFIncSrc at h
  (repeat' split at h) <;> cases h <;> simp only [encFIncSrc]
  all_goals
    simp only [fld, bit, ← BitVec.toNat_inj, toNat_append, toNat_extract, getLsbD_eq_true, BitVec.toNat_ofNat, Nat.reducePow, Nat.div_one] at *
    omega

theorem encRowCnt_of_dec {x : Option Ext} {u : Option (BitVec 7)} (h : decRowCnt x = some u) : encRowCnt u = x := by
  rcases x with _ | e <;> simp only [decRowCnt] at h <;> (repeat' split at h) <;> cases h
  · rfl
  · have he := e.isLt
    refine congrArg some (BitVec.eq_of_toNat_eq ?_)
    rw [toNat_append]
    simp only [← BitVec.toNat_inj, toNat_extract, BitVec.toNat_ofNat, Nat.reducePow, Nat.div_one] at *
    omega

/-- `hzn.rel` keeps EXT[23:0] alone (log 8). -/
theorem encRelCid_of_dec {x : Option Ext} {u : Option (BitVec 24)} (h : decRelCid x = some u) :
    encRelCid u = x ∨ ∃ c z, u = some c ∧ x = some z ∧ z.extractLsb' 0 24 = c := by
  cases x with
  | none => cases h; exact .inl rfl
  | some e => cases h; exact .inr ⟨_, e, rfl, rfl, rfl⟩

end Sys2Proof.Laws

end

section
/-!
PROOFS. The rules by which an opcode map reads an operation.
-/

open Sys2Proof Sys2Proof.Laws
namespace Sys2Proof.Laws
set_option linter.unusedSimpArgs false

/-! ## What an opcode map answers -/

/-- `i` is well-formed and encoded by these fields; `hzn.rel` alone does not look at EXT[27:24] (log 8). -/
def Encodes (k : Slot) (opc : BitVec 8) (o : BitVec 16) (x : Option Ext) (i : Instr) : Prop :=
  i.wf = true ∧ ∃ e, encode i = some e ∧ e.slot = k ∧ e.opc = opc ∧ e.opnd = o ∧
    (e.ext = x ∨ ∃ it c z, i = .hznRel it (some c) ∧ x = some z ∧ z.extractLsb' 0 24 = c)

/-- An answer that an assigned opcode may give: the operation that these fields encode, reason 5, or reason 4 for an extension. -/
def Reads (k : Slot) (opc : BitVec 8) (o : BitVec 16) (x : Option Ext) : Except Nat Instr → Prop
  | .ok i => Encodes k opc o x i
  | .error n => n = 5 ∨ n = 4 ∧ x ≠ none

section
variable {k : Slot} {opc : BitVec 8} {o : BitVec 16} {x : Option Ext} {r : Except Nat Instr} {n : Nat}

theorem Reads.noExt (hr : Reads k opc o none r) : Reads k opc o x (noExt x r) := by
  cases x with
  | none => exact hr
  | some e => exact .inr ⟨rfl, Option.some_ne_none e⟩

theorem Reads.ite {c : Prop} [Decidable c] (hr : c → Reads k opc o x r) : Reads k opc o x (if c then r else .error 5) := by
  split
  · exact hr ‹c›
  · exact .inl rfl

theorem Reads.union {α : Type} {d : Option α} {f : α → Except Nat Instr} (hr : ∀ u, d = some u → Reads k opc o x (f u)) :
    Reads k opc o x (withUnion d f) := by
  cases d with
  | none => exact .inl rfl
  | some u => exact hr u rfl

theorem Reads.of_wf {i : Instr} (hi : i.wf = true → Encodes k opc o x i) : Reads k opc o x (accept i) := by
  unfold accept
  split
  · exact hi ‹_›
  · exact .inl rfl

theorem Reads.of_encode {i : Instr} {e : Enc} (he : encode i = some e) (hs : e.slot = k) (hp : e.opc.toNat = opc.toNat)
    (ho : e.opnd.toNat = o.toNat) (hx : e.ext = x) : Reads k opc o x (accept i) :=
  .of_wf fun hw => ⟨hw, e, he, hs, BitVec.eq_of_toNat_eq hp, BitVec.eq_of_toNat_eq ho, .inl hx⟩

/-! An operand form that was read holds what it was read from. -/

theorem Reads.srcB {b : BitVec 6} {f : SrcB → Except Nat Instr}
    (hr : ∀ u, encSrcB u = (b, x) → Reads k opc o x (f u)) : Reads k opc o x (withUnion (decSrcB b x) f) :=
  .union fun u hu => hr u (encSrcB_of_dec hu)

theorem Reads.movSrc {b : BitVec 11} {f : MovSrc → Except Nat Instr}
    (hr : ∀ u, encMovSrc u = (b, x) → Reads k opc o x (f u)) : Reads k opc o x (withUnion (decMovSrc b x) f) :=
  .union fun u hu => hr u (encMovSrc_of_dec hu)

theorem Reads.asetSrc {b : BitVec 13} {f : AsetSrc → Except Nat Instr}
    (hr : ∀ u, encAsetSrc u = (b, x) → Reads k opc o x (f u)) : Reads k opc o x (withUnion (decAsetSrc b x) f) :=
  .union fun u hu => hr u (encAsetSrc_of_dec hu)

theorem Reads.agetSrc {b : BitVec 8} {f : AgetSrc → Except Nat Instr}
    (hr : ∀ u, encAgetSrc u = (b, x) → Reads k opc o x (f u)) : Reads k opc o x (withUnion (decAgetSrc b x) f) :=
  .union fun u hu => hr u (encAgetSrc_of_dec hu)

theorem Reads.brOff {b : BitVec 16} {f : BrOff → Except Nat Instr}
    (hr : ∀ u, encBrOff u = (b, x) → Reads k opc o x (f u)) : Reads k opc o x (withUnion (decBrOff b x) f) :=
  .union fun u hu => hr u (encBrOff_of_dec hu)

theorem Reads.loopCnt {b : BitVec 7} {f : LoopCnt → Except Nat Instr}
    (hr : ∀ u, encLoopCnt u = (b, x) → Reads k opc o x (f u)) : Reads k opc o x (withUnion (decLoopCnt b x) f) :=
  .union fun u hu => hr u (encLoopCnt_of_dec hu)

theorem Reads.csrSrc {b : BitVec 4} {f : CsrSrc → Except Nat Instr}
    (hr : ∀ u, encCsrSrc u = (b, x) → Reads k opc o x (f u)) : Reads k opc o x (withUnion (decCsrSrc b x) f) :=
  .union fun u hu => hr u (encCsrSrc_of_dec hu)

theorem Reads.regExt {b : BitVec 5} {f : RegExt → Except Nat Instr}
    (hr : ∀ u, encRegExt u = (b, x) → Reads k opc o x (f u)) : Reads k opc o x (withUnion (decRegExt b x) f) :=
  .union fun u hu => hr u (encRegExt_of_dec hu)

theorem Reads.cidSrc {b : BitVec 5} {f : CidSrc → Except Nat Instr}
    (hr : ∀ u, encCidSrc u = (b, x) → Reads k opc o x (f u)) : Reads k opc o x (withUnion (decCidSrc b x) f) :=
  .union fun u hu => hr u (encCidSrc_of_dec hu)

theorem Reads.cfgSrc {b : BitVec 16} {f : CfgSrc → Except Nat Instr}
    (hr : ∀ u, encCfgSrc u = (b, x) → Reads k opc o x (f u)) : Reads k opc o x (withUnion (decCfgSrc b x) f) :=
  .union fun u hu => hr u (encCfgSrc_of_dec hu)

theorem Reads.off {b : BitVec n} {f : Off n → Except Nat Instr}
    (hr : ∀ u, encOff u = (b, x) → Reads k opc o x (f u)) : Reads k opc o x (withUnion (decOff b x) f) :=
  .union fun u hu => hr u (encOff_of_dec hu)

theorem Reads.rec {b : BitVec n} {f : Rec n → Except Nat Instr}
    (hr : ∀ u, encRec u = (b, x) → Reads k opc o x (f u)) : Reads k opc o x (withUnion (decRec b x) f) :=
  .union fun u hu => hr u (encRec_of_dec hu)

theorem Reads.vaOp {b : BitVec 16} {f : VaOp → Except Nat Instr}
    (hr : ∀ u, encVaOp u = b → Reads k opc o x (f u)) : Reads k opc o x (withUnion (decVaOp b) f) :=
  .union fun u hu => hr u (encVaOp_of_dec hu)

theorem Reads.vuOp {b : BitVec 16} {f : VuOp → Except Nat Instr}
    (hr : ∀ u, encVuOp u = b → Reads k opc o x (f u)) : Reads k opc o x (withUnion (decVuOp b) f) :=
  .union fun u hu => hr u (encVuOp_of_dec hu)

theorem Reads.splatSrc {b : BitVec 11} {f : SplatSrc → Except Nat Instr}
    (hr : ∀ u, encSplatSrc u = b → Reads k opc o x (f u)) : Reads k opc o x (withUnion (decSplatSrc b) f) :=
  .union fun u hu => hr u (encSplatSrc_of_dec hu)

theorem Reads.fOffSrc {b : BitVec 14} {f : FOffSrc → Except Nat Instr}
    (hr : ∀ u, encFOffSrc u = b → Reads k opc o x (f u)) : Reads k opc o x (withUnion (decFOffSrc b) f) :=
  .union fun u hu => hr u (encFOffSrc_of_dec hu)

theorem Reads.fIncSrc {b : BitVec 14} {f : FIncSrc → Except Nat Instr}
    (hr : ∀ u, encFIncSrc u = b → Reads k opc o x (f u)) : Reads k opc o x (withUnion (decFIncSrc b) f) :=
  .union fun u hu => hr u (encFIncSrc_of_dec hu)

theorem Reads.rowCnt {f : Option (BitVec 7) → Except Nat Instr} (hr : ∀ u, encRowCnt u = x → Reads k opc o x (f u)) :
    Reads k opc o x (withUnion (decRowCnt x) f) :=
  .union fun u hu => hr u (encRowCnt_of_dec hu)

theorem Reads.hznRel {it : BitVec 2} (hp : opc.toNat = 0x1A) (ho : (it ++ 0#14).toNat = o.toNat) :
    Reads .C opc o x (withUnion (decRelCid x) fun u => accept (Instr.hznRel it u)) :=
  .union fun u hu => .of_wf fun hw => ⟨hw, ⟨.C, 0x1A#8, it ++ 0#14, encRelCid u⟩, rfl, rfl, BitVec.eq_of_toNat_eq hp.symm,
    BitVec.eq_of_toNat_eq ho, (encRelCid_of_dec hu).imp_right fun ⟨c, z, h⟩ => ⟨it, c, z, by rw [h.1], h.2⟩⟩

end

end Sys2Proof.Laws

end

section
/-!
PROOFS. The eight opcode maps: what they read, and the reasons that they give.
-/

open Sys2Proof Sys2Proof.Laws
namespace Sys2Proof.Laws

/-! ## The eight opcode maps

Each arm of a map is stripped of the tests that the rules above pass; what is left is that the fields of the operand, put together as
the layout says, are the operand. -/

section
variable {k : Slot} {o : BitVec 16} {x : Option Ext} {r : Except Nat Instr}
set_option linter.unusedSimpArgs false
set_option linter.unnecessarySeqFocus false

theorem decS_reads {opc : BitVec 8} (h1 : 1 ≤ opc.toNat) (h2 : opc.toNat ≤ 0x39) : Reads .S opc o x (decS opc o x) := by
  have ho := o.isLt
  unfold decS
  split
  case h_58 => simp only [imp_false] at *; omega
  all_goals
    rename_i h
    repeat' first
      | with_reducible refine Reads.noExt ?_
      | with_reducible refine Reads.ite fun hc => ?_
      | with_reducible refine Reads.srcB fun u hu => ?_
      | with_reducible refine Reads.movSrc fun u hu => ?_
      | with_reducible refine Reads.asetSrc fun u hu => ?_
      | with_reducible refine Reads.agetSrc fun u hu => ?_
      | with_reducible refine Reads.brOff fun u hu => ?_
      | with_reducible refine Reads.loopCnt fun u hu => ?_
      | with_reducible refine Reads.csrSrc fun u hu => ?_
    all_goals first
      | refine Reads.of_encode rfl rfl h.symm ?_ (congrArg Prod.snd hu)
      | refine Reads.of_encode rfl rfl h.symm ?_ rfl
    all_goals simp only [fld, bit, ← BitVec.toNat_inj, toNat_append, toNat_extract, toNat_ofBool_getLsbD, BitVec.toNat_ofNat,
      Nat.reducePow, Nat.div_one, Prod.ext_iff] at * <;> omega

theorem decK_reads {opc : BitVec 8} (h1 : 1 ≤ opc.toNat) (h2 : opc.toNat ≤ 0x12) : Reads .K opc o x (decK opc o x) := by
  have ho := o.isLt
  unfold decK
  split
  case h_19 => simp only [imp_false] at *; omega
  all_goals
    rename_i h
    repeat' first
      | with_reducible refine Reads.noExt ?_
      | with_reducible refine Reads.ite fun hc => ?_
    refine Reads.of_encode rfl rfl h.symm ?_ rfl
    all_goals simp only [fld, bit, ← BitVec.toNat_inj, toNat_append, toNat_extract, toNat_ofBool_getLsbD, BitVec.toNat_ofNat,
      Nat.reducePow, Nat.div_one, Prod.ext_iff] at *
    all_goals omega

theorem decL_reads {opc : BitVec 8} (h1 : 1 ≤ opc.toNat) (h2 : opc.toNat ≤ 0x1D) : Reads .L opc o x (decL opc o x) := by
  have ho := o.isLt
  unfold decL
  split
  case h_30 => simp only [imp_false] at *; omega
  all_goals
    rename_i h
    repeat' first
      | with_reducible refine Reads.noExt ?_
      | with_reducible refine Reads.ite fun hc => ?_
      | with_reducible refine Reads.off fun u hu => ?_
    all_goals first
      | refine Reads.of_encode rfl rfl h.symm ?_ (congrArg Prod.snd hu)
      | refine Reads.of_encode rfl rfl h.symm ?_ rfl
    all_goals simp only [fld, bit, ← BitVec.toNat_inj, toNat_append, toNat_extract, toNat_ofBool_getLsbD, BitVec.toNat_ofNat,
      Nat.reducePow, Nat.div_one, Prod.ext_iff] at *
    all_goals omega

theorem decV_reads {opc : BitVec 8} (h1 : 1 ≤ opc.toNat) (h2 : opc.toNat ≤ 0x35) : Reads .V opc o x (decV opc o x) := by
  have ho := o.isLt
  unfold decV
  split
  case h_54 => simp only [imp_false] at *; omega
  all_goals
    rename_i h
    repeat' first
      | with_reducible refine Reads.noExt ?_
      | with_reducible refine Reads.ite fun hc => ?_
      | with_reducible refine Reads.vaOp fun u hu => ?_
      | with_reducible refine Reads.vuOp fun u hu => ?_
      | with_reducible refine Reads.splatSrc fun u hu => ?_
    refine Reads.of_encode rfl rfl h.symm ?_ rfl
    all_goals simp only [fld, bit, ← BitVec.toNat_inj, toNat_append, toNat_extract, toNat_ofBool_getLsbD, BitVec.toNat_ofNat,
      Nat.reducePow, Nat.div_one, Prod.ext_iff] at * <;> omega

theorem decX_reads {opc : BitVec 8} (h1 : 1 ≤ opc.toNat) (h2 : opc.toNat ≤ 0x0C) : Reads .X opc o x (decX opc o x) := by
  have ho := o.isLt
  unfold decX
  split
  case h_13 => simp only [imp_false] at *; omega
  all_goals
    rename_i h
    repeat' first
      | with_reducible refine Reads.noExt ?_
      | with_reducible refine Reads.ite fun hc => ?_
      | with_reducible refine Reads.cfgSrc fun u hu => ?_
      | with_reducible refine Reads.rowCnt fun u hu => ?_
    all_goals first
      | refine Reads.of_encode rfl rfl h.symm ?_ (congrArg Prod.snd hu)
      | refine Reads.of_encode rfl rfl h.symm ?_ hu
      | refine Reads.of_encode rfl rfl h.symm ?_ rfl
    all_goals simp only [fld, bit, ← BitVec.toNat_inj, toNat_append, toNat_extract, toNat_ofBool_getLsbD, BitVec.toNat_ofNat,
      Nat.reducePow, Nat.div_one, Prod.ext_iff] at *
    all_goals omega

theorem decF_reads {opc : BitVec 8} (h1 : 1 ≤ opc.toNat) (h2 : opc.toNat ≤ 0x08) : Reads .F opc o x (decF opc o x) := by
  have ho := o.isLt
  unfold decF
  split
  case h_9 => simp only [imp_false] at *; omega
  all_goals
    rename_i h
    repeat' first
      | with_reducible refine Reads.noExt ?_
      | with_reducible refine Reads.ite fun hc => ?_
      | with_reducible refine Reads.fOffSrc fun u hu => ?_
      | with_reducible refine Reads.fIncSrc fun u hu => ?_
    refine Reads.of_encode rfl rfl h.symm ?_ rfl
    all_goals simp only [fld, bit, ← BitVec.toNat_inj, toNat_append, toNat_extract, toNat_ofBool_getLsbD, BitVec.toNat_ofNat,
      Nat.reducePow, Nat.div_one, Prod.ext_iff] at *
    all_goals omega

theorem decC_reads {opc : BitVec 8} (h1 : 1 ≤ opc.toNat) (h2 : opc.toNat ≤ 0x1F) : Reads .C opc o x (decC opc o x) := by
  have ho := o.isLt
  unfold decC
  split
  case h_32 => simp only [imp_false] at *; omega
  case h_26 h =>
    refine .ite fun hc => .hznRel h ?_
    simp only [fld, ← BitVec.toNat_inj, toNat_append, toNat_extract, BitVec.toNat_ofNat, Nat.reducePow, Nat.div_one] at *
    omega
  all_goals
    rename_i h
    repeat' first
      | with_reducible refine Reads.noExt ?_
      | with_reducible refine Reads.ite fun hc => ?_
      | with_reducible refine Reads.rec fun u hu => ?_
      | with_reducible refine Reads.regExt fun u hu => ?_
      | with_reducible refine Reads.cidSrc fun u hu => ?_
    all_goals first
      | refine Reads.of_encode rfl rfl h.symm ?_ (congrArg Prod.snd hu)
      | refine Reads.of_encode rfl rfl h.symm ?_ rfl
    all_goals simp only [fld, bit, ← BitVec.toNat_inj, toNat_append, toNat_extract, toNat_ofBool_getLsbD, BitVec.toNat_ofNat,
      Nat.reducePow, Nat.div_one, Prod.ext_iff] at *
    all_goals omega

theorem decN_reads {opc : BitVec 8} (h1 : 1 ≤ opc.toNat) (h2 : opc.toNat ≤ 0x08) : Reads .N opc o x (decN opc o x) := by
  have ho := o.isLt
  unfold decN
  split
  case h_9 => simp only [imp_false] at *; omega
  all_goals
    rename_i h
    repeat' first
      | with_reducible refine Reads.noExt ?_
      | with_reducible refine Reads.ite fun hc => ?_
    refine Reads.of_encode rfl rfl h.symm ?_ rfl
    all_goals simp only [fld, bit, ← BitVec.toNat_inj, toNat_append, toNat_extract, toNat_ofBool_getLsbD, BitVec.toNat_ofNat,
      Nat.reducePow, Nat.div_one, Prod.ext_iff] at *
    all_goals omega


/-- The opcode `n` has an instruction in the map of slot `k` (R29 to R36). -/
def Assigned (k : Slot) (n : Nat) : Prop := 1 ≤ n ∧ n ≤ k.lastOpc

theorem decOp_reads {opc : BitVec 8} (h : Assigned k opc.toNat) : Reads k opc o x (decOp k opc o x) := by
  obtain ⟨h1, h2⟩ := h
  cases k with
  | S => exact decS_reads h1 h2
  | K => exact decK_reads h1 h2
  | L => exact decL_reads h1 h2
  | V => exact decV_reads h1 h2
  | X => exact decX_reads h1 h2
  | F => exact decF_reads h1 h2
  | C => exact decC_reads h1 h2
  | N => exact decN_reads h1 h2

/-- An opcode above the last assigned one is reason 2. -/
theorem decOp_above {opc : BitVec 8} (h1 : k.lastOpc < opc.toNat) : decOp k opc o x = .error 2 := by
  cases k <;> simp only [Slot.lastOpc] at h1 <;> simp only [decOp, decS, decK, decL, decV, decX, decF, decC, decN] <;> split
  all_goals first | rfl | (rename_i h; rw [h] at h1; exact absurd h1 (by decide))

/-- An instruction that takes no extension is reason 4 beside one. -/
theorem decOp_ext_refused {opc : BitVec 8} {e : Ext} (h : Assigned k opc.toNat) (ht : k.takesExt opc.toNat = false) :
    decOp k opc o (some e) = .error 4 := by
  have h1 := h.1
  have h2 := h.2
  cases k <;> simp only [Slot.lastOpc] at h2 <;> simp only [decOp, decS, decK, decL, decV, decX, decF, decC, decN] <;> split
  all_goals first
    | rfl
    | rename_i h; rw [h] at ht; exact absurd ht (by decide)
    | simp only [imp_false] at *; omega

theorem assigned_of_takesExt {n : Nat} (h : k.takesExt n = true) : Assigned k n := by
  cases k <;> simp [Slot.takesExt] at h <;> simp only [Assigned, Slot.lastOpc] <;> omega

/-- The only reason that the answer may give is 5. -/
def OnlyReserved (r : Except Nat Instr) : Prop := ∀ n, r = .error n → n = 5

theorem OnlyReserved.ite {c : Prop} [Decidable c] (h : OnlyReserved r) : OnlyReserved (if c then r else .error 5) := by
  split
  · exact h
  · rintro n ⟨⟩; rfl

theorem OnlyReserved.accept (i : Instr) : OnlyReserved (accept i) := by
  unfold Sys2Proof.accept
  split <;> rintro n ⟨⟩
  rfl

theorem OnlyReserved.union {α : Type} {d : Option α} {f : α → Except Nat Instr} (h : ∀ u, OnlyReserved (f u)) :
    OnlyReserved (withUnion d f) := by
  cases d with
  | none => rintro n ⟨⟩; rfl
  | some u => exact h u

/-- Beside an extension that it takes, an instruction gives no other reason than 5. -/
theorem decOp_ext_taken {opc : BitVec 8} (ht : k.takesExt opc.toNat = true) : OnlyReserved (decOp k opc o x) := by
  obtain ⟨h1, h2⟩ := assigned_of_takesExt ht
  have hd {n : Nat} (h : opc.toNat = n) (hn : k.takesExt n = false) : False := by rw [← h, ht] at hn; cases hn
  cases k
  case K | V | F | N => cases ht
  all_goals
    simp only [Slot.lastOpc] at h2
    simp only [decOp, decS, decL, decX, decC]
    split
  all_goals first
    | exact (hd ‹_› rfl).elim
    | simp only [imp_false] at *; omega
    | repeat' first
      | with_reducible exact .accept _
      | with_reducible refine .ite ?_
      | with_reducible refine .union fun u => ?_

end

end Sys2Proof.Laws

end

section
/-!
PROOFS. Which slots and words are illegal, and which reason is reported.
-/

open Sys2Proof Sys2Proof.Laws
namespace Sys2Proof.Laws

/-! ## The bits of a slot (R14, R15) -/

section
variable {k : Slot} {o : BitVec 16} {x : Option Ext}

theorem slot_fields (v : BitVec 28) : v.extractLsb' 24 4 ++ v.extractLsb' 16 8 ++ v.extractLsb' 0 16 = v := by
  have hv := v.isLt
  apply BitVec.eq_of_toNat_eq
  simp only [toNat_append, toNat_extract, Nat.reducePow, Nat.div_one]
  omega

theorem slot_zero_iff {g : PReg} {p : BitVec 8} : g ++ p ++ o = 0#28 ↔ g = 0#4 ∧ p = 0#8 ∧ o = 0#16 := by
  simp only [← BitVec.toNat_inj, toNat_append, BitVec.toNat_ofNat, Nat.reducePow]
  omega

/-- OPC 0x00 is nop, or no instruction (R15). -/
theorem decSlot_nop (g : PReg) (h : g = 0#4 ∧ o = 0#16) :
    decSlot k (g ++ 0#8 ++ o) none = .ok ⟨0#4, .nop⟩ ∧ ∀ e, decSlot k (g ++ 0#8 ++ o) (some e) = .error 4 := by
  obtain ⟨rfl, rfl⟩ := h
  exact ⟨rfl, fun _ => rfl⟩

theorem decSlot_zero (g : PReg) (h : ¬ (g = 0#4 ∧ o = 0#16)) : decSlot k (g ++ 0#8 ++ o) x = .error 3 := by
  have h1 : (g ++ 0#8 ++ o).extractLsb' 16 8 = 0#8 := Enc.bits_opc ⟨k, 0#8, o, x⟩ g
  have h2 : g ++ 0#8 ++ o ≠ 0#28 := fun e => h ⟨(slot_zero_iff.1 e).1, (slot_zero_iff.1 e).2.2⟩
  simp only [decSlot, h1, if_true, if_neg h2]

/-- Any other OPC is read by the slot's opcode map. -/
theorem decSlot_op (g : PReg) {p : BitVec 8} (h : p ≠ 0#8) : decSlot k (g ++ p ++ o) x = (decOp k p o x).map (SlotOp.mk g) := by
  have h1 := Enc.bits_guard ⟨k, p, o, x⟩ g
  have h2 := Enc.bits_opc ⟨k, p, o, x⟩ g
  have h3 := Enc.bits_opnd ⟨k, p, o, x⟩ g
  simp only [Enc.bits] at h1 h2 h3
  simp only [decSlot, h1, h2, h3, if_neg h]
  cases decOp k p o x <;> rfl

theorem map_eq_error {r : Except Nat Instr} {f : Instr → SlotOp} {n : Nat} : r.map f = .error n ↔ r = .error n := by
  cases r <;> simp [Except.map]

theorem assigned_or_above {p : BitVec 8} (h : p ≠ 0#8) : Assigned k p.toNat ∨ k.lastOpc < p.toNat := by
  have : p.toNat ≠ 0 := fun e => h (BitVec.eq_of_toNat_eq e)
  unfold Assigned
  omega

theorem Reads.error_cases {opc : BitVec 8} {r : Except Nat Instr} {n : Nat} (h : Reads k opc o x r) (hr : r = .error n) :
    n = 5 ∨ n = 4 ∧ x ≠ none := by
  rw [hr] at h
  exact h

/-- The reasons that an opcode map gives (R19). -/
theorem decOp_error_two {p : BitVec 8} (hp : p ≠ 0#8) : decOp k p o x = .error 2 ↔ k.lastOpc < p.toNat := by
  refine ⟨fun h => ?_, decOp_above⟩
  rcases assigned_or_above hp with ha | ha
  · rcases (decOp_reads ha).error_cases h with h | h <;> omega
  · exact ha

theorem decOp_error_ne_three {p : BitVec 8} (hp : p ≠ 0#8) : decOp k p o x ≠ .error 3 := by
  intro h
  rcases assigned_or_above hp with ha | ha
  · rcases (decOp_reads ha).error_cases h with h | h <;> omega
  · rw [decOp_above ha] at h; cases h

theorem decOp_error_four {p : BitVec 8} (hp : p ≠ 0#8) :
    decOp k p o x = .error 4 ↔ x.isSome = true ∧ p.toNat ≤ k.lastOpc ∧ k.takesExt p.toNat = false := by
  constructor
  · intro h
    rcases assigned_or_above hp with ha | ha
    · obtain hn | ⟨-, hx⟩ := (decOp_reads ha).error_cases h
      · omega
      · refine ⟨Option.isSome_iff_ne_none.2 hx, ha.2, Bool.eq_false_iff.2 fun ht => ?_⟩
        have := decOp_ext_taken ht 4 h
        omega
    · rw [decOp_above ha] at h; cases h
  · rintro ⟨hx, hl, ht⟩
    obtain ⟨e, rfl⟩ := Option.isSome_iff_exists.1 hx
    have h0 : p.toNat ≠ 0 := fun e => hp (BitVec.eq_of_toNat_eq e)
    exact decOp_ext_refused ⟨by omega, hl⟩ ht

theorem decSlot_error_two (g : PReg) (p : BitVec 8) : decSlot k (g ++ p ++ o) x = .error 2 ↔ k.lastOpc < p.toNat := by
  by_cases hp : p = 0#8
  · subst hp
    simp only [BitVec.toNat_ofNat, Nat.zero_mod, Nat.not_lt_zero, iff_false]
    by_cases h : g = 0#4 ∧ o = 0#16
    · cases x <;> simp [decSlot_nop g h]
    · simp [decSlot_zero g h]
  · rw [decSlot_op g hp, map_eq_error, decOp_error_two hp]

theorem decSlot_error_three (g : PReg) (p : BitVec 8) :
    decSlot k (g ++ p ++ o) x = .error 3 ↔ p = 0#8 ∧ (g ≠ 0#4 ∨ o ≠ 0#16) := by
  by_cases hp : p = 0#8
  · subst hp
    by_cases h : g = 0#4 ∧ o = 0#16
    · cases x <;> simp only [decSlot_nop g h] <;> simp [h]
    · simpa [decSlot_zero g h] using not_and_or.1 h
  · simp [decSlot_op g hp, map_eq_error, decOp_error_ne_three hp, hp]

theorem decSlot_error_four (g : PReg) (p : BitVec 8) :
    decSlot k (g ++ p ++ o) x = .error 4 ↔ x.isSome = true ∧
      (p = 0#8 ∧ g = 0#4 ∧ o = 0#16 ∨ p ≠ 0#8 ∧ p.toNat ≤ k.lastOpc ∧ k.takesExt p.toNat = false) := by
  by_cases hp : p = 0#8
  · subst hp
    by_cases h : g = 0#4 ∧ o = 0#16
    · cases x <;> simp only [decSlot_nop g h] <;> simp [h]
    · simp [decSlot_zero g h, h]
  · simp [decSlot_op g hp, map_eq_error, decOp_error_four hp, hp]

/-- What a slot's bits can be: refused for reasons 2 to 5, nop with every bit zero and no extension, or what they encode. -/
theorem decSlot_cases (k : Slot) (v : BitVec 28) (x : Option Ext) :
    (∃ r, (r = 2 ∨ r = 3 ∨ r = 4 ∨ r = 5) ∧ decSlot k v x = .error r) ∨
    (v = 0#28 ∧ x = none ∧ decSlot k v x = .ok ⟨0#4, .nop⟩) ∨
    ∃ i, decSlot k v x = .ok ⟨v.extractLsb' 24 4, i⟩ ∧ v.extractLsb' 16 8 ≠ 0#8 ∧ Encodes k (v.extractLsb' 16 8) (v.extractLsb' 0 16) x i := by
  have hv := slot_fields v
  by_cases hp : v.extractLsb' 16 8 = 0#8
  · rw [hp] at hv
    by_cases h : v.extractLsb' 24 4 = 0#4 ∧ v.extractLsb' 0 16 = 0#16
    · obtain ⟨hn, he⟩ := decSlot_nop (k := k) _ h
      rw [hv] at hn he
      cases x with
      | none => exact .inr (.inl ⟨by rw [← hv, h.1, h.2]; rfl, rfl, hn⟩)
      | some e => exact .inl ⟨4, by simp, he e⟩
    · have hz := decSlot_zero (k := k) (x := x) _ h
      rw [hv] at hz
      exact .inl ⟨3, by simp, hz⟩
  · have hop := decSlot_op (k := k) (o := v.extractLsb' 0 16) (x := x) (v.extractLsb' 24 4) hp
    rw [hv] at hop
    rcases assigned_or_above (k := k) hp with ha | ha
    · have hr := decOp_reads (k := k) (o := v.extractLsb' 0 16) (x := x) ha
      cases hd : decOp k (v.extractLsb' 16 8) (v.extractLsb' 0 16) x with
      | ok i =>
        rw [hd] at hop hr
        exact .inr (.inr ⟨i, hop, hp, hr⟩)
      | error n =>
        rw [hd] at hop
        have := hr.error_cases hd
        exact .inl ⟨n, by omega, hop⟩
    · rw [decOp_above ha] at hop
      exact .inl ⟨2, by simp, hop⟩

end

/-- An encoding with an opcode other than 0 is not that of nop. -/
theorem Encodes.ne_nop {k : Slot} {p : BitVec 8} {o : BitVec 16} {x : Option Ext} {i : Instr} (h : Encodes k p o x i) (hp : p ≠ 0#8) :
    i ≠ .nop := by
  rintro rfl
  obtain ⟨-, e, he, -, ho, -⟩ := h
  cases he
  exact hp ho.symm

/-! ## The first reason (R19) -/

section
variable {l : List (Slot × Option Nat)}

theorem firstReason_none (h : firstReason l = none) : ∀ p ∈ l, p.2 = none := by
  induction l with
  | nil => simp
  | cons p rest ih =>
    obtain ⟨k, m⟩ := p
    cases m with
    | none => simpa using ih h
    | some n =>
      simp only [firstReason] at h
      split at h <;> (try split at h) <;> cases h

/-- The reason found is the lowest, and its slot the lowest that gives it. -/
theorem firstReason_some {n : Nat} {k : Slot} (hl : l.Pairwise fun p q => p.1.num < q.1.num) (h : firstReason l = some (n, k)) :
    (k, some n) ∈ l ∧ ∀ p ∈ l, ∀ m, p.2 = some m → n < m ∨ n = m ∧ k.num ≤ p.1.num := by
  induction l generalizing n k with
  | nil => cases h
  | cons q rest ih =>
    obtain ⟨k', r⟩ := q
    obtain ⟨hq, hrest⟩ := List.pairwise_cons.1 hl
    cases r with
    | none =>
      obtain ⟨hm, hle⟩ := ih hrest h
      exact ⟨List.mem_cons_of_mem _ hm, by simpa using hle⟩
    | some r =>
      simp only [firstReason] at h
      split at h
      case h_1 m k2 hr =>
        obtain ⟨hm, hle⟩ := ih hrest hr
        split at h <;> cases h
        · refine ⟨List.mem_cons_of_mem _ hm, fun p hp a ha => ?_⟩
          rcases List.mem_cons.1 hp with rfl | hp
          · cases ha; exact .inl ‹_›
          · exact hle p hp a ha
        · refine ⟨List.mem_cons_self, fun p hp a ha => ?_⟩
          rcases List.mem_cons.1 hp with rfl | hp
          · cases ha; exact .inr ⟨rfl, Nat.le_refl _⟩
          · have h1 := hle p hp a ha
            have h2 := hq p hp
            dsimp only at h2
            omega
      case h_2 hr =>
        cases h
        refine ⟨List.mem_cons_self, fun p hp a ha => ?_⟩
        rcases List.mem_cons.1 hp with rfl | hp
        · cases ha; exact .inr ⟨rfl, Nat.le_refl _⟩
        · rw [firstReason_none hr p hp] at ha; cases ha

end

/-! ## What a slot gives, and what a word answers -/

section
variable {ctl : Bool} {w : W256} {k : Slot} {n : Nat}

theorem wordSlot_ext (h : isExtSlot (headerBits w) k = true) : wordSlot w k = .ok ⟨0#4, .nop⟩ := by
  simp [wordSlot, h]

theorem wordSlot_error_cases (h : wordSlot w k = .error n) : n = 2 ∨ n = 3 ∨ n = 4 ∨ n = 5 := by
  unfold wordSlot at h
  dsimp only at h
  split at h
  · cases h
  · rcases decSlot_cases k (slotBits w k) ((extPair (headerBits w) k).map (slotBits w)) with ⟨r, hr, hd⟩ | ⟨-, -, hd⟩ | ⟨i, hd, -⟩ <;>
      rw [hd] at h <;> cases h
    exact hr

/-- The reason that slot `k` of the word gives by the decoder's own test. -/
def reasonOf (ctl : Bool) (w : W256) (k : Slot) : Option Nat :=
  slotReason ctl (pairFault (slotOpc w .X) (slotOpc w .F)) k (wordSlot w k)

theorem slotGives_of_reasonOf (h : reasonOf ctl w k = some n) : SlotGives ctl w k n := by
  unfold reasonOf slotReason at h
  split at h
  case h_1 r hr => cases h; exact .inl hr
  case h_2 x hx =>
    split at h
    case isTrue hp => cases h; exact .inr (.inl ⟨rfl, hp⟩)
    split at h
    case isTrue hc =>
      cases h
      simp only [Bool.and_eq_true, Bool.or_eq_true, decide_eq_true_eq] at hc
      exact .inr (.inr ⟨rfl, x, hx, .inl ⟨hc.1.1, hc.1.2, hc.2⟩⟩)
    split at h
    case h_1 a b c d ho =>
      cases ctl
      · cases h; exact .inr (.inr ⟨rfl, x, hx, .inr ⟨rfl, a, b, c, d, ho⟩⟩)
      · cases h
    case h_2 => cases h

/-- The decoder's test finds a reason that is no higher. -/
theorem reasonOf_of_slotGives (h : SlotGives ctl w k n) : ∃ m, m ≤ n ∧ reasonOf ctl w k = some m := by
  unfold reasonOf slotReason
  cases hs : wordSlot w k with
  | error r =>
    have hr := wordSlot_error_cases hs
    rcases h with h | ⟨rfl, -⟩ | ⟨-, x, hx, -⟩
    · rw [hs] at h; cases h; exact ⟨_, Nat.le_refl _, rfl⟩
    · exact ⟨r, by omega, rfl⟩
    · rw [hs] at hx; cases hx
  | ok s =>
    rcases h with h | ⟨rfl, hp⟩ | ⟨rfl, x, hx, h⟩
    · rw [hs] at h; cases h
    · exact ⟨5, Nat.le_refl _, if_pos hp⟩
    · rw [hs] at hx
      cases hx
      dsimp only
      split
      · exact ⟨5, by omega, rfl⟩
      · refine ⟨6, Nat.le_refl _, ?_⟩
        rcases h with ⟨rfl, hk, ho⟩ | ⟨rfl, a, b, c, d, ho⟩
        · rw [if_pos (by simpa using ⟨hk, ho⟩)]
        · rw [ho]; rfl

/-- The slots of a word with what each gives, as the decoder lists them. -/
def wordReasons (ctl : Bool) (w : W256) : List (Slot × Option Nat) := allSlots.map fun k => (k, reasonOf ctl w k)

theorem mem_allSlots (k : Slot) : k ∈ allSlots := by cases k <;> decide

theorem mem_wordReasons {p : Slot × Option Nat} : p ∈ wordReasons ctl w ↔ p.2 = reasonOf ctl w p.1 := by
  obtain ⟨k, r⟩ := p
  simp [wordReasons, mem_allSlots, eq_comm]

theorem wordReasons_ordered : (wordReasons ctl w).Pairwise fun p q => p.1.num < q.1.num :=
  List.pairwise_map.2 (by decide : allSlots.Pairwise fun a b => a.num < b.num)

/-- A word with reserved header bits is reason 1 (R13, R19). -/
theorem decodeWord_header (h : (headerBits w).extractLsb' 0 2 ≠ 0#2) : decodeWord ctl w = .error ⟨1, 0, true⟩ := by
  simp [decodeWord, h]

/-- Any other word is decoded unless one of its slots gives a reason. -/
theorem decodeWord_none (h : (headerBits w).extractLsb' 0 2 = 0#2) (hn : firstReason (wordReasons ctl w) = none) :
    decodeWord ctl w = .ok
      { mark := (headerBits w).getLsbD 31, yld := (headerBits w).getLsbD 30, sync := (headerBits w).extractLsb' 22 8,
        pop := (headerBits w).extractLsb' 14 8, step := (headerBits w).extractLsb' 6 8,
        slots := allSlots.map fun k => match wordSlot w k with | .ok s => s | .error _ => ⟨0#4, .nop⟩ } := by
  have hl : (allSlots.map fun k => (k, wordSlot w k)).map (fun p => (p.1, slotReason ctl (pairFault (slotOpc w .X) (slotOpc w .F)) p.1 p.2)) =
      wordReasons ctl w := List.map_map
  simp only [decodeWord, h, ne_eq, not_true_eq_false, if_false, hl, hn]
  simp only [List.map_map]
  rfl

theorem decodeWord_some {k : Slot} (h : (headerBits w).extractLsb' 0 2 = 0#2) (hn : firstReason (wordReasons ctl w) = some (n, k)) :
    decodeWord ctl w = .error ⟨n, k.num, false⟩ := by
  have hl : (allSlots.map fun k => (k, wordSlot w k)).map (fun p => (p.1, slotReason ctl (pairFault (slotOpc w .X) (slotOpc w .F)) p.1 p.2)) =
      wordReasons ctl w := List.map_map
  simp only [decodeWord, h, ne_eq, not_true_eq_false, if_false, hl, hn]

theorem decodeWord_ok_iff (h : (headerBits w).extractLsb' 0 2 = 0#2) :
    (∃ lw, decodeWord ctl w = .ok lw) ↔ ∀ k n, ¬ SlotGives ctl w k n := by
  cases hf : firstReason (wordReasons ctl w) with
  | none =>
    refine iff_of_true ⟨_, decodeWord_none h hf⟩ fun k n hg => ?_
    obtain ⟨m, -, hm⟩ := reasonOf_of_slotGives hg
    have := firstReason_none hf (k, some m) (mem_wordReasons.2 hm.symm)
    cases this
  | some q =>
    obtain ⟨n, k⟩ := q
    refine iff_of_false (fun ⟨lw, hlw⟩ => ?_) fun hg => ?_
    · rw [decodeWord_some h hf] at hlw; cases hlw
    · exact hg k n (slotGives_of_reasonOf (mem_wordReasons.1 (firstReason_some wordReasons_ordered hf).1).symm)

/-- What is reported: the lowest reason that a slot gives, with the lowest slot that gives it. -/
theorem decodeWord_error_iff (h : (headerBits w).extractLsb' 0 2 = 0#2) (j : Nat) (b : Bool) :
    decodeWord ctl w = .error ⟨n, j, b⟩ ↔ b = false ∧ ∃ k : Slot, k.num = j ∧ SlotGives ctl w k n ∧
      ∀ k' n', SlotGives ctl w k' n' → n < n' ∨ n = n' ∧ j ≤ k'.num := by
  cases hf : firstReason (wordReasons ctl w) with
  | none =>
    refine iff_of_false (fun he => ?_) fun ⟨_, k, _, hg, _⟩ => (decodeWord_ok_iff h).1 ⟨_, decodeWord_none h hf⟩ k n hg
    rw [decodeWord_none h hf] at he; cases he
  | some q =>
    obtain ⟨m, k⟩ := q
    obtain ⟨hm, hle⟩ := firstReason_some wordReasons_ordered hf
    have hk : SlotGives ctl w k m := slotGives_of_reasonOf (mem_wordReasons.1 hm).symm
    have hmin : ∀ k' n', SlotGives ctl w k' n' → m < n' ∨ m = n' ∧ k.num ≤ k'.num := by
      intro k' n' hg
      obtain ⟨a, ha, hr⟩ := reasonOf_of_slotGives hg
      have := hle (k', some a) (mem_wordReasons.2 hr.symm) a rfl
      dsimp only at this
      omega
    rw [decodeWord_some h hf]
    constructor
    · intro he
      cases he
      exact ⟨rfl, k, rfl, hk, hmin⟩
    · rintro ⟨rfl, k', rfl, hg, hall⟩
      have h1 := hall k m hk
      have h2 := hmin k' n hg
      obtain ⟨rfl, hn⟩ : m = n ∧ k.num = k'.num := by omega
      rw [hn]

end

/-- Settles O5: an assigned opcode reads only what its fields encode (`decOp_reads`), and the word reports the first of its slots'
reasons (`firstReason_some`). -/
theorem illegalWordReasons : Obligations.IllegalWordReasons := by
  refine ⟨fun k g p o x => ⟨decSlot_error_two g p, decSlot_error_three g p, decSlot_error_four g p⟩, fun k v x => ?_,
    fun w k => wordSlot_ext, fun ctl w => decodeWord_header, fun ctl w h => ⟨decodeWord_ok_iff h, fun n j b => decodeWord_error_iff h j b⟩⟩
  rcases decSlot_cases k v x with ⟨r, hr, hd⟩ | ⟨hv, hx, hd⟩ | ⟨i, hd, hp, he⟩
  · exact .inl ⟨r, hr, hd⟩
  · exact .inr ⟨_, hd, fun _ => ⟨hv, hx, rfl⟩, fun h => absurd rfl h⟩
  · refine .inr ⟨_, hd, fun h => absurd h (he.ne_nop hp), fun _ => ?_⟩
    obtain ⟨hw, e, hi, hs, hopc, ho, hext⟩ := he
    exact ⟨hw, e, hi, hs, by rw [Enc.bits, hopc, ho, slot_fields], hext⟩

end Sys2Proof.Laws

end

section
/-!
PROOFS. The word that holds one encoded operation.
-/

open Sys2Proof Sys2Proof.Laws
namespace Sys2Proof.Laws

/-! ## The word of one encoded operation -/

section
variable {k : Slot} {x : Ext}

/-- The fields that an encoding has read back as its operation, nop included, under guard p0. -/
theorem decSlot_encode {i : Instr} {e : Enc} (hw : i.wf = true) (he : encode i = some e) : decSlot e.slot (e.bits 0#4) e.ext = .ok ⟨0#4, i⟩ := by
  by_cases hi : i = .nop
  · subst hi; cases he; rfl
  · exact decSlot_bits 0#4 (encoding_statement i e hi hw he)

theorem takesExt_of_no_partner (hk : extPartner k = none) (n : Nat) : k.takesExt n = false := by
  cases k <;> first | rfl | cases hk

/-- Only a slot at the left of a pair reads an operation beside an extension (R17). -/
theorem extPartner_of_decSlot {v : BitVec 28} {s : SlotOp} (h : decSlot k v (some x) = .ok s) : ∃ p, extPartner k = some p := by
  refine Option.ne_none_iff_exists'.1 fun hk => ?_
  rw [← slot_fields v] at h
  by_cases hp : v.extractLsb' 16 8 = 0#8
  · rw [hp] at h
    by_cases hz : v.extractLsb' 24 4 = 0#4 ∧ v.extractLsb' 0 16 = 0#16
    · rw [(decSlot_nop _ hz).2 x] at h; cases h
    · rw [decSlot_zero _ hz] at h; cases h
  · rw [decSlot_op _ hp] at h
    rcases assigned_or_above hp with ha | ha
    · rw [decOp_ext_refused ha (takesExt_of_no_partner hk _)] at h; cases h
    · rw [decOp_above ha] at h; cases h

theorem slotBits_or (v w : W256) (k : Slot) : slotBits (v ||| w) k = slotBits v k ||| slotBits w k := BitVec.extractLsb'_or

theorem headerBits_or (v w : W256) : headerBits (v ||| w) = headerBits v ||| headerBits w := BitVec.extractLsb'_or

section
variable {p : Slot × Nat}

/-- The header bit that joins a pair lies in no slot, and in the header it stands alone (R13). -/
theorem slotBits_headerBit (h : extPartner k = some p) (j : Slot) : slotBits ((1#256) <<< (224 + p.2)) j = 0#28 := by
  cases k <;> cases h <;> cases j <;> decide

theorem headerBits_headerBit (h : extPartner k = some p) : headerBits ((1#256) <<< (224 + p.2)) = 1#32 <<< p.2 := by
  cases k <;> cases h <;> decide

theorem partner_ne (h : extPartner k = some p) : k ≠ p.1 := by
  cases k <;> cases h <;> decide

theorem isExtSlot_headerBit (h : extPartner k = some p) (j : Slot) : isExtSlot (1#32 <<< p.2) j = decide (j = p.1) := by
  cases k <;> cases h <;> cases j <;> decide

theorem extPair_headerBit (h : extPartner k = some p) (j : Slot) : extPair (1#32 <<< p.2) j = if j = k then some p.1 else none := by
  cases k <;> cases h <;> cases j <;> decide

/-- MARK, YLD, SYNC, POP, STEP and the reserved bits of a header that joins one pair are clear. -/
theorem header_fields_headerBit (h : extPartner k = some p) :
    (1#32 <<< p.2).extractLsb' 0 2 = 0#2 ∧ (1#32 <<< p.2).extractLsb' 6 26 = 0#26 := by
  cases k <;> cases h <;> decide

end

theorem isExtSlot_zero (j : Slot) : isExtSlot 0#32 j = false := by cases j <;> rfl

theorem extPair_zero (j : Slot) : extPair 0#32 j = none := by cases j <;> rfl

end

/-- What the word of an encoding holds: its own slot reads its bits and its extension, the partner's slot serves as that extension
where it has one, every other slot reads zero alone, and the header is clear but for the bit of the pair. -/
structure HoldsOnly (w : W256) (e : Enc) : Prop where
  own : isExtSlot (headerBits w) e.slot = false ∧ slotBits w e.slot = e.bits 0#4 ∧ (extPair (headerBits w) e.slot).map (slotBits w) = e.ext
  others : ∀ j, j ≠ e.slot → isExtSlot (headerBits w) j = true ∨ slotBits w j = 0#28 ∧ extPair (headerBits w) j = none
  reserved : (headerBits w).extractLsb' 0 2 = 0#2
  fields : (headerBits w).extractLsb' 6 26 = 0#26

theorem word_holdsOnly {e : Enc} (h : ∀ x, e.ext = some x → ∃ p, extPartner e.slot = some p) : HoldsOnly e.word e := by
  cases hx : e.ext with
  | none =>
    have hw : e.word = placeSlot e.slot (e.bits 0#4) := by simp [Enc.word, hx]
    have hh : headerBits e.word = 0#32 := by rw [hw, headerBits_placeSlot]
    refine ⟨⟨?_, ?_, ?_⟩, fun j hj => .inr ⟨?_, ?_⟩, ?_, ?_⟩
    · rw [hh, isExtSlot_zero]
    · rw [hw, slotBits_placeSlot_same]
    · rw [hh, extPair_zero, hx]; rfl
    · rw [hw, slotBits_placeSlot_ne _ hj]
    · rw [hh, extPair_zero]
    · rw [hh]; rfl
    · rw [hh]; rfl
  | some x =>
    obtain ⟨p, hp⟩ := h x hx
    have hw : e.word = placeSlot e.slot (e.bits 0#4) ||| placeSlot p.1 x ||| ((1#256) <<< (224 + p.2)) := by simp [Enc.word, hx, hp]
    have hb (j : Slot) : slotBits e.word j = slotBits (placeSlot e.slot (e.bits 0#4)) j ||| slotBits (placeSlot p.1 x) j := by
      rw [hw, slotBits_or, slotBits_or, slotBits_headerBit hp, BitVec.or_zero]
    have hh : headerBits e.word = 1#32 <<< p.2 := by
      rw [hw, headerBits_or, headerBits_or, headerBits_placeSlot, headerBits_placeSlot, headerBits_headerBit hp, BitVec.zero_or, BitVec.zero_or]
    have hne := partner_ne hp
    refine ⟨⟨?_, ?_, ?_⟩, fun j hj => ?_, ?_, ?_⟩
    · rw [hh, isExtSlot_headerBit hp, decide_eq_false hne]
    · rw [hb, slotBits_placeSlot_same, slotBits_placeSlot_ne _ hne, BitVec.or_zero]
    · rw [hh, extPair_headerBit hp, if_pos rfl, Option.map_some, hb, slotBits_placeSlot_same, slotBits_placeSlot_ne _ hne.symm,
        BitVec.zero_or, hx]
    · rw [hh, isExtSlot_headerBit hp, extPair_headerBit hp, if_neg hj, decide_eq_true_eq]
      refine or_iff_not_imp_left.2 fun hj' => ⟨?_, rfl⟩
      rw [hb, slotBits_placeSlot_ne _ hj, slotBits_placeSlot_ne _ hj', BitVec.zero_or]
    · rw [hh]; exact (header_fields_headerBit hp).1
    · rw [hh]; exact (header_fields_headerBit hp).2

section
variable {w : W256} {e : Enc} {i : Instr}

theorem wordSlot_of_holdsOnly (h : HoldsOnly w e) (hd : decSlot e.slot (e.bits 0#4) e.ext = .ok ⟨0#4, i⟩) (j : Slot) :
    wordSlot w j = .ok ⟨0#4, if j = e.slot then i else .nop⟩ := by
  by_cases hj : j = e.slot
  · obtain ⟨ho, hb, hx⟩ := h.own
    subst hj
    simp [wordSlot, ho, hb, hx, hd]
  · rcases h.others j hj with ho | ⟨hb, hx⟩
    · rw [wordSlot_ext ho, if_neg hj]
    · simp only [wordSlot, hb, hx, if_neg hj]
      split <;> rfl

theorem slotOpc_of_holdsOnly (h : HoldsOnly w e) (j : Slot) : slotOpc w j = if j = e.slot then e.opc.toNat else 0 := by
  by_cases hj : j = e.slot
  · obtain ⟨ho, hb, -⟩ := h.own
    subst hj
    simp [slotOpc, ho, hb, Enc.bits_opc]
  · rcases h.others j hj with ho | ⟨hb, -⟩
    · simp [slotOpc, ho, hj]
    · simp [slotOpc, hb, hj]

end

/-- The opcode map of slot X reads a pass from a pass's opcode only, and that of slot F a feed from a feed's. -/
theorem isPass_of_passOpc {opc : BitVec 8} {o : BitVec 16} {x : Option Ext} {i : Instr} (h : passOpc opc.toNat = true)
    (hd : decOp .X opc o x = .ok i) : i.isPass = true := by
  have h : opc.toNat = 0x09 ∨ opc.toNat = 0x0A := by simpa [passOpc] using h
  cases x with
  | some e => rcases h with h | h <;> simp [decOp, decX, h, noExt] at hd
  | none =>
    rcases h with h | h <;> simp only [decOp, decX, h, noExt, accept] at hd <;> (repeat' split at hd) <;> cases hd <;> rfl

theorem isFeed_of_feedOpc {opc : BitVec 8} {o : BitVec 16} {x : Option Ext} {i : Instr} (h : feedOpc opc.toNat = true)
    (hd : decOp .F opc o x = .ok i) : i.isFeed = true := by
  have h : opc.toNat = 1 ∨ opc.toNat = 2 ∨ opc.toNat = 3 ∨ opc.toNat = 4 ∨ opc.toNat = 5 ∨ opc.toNat = 6 := by
    simp [feedOpc] at h; omega
  cases x with
  | some e => rcases h with h | h | h | h | h | h <;> simp [decOp, decF, h, noExt] at hd
  | none =>
    rcases h with h | h | h | h | h | h <;> simp only [decOp, decF, h, noExt, accept] at hd <;> (repeat' split at hd) <;> cases hd <;> rfl

/-- The one operation of a list of slots that holds it alone. -/
theorem soleOp_single (k : Slot) (i : Instr) : soleOp (allSlots.map fun j => ⟨0#4, if j = k then i else .nop⟩) = some i := by
  by_cases hi : i = .nop
  · subst hi
    simp [allSlots, soleOp]
  · cases k <;> simp [allSlots, soleOp, hi]

/-- Whether an operation is a control core's alone (R19, reason 6). -/
def ctlOnly (i : Instr) : Bool := match i with | .watch _ _ _ _ => true | _ => false

theorem ctlOnly_iff {i : Instr} : ctlOnly i = true ↔ ∃ sd sa sb t, i = .watch sd sa sb t := by
  unfold ctlOnly
  split
  · exact iff_of_true rfl ⟨_, _, _, _, rfl⟩
  · rename_i hn
    exact iff_of_false Bool.false_ne_true fun ⟨sd, sa, sb, t, h⟩ => hn sd sa sb t h

section
variable {w : W256} {e : Enc} {i : Instr}

/-- On the kind of core that has its operation, no slot of the word gives a reason of its own. -/
theorem slotReason_single (he : encode i = some e) (k : Slot) :
    slotReason (ctlOnly i) none k (.ok ⟨0#4, if k = e.slot then i else .nop⟩) = none := by
  by_cases hk : k = e.slot
  · subst hk
    cases hc : ctlOnly i with
    | true =>
      obtain ⟨sd, sa, sb, t, rfl⟩ := ctlOnly_iff.1 hc
      cases he
      simp [slotReason]
    | false =>
      have hn : ∀ sd sa sb t, i ≠ .watch sd sa sb t := fun sd sa sb t h => by rw [ctlOnly_iff.2 ⟨sd, sa, sb, t, h⟩] at hc; cases hc
      simp [slotReason]
  · simp [slotReason, hk]

theorem decOp_encode (hw : i.wf = true) (he : encode i = some e) (hs : e.slot ≠ .S) : decOp e.slot e.opc e.opnd e.ext = .ok i :=
  encoding_statement i e (by rintro rfl; cases he; exact hs rfl) hw he

/-- Without a pass and without a feed, none stands alone (R187). -/
theorem pairFault_of_holdsOnly (h : HoldsOnly w e) (hw : i.wf = true) (he : encode i = some e) (hp : i.isPass = false)
    (hf : i.isFeed = false) : pairFault (slotOpc w .X) (slotOpc w .F) = none := by
  have hx : passOpc (slotOpc w .X) = false := by
    refine Bool.eq_false_iff.2 fun ho => ?_
    rw [slotOpc_of_holdsOnly h] at ho
    split at ho
    case isTrue hs =>
      have hd := decOp_encode hw he (by simp [← hs])
      rw [← hs] at hd
      rw [isPass_of_passOpc ho hd] at hp
      cases hp
    case isFalse => cases ho
  have hy : feedOpc (slotOpc w .F) = false := by
    refine Bool.eq_false_iff.2 fun ho => ?_
    rw [slotOpc_of_holdsOnly h] at ho
    split at ho
    case isTrue hs =>
      have hd := decOp_encode hw he (by simp [← hs])
      rw [← hs] at hd
      rw [isFeed_of_feedOpc ho hd] at hf
      cases hf
    case isFalse => cases ho
  simp [pairFault, hx, hy]

/-- A field of the header, above its bit 6. -/
theorem header_field_zero {h : BitVec 32} (hz : h.extractLsb' 6 26 = 0#26) (lo n : Nat) (h6 : 6 ≤ lo) (hn : lo + n ≤ 32) :
    h.extractLsb' lo n = 0#n := by
  have : h.extractLsb' lo n = (h.extractLsb' 6 26).extractLsb' (lo - 6) n := by
    apply BitVec.eq_of_getLsbD_eq
    intro i hi
    simp only [BitVec.getLsbD_extractLsb', hi, decide_true, Bool.true_and]
    rw [decide_eq_true (show lo - 6 + i < 26 by omega), Bool.true_and, show 6 + (lo - 6 + i) = lo + i by omega]
  rw [this, hz]
  simp

theorem header_bit_zero {h : BitVec 32} (hz : h.extractLsb' 6 26 = 0#26) (b : Nat) (h6 : 6 ≤ b) : h.getLsbD b = false := by
  have : (h.extractLsb' 6 26).getLsbD (b - 6) = false := by rw [hz]; simp
  by_cases hb : b < 32
  · simpa [show b - 6 < 26 by omega, show 6 + (b - 6) = b by omega] using this
  · exact BitVec.getLsbD_of_ge h b (by omega)

end

/-- Settles O3: the word's slots read the operation and nop (`wordSlot_of_holdsOnly`), so that no slot gives a reason. -/
theorem encodedWordDecodes : Obligations.EncodedWordDecodes := by
  intro i e hw he hp hf
  have hd := decSlot_encode hw he
  have h : HoldsOnly e.word e := word_holdsOnly fun x hx => extPartner_of_decSlot (hx ▸ hd)
  have hs := wordSlot_of_holdsOnly h hd
  have hr : firstReason (wordReasons (ctlOnly i) e.word) = none := by
    cases hf' : firstReason (wordReasons (ctlOnly i) e.word) with
    | none => rfl
    | some q =>
      have hq := mem_wordReasons.1 (firstReason_some wordReasons_ordered hf').1
      rw [reasonOf, pairFault_of_holdsOnly h hw he hp hf, hs, slotReason_single he] at hq
      cases hq
  refine ⟨_, decodeWord_none h.reserved hr, ?_, header_bit_zero h.fields 31 (by omega), header_bit_zero h.fields 30 (by omega),
    header_field_zero h.fields 22 8 (by omega) (by omega), header_field_zero h.fields 14 8 (by omega) (by omega),
    header_field_zero h.fields 6 8 (by omega) (by omega)⟩
  simp only [hs]
  exact soleOp_single e.slot i

end Sys2Proof.Laws

end

section
/-!
PROOFS. The words that the spec writes out.
-/

open Sys2Proof Sys2Proof.Laws
namespace Sys2Proof.Laws

/-- Settles O4: each word, evaluated by the decoder. -/
theorem specWordsDecode : Obligations.SpecWordsDecode := by
  unfold Obligations.SpecWordsDecode
  decide

end Sys2Proof.Laws

end

section
/-!
PROOFS. Reading a register file after a write, and O16.
-/

namespace Sys2Proof.Machine

/-! ## The write that a word reads (R24, R27) -/

/-- One write of the log against the best so far: the step of `RegFile.winner`. -/
def Wr.pick {α : Type} (closers : List Nat) (idx n : Nat) (best : Option (Wr α)) (e : Wr α) : Option (Wr α) :=
  if e.idx = idx ∧ e.eff closers ≤ n then
    match best with
    | some b => if b.eff closers ≤ e.eff closers then some e else some b
    | none => some e
  else best

theorem winner_eq_foldl {α : Type} (f : RegFile α) (cl : List Nat) (idx n : Nat) :
    f.winner cl idx n = f.log.foldl (Wr.pick cl idx n) none := rfl

theorem pick_cases {α : Type} (cl : List Nat) (idx n : Nat) (best : Option (Wr α)) (e : Wr α) :
    Wr.pick cl idx n best e = best ∨ (Wr.pick cl idx n best e = some e ∧ e.idx = idx ∧ e.eff cl ≤ n) := by
  unfold Wr.pick
  split
  · next h =>
    cases best with
    | none => exact .inr ⟨rfl, h⟩
    | some b =>
      dsimp only
      split
      · exact .inr ⟨rfl, h⟩
      · exact .inl rfl
  · exact .inl rfl

/-- The write that is read stands in the log, writes the register, and is visible. -/
theorem winner_some {α : Type} {f : RegFile α} {cl : List Nat} {idx n : Nat} {e : Wr α} (h : f.winner cl idx n = some e) :
    e ∈ f.log ∧ e.idx = idx ∧ e.eff cl ≤ n := by
  have fold : ∀ (log : List (Wr α)) (best : Option (Wr α)), log.foldl (Wr.pick cl idx n) best = some e →
      best = some e ∨ (e ∈ log ∧ e.idx = idx ∧ e.eff cl ≤ n) := by
    intro log
    induction log with
    | nil => exact fun best h => .inl h
    | cons x rest ih =>
      intro best h
      obtain hp | ⟨hm, he⟩ := ih _ h
      · obtain hb | ⟨hx, hx'⟩ := pick_cases cl idx n best x
        · exact .inl (hb ▸ hp)
        · obtain rfl : x = e := Option.some.inj (hx.symm.trans hp)
          exact .inr ⟨List.mem_cons_self, hx'⟩
      · exact .inr ⟨List.mem_cons_of_mem _ hm, he⟩
  simpa using fold f.log none h

/-- A change of the log's entries that leaves their registers and their words alone changes the write that is read likewise. -/
theorem winner_map {α : Type} (f : RegFile α) (cl : List Nat) (idx n : Nat) (g : Wr α → Wr α)
    (hi : ∀ e, (g e).idx = e.idx) (hv : ∀ e, (g e).eff cl = e.eff cl) :
    ({ f with log := f.log.map g } : RegFile α).winner cl idx n = (f.winner cl idx n).map g := by
  have fold : ∀ (log : List (Wr α)) (best : Option (Wr α)),
      (log.map g).foldl (Wr.pick cl idx n) (best.map g) = (log.foldl (Wr.pick cl idx n) best).map g := by
    intro log
    induction log with
    | nil => exact fun _ => rfl
    | cons x rest ih =>
      intro best
      have step : Wr.pick cl idx n (best.map g) (g x) = (Wr.pick cl idx n best x).map g := by
        cases best with
        | none => simp only [Wr.pick, Option.map_none, hi, hv]; split_ifs <;> rfl
        | some b => simp only [Wr.pick, Option.map_some, hi, hv]; split_ifs <;> rfl
      simp [step, ih]
  exact fold f.log none

/-- An entry of the log once write `id` of register `idx` is produced. -/
def Wr.filled {α : Type} (id idx : Nat) (v : α) (note : Note) (e : Wr α) : Wr α :=
  if e.id = id ∧ e.idx = idx ∧ e.val.isNone then { e with val := some v, note := note } else e

theorem winner_fill {α : Type} (f : RegFile α) (cl : List Nat) (id idx i n : Nat) (v : α) (note : Note) :
    (f.fill id idx v note).winner cl i n = (f.winner cl i n).map (Wr.filled id idx v note) :=
  winner_map f cl i n (Wr.filled id idx v note) (fun e => by unfold Wr.filled; split <;> rfl)
    fun e => by unfold Wr.filled; split <;> rfl

/-- Producing the value of one register leaves the writes of every other as they are. -/
theorem winner_fill_ne {α : Type} (f : RegFile α) (cl : List Nat) {id idx i n : Nat} (v : α) (note : Note) (h : i ≠ idx) :
    (f.fill id idx v note).winner cl i n = f.winner cl i n := by
  rw [winner_fill]
  cases hw : f.winner cl i n with
  | none => rfl
  | some e =>
    obtain ⟨_, hi, _⟩ := winner_some hw
    simp [Wr.filled, hi, h]

theorem read_fill_ne {α : Type} (c : Ctx) (f : RegFile α) (d : α) {id idx i n : Nat} (v : α) (note : Note) (h : i ≠ idx) :
    c.read (f.fill id idx v note) d i n = c.read f d i n := by
  unfold Ctx.read
  rw [winner_fill_ne f _ v note h]
  rfl

/-! ## A write that joins the log -/

theorem winner_expect {α : Type} (f : RegFile α) (w : Wr α) (cl : List Nat) (i n : Nat) :
    (f.expect w).winner cl i n = Wr.pick cl i n (f.winner cl i n) w := by
  simp [winner_eq_foldl, RegFile.expect]

/-- A write that the word does not see leaves what it reads. -/
theorem winner_expect_unseen {α : Type} (f : RegFile α) {w : Wr α} {cl : List Nat} {i n : Nat} (h : w.idx = i → n < w.eff cl) :
    (f.expect w).winner cl i n = f.winner cl i n := by
  rw [winner_expect]
  exact if_neg fun ⟨hi, hv⟩ => absurd (h hi) (by omega)

/-- A write that becomes visible no earlier than every other of its register is the one read. -/
theorem winner_expect_last {α : Type} (f : RegFile α) {w : Wr α} {cl : List Nat} {n : Nat} (hv : w.eff cl ≤ n)
    (hl : ∀ e ∈ f.log, e.idx = w.idx → e.eff cl ≤ w.eff cl) : (f.expect w).winner cl w.idx n = some w := by
  rw [winner_expect]
  refine (if_pos ⟨rfl, hv⟩).trans ?_
  cases hw : f.winner cl w.idx n with
  | none => rfl
  | some e =>
    obtain ⟨hm, hi, _⟩ := winner_some hw
    exact if_pos (hl e hm hi)

theorem fill_expect {α : Type} (f : RegFile α) (w : Wr α) (id idx : Nat) (v : α) (note : Note) (h : ∀ e ∈ f.log, e.id ≠ id) :
    (f.expect w).fill id idx v note = f.expect (w.filled id idx v note) := by
  have same : f.log.map (Wr.filled id idx v note) = f.log := by
    rw [List.map_congr_left (g := fun e => e) fun e he => by simp [Wr.filled, h e he]]
    exact List.map_id _
  show ({ f with log := (f.log ++ [w]).map (Wr.filled id idx v note) } : RegFile α) = _
  rw [List.map_append, same]
  rfl

/-! ## What a context reads -/

theorem read_of_winner_value {α : Type} {c : Ctx} {f : RegFile α} {d : α} {i n : Nat} {e : Wr α} {v : α}
    (h : f.winner c.closers i n = some e) (hv : e.val = some v) (hn : e.note = .plain) : c.read f d i n = .ok v := by
  simp [Ctx.read, h, hv, hn]

theorem read_of_winner_pending {α : Type} {c : Ctx} {f : RegFile α} {d : α} {i n : Nat} {e : Wr α}
    (h : f.winner c.closers i n = some e) (hv : e.val = none) (hg : e.gated = false) : c.read f d i n = .wait := by
  simp [Ctx.read, h, hv, hg]

/-- Two files with one base, of which the word reads the same write, read alike. -/
theorem read_congr {α : Type} (c : Ctx) {f g : RegFile α} (d : α) {i n : Nat} (hb : f.base = g.base)
    (hw : f.winner c.closers i n = g.winner c.closers i n) : c.read f d i n = c.read g d i n := by
  unfold Ctx.read
  rw [hw, hb]

/-- Settles O16: the pending write stands last in the log, so it is read from the word at which it becomes visible, and no other
word or register sees it. -/
theorem writtenRegisterReadsBack : Obligations.WrittenRegisterReadsBack := by
  unfold Obligations.WrittenRegisterReadsBack
  refine ⟨fun c old id n slot lat r v hcl hs hid hvis => ?_, fun _ _ _ _ _ _ _ _ _ _ _ _ _ => by
    refine ⟨rfl, rfl, rfl, rfl, rfl, rfl, rfl, rfl, rfl, rfl, rfl, rfl, rfl, rfl⟩⟩
  have eff_open : ∀ e : Wr W64, e.eff c.closers = e.vis := fun e => by simp [Wr.eff, effVis, hcl]
  have last : ∀ e ∈ old.log, e.idx = r → e.eff c.closers ≤ n + lat := fun e he hi => eff_open e ▸ hvis e he hi
  have filled : c.s.fill id r v .plain = old.expect ⟨id, r, n, n + lat, slot, false, false, some v, .plain⟩ := by
    rw [hs, fill_expect _ _ _ _ _ _ hid]
    simp [Wr.filled, wrAt]
  rw [filled, hs]
  refine ⟨fun m hm => ⟨?_, ?_⟩, fun m hm => ⟨?_, ?_⟩, fun m r' hr => ?_⟩
  · exact read_of_winner_value (winner_expect_last old (by rw [eff_open]; exact hm) (by rw [eff_open]; exact last)) rfl rfl
  · exact read_of_winner_pending (winner_expect_last old (by rw [eff_open]; exact hm) (by rw [eff_open]; exact last)) rfl rfl
  · exact read_congr c _ rfl (winner_expect_unseen old fun _ => by rw [eff_open]; exact hm)
  · exact read_congr c _ rfl (winner_expect_unseen old fun _ => by rw [eff_open]; exact hm)
  · exact read_congr c _ rfl (winner_expect_unseen old fun h => absurd h.symm hr)

end Sys2Proof.Machine

end

section
/-!
PROOFS. What issue leaves unchanged, and O32.
-/

namespace Sys2Proof.Machine

/-! ## Issuing: the context and the queues -/

@[simp] theorem popQ_queue_same (c : Ctx) (k id : Nat) :
    (c.popQ k id).queue k = (c.queue k).filter fun e => decide (e.id ≠ id) := by simp [Ctx.popQ, Ctx.queue]

theorem popQ_queue_ne (c : Ctx) {k j : Nat} (id : Nat) (h : j ≠ k) : (c.popQ k id).queue j = c.queue j := by
  simp [Ctx.popQ, Ctx.queue, AMap.get_set_ne, h]

/-- The context after issue: the queue has lost the entry, and the yield may be noted or resolved. -/
theorem retire_ctx_eq (s : State) (f : Focus) : ∃ w y n, (s.retire f).ctx f.ctx =
    { (s.ctx f.ctx).popQ f.slot f.ent.id with yldWord := w, yields := y, yieldCyc := n } := by
  obtain hn | hn := noteYield_cases ((s.ctx f.ctx).popQ f.slot f.ent.id) s.now <;>
    obtain h | h := retire_ctx s f <;> rw [h, hn]
  · exact ⟨_, _, _, rfl⟩
  · exact ⟨none, false, _, rfl⟩
  · exact ⟨_, _, _, rfl⟩
  · exact ⟨none, false, _, rfl⟩

/-- What of a context issue itself leaves as it was: all but its queues and its yield. -/
theorem retire_ctx_frame (s : State) (f : Focus) :
    { (s.retire f).ctx f.ctx with
      queues := (s.ctx f.ctx).queues, yldWord := (s.ctx f.ctx).yldWord, yields := (s.ctx f.ctx).yields,
      yieldCyc := (s.ctx f.ctx).yieldCyc } = s.ctx f.ctx := by
  obtain ⟨w, y, n, h⟩ := retire_ctx_eq s f
  generalize (s.retire f).ctx f.ctx = d at h
  subst h
  rfl

theorem retire_queues (s : State) (f : Focus) :
    ((s.retire f).ctx f.ctx).queues = ((s.ctx f.ctx).popQ f.slot f.ent.id).queues := by
  obtain ⟨w, y, n, h⟩ := retire_ctx_eq s f
  rw [h]

theorem queue_congr {c d : Ctx} (h : c.queues = d.queues) (j : Nat) : c.queue j = d.queue j := by simp [Ctx.queue, h]

theorem retire_queue_same (s : State) (f : Focus) :
    ((s.retire f).ctx f.ctx).queue f.slot = ((s.ctx f.ctx).queue f.slot).filter fun e => decide (e.id ≠ f.ent.id) :=
  (queue_congr (retire_queues s f) _).trans (popQ_queue_same ..)

theorem retire_queue_ne (s : State) (f : Focus) {j : Nat} (h : j ≠ f.slot) :
    ((s.retire f).ctx f.ctx).queue j = (s.ctx f.ctx).queue j :=
  (queue_congr (retire_queues s f) _).trans (popQ_queue_ne _ _ h)

/-- An operation that issues having made context `c`: where it leads. -/
theorem issued_frame {s t : State} {f : Focus} {c : Ctx} (h : issued s f c = .next t) :
    t.focus = none ∧ SameOutside s t f.ctx ∧
    { t.ctx f.ctx with queues := c.queues, yldWord := c.yldWord, yields := c.yields, yieldCyc := c.yieldCyc } = c ∧
    (t.ctx f.ctx).queue f.slot = (c.queue f.slot).filter (fun e => decide (e.id ≠ f.ent.id)) ∧
    ∀ j, j ≠ f.slot → (t.ctx f.ctx).queue j = c.queue j := by
  obtain rfl : (s.setCtx f.ctx c).retire f = t := by simpa [issued] using h
  have made : (s.setCtx f.ctx c).ctx f.ctx = c := setCtx_ctx_same ..
  refine ⟨retire_focus .., (sameOutside_setCtx ..).trans (sameOutside_retire ..), ?_, ?_, fun j hj => ?_⟩
  · simpa only [made] using retire_ctx_frame (s.setCtx f.ctx c) f
  · simpa only [made] using retire_queue_same (s.setCtx f.ctx c) f
  · simpa only [made] using retire_queue_ne (s.setCtx f.ctx c) f hj

/-- The context that an operation leaves which issues having made `c`. -/
theorem issued_ctx_eq {s t : State} {f : Focus} {c : Ctx} (h : issued s f c = .next t) : ∃ q w y n, t.ctx f.ctx =
    { c with queues := q, yldWord := w, yields := y, yieldCyc := n } := by
  obtain rfl : (s.setCtx f.ctx c).retire f = t := by simpa [issued] using h
  obtain ⟨w, y, n, h⟩ := retire_ctx_eq (s.setCtx f.ctx c) f
  exact ⟨_, w, y, n, h.trans (by rw [setCtx_ctx_same]; rfl)⟩

/-! ## A register write and the other registers -/

theorem rdS_putS_ne (c : Ctx) (id n : Nat) {r r' : SReg} (v : W64) (h : r' ≠ r) : (c.putS id r v).rdS n r' = c.rdS n r' := by
  unfold Ctx.rdS
  split
  · rfl
  · exact read_fill_ne c c.s 0#64 v .plain fun e => h (BitVec.eq_of_toNat_eq e)

theorem rdV_putV_ne (c : Ctx) (id n : Nat) {r r' : VReg} (v : VBits) (h : r' ≠ r) : (c.putV id r v).rdV n r' = c.rdV n r' :=
  read_fill_ne c c.v 0#2048 v .plain fun e => h (BitVec.eq_of_toNat_eq e)

theorem rdM_putM_ne (c : Ctx) (id n : Nat) {r r' : MReg} (v : W64) (h : r' ≠ r) : (c.putM id r v).rdM n r' = c.rdM n r' := by
  unfold Ctx.rdM
  split
  · rfl
  · exact read_fill_ne c c.m 0#64 v .plain fun e => h (BitVec.eq_of_toNat_eq e)

theorem rdU_putU_ne (c : Ctx) (id n : Nat) {i i' : Nat} (v : W64) (h : i' ≠ i) : (c.putU id i v).rdU n i' = c.rdU n i' :=
  read_fill_ne c c.u _ v .plain h

/-- Settles O32: retiring an entry changes its queue and the yield alone, and a produced value the log of its register alone. -/
theorem issuingOperationFrame : Obligations.IssuingOperationFrame := by
  unfold Obligations.IssuingOperationFrame
  exact ⟨fun s t f c _ h => issued_frame h, fun c id n =>
    ⟨fun _ _ v h => rdS_putS_ne c id n v h, fun _ _ v h => rdV_putV_ne c id n v h, fun _ _ v h => rdM_putM_ne c id n v h,
      fun _ _ v h => rdU_putU_ne c id n v h, fun _ _ => ⟨rfl, rfl, rfl, rfl⟩, fun _ _ => ⟨rfl, rfl, rfl, rfl⟩⟩⟩

end Sys2Proof.Machine

end

section
/-!
PROOFS. The integer and move instructions at issue, O17 and O19.
-/

namespace Sys2Proof.Machine

/-! ## Bits that are counted -/

theorem bitAt_toNat {w : Nat} (x : BitVec w) (i : Nat) : bitAt x.toNat i = x.getLsbD i :=
  (Nat.testBit_eq_decide_div_mod_eq ..).symm

/-- The ones among the low `w` bits, as the set bits of a list of places. -/
theorem popcNat_eq_length_filter (w x : Nat) : popcNat w x = ((List.range w).filter fun i => bitAt x i).length := by
  induction w with
  | zero => rfl
  | succ w ih =>
    rw [popcNat, ih, List.range_succ, List.filter_append, List.length_append, Nat.add_comm]
    cases h : bitAt x w <;> simp [h, b2n]

/-- Above the highest one among `w` bits stand as many zeros as are counted. -/
theorem clzNat_eq {w x n : Nat} (hn : n ≤ w) (hz : ∀ i, i < n → bitAt x (w - 1 - i) = false)
    (ho : n < w → bitAt x (w - 1 - n) = true) : clzNat w x = n := by
  induction w generalizing n with
  | zero => exact (Nat.le_zero.1 hn).symm
  | succ w ih =>
    cases n with
    | zero => simpa [clzNat] using ho (by omega)
    | succ n =>
      have top : bitAt x w = false := by simpa using hz 0 (by omega)
      have low : clzNat w x = n := ih (by omega)
        (fun i hi => by simpa [show w - (i + 1) = w - 1 - i by omega] using hz (i + 1) (by omega))
        (fun h => by simpa [show w - (n + 1) = w - 1 - n by omega] using ho (by omega))
      simp [clzNat, top, low, Nat.add_comm]

theorem popcNat_toNat (x : W64) : popcNat 64 x.toNat = ((List.range 64).filter fun i => x.getLsbD i).length := by
  simp only [popcNat_eq_length_filter, bitAt_toNat]

theorem clzNat_toNat {x : W64} {n : Nat} (hn : n ≤ 64) (hz : ∀ i, i < n → x.getMsbD i = false)
    (ho : n < 64 → x.getMsbD n = true) : clzNat 64 x.toNat = n := by
  have msb : ∀ i, i < 64 → x.getMsbD i = bitAt x.toNat (64 - 1 - i) := fun i hi => by simp [BitVec.getMsbD, hi, bitAt_toNat]
  exact clzNat_eq hn (fun i hi => msb i (by omega) ▸ hz i hi) fun h => msb n h ▸ ho h

/-! ## Integer arithmetic and moves at issue -/

section
variable {s : State} {f : Focus} {sd sa sb : SReg} {b : SrcB} {x y v : W64}

theorem scalarBin_ok (hf : s.focus = some f) (hx : (s.ctx f.ctx).rdS f.ent.word sa = .ok x)
    (hy : (s.ctx f.ctx).rdB f.ent.word b = .ok y) (g : W64 → W64 → W64) : scalarBin s sd sa b g = wroteS s f sd (g x y) :=
  onCtx_ok hf (by simp [hx, hy])

theorem scalarBin_wait (hf : s.focus = some f) (hx : (s.ctx f.ctx).rdS f.ent.word sa = .wait) (g : W64 → W64 → W64) :
    scalarBin s sd sa b g = waits s :=
  onCtx_wait hf (by simp [hx])

theorem scalarUn_ok (hf : s.focus = some f) (hx : (s.ctx f.ctx).rdS f.ent.word sa = .ok x) (g : W64 → W64) :
    scalarUn s sd sa g = wroteS s f sd (g x) :=
  onCtx_ok hf (by simp [hx])

theorem scalarUn_wait (hf : s.focus = some f) (hx : (s.ctx f.ctx).rdS f.ent.word sa = .wait) (g : W64 → W64) :
    scalarUn s sd sa g = waits s :=
  onCtx_wait hf (by simp [hx])

theorem scalarCmp_wait {pd : PPair} (hf : s.focus = some f) (hx : (s.ctx f.ctx).rdS f.ent.word sa = .wait)
    (g : W64 → W64 → Bool) : scalarCmp s pd sa b g = waits s :=
  onCtx_wait hf (by simp [hx])

theorem exec_nop_ok (hf : s.focus = some f) : exec .nop s = .next (s.retire f) := by
  rw [exec_nop]
  exact issueOp_ok hf rfl

theorem exec_mov_ok {src : MovSrc} (hf : s.focus = some f) (hv : (s.ctx f.ctx).rdMov f.ent.word src = .ok v) :
    exec (.mov sd src) s = wroteS s f sd v := by
  rw [exec_mov]
  exact onCtx_ok hf (by simp [hv])

theorem exec_sel_true {pc : PReg} (hf : s.focus = some f) (hp : (s.ctx f.ctx).rdP f.ent.word pc = .ok true)
    (hx : (s.ctx f.ctx).rdS f.ent.word sa = .ok x) (alt : Option Ext) : exec (.sel sd sa pc alt) s = wroteS s f sd x := by
  rw [exec_sel]
  exact onCtx_ok hf (by simp [hp, hx])

theorem exec_sel_false {pc : PReg} (hf : s.focus = some f) (hp : (s.ctx f.ctx).rdP f.ent.word pc = .ok false)
    (hv : (s.ctx f.ctx).rdS f.ent.word sd = .ok v) : exec (.sel sd sa pc none) s = wroteS s f sd v := by
  rw [exec_sel]
  exact onCtx_ok hf (by simp [hp, hv])

theorem exec_sel_false_ext {pc : PReg} (hf : s.focus = some f) (hp : (s.ctx f.ctx).rdP f.ent.word pc = .ok false) (e : Ext) :
    exec (.sel sd sa pc (some e)) s = wroteS s f sd (BitVec.ofInt 64 e.toInt) := by
  rw [exec_sel]
  exact onCtx_ok hf (by simp only [hp, Eff.bind_ok, Bool.false_eq_true, if_false]; rfl)

theorem exec_aset_ok {aj : AReg} {src : AsetSrc} {p : BitVec 24 × BitVec 24} (hf : s.focus = some f)
    (hp : (s.ctx f.ctx).asetHalves f.ent.word src = .ok p) :
    exec (.aset aj src) s = issued s f ((s.ctx f.ctx).putA f.ent.id aj p.1 p.2) := by
  rw [exec_aset]
  exact onCtx_ok hf (by simp [hp])

theorem exec_aget_ok {aj : AReg} {base stride : BitVec 24} (hf : s.focus = some f)
    (hp : (s.ctx f.ctx).rdA f.ent.word aj = .ok (base, stride)) (src : AgetSrc) :
    exec (.aget sd aj src) s = wroteS s f sd (agetVal base stride src) := by
  rw [exec_aget]
  exact onCtx_ok hf (by simp [hp])

end

/-! ## What `aget` reads -/

theorem agetVal_disp (base stride : BitVec 24) (d : BitVec 7) :
    agetVal base stride (.disp d) = BitVec.ofNat 64 ((base.toNat + d.toNat) % 2 ^ 24) := by
  apply BitVec.eq_of_toNat_eq
  simp only [agetVal, BitVec.toNat_setWidth, BitVec.toNat_add, BitVec.toNat_ofNat]
  omega

theorem agetVal_ext (base stride : BitVec 24) (e : Ext) :
    agetVal base stride (.ext e) = BitVec.ofNat 64 (((base.toNat : Int) + e.toInt) % 2 ^ 24).toNat := by
  apply BitVec.eq_of_toNat_eq
  simp only [agetVal, extS, BitVec.toNat_setWidth, BitVec.toNat_add, BitVec.toNat_ofNat, BitVec.toNat_ofInt]
  omega

/-- Settles O17, each instruction by the rule of its form: two operands, one operand, or a move. -/
theorem scalarIntegerAndMoveResults : Obligations.ScalarIntegerAndMoveResults := by
  unfold Obligations.ScalarIntegerAndMoveResults
  refine ⟨⟨fun c n r u e => ⟨rfl, congrArg Eff.ok (BitVec.ofNat_toNat ..).symm, rfl⟩, fun s f sd sa b x y hf hx hy => ?_⟩,
    ⟨fun c n r e i j => ⟨rfl, rfl, rfl, congrArg Eff.ok (BitVec.ofNat_toNat ..).symm, rfl⟩, fun s f sd sa sb pc aj e d x y v src base stride st hf => ?_⟩,
    fun s f sd sa b pd hf hx => ?_⟩
  · have bin := fun g => scalarBin_ok (sd := sd) (b := b) hf hx hy g
    refine ⟨bin _, bin _, bin _, bin _, bin _, bin _, bin _, bin _, bin _, bin _, bin _, bin _, bin _, bin _,
      fun n hn hz ho => ?_, ?_⟩
    · rw [← clzNat_toNat hn hz ho]
      exact scalarUn_ok hf hx _
    · rw [← popcNat_toNat]
      exact scalarUn_ok hf hx _
  · refine ⟨exec_nop_ok hf, exec_mov_ok hf, fun hx hv => ⟨fun hp => ⟨exec_sel_true hf hp hx _, exec_sel_true hf hp hx _⟩,
      fun hp => ⟨exec_sel_false hf hp hv, exec_sel_false_ext hf hp e⟩⟩,
      exec_aset_ok (p := (base, BitVec.ofInt 24 st.toInt)) hf rfl,
      fun hx hy => exec_aset_ok (p := (x.setWidth 24, y.setWidth 24)) hf (by simp [Ctx.asetHalves, hx, hy]), fun ha => ⟨?_, ?_, exec_aget_ok hf ha _⟩⟩
    · rw [← agetVal_disp base stride]
      exact exec_aget_ok hf ha _
    · rw [← agetVal_ext base stride]
      exact exec_aget_ok hf ha _
  · rw [exec_clz, exec_mov, exec_cmpEq, exec_tolMin]
    exact ⟨scalarBin_wait hf hx _, scalarUn_wait hf hx _, onCtx_wait hf (by simp [hx, Ctx.rdMov]), scalarCmp_wait hf hx _,
      onCtx_wait hf (by simp [hx])⟩

/-! ## What a register write at issue leaves unchanged -/

theorem sameBesideRegs_putS (c : Ctx) (id : Nat) (r : SReg) (v : W64) : SameBesideRegs c (c.putS id r v) := rfl
theorem sameBesideRegs_putM (c : Ctx) (id : Nat) (r : MReg) (v : W64) : SameBesideRegs c (c.putM id r v) := rfl

theorem sameBesideRegs_issue {c d : Ctx} (h : SameBesideRegs c d) (q : AMap (List Entry)) (w : Option Nat) (y : Bool) (n : Nat) :
    SameBesideRegs c { d with queues := q, yldWord := w, yields := y, yieldCyc := n } := h

/-- What a scalar result leaves as it was. -/
theorem wroteS_frame {s t : State} {f : Focus} {sd : SReg} {v : W64} (h : wroteS s f sd v = .next t) :
    SameOutside s t f.ctx ∧ SameBesideRegs (s.ctx f.ctx) (t.ctx f.ctx) ∧
      (t.ctx f.ctx).p = (s.ctx f.ctx).p ∧ (t.ctx f.ctx).v = (s.ctx f.ctx).v ∧ (t.ctx f.ctx).vt = (s.ctx f.ctx).vt ∧
      (t.ctx f.ctx).m = (s.ctx f.ctx).m ∧ (t.ctx f.ctx).a = (s.ctx f.ctx).a ∧ (t.ctx f.ctx).fo = (s.ctx f.ctx).fo ∧
      (t.ctx f.ctx).fi = (s.ctx f.ctx).fi ∧ (t.ctx f.ctx).u = (s.ctx f.ctx).u ∧ (t.ctx f.ctx).fstat = (s.ctx f.ctx).fstat ∧
      (t.ctx f.ctx).lfsr = (s.ctx f.ctx).lfsr ∧ (∀ r n, r ≠ sd → (t.ctx f.ctx).rdS n r = (s.ctx f.ctx).rdS n r) ∧
      ∀ j, j ≠ f.slot → (t.ctx f.ctx).queue j = (s.ctx f.ctx).queue j := by
  obtain ⟨_, out, _, _, queue⟩ := issued_frame h
  obtain ⟨q, w, y, n, made⟩ := issued_ctx_eq h
  rw [made] at queue ⊢
  exact ⟨out, sameBesideRegs_issue (sameBesideRegs_putS ..) .., rfl, rfl, rfl, rfl, rfl, rfl, rfl, rfl, rfl, rfl,
    fun r n hr => rdS_putS_ne (s.ctx f.ctx) f.ent.id n v hr, queue⟩

/-- What a mask result leaves as it was. -/
theorem wroteM_frame {s t : State} {f : Focus} {md : MReg} {v : W64} (h : wroteM s f md v = .next t) :
    SameOutside s t f.ctx ∧ SameBesideRegs (s.ctx f.ctx) (t.ctx f.ctx) ∧
      (t.ctx f.ctx).s = (s.ctx f.ctx).s ∧ (t.ctx f.ctx).p = (s.ctx f.ctx).p ∧ (t.ctx f.ctx).v = (s.ctx f.ctx).v ∧
      (t.ctx f.ctx).vt = (s.ctx f.ctx).vt ∧ (t.ctx f.ctx).a = (s.ctx f.ctx).a ∧ (t.ctx f.ctx).fo = (s.ctx f.ctx).fo ∧
      (t.ctx f.ctx).fi = (s.ctx f.ctx).fi ∧ (t.ctx f.ctx).u = (s.ctx f.ctx).u ∧
      (t.ctx f.ctx).fstat = (s.ctx f.ctx).fstat ∧ (t.ctx f.ctx).lfsr = (s.ctx f.ctx).lfsr ∧
      ∀ r n, r ≠ md → (t.ctx f.ctx).rdM n r = (s.ctx f.ctx).rdM n r := by
  obtain ⟨_, out, _, _, _⟩ := issued_frame h
  obtain ⟨q, w, y, n, made⟩ := issued_ctx_eq h
  rw [made]
  exact ⟨out, sameBesideRegs_issue (sameBesideRegs_putM ..) .., rfl, rfl, rfl, rfl, rfl, rfl, rfl, rfl, rfl, rfl,
    fun r n hr => rdM_putM_ne (s.ctx f.ctx) f.ent.id n v hr⟩

/-! ## Which instructions write one register and nothing else -/

/-- The integer instructions and `mov` write their destination, whatever the value. -/
theorem scalar_writes {s : State} {f : Focus} {sd sa : SReg} {b : SrcB} {src : MovSrc} {x y v : W64} (hf : s.focus = some f)
    (hx : (s.ctx f.ctx).rdS f.ent.word sa = .ok x) (hy : (s.ctx f.ctx).rdB f.ent.word b = .ok y)
    (hv : (s.ctx f.ctx).rdMov f.ent.word src = .ok v) :
    ∀ i ∈ [Instr.add sd sa b, .sub sd sa b, .mul sd sa b, .mulh sd sa b, .and sd sa b, .or sd sa b, .xor sd sa b, .shl sd sa b,
        .shr sd sa b, .sar sd sa b, .min sd sa b, .max sd sa b, .minu sd sa b, .maxu sd sa b, .clz sd sa, .popc sd sa, .mov sd src],
      ∃ r, exec i s = wroteS s f sd r := by
  have bin : ∀ g, ∃ r, scalarBin s sd sa b g = wroteS s f sd r := fun g => ⟨_, scalarBin_ok hf hx hy g⟩
  have un : ∀ g, ∃ r, scalarUn s sd sa g = wroteS s f sd r := fun g => ⟨_, scalarUn_ok hf hx g⟩
  simp only [List.mem_cons, List.not_mem_nil, or_false, forall_eq_or_imp, forall_eq]
  exact ⟨bin _, bin _, bin _, bin _, bin _, bin _, bin _, bin _, bin _, bin _, bin _, bin _, bin _, bin _, un _, un _,
    _, exec_mov_ok hf hv⟩

/-- So do the two-source mask instructions. -/
theorem mask_writes {s : State} {f : Focus} {md ma mb : MReg} {x y : W64} (hf : s.focus = some f)
    (hx : (s.ctx f.ctx).rdM f.ent.word ma = .ok x) (hy : (s.ctx f.ctx).rdM f.ent.word mb = .ok y) :
    ∀ i ∈ [Instr.mand md ma mb, .mor md ma mb, .mxor md ma mb, .mandn md ma mb], ∃ r, exec i s = wroteM s f md r := by
  have bin : ∀ g, ∃ r, maskBin s md ma mb g = wroteM s f md r := fun g => ⟨g x y, onCtx_ok hf (by simp [hx, hy])⟩
  simp only [List.mem_cons, List.not_mem_nil, or_false, forall_eq_or_imp, forall_eq]
  exact ⟨bin _, bin _, bin _, bin _⟩

/-- Settles O19: each of the instructions writes one register, and the frame is that of the write. -/
theorem registerOnlyFrame : Obligations.RegisterOnlyFrame := by
  unfold Obligations.RegisterOnlyFrame
  refine fun s t f hf => ⟨fun sd sa b src x y v hx hy hv i hi ht => ?_, fun md ma mb x y hx hy i hi ht => ?_⟩
  · obtain ⟨r, hr⟩ := scalar_writes hf hx hy hv i hi
    exact wroteS_frame (hr.symm.trans ht)
  · obtain ⟨r, hr⟩ := mask_writes hf hx hy i hi
    exact wroteM_frame (hr.symm.trans ht)

end Sys2Proof.Machine

end

section
/-!
PROOFS. Control transfers and loops, O20.
-/

namespace Sys2Proof.Machine

/-! ## A control transfer at dispatch and at issue -/

section
variable {s : State} {f : Focus} {op : Instr} {t : Int}

/-- Dispatch sends the context to a target that is a word of its image. -/
theorem branchOp_legal (hf : s.focus = some f) (hd : f.disp = true) (ht : (s.ctx f.ctx).target f.ent.word f.ent.pc op = .ok (some t))
    (hl : (s.ctx f.ctx).legalTarget t = true) (eff : Focus → Ctx → Eff Ctx) :
    branchOp s op eff = .next ({ s with focus := none }.setCtx f.ctx { s.ctx f.ctx with pc := t.toNat }) := by
  simp [branchOp, hf, hd, ht, hl]

theorem branchOp_illegal (hf : s.focus = some f) (hd : f.disp = true)
    (ht : (s.ctx f.ctx).target f.ent.word f.ent.pc op = .ok (some t)) (hl : (s.ctx f.ctx).legalTarget t = false)
    (eff : Focus → Ctx → Eff Ctx) :
    branchOp s op eff = .next (s.preciseTrap f.ctx f.ent.word f.ent.pc 0x07 (w64 t)) := by
  simp [branchOp, hf, hd, ht, hl]

/-- When its slot issues the word, a transfer makes its register write. -/
theorem branchOp_issue (hf : s.focus = some f) (hd : f.disp = false) {eff : Focus → Ctx → Eff Ctx} {c : Ctx}
    (he : eff f (s.ctx f.ctx) = .ok c) : branchOp s op eff = issued s f c := by
  rw [← onCtx_ok hf he]
  simp [branchOp, hf, hd]

end

/-! ## Loop frames -/

theorem mkFrame_toNat {last begin count : Nat} (hl : last < 256) (hb : begin < 2 ^ 32) (hc : count < 2 ^ 24) :
    (mkFrame last begin count).toNat = last * 2 ^ 56 + begin * 2 ^ 24 + count := by
  simp only [mkFrame, BitVec.toNat_ofNat]
  omega

theorem frLast_mkFrame {last begin count : Nat} (hl : last < 256) (hb : begin < 2 ^ 32) (hc : count < 2 ^ 24) :
    frLast (mkFrame last begin count) = last := by
  simp only [frLast, bits, mkFrame_toNat hl hb hc]
  omega

theorem frBegin_mkFrame {last begin count : Nat} (hl : last < 256) (hb : begin < 2 ^ 32) (hc : count < 2 ^ 24) :
    frBegin (mkFrame last begin count) = begin := by
  simp only [frBegin, bits, mkFrame_toNat hl hb hc]
  omega

theorem frCount_mkFrame {last begin count : Nat} (hl : last < 256) (hb : begin < 2 ^ 32) (hc : count < 2 ^ 24) :
    frCount (mkFrame last begin count) = count := by
  simp only [frCount, bits, mkFrame_toNat hl hb hc]
  omega

/-! ## The end of a loop's body -/

section
variable {c : Ctx} {n pc : Nat} {b : Bool} {fr : W64} (rest : List Bool)

/-- A frame that counts nothing, or whose body does not end at this word, stays as it is. -/
theorem closeLoops_idle (hr : c.rdS n (frameReg b) = .ok fr) (h : frCount fr = 0 ∨ pc ≠ frBegin fr + 32 * frLast fr) :
    c.closeLoops n pc (b :: rest) = c.closeLoops n pc rest := by
  have : ¬(frCount fr ≠ 0 ∧ pc = frBegin fr + 32 * frLast fr) := by tauto
  rw [Ctx.closeLoops, hr, Eff.bind_ok, if_neg this]

theorem closeLoops_again (hr : c.rdS n (frameReg b) = .ok fr) (hc : 1 < frCount fr) (hp : pc = frBegin fr + 32 * frLast fr) :
    c.closeLoops n pc (b :: rest) =
      .ok ([((frameReg b).toNat, mkFrame (frLast fr) (frBegin fr) (frCount fr - 1))], frBegin fr) := by
  rw [Ctx.closeLoops, hr, Eff.bind_ok, if_pos ⟨by omega, hp⟩, if_pos hc]

theorem closeLoops_done (hr : c.rdS n (frameReg b) = .ok fr) (hc : frCount fr = 1) (hp : pc = frBegin fr + 32 * frLast fr) :
    c.closeLoops n pc (b :: rest) = (c.closeLoops n pc rest).bind fun r =>
      .ok (((frameReg b).toNat, mkFrame (frLast fr) (frBegin fr) 0) :: r.1, r.2) := by
  rw [Ctx.closeLoops, hr, Eff.bind_ok, if_pos ⟨by omega, hp⟩, if_neg (by omega)]

end

/-- Settles O20: dispatch takes each transfer's target, issue makes its write, and a frame closes by its count and its last word. -/
theorem branchesAndLoops : Obligations.BranchesAndLoops := by
  unfold Obligations.BranchesAndLoops
  refine ⟨fun s f off sa x fr cnt last hf hx => ⟨fun hd => ?_, fun hd => ?_⟩,
    fun last begin count hl hb hc => ⟨frLast_mkFrame hl hb hc, frBegin_mkFrame hl hb hc, frCount_mkFrame hl hb hc⟩,
    fun c n pc fr fr' h0 h1 hz => ?_⟩
  · rw [exec_brx, exec_ret, exec_loop, exec_loopS]
    refine ⟨fun t ht hl => ?_, fun hl => branchOp_legal hf hd (by simp [Ctx.target, hx]) hl _,
      fun hl h31 => branchOp_legal hf hd (by simp [Ctx.target, h31]) hl _,
      fun hc hl => branchOp_legal hf hd (by simp [Ctx.target, hc, afterBody]) hl _,
      fun h0 hl => branchOp_legal hf hd (by simp [Ctx.target, hx, h0, loopSCount, afterBody]) hl _, fun t ht hl => ?_⟩
    · subst ht
      rw [exec_br, exec_call]
      exact ⟨branchOp_legal hf hd rfl hl _, branchOp_legal hf hd rfl hl _⟩
    · subst ht
      rw [exec_br]
      exact branchOp_illegal hf hd rfl hl _
  · rw [exec_br, exec_brx, exec_ret, exec_call, exec_loop, exec_loopS]
    exact ⟨branchOp_issue hf hd rfl, branchOp_issue hf hd rfl, branchOp_issue hf hd rfl, branchOp_issue hf hd rfl,
      branchOp_issue hf hd rfl, branchOp_issue hf hd (by rw [hx]; rfl)⟩
  · have outer : c.closeLoops n pc [true] = .ok ([], pc + 32) := closeLoops_idle [] h1 (.inl hz)
    exact ⟨fun h => (closeLoops_idle [true] h0 h).trans outer, fun hc hp => closeLoops_again [true] h0 hc hp,
      fun hc hp => (closeLoops_done [true] h0 hc hp).trans (by rw [outer]; rfl)⟩

end Sys2Proof.Machine

end

section
/-!
PROOFS. Trap entry and precise traps where no checkpoint is open.
-/

namespace Sys2Proof.Machine

/-! ## A context that waits at a barrier waits no more -/

@[simp] theorem dropWait_mem (s : State) (k : Nat) : (s.dropWait k).mem = s.mem := by unfold State.dropWait; split <;> rfl
@[simp] theorem dropWait_ctx (s : State) (k j : Nat) : (s.dropWait k).ctx j = s.ctx j := by
  unfold State.dropWait; split <;> rfl

theorem find?_map_values {α : Type} (g : α → α) (m : AMap α) (k : Nat) :
    AMap.find? (m.map fun p => (p.1, g p.2)) k = (AMap.find? m k).map g := by
  induction m with
  | nil => rfl
  | cons p rest ih =>
    obtain ⟨j, v⟩ := p
    simp only [List.map_cons, AMap.find?]
    split
    · rfl
    · exact ih

/-- A core keeps everything but its list of waiting contexts. -/
theorem dropWait_core (s : State) (k q : Nat) : ∃ ws, (s.dropWait k).core q = { s.core q with waits := ws } := by
  unfold State.dropWait
  split
  · simp only [State.core, AMap.get, find?_map_values (fun co : Core => { co with waits := co.waits.filter fun w => decide (w.who ≠ k) })]
    cases AMap.find? s.cores q with
    | none => exact ⟨_, rfl⟩
    | some co => exact ⟨_, rfl⟩
  · exact ⟨_, rfl⟩

/-! ## Trap entry where no checkpoint is open -/

section
variable {s : State} {k : Nat} (cause pc : Nat) (val : W64)

/-- A compute core stops, with the trap in its registers. -/
theorem enterTrap_ctx_compute (hc : (s.ctx k).chk.any (·.commit.isNone) = false) (hk : isControl (ctxCore k) = false) :
    (s.enterTrap k cause pc val).ctx k = { (s.ctx k).syncTags with
      run := .trapped, trapCause := BitVec.ofNat 64 cause, trapPc := BitVec.ofNat 64 pc, trapVal := val } := by
  unfold State.enterTrap
  simp only [dropWait_ctx, hc, hk, Bool.false_eq_true, if_false]
  split <;> split <;> simp

/-- A control core enters its handler at 0x20. -/
theorem enterTrap_ctx_control (hc : (s.ctx k).chk.any (·.commit.isNone) = false) (hk : isControl (ctxCore k) = true)
    (ht : (s.ctx k).stat.inTrap = false) : ∃ h x d, (s.enterTrap k cause pc val).ctx k = { (s.ctx k).syncTags with
      run := .ready, trapCause := BitVec.ofNat 64 cause, trapPc := BitVec.ofNat 64 pc, trapVal := val,
      stat := { (s.ctx k).stat with inTrap := true }, pc := 0x20, heldChk := h, chk := x, dspec := d } := by
  have ht' : (s.ctx k).syncTags.stat.inTrap = false := ht
  unfold State.enterTrap
  simp only [dropWait_ctx, hc, hk, ht', Bool.false_eq_true, if_false, if_true, setCtx_ctx_same]
  exact ⟨_, _, _, rfl⟩

/-- A trap inside the handler halts the control core. -/
theorem enterTrap_ctx_double (hc : (s.ctx k).chk.any (·.commit.isNone) = false) (hk : isControl (ctxCore k) = true)
    (ht : (s.ctx k).stat.inTrap = true) : (s.enterTrap k cause pc val).ctx k = { (s.ctx k).syncTags with
      run := .halted, trapCause := 0x1F#64, trapPc := BitVec.ofNat 64 pc, trapVal := BitVec.ofNat 64 cause } := by
  have ht' : (s.ctx k).syncTags.stat.inTrap = true := ht
  unfold State.enterTrap
  simp only [dropWait_ctx, hc, hk, ht', Bool.false_eq_true, if_false, if_true, setCore_ctx, setCtx_ctx_same]

theorem record_ctx (s : State) (kind code src vf addr j : Nat) : (s.record kind code src vf addr).ctx j = s.ctx j := by
  simp [State.ctx]

theorem record_core (s : State) (kind code src vf addr q : Nat) : (s.record kind code src vf addr).core q = s.core q := by
  simp [State.core]

theorem enterTrap_mem (hc : (s.ctx k).chk.any (·.commit.isNone) = false) : (s.enterTrap k cause pc val).mem = s.mem := by
  unfold State.enterTrap
  simp only [dropWait_ctx, hc, Bool.false_eq_true, if_false]
  split
  · split <;> simp
  · split <;> split <;> simp

theorem enterTrap_ctx_ne {j : Nat} (hc : (s.ctx k).chk.any (·.commit.isNone) = false) (hj : j ≠ k) :
    (s.enterTrap k cause pc val).ctx j = s.ctx j := by
  unfold State.enterTrap
  simp only [dropWait_ctx, hc, Bool.false_eq_true, if_false]
  split
  · split <;> simp [setCtx_ctx_ne, hj, record_ctx]
  · split <;> split <;> simp [setCtx_ctx_ne, hj]

/-- What of a core trap entry leaves as it was: all but who holds it, whether it is halted, and who waits at its barriers. -/
theorem enterTrap_core (hc : (s.ctx k).chk.any (·.commit.isNone) = false) (q : Nat) : ∃ ws h l x,
    (s.enterTrap k cause pc val).core q = { s.core q with waits := ws, holder := h, last := l, halted := x } := by
  obtain ⟨ws, hw⟩ := dropWait_core s k q
  by_cases hq : q = ctxCore k
  · subst hq
    unfold State.enterTrap
    simp only [dropWait_ctx, hc, Bool.false_eq_true, if_false]
    split
    · split
      · exact ⟨ws, none, _, true, by rw [setCore_core_same, record_core, hw]⟩
      · exact ⟨ws, _, _, _, hw⟩
    · split <;> split
      · exact ⟨ws, none, k % 8, _, by rw [setCore_core_same, setCtx_core, hw]⟩
      · exact ⟨ws, _, _, _, hw⟩
      · exact ⟨ws, none, k % 8, _, by rw [setCore_core_same, setCluster_core, setCtx_core, hw]⟩
      · exact ⟨ws, _, _, _, hw⟩
  · refine ⟨ws, _, _, _, Eq.trans ?_ hw⟩
    unfold State.enterTrap
    simp only [dropWait_ctx, hc, Bool.false_eq_true, if_false]
    split
    · split <;> simp [setCore_core_ne _ _ _ _ hq, record_core]
    · split <;> split <;> simp [setCore_core_ne _ _ _ _ hq]

end

/-! ## A precise trap where no checkpoint is open -/

/-- The context with word `n` and every later one taken back, about to run from byte `pc` again. -/
def Ctx.backTo (c : Ctx) (n pc : Nat) : Ctx := { c.dropFrom n with word := n, pc := pc }

/-- The state in which a precise trap at word `n` of context `k` enters. -/
def State.backTo (s : State) (k n pc : Nat) : State :=
  ({ s with focus := none }.setCore (ctxCore k) ((s.core (ctxCore k)).dropScale k n)).setCtx k ((s.ctx k).backTo n pc)

/-- A cause other than the constellation overrun and the deferred fault has no more to it. -/
theorem preciseTrap_eq (s : State) (k n pc : Nat) {cause : Nat} (val : W64) (h1 : cause ≠ 0x0D) (h2 : cause ≠ 0x13) :
    s.preciseTrap k n pc cause val = (s.backTo k n pc).enterTrap k cause pc val := by
  unfold State.preciseTrap
  simp only [h1, h2, if_false]
  rfl

@[simp] theorem backTo_ctx_same (s : State) (k n pc : Nat) : (s.backTo k n pc).ctx k = (s.ctx k).backTo n pc :=
  setCtx_ctx_same ..

theorem backTo_ctx_ne (s : State) {k j : Nat} (n pc : Nat) (h : j ≠ k) : (s.backTo k n pc).ctx j = s.ctx j :=
  setCtx_ctx_ne _ _ _ _ h

theorem backTo_core_same (s : State) (k n pc : Nat) :
    (s.backTo k n pc).core (ctxCore k) = (s.core (ctxCore k)).dropScale k n := setCore_core_same ..

theorem backTo_core_ne (s : State) {k q : Nat} (n pc : Nat) (h : q ≠ ctxCore k) : (s.backTo k n pc).core q = s.core q :=
  setCore_core_ne _ _ _ _ h

theorem backTo_chk {c : Ctx} (h : c.chk = none) (n pc : Nat) : (c.backTo n pc).chk = none := by
  simp [Ctx.backTo, Ctx.dropFrom, h]

theorem backTo_closed {s : State} {k : Nat} (h : (s.ctx k).chk = none) (n pc : Nat) :
    ((s.backTo k n pc).ctx k).chk.any (·.commit.isNone) = false := by simp [backTo_chk h]

section
variable {s : State} {k cause : Nat} (n pc : Nat) (val : W64) (h : (s.ctx k).chk = none) (h1 : cause ≠ 0x0D) (h2 : cause ≠ 0x13)
include h h1 h2

theorem preciseTrap_mem : (s.preciseTrap k n pc cause val).mem = s.mem := by
  rw [preciseTrap_eq s k n pc val h1 h2, enterTrap_mem _ _ _ (backTo_closed h n pc)]
  rfl

theorem preciseTrap_ctx_ne {j : Nat} (hj : j ≠ k) : (s.preciseTrap k n pc cause val).ctx j = s.ctx j := by
  rw [preciseTrap_eq s k n pc val h1 h2, enterTrap_ctx_ne _ _ _ (backTo_closed h n pc) hj, backTo_ctx_ne s n pc hj]

/-- A scratchpad and its write queue are as they were. -/
theorem preciseTrap_core (q : Nat) : ((s.preciseTrap k n pc cause val).core q).sp = (s.core q).sp ∧
    ((s.preciseTrap k n pc cause val).core q).wq = (s.core q).wq := by
  obtain ⟨ws, o, l, x, hq⟩ := enterTrap_core cause pc val (backTo_closed h n pc) q
  rw [preciseTrap_eq s k n pc val h1 h2, hq]
  by_cases hk : q = ctxCore k
  · subst hk
    rw [backTo_core_same]
    exact ⟨rfl, rfl⟩
  · rw [backTo_core_ne s n pc hk]
    exact ⟨rfl, rfl⟩

/-- The own core's scale table loses the loads that the context's words from `n` on made. -/
theorem preciseTrap_scale_same : ((s.preciseTrap k n pc cause val).core (ctxCore k)).scale =
    (s.core (ctxCore k)).scale.filter fun e => !(decide (e.ctx = k) && decide (n ≤ e.word)) := by
  obtain ⟨ws, o, l, x, hq⟩ := enterTrap_core cause pc val (backTo_closed h n pc) (ctxCore k)
  rw [preciseTrap_eq s k n pc val h1 h2, hq, backTo_core_same]
  rfl

theorem preciseTrap_scale_ne {q : Nat} (hq : q ≠ ctxCore k) :
    ((s.preciseTrap k n pc cause val).core q).scale = (s.core q).scale := by
  obtain ⟨ws, o, l, x, hx⟩ := enterTrap_core cause pc val (backTo_closed h n pc) q
  rw [preciseTrap_eq s k n pc val h1 h2, hx, backTo_core_ne s n pc hq]

theorem preciseTrap_ctx_compute (hk : isControl (ctxCore k) = false) : (s.preciseTrap k n pc cause val).ctx k =
    { ((s.ctx k).backTo n pc).syncTags with
      run := .trapped, trapCause := BitVec.ofNat 64 cause, trapPc := BitVec.ofNat 64 pc, trapVal := val } := by
  rw [preciseTrap_eq s k n pc val h1 h2, enterTrap_ctx_compute _ _ _ (backTo_closed h n pc) hk, backTo_ctx_same]

/-- Whatever the kind of core: what is left of a context after a precise trap. -/
theorem preciseTrap_ctx : ∃ r st p hc x d tc tv, (s.preciseTrap k n pc cause val).ctx k =
    { ((s.ctx k).backTo n pc).syncTags with
      run := r, stat := st, pc := p, heldChk := hc, chk := x, dspec := d, trapCause := tc, trapPc := BitVec.ofNat 64 pc,
      trapVal := tv } ∧
    (isControl (ctxCore k) = false ∨ (s.ctx k).stat.inTrap = false → tc = BitVec.ofNat 64 cause ∧ tv = val) ∧
    (isControl (ctxCore k) = true → (s.ctx k).stat.inTrap = true → r = .halted) := by
  have closed := backTo_closed h n pc
  have inTrap : ((s.backTo k n pc).ctx k).stat.inTrap = (s.ctx k).stat.inTrap := by rw [backTo_ctx_same]; rfl
  rw [preciseTrap_eq s k n pc val h1 h2]
  cases hk : isControl (ctxCore k) with
  | false =>
    rw [enterTrap_ctx_compute _ _ _ closed hk, backTo_ctx_same]
    exact ⟨_, _, _, _, _, _, _, _, rfl, fun _ => ⟨rfl, rfl⟩, fun h => by cases h⟩
  | true =>
    cases ht : (s.ctx k).stat.inTrap with
    | false =>
      obtain ⟨a, b, c, hx⟩ := enterTrap_ctx_control cause pc val closed hk (inTrap.trans ht)
      rw [hx, backTo_ctx_same]
      exact ⟨_, _, _, _, _, _, _, _, rfl, fun _ => ⟨rfl, rfl⟩, fun _ h => by cases h⟩
    | true =>
      rw [enterTrap_ctx_double _ _ _ closed hk (inTrap.trans ht), backTo_ctx_same]
      exact ⟨_, _, _, _, _, _, _, _, rfl, fun h => (by cases h <;> contradiction), fun _ _ => rfl⟩

end

end Sys2Proof.Machine

end

section
/-!
PROOFS. The precise trap and the software trap, O26 and O24.
-/

namespace Sys2Proof.Machine

/-- The flags that dropped drains had taken, as the fold of R83 over the events from word `n` on. -/
theorem givenBack_lt (c : Ctx) (n : Nat) : c.givenBack (fun w => decide (w < n)) =
    c.fstat.foldl (fun f e => if n ≤ e.word ∧ e.slot = 6 ∧ e.op = .raise then f ||| e.val.getD 0#8 else f) c.mxf := by
  unfold Ctx.givenBack
  congr 1
  funext f e
  simp [and_assoc]

/-- Settles O26: a compute core's context after the trap is the one with the words from `n` on dropped, but for the trap
registers. -/
theorem preciseTrapUndoesTheWord : Obligations.PreciseTrapUndoesTheWord := by
  unfold Obligations.PreciseTrapUndoesTheWord
  intro s k n pc cause val hc h1 h2 hk
  dsimp only
  refine ⟨preciseTrap_mem n pc val hc h1 h2, preciseTrap_core n pc val hc h1 h2,
    fun j hj => preciseTrap_ctx_ne n pc val hc h1 h2 hj, ?_⟩
  rw [preciseTrap_ctx_compute n pc val hc h1 h2 hk, ← givenBack_lt]
  refine ⟨rfl, rfl, rfl, rfl, rfl, rfl, rfl, rfl, rfl, rfl, rfl, rfl, rfl, rfl, rfl, rfl, rfl, rfl, rfl, rfl, rfl, rfl, rfl, rfl,
    rfl, rfl, fun e he hk => ?_, fun q hq => preciseTrap_scale_ne n pc val hc h1 h2 hq⟩
  rw [preciseTrap_scale_same n pc val hc h1 h2] at he
  simpa [hk] using (List.mem_filter.1 he).2

/-! ## The software trap -/

theorem issueTrap_early {s : State} {f : Focus} (h : (s.ctx f.ctx).trapReady f.slot f.ent.word = false) (cause : Nat) (val : W64) :
    s.issueTrap f cause val = { s with focus := none } := by
  simp [State.issueTrap, h]

/-- Slot S, below which no slot stands, takes its trap as soon as the earlier words have issued. -/
theorem issueTrap_ready {s : State} {f : Focus} (h : (s.ctx f.ctx).trapReady f.slot f.ent.word = true) (h0 : f.slot = 0)
    (cause : Nat) (val : W64) : s.issueTrap f cause val = s.preciseTrap f.ctx f.ent.word f.ent.pc cause val := by
  have h' := h0 ▸ h
  simp [State.issueTrap, h', h0]

theorem exec_trap_eq {s : State} {f : Focus} (hf : s.focus = some f) (imm : BitVec 16) :
    exec (.trap imm) s = .next (s.issueTrap f 0x09 (imm.setWidth 64)) := by
  rw [exec_trap]
  simp [execTrap, hf]

/-- What the writes, stores, operations and sends that are kept have in common: their word comes before `n`. -/
theorem backTo_before (c : Ctx) (n pc : Nat) :
    (c.backTo n pc).queues = [] ∧ (∀ e ∈ (c.backTo n pc).s.log, e.word < n) ∧ (∀ e ∈ (c.backTo n pc).p.log, e.word < n) ∧
    (∀ e ∈ (c.backTo n pc).v.log, e.word < n) ∧ (∀ e ∈ (c.backTo n pc).m.log, e.word < n) ∧
    (∀ e ∈ (c.backTo n pc).a.log, e.word < n) ∧ (∀ g ∈ (c.backTo n pc).gstores, g.word < n) ∧
    (∀ o ∈ (c.backTo n pc).ops, o.word < n) ∧ ∀ x ∈ (c.backTo n pc).sends, x.word < n := by
  have kept : ∀ {α : Type} (w : α → Nat) (xs : List α), ∀ x ∈ xs.filter (fun x => decide (w x < n)), w x < n :=
    fun w xs x hx => by simpa using (List.mem_filter.1 hx).2
  exact ⟨rfl, kept _ _, kept _ _, kept _ _, kept _ _, kept _ _, kept _ _, kept _ _, kept _ _⟩

/-- Settles O24: the trap waits until its word may trap, and is then a precise trap of cause 0x09 at that word. -/
theorem softwareTrap : Obligations.SoftwareTrap := by
  unfold Obligations.SoftwareTrap
  refine ⟨fun imm => ⟨rfl, rfl⟩, fun s f imm hf h0 => ⟨fun hr => ?_, fun hr hc => ?_⟩⟩
  · rw [exec_trap_eq hf, issueTrap_early hr]
    rfl
  · have h1 : (9 : Nat) ≠ 0x0D := by decide
    have h2 : (9 : Nat) ≠ 0x13 := by decide
    refine ⟨_, by rw [exec_trap_eq hf, issueTrap_ready hr h0], ?_⟩
    obtain ⟨r, st, p, hk, x, d, tc, tv, ctx, single, double⟩ :=
      preciseTrap_ctx f.ent.word f.ent.pc (imm.setWidth 64) hc h1 h2
    refine ⟨fun h => ?_, fun hctl hin => ?_, preciseTrap_mem _ _ _ hc h1 h2, preciseTrap_core _ _ _ hc h1 h2,
      fun j hj => preciseTrap_ctx_ne _ _ _ hc h1 h2 hj, ?_⟩ <;> rw [ctx]
    · obtain ⟨rfl, rfl⟩ := single h
      exact ⟨rfl, (BitVec.ofNat_toNat 64 imm).symm, rfl⟩
    · exact double hctl hin
    · exact backTo_before (s.ctx f.ctx) f.ent.word f.ent.pc

end Sys2Proof.Machine

end

section
/-!
PROOFS. The privilege traps, one step, and the plan of a cycle, O27, O8 and O6.
-/

namespace Sys2Proof.Machine

/-! ## A check made in every performing slot -/

theorem needAll_append (xs ys : List (Eff Unit)) : needAll (xs ++ ys) = (needAll xs).bind fun _ => needAll ys := by
  induction xs with
  | nil => rfl
  | cons x rest ih => cases x <;> simp [needAll, ih]

theorem eachSlot_append (chk : Act → Eff Unit) (as bs : List Act) :
    eachSlot chk (as ++ bs) = (eachSlot chk as).bind fun _ => eachSlot chk bs := by
  simp [eachSlot, performing, needAll_append]

theorem eachSlot_on (chk : Act → Eff Unit) {a : Act} (h : a.on = true) (as : List Act) :
    eachSlot chk (a :: as) = (chk a).bind fun _ => eachSlot chk as := by
  simp [eachSlot, performing, h, needAll]

theorem eachSlot_off (chk : Act → Eff Unit) {a : Act} (h : a.on = false) (as : List Act) :
    eachSlot chk (a :: as) = eachSlot chk as := by
  simp [eachSlot, performing, h]

theorem eachSlot_ok {chk : Act → Eff Unit} {as : List Act} (h : ∀ x ∈ as, x.on = true → chk x = .ok ()) :
    eachSlot chk as = .ok () := by
  induction as with
  | nil => rfl
  | cons a rest ih =>
    have low := ih fun x hx => h x (List.mem_cons_of_mem _ hx)
    cases ha : a.on with
    | true => rw [eachSlot_on chk ha, h a List.mem_cons_self ha, Eff.bind_ok, low]
    | false => rw [eachSlot_off chk ha, low]

/-- The first performing slot that makes a use it may not is the one reported. -/
theorem dispatchChecks_priv (c : Ctx) (n : Nat) (w : LongWord) {pre post : List Act} {a : Act} (ha : a.on = true)
    (hp : c.privFault a.op = true) (hb : ∀ x ∈ pre, x.on = true → c.privFault x.op = false) :
    c.dispatchChecks n w (pre ++ a :: post) = .trap 0x02 (BitVec.ofNat 64 a.slot) := by
  unfold Ctx.dispatchChecks
  rw [eachSlot_append, eachSlot_on _ ha, eachSlot_ok fun x hx ho => by rw [hb x hx ho]; rfl, hp]
  rfl

/-- Settles O27: each use by the mode bit that it needs, and the report by the slots' order. -/
theorem privilegeTraps : Obligations.PrivilegeTraps := by
  unfold Obligations.PrivilegeTraps
  intro c m v sd sa b aj o k nx
  refine ⟨fun hp hm => ?_, fun hm => ?_, fun hp => ?_, rfl, rfl, rfl, rfl, ?_⟩
  · have own : isOwnCsr m = false := decide_eq_false (by omega)
    simp [Ctx.privFault, own, hp]
  · have own : isOwnCsr m = true := decide_eq_true hm
    simp [Ctx.privFault, own]
  · simp [Ctx.privFault, hp]
  · rintro n w as pre post a rfl ha hf hb
    exact dispatchChecks_priv c n w ha hf hb

/-! ## One step -/

section
variable {s : State} {rest : List Move} (hf : s.focus = none)
include hf

theorem step_own {e : Own} (h : s.agenda = .own e :: rest) : step s = e.run { s with agenda := rest } := by
  simp [step, hf, h]

theorem step_event {i : Instr} (h : s.agenda = .event i :: rest) : step s = exec i { s with agenda := rest } := by
  simp [step, hf, h]

theorem step_tick (h : s.agenda = .tick :: rest) : step s = .next ({ s with agenda := rest } : State).endCycle := by
  simp [step, hf, h]

theorem step_plan (h : s.agenda = []) : step s = .next s.planCycle := by simp [step, hf, h]

end

/-! ## The plan of a cycle -/

/-- An event whose time the spec fixes is among those that happen. -/
theorem mem_chosen_of_due {s : State} {e : Own} (hd : s.due e = true) (fresh : Nat) {es : List Own} (h : e ∈ es) :
    e ∈ s.chosen fresh es := by
  induction es generalizing fresh with
  | nil => cases h
  | cons i rest ih =>
    rw [State.chosen]
    obtain rfl | h := List.mem_cons.1 h
    · simp [hd]
    · split
      · exact List.mem_cons_of_mem _ (ih _ h)
      · exact ih _ h

/-- What the plan of a booted device's cycle holds. -/
theorem planCycle_agenda {s : State} (hb : s.booted = true) :
    (∀ p ∈ s.ctxs, ∀ j < 8, .issue p.1 j ∈ s.planCycle.agenda) ∧
    (∀ q ∈ s.usedCores, coreExists q = true → .own (.core .wordDispatch q) ∈ s.planCycle.agenda) ∧
    .tick ∈ s.planCycle.agenda ∧ (∀ e ∈ s.events, s.due e = true → .own e ∈ s.planCycle.agenda) := by
  have plan : s.planCycle.agenda = ((landings s.now s.flights.length s.flights).map Move.own) ++
      ((s.usedCores.filter coreExists).map fun (k : Nat) => Move.own (.core .wordDispatch k)) ++
      (s.ctxs.map fun (p : Nat × Ctx) => (List.range 8).map fun (j : Nat) => Move.issue p.1 j).flatten ++
      ((s.chosen s.fresh s.events).map Move.own) ++ [.tick] := by simp [State.planCycle, hb]
  rw [plan]
  simp only [List.mem_append, List.mem_singleton]
  refine ⟨fun p hp j hj => .inl (.inl (.inr ?_)), fun q hq hx => .inl (.inl (.inl (.inr ?_))), .inr trivial,
    fun e he hd => .inl (.inr (List.mem_map_of_mem (mem_chosen_of_due hd _ he)))⟩
  · exact List.mem_flatten.2 ⟨_, List.mem_map_of_mem hp, List.mem_map_of_mem (List.mem_range.2 hj)⟩
  · exact List.mem_map_of_mem (f := fun k => Move.own (.core .wordDispatch k)) (List.mem_filter.2 ⟨hq, hx⟩)

/-- Settles O8: a step takes the next move off the agenda and carries it out, or plans the cycle. -/
theorem stepFollowsTheAgenda : Obligations.StepFollowsTheAgenda := by
  unfold Obligations.StepFollowsTheAgenda
  refine ⟨fun s e rest hf h => step_own hf h, fun s i rest hf h => step_event hf h, fun s rest hf h => step_tick hf h,
    fun s k id q => ⟨rfl, rfl, rfl, rfl, rfl, rfl, rfl, rfl, rfl, rfl, rfl, rfl, rfl, rfl, rfl, fun hf ha hb => ?_⟩⟩
  obtain ⟨issues, dispatches, tick, due⟩ := planCycle_agenda hb
  refine ⟨_, step_plan hf ha, issues, dispatches, tick, due, ?_, ?_, ?_⟩ <;> simp [State.planCycle, hb]

/-! ## A head that a `qpoint` holds -/

/-- A `nop` at the head of the C slot, dispatched in the cycle before. -/
def heldEntry : Entry := ⟨1, 1, 0, .nop, 0#8, 0, false, false, false⟩

/-- A device whose context 0 has that entry, with its C slot held until a shoot-down has ended (R143). -/
def heldHead : State :=
  { State.reset.setCtx 0 { Ctx.idle with run := .ready, cHold := true, queues := [(6, [heldEntry])] } with
    now := 1, agenda := [.issue 0 6] }

theorem heldHead_step : step heldHead = .next { heldHead with agenda := [] } := rfl

/-- How many entries the C slot's queue of context 0 holds in the state that a step leads to. -/
def cSlotLength : Out → Nat
  | .next t => ((t.ctx 0).queue 6).length
  | _ => 0

/-- Refutes O6: the C slot's head may issue by its word, but a `qpoint` holds the slot (R143), so its turn leaves it where it is,
while `nop` run at once would leave its queue. -/
theorem not_stepRunsDecodedOperation : ¬ Obligations.StepRunsDecodedOperation := by
  unfold Obligations.StepRunsDecodedOperation
  rintro ⟨-, turn⟩
  have runs := (turn heldHead 0 6 [] rfl rfl).1 heldEntry [] rfl rfl rfl rfl
  rw [heldHead_step, show heldEntry.op = .nop from rfl, exec_nop_ok rfl] at runs
  exact absurd (congrArg cSlotLength runs) (by decide)

end Sys2Proof.Machine

end

section
/-!
PROOFS. The end of a task, O29.
-/

namespace Sys2Proof.Machine

/-! ## The end of a task -/

theorem dropPermit_frame (s : State) (k : Nat) : (s.dropPermit k).mem = s.mem ∧ (s.dropPermit k).focus = s.focus ∧
    (s.dropPermit k).recs = s.recs ∧ ∀ j, j ≠ k → (s.dropPermit k).ctx j = s.ctx j := by
  unfold State.dropPermit
  dsimp only
  split
  · exact ⟨rfl, rfl, rfl, fun _ _ => rfl⟩
  · split <;> exact ⟨rfl, rfl, rfl, fun j hj => by simp [setCtx_ctx_ne, hj]⟩

/-- The context is free, and nothing but it, its core and its permit has changed. -/
theorem freeCtx_frame (s : State) (k : Nat) : ((s.freeCtx k).ctx k).run = .free ∧ (s.freeCtx k).mem = s.mem ∧
    (s.freeCtx k).focus = s.focus ∧ (s.freeCtx k).recs = s.recs ∧ ∀ j, j ≠ k → (s.freeCtx k).ctx j = s.ctx j := by
  obtain ⟨mem, focus, recs, ctxs⟩ := dropPermit_frame s k
  unfold State.freeCtx
  dsimp only
  refine ⟨by rw [setCore_ctx, setCtx_ctx_same]; rfl, mem, focus, recs, fun j hj => ?_⟩
  rw [setCore_ctx, setCtx_ctx_ne _ _ _ _ hj, ctxs j hj]

theorem countEnd_frame (s : State) (r : Nat) (failed : Bool) : (s.countEnd r failed).mem = s.mem ∧
    (s.countEnd r failed).focus = s.focus ∧ ∀ j, (s.countEnd r failed).ctx j = s.ctx j := by
  unfold State.countEnd
  split <;> exact ⟨rfl, rfl, fun _ => rfl⟩

/-- A task that ends of itself leaves its record with one live task fewer. -/
theorem countEnd_record {s : State} {r : Nat} {x : LRec} (h : AMap.find? s.recs r = some x) :
    AMap.find? (s.countEnd r false).recs r = some { x with live := x.live - 1 } := by
  unfold State.countEnd
  rw [h]
  exact AMap.find?_set_same ..

/-! ## The steps of `exit` -/

section
variable {s : State} {f : Focus}

theorem exec_exit_eq (hf : s.focus = some f) : exec .exit s = .next (s.exitStep f) := by
  rw [exec_exit]
  simp [execExit, hf]

/-- With the fault of a `gst` to report and everything before known, `exit` traps. -/
theorem exitNext_fault {code : Nat} {rest : List Nat} (hg : (s.ctx f.ctx).gstErr = code :: rest)
    (hi : (s.ctx f.ctx).allIssuedBefore f.ent.word = true) (hk : s.gstKnown f.ctx f.ent.word = true) :
    s.exitNext f = ((({ s with focus := none } : State).setCtx f.ctx { s.ctx f.ctx with gstErr := rest }).preciseTrap f.ctx
      f.ent.word f.ent.pc 0x0C (BitVec.ofNat 64 code), false) := by
  simp [State.exitNext, hg, hi, hk]

section
variable (hg : (s.ctx f.ctx).gstErr = [])
include hg

theorem exitNext_unchecked (hc : f.ent.checked = false) :
    s.exitNext f = (if (s.ctx f.ctx).allIssuedBefore f.ent.word && (s.ctx f.ctx).othersIssued f.slot f.ent.word then
      ({ s with focus := none } : State).setCtx f.ctx ((s.ctx f.ctx).checkQ f.slot f.ent.id) else { s with focus := none }, false) := by
  simp [State.exitNext, hg, hc]

theorem exitNext_uncommitted (hc : f.ent.checked = true) (hm : (s.ctx f.ctx).lastMark < f.ent.word) :
    s.exitNext f = (if (s.ctx f.ctx).marks.isEmpty && (s.ctx f.ctx).passedTo f.ent.word then
      ({ s with focus := none } : State).commitTo f.ctx f.ent.word ((s.ctx f.ctx).nextOf f.ent.word) else { s with focus := none }, false) := by
  simp [State.exitNext, hg, hc, hm]

theorem exitNext_committed (hc : f.ent.checked = true) (hm : f.ent.word ≤ (s.ctx f.ctx).lastMark) :
    s.exitNext f = ({ s with focus := none }, s.quiet f.ctx) := by
  simp [State.exitNext, hg, hc, Nat.not_lt.2 hm]

end
end

/-- Settles O29, by what `exit` finds: a fault, a word that has not issued, an interval to commit, or something outstanding. -/
theorem exitEndsTheTask : Obligations.ExitEndsTheTask := by
  unfold Obligations.ExitEndsTheTask
  intro s f hf
  rw [exec_exit_eq hf, State.exitStep]
  refine ⟨fun code rest hg hi hm ho hk hc => ?_, fun hg hc => ?_, fun hg hc hm => ?_, fun hg hc hm => ?_⟩
  · have known : s.gstKnown f.ctx f.ent.word = true := by simpa [State.gstKnown, ho] using hm
    rw [exitNext_fault hg hi known]
    refine ⟨_, rfl, ?_⟩
    dsimp only
    rw [if_neg Bool.false_ne_true, preciseTrap_ctx_compute _ _ _ (by simpa using hc) (by decide) (by decide) hk, setCtx_ctx_same]
    exact ⟨rfl, rfl, rfl, rfl, rfl⟩
  · rw [exitNext_unchecked hg hc]
    refine ⟨fun hi ho => by simp [hi, ho, passes], fun h => ?_⟩
    obtain h | h := h <;> simp [h, waits]
  · rw [exitNext_uncommitted hg hc hm]
    refine ⟨fun he hp => by simp [he, hp], fun h => ?_⟩
    obtain h | h := h <;> simp [h, waits]
  · rw [exitNext_committed hg hc hm]
    refine ⟨fun hq => by simp [hq, waits], fun hq => ⟨_, rfl, ?_⟩⟩
    rw [if_pos hq]
    obtain ⟨free, mem, focus, recs, ctxs⟩ := freeCtx_frame { s with focus := none } f.ctx
    obtain ⟨mem', focus', ctxs'⟩ := countEnd_frame (({ s with focus := none } : State).freeCtx f.ctx) (s.ctx f.ctx).record false
    refine ⟨(congrArg Ctx.run (ctxs' _)).trans free, focus'.trans focus, mem'.trans mem, fun j hj => (ctxs' j).trans (ctxs j hj),
      fun x hx => countEnd_record ((congrArg (AMap.find? · _) recs).trans hx)⟩

end Sys2Proof.Machine

end

section
/-!
PROOFS. The word that dispatch sends out, O7.
-/

namespace Sys2Proof.Machine

/-! ## What is read does not depend on the marks -/

/-- A value that is read is the same in every context with these closing words and this table of deferred faults. -/
theorem read_ok_congr {α : Type} {c d : Ctx} {f : RegFile α} {z v : α} {i n : Nat} (h : c.read f z i n = .ok v)
    (hc : d.closers = c.closers) (ht : d.dft = c.dft) : d.read f z i n = .ok v := by
  unfold Ctx.read at h ⊢
  rw [hc, ht]
  cases hw : f.winner c.closers i n with
  | none => rwa [hw] at h
  | some e =>
    cases hv : e.val with
    | none =>
      simp only [hw, hv] at h
      split at h
      · cases h
      · split at h
        · cases h
        · split at h <;> cases h
    | some a => simpa only [hw, hv] using h

theorem rdP_ok_congr {c d : Ctx} {n : Nat} {r : PReg} {v : Bool} (h : c.rdP n r = .ok v) (hp : d.p = c.p)
    (hc : d.closers = c.closers) (ht : d.dft = c.dft) : d.rdP n r = .ok v := by
  unfold Ctx.rdP at h ⊢
  split
  · next hr => rwa [if_pos hr] at h
  · next hr =>
    rw [if_neg hr] at h
    rw [hp]
    exact read_ok_congr h hc ht

/-! ## The guards of a word -/

theorem guards_cons_ok {c : Ctx} {n i : Nat} {x : SlotOp} {xs : List SlotOp} {as : List Act}
    (h : c.guards n i (x :: xs) = .ok as) :
    ∃ g rest, c.rdP n x.guard = .ok g ∧ c.guards n (i + 1) xs = .ok rest ∧ as = ⟨i, x.op, g⟩ :: rest := by
  obtain ⟨g, hg, h⟩ := Eff.bind_eq_ok h
  obtain ⟨rest, hr, h⟩ := Eff.bind_eq_ok h
  cases h
  exact ⟨g, rest, hg, hr, rfl⟩

theorem guards_slot_ge {c : Ctx} {n i : Nat} {xs : List SlotOp} {as : List Act} (h : c.guards n i xs = .ok as) :
    ∀ a ∈ as, i ≤ a.slot := by
  induction xs generalizing i as with
  | nil =>
    cases h
    exact fun a ha => nomatch ha
  | cons x xs ih =>
    obtain ⟨g, rest, -, hr, rfl⟩ := guards_cons_ok h
    intro a ha
    obtain rfl | ha := List.mem_cons.1 ha
    · exact Nat.le_refl i
    · exact Nat.le_of_succ_le (ih hr a ha)

/-- Each slot of the word acts once: with its operation, and on as its guard reads. -/
theorem guards_filter {c : Ctx} {n i j : Nat} {xs : List SlotOp} {as : List Act} {x : SlotOp} (h : c.guards n i xs = .ok as)
    (hx : xs[j]? = some x) : ∃ g, c.rdP n x.guard = .ok g ∧ (as.filter fun a => decide (a.slot = i + j)) = [⟨i + j, x.op, g⟩] := by
  induction xs generalizing i j as with
  | nil => cases hx
  | cons y ys ih =>
    obtain ⟨g, rest, hg, hr, rfl⟩ := guards_cons_ok h
    cases j with
    | zero =>
      obtain rfl : y = x := by simpa using hx
      have none : (rest.filter fun a => decide (a.slot = i)) = [] :=
        List.filter_eq_nil_iff.2 fun a ha => by simpa using (Nat.ne_of_gt (guards_slot_ge hr a ha))
      exact ⟨g, hg, by simp [none]⟩
    | succ j =>
      obtain ⟨g', hg', hf⟩ := ih hr (by simpa using hx)
      refine ⟨g', hg', ?_⟩
      rw [show i + (j + 1) = i + 1 + j by omega, ← hf]
      exact List.filter_cons_of_neg (by simp; omega)

theorem allTags_ok {c : Ctx} {n : Nat} {as : List Act} {ats : List (Act × List (VReg × Option Tag))}
    (h : c.allTags n as = .ok ats) : ats.map Prod.fst = as := by
  induction as generalizing ats with
  | nil =>
    cases h
    rfl
  | cons a rest ih =>
    obtain ⟨ts, -, h⟩ := Eff.bind_eq_ok h
    obtain ⟨r, hr, h⟩ := Eff.bind_eq_ok h
    cases h
    exact congrArg (a :: ·) (ih hr)

/-! ## Placing a word in the queues -/

/-- `d` has the queues of `c`, and the same numbers for what is placed in them. -/
def SameQueues (c d : Ctx) : Prop := d.queues = c.queues ∧ d.serial = c.serial

theorem SameQueues.trans {a b c : Ctx} (h : SameQueues a b) (g : SameQueues b c) : SameQueues a c :=
  ⟨g.1.trans h.1, g.2.trans h.2⟩

theorem sameQueues_expect (c : Ctx) (id n slot : Nat) (d : Dest) : SameQueues c (c.expect id n slot d) := by
  unfold Ctx.expect
  cases d.rf <;> dsimp only <;> (try split) <;> exact ⟨rfl, rfl⟩

theorem sameQueues_expectAll (c : Ctx) (id n slot : Nat) (ds : List Dest) :
    SameQueues c (ds.foldl (fun c d => c.expect id n slot d) c) := by
  induction ds generalizing c with
  | nil => exact ⟨rfl, rfl⟩
  | cons d rest ih => exact (sameQueues_expect c id n slot d).trans (ih _)

theorem sameQueues_expectFlags (c : Ctx) (id n slot : Nat) (i : Instr) : SameQueues c (c.expectFlags id n slot i) := by
  unfold Ctx.expectFlags
  dsimp only
  cases flagLat i <;> cases mayStep i <;> cases csrEffect i <;> dsimp only <;> (try split_ifs) <;> exact ⟨rfl, rfl⟩

theorem sameQueues_noteWeights (c : Ctx) (i : Instr) : SameQueues c (c.noteWeights i) := by
  unfold Ctx.noteWeights
  split <;> exact ⟨rfl, rfl⟩

/-- The entry that placing an act of word `n` puts into its slot's queue. -/
def Act.entry (a : Act) (serial n now pc : Nat) (sync : BitVec 8) (closes : Bool) : Entry :=
  ⟨serial + a.slot, n, pc, if a.on then a.op else .nop, sync, now, closes, false, false⟩

theorem sameQueues_expectTags (c : Ctx) (id n slot : Nat) (opt : Bool) (ds : List Dest) (ts : List (VReg × Option Tag)) :
    SameQueues c (c.expectTags id n slot opt ds ts) := ⟨rfl, rfl⟩

/-- The context with the places of everything that an act of word `n` writes. -/
def Ctx.places (c : Ctx) (n : Nat) (ts : List (VReg × Option Tag)) (a : Act) : Ctx :=
  let op := if a.on then a.op else .nop
  let id := c.serial + a.slot
  ((((dests op).foldl (fun c d => c.expect id n a.slot d) c).expectTags id n a.slot (mayLeavePair op) (dests op) ts).expectFlags id n
    a.slot op).noteWeights op

theorem sameQueues_places (c : Ctx) (n : Nat) (ts : List (VReg × Option Tag)) (a : Act) : SameQueues c (c.places n ts a) :=
  (((sameQueues_expectAll c _ n a.slot _).trans (sameQueues_expectTags _ _ n a.slot _ _ ts)).trans
    (sameQueues_expectFlags _ _ n a.slot _)).trans (sameQueues_noteWeights _ _)

theorem place_eq (c : Ctx) (n now pc : Nat) (sync : BitVec 8) (closes : Bool) (ts : List (VReg × Option Tag)) (a : Act) :
    c.place n now pc sync closes ts a = { c.places n ts a with
      queues := AMap.set (c.places n ts a).queues a.slot
        ((c.places n ts a).queue a.slot ++ [a.entry c.serial n now pc sync closes]) } := rfl

theorem place_serial (c : Ctx) (n now pc : Nat) (sync : BitVec 8) (closes : Bool) (ts : List (VReg × Option Tag)) (a : Act) :
    (c.place n now pc sync closes ts a).serial = c.serial := by
  rw [place_eq]
  exact (sameQueues_places c n ts a).2

/-- Placing an act adds its entry to its own slot's queue. -/
theorem place_queue (c : Ctx) (n now pc : Nat) (sync : BitVec 8) (closes : Bool) (ts : List (VReg × Option Tag)) (a : Act) (j : Nat) :
    (c.place n now pc sync closes ts a).queue j =
      c.queue j ++ if a.slot = j then [a.entry c.serial n now pc sync closes] else [] := by
  have same : ∀ i, (c.places n ts a).queue i = c.queue i := queue_congr (sameQueues_places c n ts a).1
  rw [place_eq]
  by_cases h : a.slot = j
  · subst h
    rw [if_pos rfl, ← same a.slot]
    exact AMap.get_set_same _ _ _ _
  · rw [if_neg h, List.append_nil, ← same]
    exact AMap.get_set_ne _ _ _ _ _ (Ne.symm h)

/-- Placing a word's acts adds to each queue the entries of the acts of its slot, in their order. -/
theorem placeAll_queue (n now pc : Nat) (sync : Nat → BitVec 8) (closes : Bool) (j : Nat)
    (ats : List (Act × List (VReg × Option Tag))) (c : Ctx) :
    (ats.foldl (fun c a => c.place n now pc (sync a.1.slot) closes a.2 a.1) c).queue j =
      c.queue j ++ ((ats.map Prod.fst).filter fun a => decide (a.slot = j)).map fun a => a.entry c.serial n now pc (sync a.slot) closes := by
  induction ats generalizing c with
  | nil => simp
  | cons a rest ih =>
    rw [List.foldl_cons, ih, place_queue, place_serial]
    by_cases h : a.1.slot = j <;> simp [h]

/-! ## A word that is dispatched -/

theorem decodeWord_slots_length {ctl : Bool} {b : W256} {w : LongWord} (h : decodeWord ctl b = .ok w) : w.slots.length = 8 := by
  unfold decodeWord at h
  dsimp only at h
  split at h
  · cases h
  · split at h
    · cases h
    · cases h
      rfl

theorem noteWord_queues (c : Ctx) (n : Nat) (w : LongWord) (as : List Act) (commits marks spanEnd : Bool) :
    (c.noteWord n w as commits marks spanEnd).queues = c.queues := by
  have yielding : ∀ (b : Bool) (d : Ctx) (y : Bool), (if b then { d with yldWord := some n, yields := y } else d).queues = d.queues :=
    fun b d y => by split <;> rfl
  unfold Ctx.noteWord
  refine (yielding _ _ _).trans ?_
  generalize sOp as = op
  cases op <;> rfl

theorem waitUnless_eq_ok {α : Type} {b : Bool} {k : Eff α} {a : α} (h : waitUnless b k = .ok a) : b = true ∧ k = .ok a := by
  cases b with
  | true => exact ⟨rfl, h⟩
  | false => cases h

/-- What dispatch finds of a word that it sends out, and what it leaves in the queues. -/
theorem dispatchWord_ok {s s' : State} {k : Nat} {w : LongWord}
    (hw : decodeWord (isControl (ctxCore k)) (wordOfBytes (((s.imageOf k).drop (s.ctx k).pc).take 32)) = .ok w)
    (h : s.dispatchWord k = .ok s') :
    ∃ b next as, (s.ctx k).commits (s.ctx k).word w.slots = .ok b ∧
      ((s.ctx k).atWord (s.ctx k).word next ⟨b, wordMarks w || b, wordMarks w || b || wordYields w⟩).guards (s.ctx k).word 0 w.slots = .ok as ∧
      ∀ j, ∃ sync : Nat → BitVec 8, (s'.ctx k).queue j = (s.ctx k).queue j ++ (as.filter fun a => decide (a.slot = j)).map fun a =>
        a.entry (s.ctx k).serial (s.ctx k).word s.now (s.ctx k).pc (sync a.slot) (wordMarks w || b || wordYields w) := by
  unfold State.dispatchWord at h
  dsimp only at h
  cases hl : (s.ctx k).legalTarget (s.ctx k).pc with
  | false =>
    rw [hl] at h
    cases h
  | true =>
    rw [hl, hw] at h
    obtain ⟨b, hb, h⟩ := Eff.bind_eq_ok h
    obtain ⟨as, has, h⟩ := Eff.bind_eq_ok h
    obtain ⟨-, -, h⟩ := Eff.bind_eq_ok h
    obtain ⟨-, -, h⟩ := Eff.bind_eq_ok h
    obtain ⟨way, -, h⟩ := Eff.bind_eq_ok h
    obtain ⟨-, h⟩ := waitUnless_eq_ok h
    obtain ⟨-, h⟩ := waitUnless_eq_ok h
    obtain ⟨ats, hats, h⟩ := Eff.bind_eq_ok h
    obtain rfl := Eff.ok.inj h
    refine ⟨b, _, as, hb, has, fun j => ⟨slotSync w.sync (as.any fun a => decide (a.slot = 4) && a.op.isPass), ?_⟩⟩
    rw [← allTags_ok hats]
    refine (congrArg (Ctx.queue · j) (setCtx_ctx_same _ k _)).trans ?_
    refine (queue_congr (noteWord_queues _ (s.ctx k).word w _ b _ _) j).trans ?_
    exact placeAll_queue _ _ _ _ _ j ats _

/-- The context that holds its core is sent its next word. -/
theorem execWordDispatch_holder {s : State} {q k : Nat} (hq : coreExists q = true) (hh : (s.core q).holder = some k) :
    execWordDispatch q s = .next (s.dispatch k) := by
  have turn : s.giveTurn q = s := by simp [State.giveTurn, hh]
  simp [execWordDispatch, hq, turn, hh]

theorem dispatch_ok {s s' : State} {k : Nat} (hm : s.mayDispatch k = true) (h : s.dispatchWord k = .ok s') : s.dispatch k = s' := by
  simp [State.dispatch, hm, h]

/-- Settles O7: the entries are those that placing the acts of the word's guards adds, one for each slot. -/
theorem stepDispatchesDecodedWord : Obligations.StepDispatchesDecodedWord := by
  unfold Obligations.StepDispatchesDecodedWord
  rintro s s' q k rest w hf ha hq hh hm rfl hw hd
  refine ⟨?_, ?_⟩
  · have sent := execWordDispatch_holder (s := { s with agenda := rest }) hq hh
    rw [dispatch_ok (s := { s with agenda := rest }) hm hd] at sent
    exact (step_own hf ha).trans sent
  · obtain ⟨b, next, as, hb, has, queues⟩ := dispatchWord_ok (s := { s with agenda := rest }) hw hd
    refine ⟨b, hb, fun j hj => ?_⟩
    obtain ⟨x, hx⟩ : ∃ x, w.slots[j]? = some x :=
      ⟨_, List.getElem?_eq_getElem (by rw [decodeWord_slots_length hw]; exact hj)⟩
    obtain ⟨g, hg, one⟩ := guards_filter has hx
    obtain ⟨sync, queue⟩ := queues j
    rw [Nat.zero_add] at one
    rw [one] at queue
    refine ⟨_, x, g, queue, hx, rdP_ok_congr hg rfl rfl rfl, rfl, fun h0 => ?_, rfl, rfl, rfl⟩
    rw [Ctx.rdP, if_pos h0] at hg
    exact (Eff.ok.inj hg).symm

end Sys2Proof.Machine

end

section
/-!
PROOFS. What a context's and a core's events find.
-/

namespace Sys2Proof.Machine

/-! ## The issue turn (R233) -/

section
variable {s : State} {core : Nat}

theorem giveTurn_halted (hh : (s.core core).halted = true) : s.giveTurn core = s := by simp [State.giveTurn, hh]

/-- The contexts of a core in rotation, from the one after the last holder. -/
def State.rotation (s : State) (core : Nat) : List Nat := (List.range 8).map fun i => 8 * core + ((s.core core).last + 1 + i) % 8

theorem giveTurn_none (h : ∀ i, i < 8 → (s.ctx (8 * core + i)).isReady = false) : s.giveTurn core = s := by
  have nobody : (s.rotation core).find? (fun k => (s.ctx k).isReady) = none := by
    refine List.find?_eq_none.2 fun k hk => ?_
    obtain ⟨i, _, rfl⟩ := List.mem_map.1 hk
    simp [h _ (Nat.mod_lt _ (by decide))]
  unfold State.giveTurn
  dsimp only
  split
  · rfl
  · unfold State.rotation at nobody
    rw [nobody]

/-- The first ready context in rotation takes the turn of a free core. -/
theorem giveTurn_first {i h : Nat} (hf : (s.core core).holder = none) (hh : (s.core core).halted = false) (hi : i < 8)
    (he : h = 8 * core + ((s.core core).last + 1 + i) % 8) (hr : (s.ctx h).isReady = true)
    (hb : ∀ j, j < i → (s.ctx (8 * core + ((s.core core).last + 1 + j) % 8)).isReady = false) :
    s.giveTurn core = (s.setCtx h (s.ctx h).wakeTok).setCore core
      { s.core core with holder := some h, turn := s.now, spanEnd := false } := by
  have found : (s.rotation core).find? (fun k => (s.ctx k).isReady) = some h := by
    rw [List.find?_eq_some_iff_getElem]
    refine ⟨hr, i, by simpa [State.rotation] using hi, by simp [State.rotation, he], fun j hj => ?_⟩
    simp [State.rotation, hb j hj]
  unfold State.giveTurn
  dsimp only
  unfold State.rotation at found
  rw [if_neg (by simp [hf, hh]), found]

theorem execWordDispatch_free (hx : coreExists core = true) (hg : s.giveTurn core = s) (hf : (s.core core).holder = none) :
    execWordDispatch core s = .next s := by simp [execWordDispatch, hx, hg, hf]

/-! ## The next word of the holder -/

theorem dispatch_held {h : Nat} (hm : s.mayDispatch h = false) : s.dispatch h = s := by simp [State.dispatch, hm]

theorem dispatch_trap {h cause : Nat} {val : W64} (hm : s.mayDispatch h = true) (ht : s.dispatchWord h = .trap cause val) :
    s.dispatch h = if (s.ctx h).allIssuedBefore (s.ctx h).word then s.preciseTrap h (s.ctx h).word (s.ctx h).pc cause val else s := by
  simp [State.dispatch, hm, ht]

theorem dispatchWord_illegalTarget {h : Nat} (hl : (s.ctx h).legalTarget (s.ctx h).pc = false) :
    s.dispatchWord h = .trap 0x07 (BitVec.ofNat 64 (s.ctx h).pc) := by
  unfold State.dispatchWord
  dsimp only
  rw [hl]
  rfl

theorem dispatchWord_illegalWord {h : Nat} {e : Illegal} (hl : (s.ctx h).legalTarget (s.ctx h).pc = true)
    (hw : decodeWord (isControl (ctxCore h)) (wordOfBytes (((s.imageOf h).drop (s.ctx h).pc).take 32)) = .error e) :
    s.dispatchWord h = .trap 0x01 (illegalVal e) := by
  unfold State.dispatchWord
  dsimp only
  rw [hl, hw]
  rfl

/-! ## The limit of a span -/

theorem spanOver_eq_true {h i : Nat} (hc : ctxCore h = core) (hi : i < 8) (hn : 8 * core + i ≠ h)
    (hr : (s.ctx (8 * core + i)).isReady = true) (ht : (s.core core).turn + 65536 ≤ s.now) : s.spanOver h = true := by
  subst hc
  simp only [State.spanOver, ht, decide_true, Bool.true_and, List.any_eq_true, List.mem_range]
  exact ⟨i, hi, by simp [hn, hr]⟩

theorem spanOver_eq_false {h : Nat} (hc : ctxCore h = core) (hn : s.now < (s.core core).turn + 65536 ∨
    ∀ i, i < 8 → 8 * core + i ≠ h → (s.ctx (8 * core + i)).isReady = false) : s.spanOver h = false := by
  subst hc
  obtain early | alone := hn
  · simp [State.spanOver, Nat.not_le.2 early]
  · have nobody : ((List.range 8).any fun i => decide (8 * ctxCore h + i ≠ h) && (s.ctx (8 * ctxCore h + i)).isReady) = false := by
      simpa [List.any_eq_false] using alone
    simp only [State.spanOver, nobody, Bool.and_false]

end

/-! ## The first mark of a context -/

section
variable {s : State} {k : Nat} {m : Mark} {rest : List Mark} (hm : (s.ctx k).marks = m :: rest)
include hm

theorem commitFirst_unissued (h : (s.ctx k).markIssued m.word = false ∨ (s.ctx k).passedTo m.word = false) :
    s.commitFirst k = s := by
  obtain h | h := h <;> simp [State.commitFirst, hm, h]

/-- Inside a checkpoint a mark before the one of the `spec.commit` waits. -/
theorem commitFirst_inside {x : Checkpoint} (hx : (s.ctx k).chk = some x) (h : ∀ w, x.commit = some w → m.word < w) :
    s.commitFirst k = s := by
  cases hc : x.commit with
  | none => simp [State.commitFirst, hm, hx, hc]
  | some w => simp [State.commitFirst, hm, hx, hc, h w hc]

/-- A mark whose word has issued and whose operations have passed commits, and with it the checkpoint that its word closed. -/
theorem commitFirst_commits (hi : (s.ctx k).markIssued m.word = true) (hp : (s.ctx k).passedTo m.word = true)
    (hc : ((s.ctx k).chk.any fun x => match x.commit with | some w => decide (m.word < w) | none => true) = false) :
    s.commitFirst k = (((s.setCtx k { s.ctx k with
      chk := if (s.ctx k).chk.any (fun x => decide (x.commit = some m.word)) then none else (s.ctx k).chk }).commitTo k m.word
        m.next).afterIssue k).pump k := by
  unfold State.commitFirst
  dsimp only
  rw [hm]
  dsimp only
  rw [if_neg]
  simp only [hi, hp, Bool.not_true, Bool.false_or]
  exact fun h => Bool.false_ne_true (hc.symm.trans h)

end

/-! ## Forced aborts and watches -/

/-- A store at the head of slot L that the full buffer holds back, and a full queue: the checkpoint is aborted. -/
theorem forcedAbort_of_full {c : Ctx} {e : Entry} {rest : List Entry} {j : Nat} (hs : c.inSpec = true) (hu : 64 ≤ c.storeUsed e.word)
    (hq : c.queue 2 = e :: rest) (hst : isSpStore e.op = true) (hj : j < 8) (hf : 16 ≤ (c.queue j).length) : c.forcedAbort = true := by
  have stuck : c.slotStuck 2 = true := by simp [Ctx.slotStuck, hq, hs, hst, hu]
  simp only [Ctx.forcedAbort, hs, Bool.true_and, Bool.and_eq_true, Bool.or_eq_true, List.any_eq_true, List.mem_range]
  exact ⟨⟨2, by decide, stuck⟩, .inr ⟨j, hj, decide_eq_true hf⟩⟩

theorem forcedAbort_outside {c : Ctx} (h : c.inSpec = false) : c.forcedAbort = false := by simp [Ctx.forcedAbort, h]

section
variable {s : State} {k : Nat} {w : Watch} (hw : (s.ctx k).watch = some w)
include hw

theorem cancelWatch_eq (v : Nat) :
    (s.ctx k).cancelWatch v = { ((s.ctx k).putTok w.id (BitVec.ofNat 64 v)).dropOp w.id with watch := none } := by
  simp [Ctx.cancelWatch, hw]

theorem watchFire_eq : execWatchFire k s = .next (if w.hit then s.setCtx k
    { ((s.ctx k).putTok w.id (BitVec.ofNat 64 0)).dropOp w.id with watch := none } else s) := by
  simp [execWatchFire, hw, cancelWatch_eq hw]

theorem watchTimeout_eq : execWatchTimeout k s = .next (if !w.hit && decide (w.until_ ≠ 0) && decide (w.until_ ≤ s.now) then s.setCtx k
    { ((s.ctx k).putTok w.id (BitVec.ofNat 64 2)).dropOp w.id with watch := none } else s) := by
  simp only [execWatchTimeout, hw, Option.any_some, cancelWatch_eq hw]

end

/-! ## Coordinates of tiles -/

theorem nextTileDelivery_none {s : State} {k : Nat} (h : ∀ d ∈ (s.cluster (ctxCluster k)).deliv, d.1 ≠ k) :
    execNextTileDelivery k s = .next s := by
  have nothing : (s.cluster (ctxCluster k)).deliv.find? (fun d => decide (d.1 = k)) = none :=
    List.find?_eq_none.2 fun d hd => by simpa using h d hd
  simp only [execNextTileDelivery, nothing]

theorem nextTileDelivery_head {s : State} {k id v : Nat} {rest : List (Nat × Nat × Nat)}
    (h : (s.cluster (ctxCluster k)).deliv = (k, id, v) :: rest) : execNextTileDelivery k s =
    .next ((s.setCluster (ctxCluster k) { s.cluster (ctxCluster k) with deliv := rest }).setCtx k { s.ctx k with
      nt := (s.ctx k).nt.map fun e => if e.id = id ∧ e.val.isNone then { e with val := some (BitVec.ofNat 64 v) } else e }) := by
  simp [execNextTileDelivery, h]

/-! ## Barriers' answers -/

theorem barrierQueryAnswer_other {s : State} {k : Nat} (h : ∀ a g b n, (s.ctx k).run ≠ .waitBar a g b n) :
    execBarrierQueryAnswer k s = .next s := by
  unfold execBarrierQueryAnswer
  dsimp only
  split
  · next a g b n hr => exact absurd hr (h a g b n)
  · rfl

theorem wakeBar_eq {c : Ctx} {a g : Nat} {b n : Bool} (h : c.run = .waitBar a g b n) : c.wakeBar = { c with run := .ready } := by
  simp [Ctx.wakeBar, h]

section
variable {s : State} {k a g : Nat} {byGen : Bool} (hr : (s.ctx k).run = .waitBar a g byGen false) (hd : barDev a = s.vertex)
include hr hd

/-- A barrier that is not released has the context wait there. -/
theorem barrierQueryAnswer_holds
    (hb : if byGen then ((s.core (s.barHome a)).bar (barAddr a)).gen = g else ((s.core (s.barHome a)).bar (barAddr a)).pend ≠ 0) :
    execBarrierQueryAnswer k s = .next (((s.setCore (s.barHome a) { s.core (s.barHome a) with
        waits := (s.core (s.barHome a)).waits ++ [⟨a, g, byGen, k, false⟩] }).setCtx k
      { s.ctx k with run := .waitBar a g byGen true, yields := true }).afterIssue k) := by
  cases byGen <;> simp_all [execBarrierQueryAnswer]

theorem barrierQueryAnswer_released
    (hb : if byGen then ((s.core (s.barHome a)).bar (barAddr a)).gen ≠ g else ((s.core (s.barHome a)).bar (barAddr a)).pend = 0) :
    execBarrierQueryAnswer k s = .next ((s.setCtx k { s.ctx k with run := .ready }).afterIssue k) := by
  cases byGen <;> simp_all [execBarrierQueryAnswer, wakeBar_eq hr]

end

theorem barrierNotify_none {s : State} {core : Nat} (h : ∀ w ∈ (s.core core).waits, w.hit = false) :
    execBarrierNotify core s = .next s := by
  have nobody : (s.core core).waits.find? (·.hit) = none := List.find?_eq_none.2 fun w hw => by simp [h w hw]
  simp only [execBarrierNotify, nobody]

theorem barrierNotify_head {s : State} {core a g : Nat} {b n : Bool} {w : BarWait} {rest : List BarWait}
    (h : (s.core core).waits = w :: rest) (hh : w.hit = true) (hr : (s.ctx w.who).run = .waitBar a g b n) :
    execBarrierNotify core s = .next ((s.setCore core { s.core core with
      waits := rest.filter fun x => !(decide (x.who = w.who) && x.hit) }).setCtx w.who { s.ctx w.who with run := .ready }) := by
  simp [execBarrierNotify, h, hh, wakeBar_eq hr]

/-! ## The tile counter -/

section
variable {s : State} {core : Nat} {t : TileReq} {rest : List TileReq} (hq : (s.cluster core).tileq = t :: rest)

/-- The head of the queue is answered with `v`. -/
def State.answerTile (s : State) (core : Nat) (t : TileReq) (rest : List TileReq) (v : Nat) : State :=
  s.setCluster core { s.cluster core with tileq := rest, deliv := (s.cluster core).deliv ++ [(t.ctx, t.id, v)] }

include hq

theorem tileCounterServe_noRecord (hr : s.recs.find? t.record = none) :
    execTileCounterServe core s = .next (s.answerTile core t rest (2 ^ 63)) := by
  simp only [execTileCounterServe, hq, hr]
  rfl

theorem tileCounterServe_plain {r : LRec} (hr : s.recs.find? t.record = some r) (hp : r.pipe = none) :
    execTileCounterServe core s = .next (({ s with recs := AMap.set s.recs t.record r.draw.2 } : State).answerTile core t rest r.draw.1) := by
  simp only [execTileCounterServe, hq, hr, hp]
  rfl

theorem tileCounterServe_stopped {r : LRec} {p : Pipe} (hr : s.recs.find? t.record = some r) (hp : r.pipe = some p)
    (hs : p.stop ≠ 0 ∨ r.counter = []) : execTileCounterServe core s = .next (s.answerTile core t rest (2 ^ 63)) := by
  simp only [execTileCounterServe, hq, hr, hp, if_pos hs]
  rfl

theorem tileCounterServe_loader {r : LRec} {p : Pipe} (hr : s.recs.find? t.record = some r) (hp : r.pipe = some p)
    (hs : ¬ (p.stop ≠ 0 ∨ r.counter = [])) : execTileCounterServe core s =
    .next ((({ s with recs := AMap.set s.recs t.record r.draw.2 } : State).loaderTakes (ctxCore t.ctx) t.record r.draw.1).answerTile core t
      rest r.draw.1) := by
  simp only [execTileCounterServe, hq, hr, hp, if_neg hs]
  rfl

end

theorem draw_nil {r : LRec} (h : r.counter = []) : r.draw = (2 ^ 63, r) := by simp [LRec.draw, h]

theorem draw_cons {r : LRec} {a b : Nat} {rest : List (Nat × Nat)} (h : r.counter = (a, b) :: rest) :
    r.draw = (a, { r with counter := if a + 1 < b then (a + 1, b) :: rest else rest }) := by simp [LRec.draw, h]

end Sys2Proof.Machine

end

section
/-!
PROOFS. The events of contexts and cores, O53.
-/

namespace Sys2Proof.Machine

/-- Settles O53, event by event: each by the rule for what its unit finds. -/
theorem contextAndCoreEvents : Obligations.ContextAndCoreEvents := by
  unfold Obligations.ContextAndCoreEvents
  intro s k core
  simp only [exec_wordDispatch, exec_markCommit, exec_specForcedAbort, exec_watchFire, exec_watchTimeout, exec_nextTileDelivery,
    exec_barrierQueryAnswer, exec_barrierNotify, exec_spanLimit, exec_tileCounterServe]
  refine ⟨fun hx => by simp [execWordDispatch, hx], fun hx => ⟨fun hf hn => execWordDispatch_free hx (giveTurn_none hn) hf,
      fun hf hh => execWordDispatch_free hx (giveTurn_halted hh) hf, fun i h hf hh hi he hr hb => ?_, fun h hh => ⟨fun hm => ?_,
        fun hm hc => ⟨fun hl => ?_, fun e hl hw => ?_⟩⟩⟩,
    ⟨fun hm => ?_, fun m rest hm => ⟨fun h => congrArg _ (commitFirst_unissued hm h),
        fun x hx h => congrArg _ (commitFirst_inside hm hx h), fun hi hp => ⟨fun hc => ?_, fun x hx hc => ?_, fun x w hx hc hw => ?_⟩⟩,
      fun hs => ?_, fun e rest j hs hu hq hst hj hf => ?_, fun hw => ?_, fun w hw => ⟨fun hh => ?_, fun hh => ?_⟩,
      nextTileDelivery_none, fun id v rest h => nextTileDelivery_head h,
      fun a g byGen hr hd => ⟨barrierQueryAnswer_holds hr hd, barrierQueryAnswer_released hr hd⟩, barrierQueryAnswer_other⟩,
    barrierNotify_none, fun w rest a g b n h hh hr => barrierNotify_head h hh hr, fun hh => ?_,
    fun h hh hc => ⟨fun i hi hn hr ht => ?_, fun hn => ?_⟩,
    fun hq => ?_, fun t rest hq => ⟨fun hr => tileCounterServe_noRecord hq hr, fun r hr hp => ⟨fun hc => ?_, fun a b more hc => ?_⟩,
      fun r p hr hp hs => tileCounterServe_stopped hq hr hp hs, fun r p a b more hr hp hs hc => ?_⟩⟩
  · simp [execWordDispatch, hx, giveTurn_first hf hh hi he hr hb]
  · rw [execWordDispatch_holder hx hh, dispatch_held hm]
  · rw [execWordDispatch_holder hx hh, dispatch_trap hm (dispatchWord_illegalTarget hl)]
  · subst hc
    rw [execWordDispatch_holder hx hh, dispatch_trap hm (dispatchWord_illegalWord hl hw)]
  · simp [execMarkCommit, State.commitFirst, hm]
  · rw [execMarkCommit, commitFirst_commits hm hi hp (by simp [hc]), if_neg (by simp [hc])]
  · rw [execMarkCommit, commitFirst_commits hm hi hp (by simp [hx, hc]), if_pos (by simp [hx, hc])]
  · rw [execMarkCommit, commitFirst_commits hm hi hp (by simp [hx, hc, Nat.le_of_lt hw]), if_neg (by simp [hx, hc, Nat.ne_of_lt hw])]
  · simp [execSpecForcedAbort, forcedAbort_outside hs]
  · simp [execSpecForcedAbort, forcedAbort_of_full hs hu hq hst hj hf]
  · simp [execWatchFire, execWatchTimeout, hw]
  · simp [watchFire_eq hw, watchTimeout_eq hw, hh]
  · rw [watchFire_eq hw, watchTimeout_eq hw, hh]
    refine ⟨rfl, fun h0 ht => by simp [h0, ht], fun h => ?_⟩
    obtain h | h := h <;> simp [h]
  · simp [execSpanLimit, hh]
  · simp [execSpanLimit, hh, spanOver_eq_true hc hi hn hr ht]
  · simp [execSpanLimit, hh, spanOver_eq_false hc hn]
  · simp [execTileCounterServe, hq]
  · rw [tileCounterServe_plain hq hr hp, draw_nil hc]
    rfl
  · rw [tileCounterServe_plain hq hr hp, draw_cons hc]
    rfl
  · rw [tileCounterServe_loader hq hr hp (by simp [hs, hc]), draw_cons hc]
    rfl

end Sys2Proof.Machine

end

section
/-!
PROOFS. Passes of the matrix engine, O48.
-/

namespace Sys2Proof.Machine

/-! ## An operation that waits for its word's mark (R107) -/

section
variable {s : State} {f : Focus} {check : Focus → Ctx → Eff Unit} {k : Focus → Ctx → Eff State} (hf : s.focus = some f)
include hf

theorem afterMark_passes (hc : f.ent.checked = false) (h : check f (s.ctx f.ctx) = .ok ()) : afterMark s check k = passes s f := by
  simp [afterMark, hf, hc, h, passes]

theorem afterMark_trap {cause : Nat} {val : W64} (hc : f.ent.checked = false) (h : check f (s.ctx f.ctx) = .trap cause val) :
    afterMark s check k = .next (s.issueTrap f cause val) := by
  simp [afterMark, hf, hc, h]

theorem afterMark_waits (hc : f.ent.checked = true) (h : (s.ctx f.ctx).lastMark < f.ent.word) : afterMark s check k = waits s := by
  simp [afterMark, hf, hc, waits, Ctx.markDone, Nat.not_le.2 h]

theorem afterMark_performs (hc : f.ent.checked = true) (h : f.ent.word ≤ (s.ctx f.ctx).lastMark) :
    afterMark s check k = issueOp s k := by
  simp [afterMark, hf, hc, Ctx.markDone, h]

end

/-! ## Starting a pass or a clear -/

theorem mxcRows_eq (m : W64) : mxcRows m = m.toNat % 128 + 1 := by simp [mxcRows, bits]

theorem mxcGroups_eq (m : W64) : mxcGroups m = m.toNat / 128 % 8 + 1 := by simp [mxcGroups, bits]

theorem eccTile_bad {s : State} {k tile rows i : Nat} (hi : i < rows) (hb : s.tileBad k tile i = true) :
    ∃ v, s.eccTile k tile rows = .trap 0x15 v := by
  unfold State.eccTile
  split
  · exact ⟨_, rfl⟩
  · next h => exact absurd hb (List.find?_eq_none.1 h i (List.mem_range.2 hi))

section
variable {s : State} {f : Focus} {set : Bool} {acc : BitVec 3} {w op : BitVec 2} {st : SReg} (hf : s.focus = some f)
include hf

section
variable (hc : f.ent.checked = false) (hi : (s.ctx f.ctx).issuedBefore 4 f.ent.word = true)
include hc hi

theorem passOp_noPermit (hp : (s.ctx f.ctx).permit = none) : passOp s set acc w op st = .next (s.issueTrap f 0x0F 0#64) :=
  afterMark_trap hf hc (by simp [hi, hp])

/-- With a permit held, st free of traps and the rows that it reads in order, a pass has passed its checks. -/
theorem passOp_passes (hp : (s.ctx f.ctx).permit ≠ none) (hs : (s.ctx f.ctx).stCheck f.ent.word st = .ok ())
    (he : set = false → ∃ m, (s.ctx f.ctx).rdU f.ent.word uMxc = .ok m ∧ s.eccTile f.ctx acc.toNat (mxcRows m) = .ok ()) :
    passOp s set acc w op st = passes s f := by
  have held : (s.ctx f.ctx).permit.isNone = false :=
    Option.isNone_eq_false_iff.2 (Option.isSome_iff_ne_none.2 hp)
  refine afterMark_passes hf hc ?_
  cases set with
  | true => simp [hi, held, hs]
  | false =>
    obtain ⟨m, hm, he⟩ := he rfl
    simp [hi, held, hs, hm, he]

theorem passOp_badRow {m : W64} {i : Nat} (hp : (s.ctx f.ctx).permit ≠ none) (hm : (s.ctx f.ctx).rdU f.ent.word uMxc = .ok m)
    (hr : i < mxcRows m) (hb : s.tileBad f.ctx acc.toNat i = true) :
    ∃ v, passOp s false acc w op st = .next (s.issueTrap f 0x15 v) := by
  have held : (s.ctx f.ctx).permit.isNone = false :=
    Option.isNone_eq_false_iff.2 (Option.isSome_iff_ne_none.2 hp)
  obtain ⟨v, hv⟩ := eccTile_bad hr hb
  exact ⟨v, afterMark_trap hf hc (by simp [hi, held, hm, hv])⟩

end

/-- A pass whose permit, weights, interval and feed are there enters the engine. -/
theorem passOp_enters (hc : f.ent.checked = true) (hl : f.ent.word ≤ (s.ctx f.ctx).lastMark) {p : Permit} {x m : W64} {r : WReg}
    {env : FpEnv} {b : FeedBuf} (hx : (s.ctx f.ctx).rdS f.ent.word st = .ok x) (hr : (s.ctx f.ctx).rdW f.ent.word w.toNat = .ok r)
    (hm : (s.ctx f.ctx).rdU f.ent.word uMxc = .ok m) (he : (s.ctx f.ctx).rdEnv f.ent.word = .ok env)
    (hb : (s.ctx f.ctx).feed = some b) (hw : b.word = f.ent.word) (hp : (s.ctx f.ctx).permit = some p) (hg : p.granted = true)
    (ready : r.ready ≤ s.now) (sums : feedTag b.tag r.tag = tAQ8 → r.sumReady ≤ s.now)
    (spaced : (s.core (ctxCore f.ctx)).passCyc + (s.core (ctxCore f.ctx)).passInt ≤ s.now)
    (busy : (s.ctx f.ctx).accBusy acc.toNat = false) :
    passOp s set acc w op st = .next (((s.setCtx f.ctx { s.ctx f.ctx with
        passes := (s.ctx f.ctx).passes ++ [⟨f.ent.id, f.ent.word, acc.toNat, s.now, mxcRows m, env.ftz,
          .run set op.toNat (mxcGroups m) b.rows r.w, 0⟩], feed := none }).setCore (ctxCore f.ctx)
      { s.core (ctxCore f.ctx) with
        passCyc := s.now,
        passInt := max (max (fmtInterval (feedTag b.tag r.tag)) (fmtInterval r.tag)) (lvlInterval p.lvl) }).retire f) := by
  have own : (some b).filter (fun b => decide (b.word = f.ent.word)) = some b := by simp [Option.filter, hw]
  have rows : (s.ctx f.ctx).passRows s f.ent.word (mxcRows m) = some b.rows := by simp only [Ctx.passRows, hb, own]
  have fmt : (s.ctx f.ctx).feedFmt f.ent.word r.tag = feedTag b.tag r.tag := by simp [Ctx.feedFmt, hb, hw]
  have sums' : (decide (feedTag b.tag r.tag ≠ tAQ8) || decide (r.sumReady ≤ s.now)) = true := by
    by_cases h : feedTag b.tag r.tag = tAQ8 <;> simp [h, sums]
  rw [passOp, afterMark_performs hf hc hl]
  refine issueOp_ok hf ?_
  simp only [hx, hr, hm, he, hp, rows, Eff.bind_ok, fmt, hg, ready, sums', spaced, busy, hb, Option.isNone_some]
  rfl

end

/-! ## The rows that a pass writes -/

/-- The values of a pass's element, without the flags that its groups raise. -/
theorem passElem_fst (op : Nat) (ftz : Bool) (g : Nat) (row : List XV) (w : List (List XV)) (n : Nat) (a : W32) :
    (passElem op ftz g row w n a).1 = (List.range g).foldl (fun (x : W32) j => (accStep op ftz x (groupVal op ftz
      ((List.range 16).map fun k => row.getD (16 * j + k) XV.zero) ((List.range 16).map fun k => mAt w (16 * j + k) n)).1).1) a := by
  have fold : ∀ (js : List Nat) (acc : W32 × Flags), (js.foldl (fun (acc : W32 × Flags) j =>
      let as := (List.range 16).map fun k => row.getD (16 * j + k) XV.zero
      let ws := (List.range 16).map fun k => mAt w (16 * j + k) n
      let v := groupVal op ftz as ws
      let r := accStep op ftz acc.1 v.1
      (r.1, acc.2 ||| v.2 ||| r.2)) acc).1 = js.foldl (fun (x : W32) j => (accStep op ftz x (groupVal op ftz
      ((List.range 16).map fun k => row.getD (16 * j + k) XV.zero) ((List.range 16).map fun k => mAt w (16 * j + k) n)).1).1) acc.1 := by
    intro js
    induction js with
    | nil => exact fun _ => rfl
    | cons j rest ih => exact fun acc => ih _
  exact fold _ _

theorem row_clr {p : Pass} {ninf : Bool} (h : p.kind = .clr ninf) (i : Nat) (old : List W32) :
    p.row i old = (List.replicate 128 (startVal ninf), 0#8) := by simp [Pass.row, h]

theorem row_run {p : Pass} {set : Bool} {op g : Nat} {a w : List (List XV)} (h : p.kind = .run set op g a w) (i : Nat) (old : List W32)
    {n : Nat} (hn : n < 128) : (p.row i old).1.getD n 0#32 =
      (passElem op p.ftz g (a.getD i []) w n (if set then startVal (decide (op = 2)) else old.getD n 0#32)).1 := by
  simp [Pass.row, h, hn]

/-- One row of a pass is written into its tile. -/
def Ctx.writeRow (c : Ctx) (p : Pass) (i : Nat) : Ctx :=
  { c with
    tiles := AMap.set c.tiles p.tile (AMap.set (AMap.get [] c.tiles p.tile) i (p.row i (c.tileRow p.tile i)).1),
    mxf := c.mxf ||| (p.row i (c.tileRow p.tile i)).2 }

theorem tileRow_writeRow_same (c : Ctx) (p : Pass) (i : Nat) :
    (c.writeRow p i).tileRow p.tile i = (p.row i (c.tileRow p.tile i)).1 := by
  simp [Ctx.writeRow, Ctx.tileRow, AMap.get_set_same]

theorem tileRow_writeRow_ne (c : Ctx) (p : Pass) {i i' j : Nat} (h : j ≠ p.tile ∨ i' ≠ i) :
    (c.writeRow p i).tileRow j i' = c.tileRow j i' := by
  by_cases hj : j = p.tile
  · subst hj
    simp [Ctx.writeRow, Ctx.tileRow, AMap.get_set_same, AMap.get_set_ne, h.resolve_left (· rfl)]
  · simp [Ctx.writeRow, Ctx.tileRow, AMap.get_set_ne, hj]

/-- The first `m` rows that a pass has still to write. -/
def Ctx.writeSome (c : Ctx) (p : Pass) (m : Nat) : Ctx := (List.range m).foldl (fun c d => c.writeRow p (p.done + d)) c

theorem writeSome_succ (c : Ctx) (p : Pass) (m : Nat) : c.writeSome p (m + 1) = (c.writeSome p m).writeRow p (p.done + m) := by
  simp [Ctx.writeSome, List.range_succ]

theorem tileRow_writeSome_outside (c : Ctx) (p : Pass) {m i j : Nat} (h : j ≠ p.tile ∨ i < p.done ∨ p.done + m ≤ i) :
    (c.writeSome p m).tileRow j i = c.tileRow j i := by
  induction m with
  | zero => rfl
  | succ m ih => rw [writeSome_succ, tileRow_writeRow_ne _ _ (by omega), ih (by omega)]

/-- Each row is written once, from what it held before the pass. -/
theorem tileRow_writeSome_inside (c : Ctx) (p : Pass) {m i : Nat} (hd : p.done ≤ i) (hm : i < p.done + m) :
    (c.writeSome p m).tileRow p.tile i = (p.row i (c.tileRow p.tile i)).1 := by
  induction m with
  | zero => omega
  | succ m ih =>
    rw [writeSome_succ]
    by_cases h : i = p.done + m
    · subst h
      rw [tileRow_writeRow_same, tileRow_writeSome_outside c p (.inr (.inr (Nat.le_refl _)))]
    · rw [tileRow_writeRow_ne _ _ (.inr h), ih (by omega)]

theorem writeRows_fst (c : Ctx) (t : Nat) (p : Pass) :
    (c.writeRows t p).1 = c.writeSome p (min p.n (t + 1 - (p.cyc + 136)) - p.done) := rfl

/-! ## The contexts of a core -/

theorem coreKeys_nodup (q : Nat) : (coreKeys q).Nodup := by
  unfold coreKeys
  refine List.nodup_append.2 ⟨List.nodup_range.map fun a b h => by simpa using h, List.nodup_range.map fun a b h => by simpa using h, ?_⟩
  simp only [List.mem_map, List.mem_range, spillBase]
  rintro _ ⟨i, hi, rfl⟩ _ ⟨j, hj, rfl⟩
  omega

/-- Settling the rows of several contexts settles each of them, and changes nothing else. -/
theorem settleAll (ks : List Nat) (hn : ks.Nodup) (s : State) :
    let t := ks.foldl (fun s k => s.setCtx k ((s.ctx k).settleRows s.now)) s
    t.now = s.now ∧ t.mem = s.mem ∧ t.cores = s.cores ∧ (∀ k ∈ ks, t.ctx k = (s.ctx k).settleRows s.now) ∧
      ∀ k, k ∉ ks → t.ctx k = s.ctx k := by
  induction ks generalizing s with
  | nil => exact ⟨rfl, rfl, rfl, fun k hk => absurd hk List.not_mem_nil, fun _ _ => rfl⟩
  | cons x rest ih =>
    obtain ⟨hx, hr⟩ := List.nodup_cons.1 hn
    obtain ⟨now, mem, cores, inside, outside⟩ := ih hr (s.setCtx x ((s.ctx x).settleRows s.now))
    refine ⟨now, mem, cores, fun k hk => ?_, fun k hk => ?_⟩
    · obtain rfl | hk := List.mem_cons.1 hk
      · exact (outside k hx).trans (setCtx_ctx_same ..)
      · have ne : k ≠ x := fun h => hx (h ▸ hk)
        exact (inside k hk).trans (by rw [setCtx_ctx_ne _ _ _ _ ne]; rfl)
    · obtain ⟨ne, hk⟩ := not_or.1 (mt List.mem_cons.2 hk)
      exact (outside k hk).trans (setCtx_ctx_ne _ _ _ _ ne)

/-- Settles O48: the checks, the mark and the conditions of a pass by the rules of `afterMark`, its rows by writing them one by one. -/
theorem matrixPasses : Obligations.MatrixPasses := by
  unfold Obligations.MatrixPasses
  refine ⟨fun s f acc w op st set ninf hf => ?_, fun p i old set op g a w => ⟨row_clr (i := i) (old := old) (ninf := false),
      row_clr (i := i) (old := old) (ninf := true), fun h n hn => ?_⟩,
    fun c t p i hd hn ht => ?_, fun c t p i j h => ?_, fun s q => ?_⟩
  · dsimp only
    have run : exec (if set then .mxRunSet acc w op st else .mxRun acc w op st) s = passOp s set acc w op st := by
      cases set <;> rfl
    rw [run, exec_mxClr, execMxClr]
    refine ⟨passOp_noPermit hf, passOp_passes hf, fun m i hc hi hp hs hm hr hb => ?_,
      fun hc hl => ⟨afterMark_waits hf hc hl, afterMark_waits hf hc hl⟩,
      fun p x m r env b hc hl hx hr hm he hb hw hp hg ready sums spaced busy => ?_, fun hc => afterMark_passes hf hc rfl,
      fun hc hl hb => ?_⟩
    · subst hs
      exact passOp_badRow hf hc hi hp hm hr hb
    · rw [← mxcRows_eq, ← mxcGroups_eq]
      exact passOp_enters hf hc hl hx hr hm he hb hw hp hg ready sums spaced busy
    · rw [afterMark_performs hf hc hl]
      exact issueOp_ok hf (by simp [hb])
  · rw [row_run h i old hn, passElem_fst]
    simp only [startVal, decide_eq_true_eq]
  · rw [writeRows_fst]
    exact tileRow_writeSome_inside c p hd (by omega)
  · rw [writeRows_fst]
    exact tileRow_writeSome_outside c p (by omega)
  · obtain ⟨-, mem, cores, inside, outside⟩ := settleAll (coreKeys q) (coreKeys_nodup q) s
    exact ⟨_, exec_passRowWrite s, mem, cores, inside, outside⟩

end Sys2Proof.Machine

end

section
/-!
PROOFS. Sends, collectives and receives at issue.
-/

namespace Sys2Proof.Machine

/-! ## Sends at issue -/

theorem claim_room {c : Ctx} {n used cap : Nat} (h : used < cap) : c.claim n used cap = .ok c := by simp [Ctx.claim, h]

/-- A gated remote operation with room in the restart buffer. -/
theorem addGated_room {s : State} {f : Focus} (h : (s.ctx f.ctx).remoteUsed < 16) (o : Op) :
    addGated s f (s.ctx f.ctx) o = .ok (s.setCtx f.ctx { s.ctx f.ctx with
      ops := (s.ctx f.ctx).ops ++ [{ o with gated := true, issued := s.now }] }) := by
  simp [addGated, claim_room h]

section
variable {s : State} {f : Focus} {sa : SReg} {mc : Bool} {a : W64} {entry : Focus → Ctx → Eff (VBits × Tag × Option Bool)}
  (hf : s.focus = some f) (ha : (s.ctx f.ctx).rdS f.ent.word sa = .ok a)
include hf ha

theorem sendOp_foreign (h : s.owner (qaCluster a) ≠ (s.ctx f.ctx).stat.vf) :
    sendOp s sa mc entry = .next (s.issueTrap f 0x11 a) :=
  issueOp_trap hf (by simp [ha, h])

theorem sendOp_full (h : s.owner (qaCluster a) = (s.ctx f.ctx).stat.vf) (hl : 16 ≤ (s.ctx f.ctx).sends.length) :
    sendOp s sa mc entry = waits s :=
  issueOp_wait hf (by simp [ha, h, Nat.not_lt.2 hl])

/-- The context with a send of `v` and `t` at the end of its send queue. -/
def Ctx.withSend (c : Ctx) (s : State) (f : Focus) (a : W64) (v : VBits) (t : Tag) (mc : Bool) : Ctx :=
  { c with sends := c.sends ++ [⟨f.ent.id, f.ent.word, v, t, s.sendDests a mc, [], false, 0, f.ctx⟩] }

section
variable (h : s.owner (qaCluster a) = (s.ctx f.ctx).stat.vf) (hl : (s.ctx f.ctx).sends.length < 16)
  (hu : (s.ctx f.ctx).remoteUsed < 16) {v : VBits} {t : Tag}
include h hl hu

theorem sendOp_raw (he : entry f (s.ctx f.ctx) = .ok (v, t, none)) :
    sendOp s sa mc entry = issued s f ((s.ctx f.ctx).withSend s f a v t mc) :=
  issueOp_ok hf (by simp [ha, h, hl, he, claim_room hu, Ctx.withSend])

theorem sendOp_quantised {clamped : Bool} (he : entry f (s.ctx f.ctx) = .ok (v, t, some clamped)) : sendOp s sa mc entry =
    issued s f (((s.ctx f.ctx).raise f.ent.id (flagIf clamped fQCL)).withSend s f a v t mc) :=
  issueOp_ok hf (by simp [ha, h, hl, he, claim_room hu, Ctx.withSend])

end
end

/-! ## Collectives at issue -/

section
variable {s : State} {f : Focus} {sd sa : SReg} {gs : BitVec 2} {a : W64} (hf : s.focus = some f)
include hf

theorem execCollStart_enters (ha : (s.ctx f.ctx).rdS f.ent.word sa = .ok a) (aligned : a.toNat % 64 = 0)
    (member : ((s.ctx f.ctx).gs.get 0#64 gs.toNat).getLsbD 63 = true) (inside : (s.ctx f.ctx).outside a.toNat 128 = false)
    (clear : (s.ctx f.ctx).storesPending f.ent.word [((a.toNat : Int), 128)] = false) (ecc : (s.core (ctxCore f.ctx)).ecc = [])
    (faults : (s.ctx f.ctx).collFaults (s.spRead f.ctx f.ent.word a.toNat 128) = []) (room : (s.ctx f.ctx).remoteUsed < 16)
    (few : ((s.ctx f.ctx).ops.filter fun o => decide (o.kind = .coll)).length < 2)
    (bar : (Coll.parse (s.spRead f.ctx f.ent.word a.toNat 128)).barV = true →
      (Coll.parse (s.spRead f.ctx f.ent.word a.toNat 128)).bar % 16 = 0) :
    execCollStart sd sa gs s = entersGated s f { Op.of f .coll sd with
      coll := some (Coll.parse (s.spRead f.ctx f.ent.word a.toNat 128)),
      b := ((s.ctx f.ctx).gs.get 0#64 gs.toNat).toNat % 2 ^ 40 } := by
  have low : bits ((s.ctx f.ctx).gs.get 0#64 gs.toNat).toNat 0 40 = ((s.ctx f.ctx).gs.get 0#64 gs.toNat).toNat % 2 ^ 40 := by
    rw [bits, Nat.pow_zero, Nat.div_one]
  have barOk : ((Coll.parse (s.spRead f.ctx f.ent.word a.toNat 128)).barV &&
      decide ((Coll.parse (s.spRead f.ctx f.ent.word a.toNat 128)).bar % 16 ≠ 0)) = false := by
    cases h : (Coll.parse (s.spRead f.ctx f.ent.word a.toNat 128)).barV with
    | false => rfl
    | true => simp [bar h]
  have noErr : (s.core (ctxCore f.ctx)).eccAt a.toNat 128 = none := by simp [Core.eccAt, ecc]
  refine issueOp_ok hf ?_
  simp only [ha, Eff.bind_ok, aligned, member, inside, clear, State.eccCheck, noErr, faults, collTrap, barOk, few, decide_true,
    waitUnless_true, trapIf_false, Bool.not_true, Bool.not_false, ne_eq, not_true_eq_false, decide_false, low]
  exact addGated_room room _

theorem execCollStart_notMember (ha : (s.ctx f.ctx).rdS f.ent.word sa = .ok a) (aligned : a.toNat % 64 = 0)
    (member : ((s.ctx f.ctx).gs.get 0#64 gs.toNat).getLsbD 63 = false) :
    execCollStart sd sa gs s = .next (s.issueTrap f 0x12 (recTrapVal a.toNat 0xFF)) :=
  issueOp_trap hf (by simp only [ha, Eff.bind_ok, aligned, member, ne_eq, not_true_eq_false, decide_false, trapIf_false,
    Bool.not_false, trapIf_true])

/-- The collective whose token the register of an abort holds, and 0 where none is still to be written. -/
def Ctx.aimOf (c : Ctx) (sd : SReg) (n : Nat) : Nat :=
  match c.s.winner c.closers sd.toNat n with
  | some e => if e.async && e.val.isNone then e.id else 0
  | none => 0

theorem execCollAbort_enters (room : (s.ctx f.ctx).remoteUsed < 16) :
    execCollAbort sd s = entersGated s f { Op.of f .collAbort 0#5 with b := (s.ctx f.ctx).aimOf sd f.ent.word } :=
  issueOp_ok hf (addGated_room room _)

end

theorem aimOf_notPending {c : Ctx} {sd : SReg} {n : Nat} (h : c.tokPending sd.toNat n = false) : c.aimOf sd n = 0 := by
  unfold Ctx.aimOf
  unfold Ctx.tokPending at h
  split
  · next e he =>
    simp only [he] at h
    exact if_neg (by rw [h]; exact Bool.false_ne_true)
  · rfl

/-! ## Receives -/

section
variable {s : State} {f : Focus} {vd : VReg} {qj : BitVec 3} (hf : s.focus = some f)
include hf

theorem recvOp_wait (h : (s.ctx f.ctx).head qj.toNat f.ent.word = .wait) (add : Bool) : recvOp s vd qj add = waits s :=
  onCtx_wait hf (by simp [h])

variable {e : QEnt} (he : (s.ctx f.ctx).head qj.toNat f.ent.word = .ok e)
include he

theorem recvOp_format (h1 : e.tag ≠ tF32) (h2 : e.tag ≠ tBF16) (h3 : e.tag ≠ tF16) (h4 : e.tag ≠ tAQ8) (add : Bool) :
    recvOp s vd qj add = .next (s.issueTrap f 0x03 (fmtVal 1 e.tag.toNat qj.toNat 7)) :=
  onCtx_trap hf (by simp [he, h1, h2, h3, h4])

/-- The element that `recv.add` or `recv.max` computes of a value and an entry's element. -/
def recvElem (add : Bool) (env : FpEnv) (p : Nat × XV) : Elem :=
  ⟨true, 0, fun r => if add then recvAddElem env p.1 p.2 r else recvMaxElem env p.1 p.2⟩

omit hf he in
theorem recvElem_add (env : FpEnv) : recvElem true env = fun p => ⟨true, 0, fun d => recvAddElem env p.1 p.2 d⟩ := rfl

omit hf he in
theorem recvElem_max (env : FpEnv) : recvElem false env = fun p => ⟨true, 0, fun _ => recvMaxElem env p.1 p.2⟩ := rfl

variable {lo hi : VBits} {env : FpEnv} {l : W32} {add : Bool} (hlo : (s.ctx f.ctx).rdV f.ent.word vd = .ok lo)
  (henv : (s.ctx f.ctx).rdEnv f.ent.word = .ok env) (hl : (s.ctx f.ctx).drawsFrom f (add && env.stoch) = .ok l)
include hlo henv hl

/-- An entry of 128 elements combines with a pair of F32 registers. -/
theorem recvOp_wide (ht : e.tag = tBF16 ∨ e.tag = tF16 ∨ e.tag = tAQ8) (hv : vd.toNat % 2 = 0)
    (hvt : (s.ctx f.ctx).rdVt f.ent.word (vd + 1) = .ok tF32) (hhi : (s.ctx f.ctx).rdV f.ent.word (vd + 1) = .ok hi) :
    recvOp s vd qj add =
      let r := runElems (add && env.stoch) (((vElems 32 lo ++ vElems 32 hi).zip e.elems).map (recvElem add env)) l
      issued s f (((((s.ctx f.ctx).putV f.ent.id vd (ofElems 32 (r.vals.take 64))).putV f.ent.id (vd + 1)
        (ofElems 32 (r.vals.drop 64))).putVt f.ent.id (vd + 1) tF32).flagged f r.flags r.steps) := by
  have wide : e.tag ≠ tF32 := by obtain h | h | h := ht <;> rw [h] <;> decide
  have known : (decide (e.tag = tBF16) || decide (e.tag = tF16) || decide (e.tag = tAQ8)) = true := by
    obtain h | h | h := ht <;> simp [h]
  refine onCtx_ok hf ?_
  simp only [he, Eff.bind_ok, Bool.false_or, known, Bool.not_true, trapIf_false, wide, ne_eq, not_false_eq_true, decide_true, hv, Bool.true_and,
    Nat.zero_ne_one, decide_false, if_true, Ctx.need, hvt, hlo, hhi, henv, hl]
  rfl

/-- An F32 entry combines with one register; of an even one the neighbour keeps its value. -/
theorem recvOp_narrow (ht : e.tag = tF32) :
    recvOp s vd qj add =
      let r := runElems (add && env.stoch) (((vElems 32 lo).zip e.elems).map (recvElem add env)) l
      issued s f ((if vd.toNat % 2 = 0 then ((s.ctx f.ctx).putV f.ent.id vd (ofElems 32 (r.vals.take 64))).unputV f.ent.id (vd + 1)
        else (s.ctx f.ctx).putV f.ent.id vd (ofElems 32 (r.vals.take 64))).flagged f r.flags r.steps) := by
  refine onCtx_ok hf ?_
  simp only [he, Eff.bind_ok, ht, decide_true, Bool.true_or, Bool.not_true, trapIf_false, ne_eq, not_true_eq_false, decide_false,
    Bool.false_and, Bool.false_eq_true, if_false, hlo, henv, hl, List.append_nil]
  rfl

end

end Sys2Proof.Machine

end

section
/-!
PROOFS. A send's way to its queues, and the operations of the N slot, O52.
-/

namespace Sys2Proof.Machine

/-! ## A send on its way to its queues -/

/-- The head of a send queue once its request is on its way. -/
def SendOp.asking (x : SendOp) (now : Nat) : SendOp := if x.asked = 0 then { x with asked := now + 1 } else x

theorem asking_reserved (x : SendOp) (now : Nat) : (x.asking now).reserved = x.reserved := by
  unfold SendOp.asking
  split <;> rfl

/-- The flight of a send to one of its queues. -/
def SendOp.flight (x : SendOp) (now k d : Nat) : Flight := ⟨now + sendDelay (ctxCore k) (ctxCore (d / 8)), x.src, d, x.data, x.tag⟩

section
variable {s : State} {k : Nat} {x : SendOp} {rest : List SendOp} (hs : (s.ctx k).sends = x :: rest)
include hs

theorem sendReservation_gated (hr : x.released = false) : execSendReservation k s = .next s := by
  simp [execSendReservation, hs, hr]

/-- The released head of the queue, by what its queues have granted. -/
theorem sendReservation_released (hr : x.released = true) {s1 : State} {got : List Nat}
    (hg : s.reserveAll ((x.dests).filter fun d => !x.reserved.elem d && !s.askedBefore k (x.asking s.now) d) = (s1, got)) :
    execSendReservation k s =
      if x.dests.all fun d => (x.reserved ++ got).elem d then
        .next { s1.setCtx k { s1.ctx k with sends := (s1.ctx k).sends.drop 1 } with
          flights := s1.flights ++ x.dests.map (x.flight s1.now k) }
      else .next (s1.setCtx k { s1.ctx k with
        sends := { x.asking s.now with reserved := x.reserved ++ got } :: (s1.ctx k).sends.drop 1 }) := by
  unfold execSendReservation
  rw [hs]
  dsimp only
  rw [if_neg (by simp [hr])]
  by_cases h : x.asked = 0
  · simp only [SendOp.asking, if_pos h] at hg ⊢
    rw [hg]
    rfl
  · simp only [SendOp.asking, if_neg h] at hg ⊢
    rw [hg]
    rfl

/-- A send whose every queue has granted a place departs. -/
theorem sendReservation_departs (hr : x.released = true) (hall : ∀ d ∈ x.dests, d ∈ x.reserved) :
    execSendReservation k s = .next { s.setCtx k { s.ctx k with sends := rest } with
      flights := s.flights ++ x.dests.map (x.flight s.now k) } := by
  have asked : (x.dests.filter fun d => !x.reserved.elem d && !s.askedBefore k (x.asking s.now) d) = [] :=
    List.filter_eq_nil_iff.2 fun d hd => by simp [hall d hd]
  rw [sendReservation_released hs hr (s1 := s) (got := []) (by rw [asked]; rfl), if_pos (by simpa using hall), hs]
  rfl

section
variable {d : Nat} (hr : x.released = true) (hd : x.dests = [d]) (hn : x.reserved = [])
include hr hd hn

/-- The queue of a send to one grants nothing while it is full or an earlier request stands before it. -/
theorem sendReservation_waits (h : (s.ctx (d / 8)).reserveQ (d % 8) = none ∨ s.askedBefore k (x.asking s.now) d = true) :
    execSendReservation k s = .next (s.setCtx k { s.ctx k with sends := x.asking s.now :: rest }) := by
  have nothing : s.reserveAll (x.dests.filter fun d => !x.reserved.elem d && !s.askedBefore k (x.asking s.now) d) = (s, []) := by
    cases ha : s.askedBefore k (x.asking s.now) d with
    | true =>
      rw [hd, List.filter_cons_of_neg (by simp [ha])]
      rfl
    | false =>
      have full : (s.ctx (qnKey d)).reserveQ (qnQueue d) = none := h.resolve_right (by simp [ha])
      simp [hd, hn, ha, State.reserveAll, full]
  have same : { x.asking s.now with reserved := x.reserved ++ [] } = x.asking s.now := by
    rw [List.append_nil, ← asking_reserved x s.now]
  rw [sendReservation_released hs hr nothing, if_neg (by simp [hd, hn]), same, hs]
  rfl

/-- With room and no earlier request, the queue grants a place and the send departs. -/
theorem sendReservation_granted {c : Ctx} (hk : d / 8 ≠ k) (h : (s.ctx (d / 8)).reserveQ (d % 8) = some c)
    (ha : s.askedBefore k (x.asking s.now) d = false) :
    execSendReservation k s = .next { (s.setCtx (d / 8) c).setCtx k { s.ctx k with sends := rest } with
      flights := s.flights ++ [x.flight s.now k d] } := by
  have room : (s.ctx (qnKey d)).reserveQ (qnQueue d) = some c := h
  have got : s.reserveAll (x.dests.filter fun d => !x.reserved.elem d && !s.askedBefore k (x.asking s.now) d) =
      (s.setCtx (d / 8) c, [d]) := by
    rw [hd, List.filter_cons_of_pos (by simp [hn, ha]), List.filter_nil, State.reserveAll, room]
    rfl
  have own : (s.setCtx (d / 8) c).ctx k = s.ctx k := setCtx_ctx_ne _ _ _ _ (Ne.symm hk)
  rw [sendReservation_released hs hr got, if_pos (by simp [hd, hn]), own, hs, hd]
  rfl

end

end

theorem reserveQ_full {c : Ctx} {j : Nat} (h : 16 ≤ (AMap.get RQueue.none c.rq j).ents.length + (AMap.get RQueue.none c.rq j).reserved) :
    c.reserveQ j = none := by simp [Ctx.reserveQ, Nat.not_lt.2 h]

theorem reserveQ_room {c : Ctx} {j : Nat} (h : (AMap.get RQueue.none c.rq j).ents.length + (AMap.get RQueue.none c.rq j).reserved < 16) :
    c.reserveQ j = some { c with rq := AMap.set c.rq j { AMap.get RQueue.none c.rq j with
      reserved := (AMap.get RQueue.none c.rq j).reserved + 1 } } := by simp [Ctx.reserveQ, h]

/-! ## An entry that arrives -/

section
variable {s : State} {i : Nat} {a : Flight} (ha : s.flights[i]? = some a)
include ha

theorem sendArrival_early (h : s.now < a.due) : execSendArrival i s = .next s := by simp [execSendArrival, ha, h]

theorem sendArrival_lands (h : a.due ≤ s.now) (hf : ∀ b ∈ s.flights, b.dest = a.dest → b.before a = false) :
    execSendArrival i s = .next { s.setCtx (a.dest / 8) { s.ctx (a.dest / 8) with
      rq := AMap.set (s.ctx (a.dest / 8)).rq (a.dest % 8)
        ⟨(AMap.get RQueue.none (s.ctx (a.dest / 8)).rq (a.dest % 8)).ents ++ [⟨a.data, a.tag, false⟩],
          (AMap.get RQueue.none (s.ctx (a.dest / 8)).rq (a.dest % 8)).reserved - 1⟩ } with
      flights := s.flights.eraseIdx i } := by
  have first : ¬ (s.now < a.due ∨ (s.flights.any fun b => decide (b.dest = a.dest) && b.before a) = true) := by
    simpa [Nat.not_lt.2 h] using hf
  unfold execSendArrival
  rw [ha]
  dsimp only
  rw [if_neg first]
  rfl

end

/-- lfsr is read only where the rounding is stochastic. -/
theorem drawsFrom_stoch {c : Ctx} {f : Focus} {env : FpEnv} {l : W32} (h4 : env.rm = 4 → c.rdLfsr f.ent.word f.slot = .ok l)
    (h0 : env.rm ≠ 4 → l = 0#32) : c.drawsFrom f (true && env.stoch) = .ok l := by
  by_cases h : env.rm = 4
  · simp [Ctx.drawsFrom, FpEnv.stoch, h, h4 h]
  · simp [Ctx.drawsFrom, FpEnv.stoch, h, h0 h]

/-- Settles O52: sends, collectives and receives by what they find when they issue, a send's journey by what its queues grant. -/
theorem networkOperations : Obligations.NetworkOperations := by
  unfold Obligations.NetworkOperations
  refine ⟨fun s f vs vd sa sd qj gs a v t xs hf => ?_, fun s k x rest hs => ⟨fun hr => ?_, fun hr _ hall => ?_, fun d hr hd hn hk => ?_⟩,
    fun s i a ha => ⟨fun h => ?_, fun h hb => ?_⟩, fun _ _ => rfl⟩
  · dsimp only
    rw [exec_send, exec_sendMc, exec_sendQ, exec_collStart, exec_collAbort, exec_recv, exec_recvAdd, exec_recvMax]
    refine ⟨fun ha => ⟨fun h => ⟨sendOp_foreign hf ha h, sendOp_foreign hf ha h, sendOp_foreign hf ha h⟩,
        fun h hl => ⟨sendOp_full hf ha h hl, sendOp_full hf ha h hl, sendOp_full hf ha h hl⟩, fun h hl hu => ⟨fun hv ht => ?_, fun hx => ?_⟩⟩,
      fun ha aligned member inside clear ecc faults room few bar =>
        execCollStart_enters hf ha aligned member inside clear ecc faults room few bar,
      fun ha aligned member => execCollStart_notMember hf ha aligned member,
      fun room => ⟨_, execCollAbort_enters hf room, aimOf_notPending⟩,
      fun h => ⟨onCtx_wait hf (by simp [h]), recvOp_wait hf h _, recvOp_wait hf h _⟩,
      fun e lo env l he => ⟨onCtx_ok hf (by simp [he]), fun hi hlo henv hl4 hl0 ht hv hvt hhi => ?_, fun hlo henv hl4 hl0 ht => ?_,
        fun h1 h2 h3 h4 => recvOp_format hf he h1 h2 h3 h4 _⟩⟩
    · have raw : rawEntry vs f (s.ctx f.ctx) = .ok (v, t, none) := by simp [rawEntry, hv, ht]
      exact ⟨sendOp_raw hf ha h hl hu raw, sendOp_raw hf ha h hl hu raw⟩
    · exact ⟨fun q hq => sendOp_quantised hf ha h hl hu (by simp [hx, hq, ofBytes]),
        fun hq => sendOp_quantised (clamped := false) hf ha h hl hu (by simp [hx, hq])⟩
    · have draws := drawsFrom_stoch hl4 hl0
      have add := recvOp_wide (add := true) hf he hlo henv draws ht hv hvt hhi
      have max := recvOp_wide (add := false) hf he hlo henv rfl ht hv hvt hhi
      rw [recvElem_add] at add
      rw [recvElem_max] at max
      exact ⟨add, max⟩
    · have draws := drawsFrom_stoch hl4 hl0
      have add := recvOp_narrow (add := true) hf he hlo henv draws ht
      have max := recvOp_narrow (add := false) hf he hlo henv rfl ht
      rw [recvElem_add] at add
      rw [recvElem_max] at max
      exact ⟨add, max⟩
  · rw [exec_sendReservation, sendReservation_gated hs hr]
  · rw [exec_sendReservation, sendReservation_departs hs hr hall]
    rfl
  · rw [exec_sendReservation]
    dsimp only
    refine ⟨fun h => ⟨_, sendReservation_waits hs hr hd hn (h.imp_left reserveQ_full), rfl, ?_⟩,
      fun room ha => ⟨_, sendReservation_granted hs hr hd hn hk (reserveQ_room room) ha, ?_, ?_, rfl⟩⟩
    · rw [setCtx_ctx_same]
      rfl
    · exact congrArg Ctx.sends (setCtx_ctx_same ..)
    · refine (congrArg (fun c : Ctx => AMap.get RQueue.none c.rq (d % 8))
        ((setCtx_ctx_ne _ k (d / 8) _ hk).trans (setCtx_ctx_same ..))).trans ?_
      exact AMap.get_set_same ..
  · rw [exec_sendArrival, sendArrival_early ha h]
  · rw [exec_sendArrival]
    refine ⟨_, sendArrival_lands ha h hb, rfl, ?_, fun j hj => setCtx_ctx_ne _ _ _ _ hj, rfl⟩
    refine (congrArg (fun c : Ctx => AMap.get RQueue.none c.rq (a.dest % 8)) (setCtx_ctx_same ..)).trans ?_
    exact AMap.get_set_same ..

end Sys2Proof.Machine

end

section
/-!
PROOFS. Packed elements of vector registers, and operations made element by element.
-/

namespace Sys2Proof.Machine

/-! ## Packed elements (R64) -/

theorem testBit_packElems {w i : Nat} (hi : i < w) (xs : List Nat) (j : Nat) :
    (packElems w xs).testBit (w * j + i) = (xs.getD j 0).testBit i := by
  induction xs generalizing j with
  | nil => simp [packElems]
  | cons x xs ih =>
    have split : packElems w (x :: xs) = 2 ^ w * packElems w xs + x % 2 ^ w := Nat.add_comm ..
    rw [split, Nat.testBit_two_pow_mul_add _ (Nat.mod_lt _ (Nat.two_pow_pos w))]
    cases j with
    | zero => simp [hi]
    | succ j =>
      rw [if_neg (by rw [Nat.mul_succ]; omega), show w * (j + 1) + i - w = w * j + i by rw [Nat.mul_succ]; omega]
      exact ih j

theorem extractLsb'_ofElems {w j : Nat} (h : w * j + w ≤ 2048) (xs : List Nat) :
    (ofElems w xs).extractLsb' (w * j) w = BitVec.ofNat w (xs.getD j 0) := by
  apply BitVec.eq_of_getLsbD_eq
  intro i hi
  rw [BitVec.getLsbD_extractLsb', ofElems, BitVec.getLsbD_ofNat, BitVec.getLsbD_ofNat, testBit_packElems hi]
  simp [show w * j + i < 2048 by omega]

theorem place_le {w j : Nat} (h : j < 2048 / w) : w * j + w ≤ 2048 := by
  have upper : w * (j + 1) ≤ 2048 := (Nat.mul_le_mul_left w h).trans (Nat.mul_div_le 2048 w)
  rwa [Nat.mul_succ] at upper

theorem vElems_getD (v : VBits) {w j : Nat} (h : j < 2048 / w) : (vElems w v).getD j 0 = (v.extractLsb' (w * j) w).toNat := by
  simp [vElems, elems, h, Nat.shiftRight_eq_div_pow]

theorem getD_map_range (g : Nat → Nat) {n j : Nat} (h : j < n) : ((List.range n).map g).getD j 0 = g j := by simp [h]

theorem lane_ofLanes (g : Nat → W32) {j : Nat} (h : j < 64) : lane (ofLanes ((List.range 64).map g)) j = g j := by
  refine (extractLsb'_ofElems (by omega) _).trans ?_
  simp [h]

/-! ## Operations made element by element (R80, R152) -/

@[simp] theorem stepsLfsr_zero (l : W32) : stepsLfsr 0 l = l := rfl

theorem stepsLfsr_add (m n : Nat) (l : W32) : stepsLfsr (m + n) l = stepsLfsr n (stepsLfsr m l) := by
  induction m generalizing l with
  | zero => simp
  | succ m ih => rw [Nat.succ_add]; exact ih _

theorem stepsLfsr_succ (n : Nat) (l : W32) : stepsLfsr (n + 1) l = stepLfsr (stepsLfsr n l) := stepsLfsr_add n 1 l

/-- Elements after others go on from the lfsr that those leave. -/
theorem runElems_append (st : Bool) (es fs : List Elem) (l : W32) :
    runElems st (es ++ fs) l =
      let r := runElems st es l
      let t := runElems st fs (stepsLfsr r.steps l)
      ⟨r.vals ++ t.vals, r.flags ||| t.flags, r.steps + t.steps⟩ := by
  induction es generalizing l with
  | nil => simp [runElems]
  | cons e es ih =>
    by_cases ha : e.act
    · cases st <;> simp [runElems, ha, ih, b2n, stepsLfsr_add, stepsLfsr, BitVec.or_assoc, Nat.add_assoc]
    · simp [runElems, ha, ih]

/-- How many of the elements before `n` are active. -/
def activeBefore (g : Nat → Elem) (n : Nat) : Nat := ((List.range n).filter fun j => (g j).act).length

/-- The draw of element `j`, where `st` says whether active elements step lfsr. -/
def drawAt (st : Bool) (g : Nat → Elem) (l : W32) (j : Nat) : Nat :=
  drawOf (if st then stepsLfsr (activeBefore g j + 1) l else l)

/-- Element `j` as it computes from its own draw. -/
def elemAt (st : Bool) (g : Nat → Elem) (l : W32) (j : Nat) : Nat × Flags := (g j).f (drawAt st g l j)

theorem activeBefore_succ (g : Nat → Elem) (n : Nat) : activeBefore g (n + 1) = activeBefore g n + b2n (g n).act := by
  cases h : (g n).act <;> simp [activeBefore, List.range_succ, h, b2n]

theorem runElems_range (st : Bool) (g : Nat → Elem) (l : W32) (n : Nat) :
    runElems st ((List.range n).map g) l =
      ⟨(List.range n).map fun j => if (g j).act then (elemAt st g l j).1 else (g j).old,
        ((List.range n).filter fun j => (g j).act).foldl (fun fl j => fl ||| (elemAt st g l j).2) 0#8,
        if st then activeBefore g n else 0⟩ := by
  induction n with
  | zero => cases st <;> rfl
  | succ n ih =>
    rw [List.range_succ, List.map_append, runElems_append, ih, activeBefore_succ]
    cases ha : (g n).act <;> cases st <;> simp [runElems, ha, elemAt, drawAt, b2n, stepsLfsr_succ]

theorem runElems_vals_getD {st : Bool} {g : Nat → Elem} {l : W32} {n j : Nat} (h : j < n) :
    (runElems st ((List.range n).map g) l).vals.getD j 0 = if (g j).act then (elemAt st g l j).1 else (g j).old := by
  rw [runElems_range]
  exact getD_map_range _ h

end Sys2Proof.Machine

end

section
/-!
PROOFS. Floating operations with one source and the estimates, O41.
-/

namespace Sys2Proof.Machine

/-! ## One source, under a mask (R152, R154) -/

/-- What is read of vd: the register, unless there is no mask and every lane is active. -/
theorem rdOld_unmasked {c : Ctx} {n : Nat} {vd : VReg} {mo : Option MReg} {mk : W64} {d : VBits} (hmk : c.rdMk n mo = .ok mk)
    (hd : mo.isSome = true → c.rdV n vd = .ok d) :
    ∃ d', c.rdOld n vd mo.isSome = .ok d' ∧ (d' = d ∨ mk = BitVec.allOnes 64) := by
  cases mo with
  | some m => exact ⟨d, hd rfl, .inl rfl⟩
  | none => exact ⟨0#2048, rfl, .inr (Eff.ok.inj hmk).symm⟩

theorem laneAct_allOnes {w j : Nat} (h : j < 2048 / w) : laneAct w (BitVec.allOnes 64) j = true := by
  have := place_le h
  have : 0 < w := Nat.pos_of_ne_zero fun h0 => by simp [h0] at h
  simp only [laneAct, BitVec.getLsbD_allOnes, decide_eq_true_eq]
  omega

/-- Element `j` of an operation whose active elements are `p` and that keeps those of `d` elsewhere. -/
def maskedElem (w : Nat) (mk : W64) (d : VBits) (p : Nat → Nat × Flags) (j : Nat) : Elem :=
  ⟨laneAct w mk j, (d.extractLsb' (w * j) w).toNat, fun _ => p j⟩

theorem extractLsb'_runMasked {w : Nat} {mk : W64} {d d' : VBits} (kept : d' = d ∨ mk = BitVec.allOnes 64) (p : Nat → Nat × Flags)
    (l : W32) {j : Nat} (hj : j < 2048 / w) :
    (ofElems w (runElems false ((List.range (2048 / w)).map (maskedElem w mk d' p)) l).vals).extractLsb' (w * j) w =
      if laneAct w mk j then BitVec.ofNat w (p j).1 else d.extractLsb' (w * j) w := by
  rw [extractLsb'_ofElems (place_le hj), runElems_vals_getD hj]
  obtain rfl | rfl := kept
  · cases h : laneAct w mk j
    · simp only [maskedElem, h, Bool.false_eq_true, if_false, BitVec.ofNat_toNat, BitVec.setWidth_eq]
    · simp only [maskedElem, h, if_true, elemAt]
  · simp only [maskedElem, laneAct_allOnes hj, if_true, elemAt]

section
variable {s : State} {f : Focus} (hf : s.focus = some f)
include hf

/-- A floating operation with one source: every active element of vd is computed from va's, and any other kept. -/
theorem vecFp1_ok {o : VuOp} {env : FpEnv} {a d : VBits} {mk : W64} (henv : (s.ctx f.ctx).rdEnv f.ent.word = .ok env)
    (ha : (s.ctx f.ctx).rdV f.ent.word o.va = .ok a) (hmk : (s.ctx f.ctx).rdMk f.ent.word o.mk = .ok mk)
    (hd : o.mk.isSome = true → (s.ctx f.ctx).rdV f.ent.word o.vd = .ok d) (fm : ElemFmt) (g : FpEnv → Nat → Nat × Flags) :
    let w := fm.width
    let p : Nat → Nat × Flags := fun j => g env (a.extractLsb' (w * j) w).toNat
    ∃ v : VBits, (∀ j, j < 2048 / w → v.extractLsb' (w * j) w =
        if laneAct w mk j then BitVec.ofNat w (p j).1 else d.extractLsb' (w * j) w) ∧
      vecFp1 s o fm g = issued s f ((((s.ctx f.ctx).putV f.ent.id o.vd v).raise f.ent.id
        (((List.range (2048 / w)).filter (laneAct w mk)).foldl (fun fl j => fl ||| (p j).2) 0#8)).stepped f.ent.id 0) := by
  intro w p
  obtain ⟨d', hd', kept⟩ := rdOld_unmasked hmk hd
  have elements : ((List.range (2048 / w)).map fun i => (⟨laneAct w mk i, (vElems w d').getD i 0,
      fun _ => g env ((vElems w a).getD i 0)⟩ : Elem)) = (List.range (2048 / w)).map (maskedElem w mk d' p) :=
    List.map_congr_left fun j hj => by
      rw [vElems_getD d' (List.mem_range.1 hj), vElems_getD a (List.mem_range.1 hj)]
      rfl
  refine ⟨_, fun j hj => extractLsb'_runMasked kept p 0#32 hj, onCtx_ok hf ?_⟩
  simp only [henv, ha, hmk, hd', Eff.bind_ok]
  rw [elements, runElems_range]
  rfl

end

/-! ## The estimates' special values (R157) -/

/-- A NaN: its sign plays no part, and bit 22 says whether it is quiet. -/
theorem dec32_nan (ftz : Bool) {x : W32} (h : x.toNat % 2 ^ 31 > 0x7F800000) : dec32 ftz x = .nan (!x.getLsbD 22) := by
  have ex : bits x.toNat 23 8 = 255 := by simp only [bits]; omega
  have fr : bits x.toNat 0 23 ≠ 0 := by simp only [bits]; omega
  have quiet : bitAt (bits x.toNat 0 23) 22 = x.getLsbD 22 := by
    rw [← bitAt_toNat]
    refine decide_eq_decide.2 ?_
    simp only [bits]
    omega
  simp [dec32, isSub32, Fmt.decode, Fmt.noInf, fmt32, ex, fr, quiet]

/-- A normal number or an infinity. -/
theorem dec32_normal (ftz : Bool) {x : W32} (h1 : 0x00800000 ≤ x.toNat % 2 ^ 31) (h2 : x.toNat % 2 ^ 31 ≤ 0x7F800000) :
    dec32 ftz x = .inf (x.getLsbD 31) ∨ ∃ m e, m ≠ 0 ∧ dec32 ftz x = .fin (x.getLsbD 31) m e := by
  have ex : bits x.toNat 23 8 ≠ 0 := by simp only [bits]; omega
  have sign : bitAt x.toNat 31 = x.getLsbD 31 := bitAt_toNat x 31
  by_cases hi : bits x.toNat 23 8 = 255
  · have fr : bits x.toNat 0 23 = 0 := by simp only [bits] at hi ⊢; omega
    exact .inl (by simp [dec32, isSub32, Fmt.decode, Fmt.noInf, fmt32, hi, fr, sign])
  · refine .inr ⟨2 ^ 23 + bits x.toNat 0 23, bits x.toNat 23 8 - 127 - 23, by omega, ?_⟩
    simp [dec32, isSub32, Fmt.decode, Fmt.noInf, fmt32, hi, ex, sign]

@[simp] theorem estFlush_nan (ftz : Bool) (fl : Flags) : estFlush ftz (0x7FC00000#32, fl) = (0x7FC00000#32, fl) := by
  have notSub : isSub32 (0x7FC00000#32).toNat = false := by decide
  simp only [estFlush, notSub, Bool.and_false, Bool.false_eq_true, if_false]

theorem estimate_nan (ftz : Bool) {x : W32} (h : x.toNat % 2 ^ 31 > 0x7F800000) (fn : EstFn) :
    estimate fn ftz x = (0x7FC00000#32, if x.getLsbD 22 then 0#8 else fNV) := by
  simp only [estimate, dec32_nan ftz h, estFlush_nan]
  cases x.getLsbD 22 <;> rfl

/-- The root and the logarithm of a number below zero that is not subnormal. -/
theorem estimate_negative (ftz : Bool) {x : W32} (h1 : 0x00800000 ≤ x.toNat % 2 ^ 31) (h2 : x.toNat % 2 ^ 31 ≤ 0x7F800000)
    (hs : x.getLsbD 31 = true) :
    estimate .rsqrt ftz x = (0x7FC00000#32, fNV) ∧ estimate .log2 ftz x = (0x7FC00000#32, fNV) := by
  obtain hx | ⟨m, e, hm, hx⟩ := dec32_normal ftz h1 h2
  · simp [estimate, hx, hs, flagIf]
  · simp [estimate, hx, hs, hm, flagIf]

/-- The estimates of zeros. -/
theorem estimate_zero (ftz : Bool) :
    estimate .rcp ftz 0#32 = (0x7F800000#32, fDZ) ∧ estimate .rcp ftz 0x80000000#32 = (0xFF800000#32, fDZ) ∧
    estimate .rsqrt ftz 0#32 = (0x7F800000#32, fDZ) ∧ estimate .rsqrt ftz 0x80000000#32 = (0xFF800000#32, fDZ) ∧
    estimate .exp2 ftz 0#32 = (0x3F800000#32, 0#8) ∧ estimate .log2 ftz 0#32 = (0xFF800000#32, fDZ) ∧
    estimate .log2 ftz 0x80000000#32 = (0xFF800000#32, fDZ) := by
  cases ftz <;> decide

/-- The estimates of infinities, where they are no NaN. -/
theorem estimate_inf (ftz : Bool) :
    estimate .rcp ftz 0x7F800000#32 = (0#32, 0#8) ∧ estimate .rcp ftz 0xFF800000#32 = (0x80000000#32, 0#8) ∧
    estimate .rsqrt ftz 0x7F800000#32 = (0#32, 0#8) ∧ estimate .exp2 ftz 0x7F800000#32 = (0x7F800000#32, 0#8) ∧
    estimate .exp2 ftz 0xFF800000#32 = (0#32, 0#8) ∧ estimate .log2 ftz 0x7F800000#32 = (0x7F800000#32, 0#8) := by
  cases ftz <;> decide

/-- An estimate as an operation on the bits of an element. -/
def estElem (fn : EstFn) (env : FpEnv) (x : Nat) : Nat × Flags :=
  ((estimate fn env.ftz (BitVec.ofNat 32 x)).1.toNat, (estimate fn env.ftz (BitVec.ofNat 32 x)).2)

/-- Settles O41: one element at a time by `vecFp1_ok`; the table of R157 by the value that each operand decodes to. -/
theorem vectorUnaryFloatResults : Obligations.VectorUnaryFloatResults := by
  unfold Obligations.VectorUnaryFloatResults
  refine ⟨fun s f o env a d mk hf henv ha hmk hd => ?_, fun ftz n => ?_⟩
  · have result := vecFp1_ok hf henv ha hmk hd
    exact ⟨result .f32 (fpAbsNeg false .f32), result .f32 (fpAbsNeg true .f32), result .bf16 (fpAbsNeg false .bf16),
      result .bf16 (fpAbsNeg true .bf16), result .f32 (estElem .rcp), result .f32 (estElem .rsqrt), result .f32 (estElem .exp2),
      result .f32 (estElem .log2)⟩
  · obtain ⟨rcp0, rcpN0, rsqrt0, rsqrtN0, exp0, log0, logN0⟩ := estimate_zero ftz
    obtain ⟨rcpInf, rcpNInf, rsqrtInf, expInf, expNInf, logInf⟩ := estimate_inf ftz
    refine ⟨fun x hx fn => ?_, rcp0, rcpN0, rsqrt0, rsqrtN0, exp0, log0, logN0, rcpInf, rcpNInf, rsqrtInf, expInf, expNInf, logInf,
      fun h1 h2 hs => estimate_negative ftz h1 h2 hs⟩
    rw [estimate_nan ftz hx]
    exact ⟨rfl, rfl⟩

end Sys2Proof.Machine

end

section
/-!
PROOFS. Conversions, O45.
-/

namespace Sys2Proof.Machine

/-! ## Every element active, and the draws it takes (R80) -/

@[simp] theorem drawOf_zero : drawOf 0#32 = 0 := rfl

theorem drawsFrom_ok {c : Ctx} {f : Focus} {st : Bool} {l : W32} (h : st = true → c.rdLfsr f.ent.word f.slot = .ok l) :
    c.drawsFrom f st = .ok (if st then l else 0#32) := by
  cases st with
  | true => exact h rfl
  | false => rfl

theorem activeBefore_all (p : Nat → Nat → Nat × Flags) (n : Nat) : activeBefore (fun i => ⟨true, 0, p i⟩) n = n := by
  simp [activeBefore]

/-- Every element steps lfsr once under the stochastic mode, and where nothing steps the draw is 0. -/
theorem runElems_allActive (st : Bool) (p : Nat → Nat → Nat × Flags) (l : W32) (n : Nat) :
    runElems st ((List.range n).map fun i => ⟨true, 0, p i⟩) (if st then l else 0#32) =
      let r : Nat → Nat × Flags := fun i => p i (if st then drawOf (stepsLfsr (i + 1) l) else 0)
      ⟨(List.range n).map fun i => (r i).1, (List.range n).foldl (fun fl i => fl ||| (r i).2) 0#8, if st then n else 0⟩ := by
  rw [runElems_range]
  cases st <;> simp [elemAt, drawAt, activeBefore_all]

/-! ## `cvt` (R164, R165) -/

/-- The seven targets of a conversion fill a register. -/
theorem tagCount_eq : ∀ {t : Tag}, 1 ≤ t.toNat → t.toNat ≤ 7 → tagCount t = 2048 / elemBits t := by decide

theorem rdOld_ok {c : Ctx} {n : Nat} {vd : VReg} {reads : Prop} [Decidable reads] {d : VBits} (h : reads → c.rdV n vd = .ok d)
    (h0 : ¬reads → d = 0#2048) : c.rdOld n vd (decide reads) = .ok d := by
  by_cases hr : reads
  · simp [Ctx.rdOld, hr, h hr]
  · simp [Ctx.rdOld, hr, h0 hr]

/-- A register of which `n` elements from `off` are replaced. -/
theorem extractLsb'_replaced {w ct i : Nat} (fits : ct = 2048 / w) (hi : i < ct) (off n : Nat) (vals : List Nat) (d : VBits) :
    (ofElems w ((List.range ct).map fun i =>
      if off ≤ i ∧ i < off + n then vals.getD (i - off) 0 else (vElems w d).getD i 0)).extractLsb' (w * i) w =
      if off ≤ i ∧ i < off + n then BitVec.ofNat w (vals.getD (i - off) 0) else d.extractLsb' (w * i) w := by
  subst fits
  rw [extractLsb'_ofElems (place_le hi), getD_map_range _ hi, apply_ite (BitVec.ofNat w), vElems_getD d hi, BitVec.ofNat_toNat,
    BitVec.setWidth_eq]

section
variable {s : State} {f : Focus} (hf : s.focus = some f)
include hf

theorem execCvt_ok {vd va : VReg} {t src old : Tag} {part : BitVec 2} {env : FpEnv} {a d : VBits} {tbl : List W32} {l : W32}
    (henv : (s.ctx f.ctx).rdEnv f.ent.word = .ok env) (ha : (s.ctx f.ctx).rdV f.ent.word va = .ok a)
    (hsrc : (s.ctx f.ctx).rdVt f.ent.word va = .ok src) (hold : (s.ctx f.ctx).rdVt f.ent.word vd = .ok old)
    (hd : old = t → (s.ctx f.ctx).rdV f.ent.word vd = .ok d) (hd0 : old ≠ t → d = 0#2048)
    (htbl : (if isSX src then s.scaleFor f.ctx f.ent.word else .ok []) = .ok tbl) (ht : 1 ≤ t.toNat) (ht7 : t.toNat ≤ 7)
    (hl : (env.stoch && cvtRounds src t) = true → (s.ctx f.ctx).rdLfsr f.ent.word f.slot = .ok l) :
    let n := min (tagCount src) (tagCount t)
    let st := env.stoch && cvtRounds src t
    let so := if tagCount t < tagCount src then n * part.toNat else 0
    let dof := if tagCount t < tagCount src then 0 else n * part.toNat
    let r : Nat → Nat × Flags := fun i =>
      cvtElem src t env (if st then drawOf (stepsLfsr (i + 1) l) else 0) (regElem src tbl a.toNat (so + i))
    ∃ v : VBits, execCvt vd va t part s = issued s f ((((s.ctx f.ctx).putV f.ent.id vd v).raise f.ent.id
        ((List.range n).foldl (fun fl i => fl ||| (r i).2) 0#8)).stepped f.ent.id (if st then n else 0)) ∧
      ∀ i, i < tagCount t → v.extractLsb' (elemBits t * i) (elemBits t) =
        if dof ≤ i ∧ i < dof + n then BitVec.ofNat (elemBits t) (r (i - dof)).1 else d.extractLsb' (elemBits t * i) (elemBits t) := by
  intro n st so dof r
  have flip {x y : Nat} : (if tagCount src ≤ tagCount t then x else y) = if tagCount t < tagCount src then y else x := by
    simp only [← Nat.not_lt, ite_not]
  refine ⟨_, issueOp_ok hf ?_, fun i hi => (extractLsb'_replaced (tagCount_eq ht ht7) hi dof n ((List.range n).map fun i => (r i).1) d).trans ?_⟩
  · simp only [henv, ha, hsrc, hold, rdOld_ok hd hd0, htbl, drawsFrom_ok hl, Eff.bind_ok, flip, runElems_allActive]
    rfl
  · refine ite_congr rfl (fun h => ?_) fun _ => rfl
    rw [getD_map_range _ (show i - dof < n by omega)]

end

/-! ## A row of 128 elements (R166 to R168) -/

/-- The draws of a segment are those of lfsr where rounding is stochastic, and none elsewhere. -/
theorem sxOf_draws (t : Tag) (tbl : List W32) (k : Nat) (env : FpEnv) (xs : List XV) (l : W32) :
    sxOf t tbl k env xs (if env.rm = 4 then l else 0#32) = sxOf t tbl k env xs l := by
  by_cases h : env.rm = 4 <;> simp [sxOf, FpEnv.stoch, h]

theorem ite_stoch {α : Type} (env : FpEnv) (x y : α) : (if env.stoch then x else y) = if env.rm = 4 then x else y := by
  simp [FpEnv.stoch]

theorem drawsFrom_rm {c : Ctx} {f : Focus} {env : FpEnv} {l : W32} (hl : env.rm = 4 → c.rdLfsr f.ent.word f.slot = .ok l) :
    c.drawsFrom f env.stoch = .ok (if env.rm = 4 then l else 0#32) := by
  rw [drawsFrom_ok (st := env.stoch) fun h => hl (of_decide_eq_true h), ite_stoch]

section
variable {s : State} {f : Focus} {va : VReg} {xs : List XV} (hf : s.focus = some f) (hxs : (s.ctx f.ctx).rdSrc f.ent.word va = .ok xs)
include hf hxs

theorem execCvtAq8_row (vd : VReg) {q : AqRow} (hq : aqQuantise xs = some q) : execCvtAq8 vd va s =
    issued s f ((((s.ctx f.ctx).putV f.ent.id vd (ofBytes q.bytes)).putVt f.ent.id vd tAQ8).flagged f (flagIf q.clamped fQCL) 0) :=
  onCtx_ok hf (by simp only [hxs, Eff.bind_ok, hq])

/-- A row with an infinity or a NaN goes to BF16. -/
theorem execCvtAq8_wide (vd : VReg) (hq : aqQuantise xs = none) : execCvtAq8 vd va s =
    issued s f ((((s.ctx f.ctx).putV f.ent.id vd (bf16Row xs)).putVt f.ent.id vd tBF16).flagged f 0#8 0) :=
  onCtx_ok hf (by simp only [hxs, Eff.bind_ok, hq])

variable {env : FpEnv} {l : W32} (henv : (s.ctx f.ctx).rdEnv f.ent.word = .ok env)
  (hl : env.rm = 4 → (s.ctx f.ctx).rdLfsr f.ent.word f.slot = .ok l)
include henv hl

theorem execCvtSx_ok (vd : VReg) (fmt : BitVec 2) (k : BitVec 4) {tbl : List W32} (htbl : s.scaleFor f.ctx f.ent.word = .ok tbl) :
    let t := if fmt = 0#2 then tSX7 else if fmt = 1#2 then tSX4 else tSX2
    let q := sxOf t tbl k.toNat env xs l
    execCvtSx vd va fmt k s = issued s f (((s.ctx f.ctx).putV f.ent.id vd (ofBytes q.1)).flagged f q.2 (if env.rm = 4 then 128 else 0)) :=
  issueOp_ok hf (by simp only [henv, hxs, htbl, drawsFrom_rm hl, sxOf_draws, ite_stoch, Eff.bind_ok])

variable {src : Tag} {tol : W64} (hsrc : (s.ctx f.ctx).rdVt f.ent.word va = .ok src) (htol : (s.ctx f.ctx).rdU f.ent.word uTol = .ok tol)
include hsrc htol

theorem execCvtFit_sx (vk : BitVec 4) (cls : Bool) (k : BitVec 4) {tbl : List W32} (hsx : isSX (fitChoice cls (tol.toNat % 256)) = true)
    (htbl : s.scaleFor f.ctx f.ent.word = .ok tbl) :
    let t := fitChoice cls (tol.toNat % 256)
    let q := sxOf t tbl k.toNat env xs l
    execCvtFit vk va cls k s = issued s f (((((s.ctx f.ctx).putVt f.ent.id (vk ++ 0#1) t).putV f.ent.id (vk ++ 0#1) (ofBytes q.1)).unputV
      f.ent.id (vk ++ 1#1)).flagged f q.2 (if env.rm = 4 then 128 else 0)) :=
  issueOp_ok hf (by
    simp only [henv, hxs, hsrc, htol, hsx, htbl, drawsFrom_rm hl, sxOf_draws, ite_stoch, Eff.bind_ok, Bool.true_or, Bool.and_true, if_true])

/-- The elements of `cvt.fit` converted one at a time into `t`, where it is no SX format. -/
def fitElems (src t : Tag) (env : FpEnv) (xs : List XV) (l : W32) : ElemRes :=
  let st := env.stoch && cvtRounds src t
  runElems st (xs.map fun x => ⟨true, 0, fun d => cvtElem src t env d x⟩) (if st then l else 0#32)

theorem execCvtFit_plain (vk : BitVec 4) (cls : Bool) (k : BitVec 4) (hsx : isSX (fitChoice cls (tol.toNat % 256)) = false) :
    let t := fitChoice cls (tol.toNat % 256)
    let r := fitElems src t env xs l
    let c := (s.ctx f.ctx).putVt f.ent.id (vk ++ 0#1) t
    execCvtFit vk va cls k s = issued s f
      ((if t = tF32 then (((c.putVt f.ent.id (vk ++ 1#1) t).putV f.ent.id (vk ++ 0#1) (ofElems 32 (r.vals.take 64))).putV f.ent.id
          (vk ++ 1#1) (ofElems 32 (r.vals.drop 64)))
        else (c.putV f.ent.id (vk ++ 0#1) (ofElems (elemBits t) r.vals)).unputV f.ent.id (vk ++ 1#1)).flagged f r.flags r.steps) :=
  issueOp_ok hf (by
    have draws := drawsFrom_ok fun h : (env.stoch && cvtRounds src (fitChoice cls (tol.toNat % 256))) = true =>
      hl (of_decide_eq_true (Bool.and_eq_true_iff.1 h).1)
    simp only [henv, hxs, hsrc, htol, hsx, draws, Eff.bind_ok, Bool.false_or, Bool.false_eq_true, if_false]
    split
    · next wide => rw [wide]; rfl
    · rfl)

end

/-- Settles O45: `cvt` by its elements' places, and the conversions of a row by what each of their choices leaves. -/
theorem conversionResults : Obligations.ConversionResults := by
  unfold Obligations.ConversionResults
  refine ⟨fun s f vd va t src old part env a d tbl l hf henv ha hsrc hold hd hd0 htbl _ _ ht ht7 _ hl => ?_,
    fun s f vd va vk k fmt cls env xs src tol tbl l hf hxs => ⟨fun henv hl => ⟨fun htbl => ?_, fun hsrc htol => ?_⟩,
      fun q hq => execCvtAq8_row hf hxs vd hq, fun hq => execCvtAq8_wide hf hxs vd hq⟩⟩
  · exact execCvt_ok hf henv ha hsrc hold hd hd0 htbl ht ht7 fun h => by
      obtain ⟨h4, hr⟩ := Bool.and_eq_true_iff.1 h
      exact hl (of_decide_eq_true h4) hr
  · exact execCvtSx_ok hf hxs henv hl vd fmt k htbl
  · have plain := execCvtFit_plain hf hxs henv hl hsrc htol vk cls k
    refine ⟨fun hsx htbl => execCvtFit_sx hf hxs henv hl hsrc htol vk cls k hsx htbl, fun wide => ?_, fun hsx narrow => ?_⟩
    · exact (plain (by rw [wide]; rfl)).trans (by rw [if_pos wide]; rfl)
    · exact (plain hsx).trans (by rw [if_neg narrow]; rfl)

end Sys2Proof.Machine

end

section
/-!
PROOFS. Accesses by lane index, vector stores, and O39.
-/

namespace Sys2Proof.Machine

/-! ## Bytes and the cells they go to -/

theorem leBytes_toNat {w : Nat} (n : Nat) (x : BitVec w) :
    leBytes n x.toNat = (List.range n).map fun i => (x >>> (8 * i)).setWidth 8 := by
  refine List.map_congr_left fun i _ => BitVec.eq_of_toNat_eq ?_
  simp [Nat.shiftRight_eq_div_pow]

theorem vBytes_eq (v : VBits) : vBytes v = (List.range 256).map fun i => v.extractLsb' (8 * i) 8 := by
  simp only [vBytes, vElems, elems, List.map_map]
  refine List.map_congr_left fun i _ => BitVec.eq_of_toNat_eq ?_
  simp [Nat.shiftRight_eq_div_pow]

theorem cellsAt_map_range (a n : Nat) (g : Nat → Byte) :
    cellsAt a ((List.range n).map g) = (List.range n).map fun i => (a + i, g i) := by
  simp only [cellsAt, List.length_map, List.length_range]
  refine List.map_congr_left fun i hi => ?_
  simp [List.mem_range.1 hi]

theorem cellsAt_eq_zipIdx (a : Nat) (bs : List Byte) : cellsAt a bs = bs.zipIdx.map fun p => (a + p.2, p.1) := by
  refine List.ext_getElem (by simp [cellsAt]) fun i h _ => ?_
  have hi : i < bs.length := by simpa [cellsAt] using h
  simp [cellsAt, hi]

theorem mem_cellsAt {a : Nat} {bs : List Byte} {p : Nat × Byte} (h : p ∈ cellsAt a bs) : ∃ i, i < bs.length ∧ p.1 = a + i := by
  obtain ⟨i, hi, rfl⟩ := List.mem_map.1 h
  exact ⟨i, List.mem_range.1 hi, rfl⟩

/-! ## Active lanes and their addresses (R125) -/

/-- The active lanes, in ascending order. -/
def activeLanes (m : W64) : List Nat := (List.range 64).filter fun j => m.getLsbD j

theorem mem_activeLanes {m : W64} {j : Nat} : j ∈ activeLanes m ↔ j < 64 ∧ m.getLsbD j = true := by simp [activeLanes]

/-- Where lane `j` of an access by lane index goes. -/
def laneAddr (base : BitVec 24) (d : Int) (idx : VBits) (j : Nat) : Int := base.toNat + (lane idx j).toInt + d

theorem laneAddrs_eq (base : BitVec 24) (d : Int) (idx : VBits) (m : W64) :
    laneAddrs base d idx m = (activeLanes m).map fun j => (j, laneAddr base d idx j) := by
  rw [activeLanes, ← List.filterMap_eq_map, List.filterMap_filter]
  rfl

theorem forall_laneAddrs {base : BitVec 24} {d : Int} {idx : VBits} {m : W64} {P : Nat × Int → Prop}
    (h : ∀ j, j < 64 → m.getLsbD j = true → P (j, laneAddr base d idx j)) : ∀ l ∈ laneAddrs base d idx m, P l := by
  intro l hl
  rw [laneAddrs_eq] at hl
  obtain ⟨j, hj, rfl⟩ := List.mem_map.1 hl
  obtain ⟨h64, hset⟩ := mem_activeLanes.1 hj
  exact h j h64 hset

theorem find?_activeLanes (m : W64) {j : Nat} (hj : j < 64) :
    ((activeLanes m).find? fun i => decide (i = j)) = if m.getLsbD j then some j else none := by
  rw [activeLanes, List.find?_filter]
  cases h : m.getLsbD j
  · refine List.find?_eq_none.2 fun i _ hi => ?_
    obtain ⟨hm, rfl⟩ : m.getLsbD i = true ∧ i = j := by simpa using hi
    exact Bool.false_ne_true (h.symm.trans hm)
  · refine List.find?_range_eq_some.2 ⟨by simp [h], List.mem_range.2 hj, fun i hi => ?_⟩
    simp [hi.ne]

/-- The lane that an access by lane index finds at place `j`. -/
theorem find?_laneAddrs (base : BitVec 24) (d : Int) (idx : VBits) (m : W64) {j : Nat} (hj : j < 64) :
    ((laneAddrs base d idx m).find? fun l => decide (l.1 = j)) = if m.getLsbD j then some (j, laneAddr base d idx j) else none := by
  rw [laneAddrs_eq, List.find?_map]
  refine (congrArg (Option.map _) (find?_activeLanes m hj)).trans ?_
  split <;> rfl

theorem flatten_lanes (m : W64) (g : Nat → List Byte) :
    ((List.range 64).map fun j => if m.getLsbD j then g j else []).flatten = (activeLanes m).flatMap g := by
  rw [activeLanes]
  induction List.range 64 with
  | nil => rfl
  | cons j js ih =>
    cases h : m.getLsbD j <;> simp [h, ih]

/-! ## Checks that an access passes (R121, R128, R350) -/

theorem outside_nonneg {c : Ctx} {a : Int} {len : Nat} (h : c.outside a len = false) : 0 ≤ a := by
  by_contra neg
  simp [Ctx.outside, Int.not_le.1 neg] at h

section
variable {α : Type} {c : Ctx}

theorem checkAccess_ok {a : Int} {len algn : Nat} (ho : c.outside a len = false) (ha : a % (algn : Int) = 0) (k : Eff α) :
    checkAccess c a len algn k = k := by
  simp [checkAccess, ho, ha]

theorem checkLanes_ok {ls : List (Nat × Int)} (h : ∀ l ∈ ls, c.outside l.2 4 = false ∧ l.2 % 4 = 0) (k : Eff α) :
    checkLanes c ls k = k := by
  induction ls with
  | nil => rfl
  | cons l ls ih =>
    obtain ⟨⟨ho, ha⟩, rest⟩ := List.forall_mem_cons.1 h
    exact (checkAccess_ok ho ha _).trans (ih rest)

theorem eccLanes_ok {s : State} {k : Nat} {ls : List (Nat × Int)} (h : ∀ l ∈ ls, (s.core (ctxCore k)).eccAt l.2.toNat 4 = none)
    (go : Eff α) : s.eccLanes k ls go = go := by
  induction ls with
  | nil => rfl
  | cons l ls ih =>
    obtain ⟨first, rest⟩ := List.forall_mem_cons.1 h
    simp only [State.eccLanes, State.eccCheck, first]
    exact ih rest

/-- A store that no channel holds back and that has room in the restart buffer. -/
theorem storeSp_room {s : State} {f : Focus} {cells : List (Nat × Byte)} (hw : ∀ p ∈ cells, c.wmStall p.1 1 = false)
    (hu : c.storeUsed f.ent.word < 64) : storeSp s f c cells =
      .ok (s.setCtx f.ctx { c with gstores := c.gstores ++ [⟨f.ent.word, f.slot, cells⟩] }) := by
  have free : (cells.any fun p => c.wmStall p.1 1) = false := List.any_eq_false.2 fun p hp => by simp [hw p hp]
  simp [storeSp, free, claim_room hu]

end

/-- A byte of consecutive words that may be stored is held back by no channel. -/
theorem byte_free {s : State} {f : Focus} {a : Int} {n i : Nat} (hw : ∀ i, i < n → s.writable f (a + 4 * i) 4 4) (hi : i < 4 * n) :
    (s.ctx f.ctx).wmStall (a.toNat + i) 1 = false := by
  obtain ⟨first, -, -⟩ := hw 0 (by omega)
  obtain ⟨-, -, free⟩ := hw (i / 4) (by omega)
  have base := outside_nonneg first
  have place : (a + 4 * (i / 4 : Nat)).toNat + i % 4 = a.toNat + i := by omega
  rw [← place]
  exact free (i % 4) (Nat.mod_lt _ (by decide))

/-! ## The operations -/

theorem tagBytes_le (t : Tag) : tagBytes t ≤ 256 := by
  unfold tagBytes
  split_ifs <;> decide

theorem length_words (js : List Nat) (g : Nat → Nat → Byte) : (js.flatMap fun j => (List.range 4).map (g j)).length = 4 * js.length := by
  simp [List.length_flatMap, Nat.mul_comm]

section
variable {s : State} {f : Focus} (hf : s.focus = some f)
include hf

section
variable {aj : AReg} {vi : VReg} {b t : BitVec 24} {idx : VBits} {m : W64} (hb : (s.ctx f.ctx).rdA f.ent.word aj = .ok (b, t))
  (hi : (s.ctx f.ctx).rdV f.ent.word vi = .ok idx) (d : Option Ext)
include hb hi

theorem execLdVx_ok (vd : VReg) (i32 : Bool) {mk : BitVec 2} (hm : (s.ctx f.ctx).rdM f.ent.word (mk.setWidth 3) = .ok m)
    (hp : (s.ctx f.ctx).storesPending f.ent.word ((activeLanes m).map fun j => (laneAddr b (dispOf d) idx j, 4)) = false)
    (hr : ∀ j, j < 64 → m.getLsbD j = true → s.readable f (laneAddr b (dispOf d) idx j) 4 4) :
    execLdVx vd aj vi i32 mk d s = wroteV s f vd (ofLanes ((List.range 64).map fun j =>
      if m.getLsbD j then BitVec.ofNat 32 (leNat (s.spRead f.ctx f.ent.word (laneAddr b (dispOf d) idx j).toNat 4)) else 0#32)) := by
  have lanes : ∀ l ∈ laneAddrs b (dispOf d) idx m, s.readable f l.2 4 4 := forall_laneAddrs hr
  have free : ((laneAddrs b (dispOf d) idx m).any fun l => (s.ctx f.ctx).wmStall l.2.toNat 4) = false :=
    List.any_eq_false.2 fun l hl => by
      obtain ⟨-, -, -, stall, -⟩ := lanes l hl
      simp [stall]
  have pending : (s.ctx f.ctx).storesPending f.ent.word ((laneAddrs b (dispOf d) idx m).map fun l => (l.2, 4)) = false := by
    rw [laneAddrs_eq, List.map_map]
    exact hp
  refine issueOp_ok hf ?_
  simp only [hb, hi, hm, Eff.bind_ok]
  rw [checkLanes_ok fun l hl => ?_, free, pending, Bool.not_false, Bool.and_true, waitUnless_true, eccLanes_ok fun l hl => ?_]
  · refine congrArg (fun xs => Eff.ok (s.setCtx f.ctx ((s.ctx f.ctx).putV f.ent.id vd (ofLanes xs)))) ?_
    refine List.map_congr_left fun j hj => ?_
    rw [find?_laneAddrs _ _ _ m (List.mem_range.1 hj)]
    cases m.getLsbD j <;> rfl
  · obtain ⟨-, -, -, -, noError⟩ := lanes l hl
    exact noError
  · obtain ⟨inside, aligned, -⟩ := lanes l hl
    exact ⟨inside, aligned⟩

theorem execStVx_ok {vs : VReg} {mk : MReg} {v : VBits} (hm : (s.ctx f.ctx).rdM f.ent.word mk = .ok m)
    (hv : (s.ctx f.ctx).rdV f.ent.word vs = .ok v) (hu : (s.ctx f.ctx).storeUsed f.ent.word < 64)
    (hw : ∀ j, j < 64 → m.getLsbD j = true → s.writable f (laneAddr b (dispOf d) idx j) 4 4) :
    execStVx vs aj vi mk d s = stored s f ((activeLanes m).flatMap fun j =>
      (List.range 4).map fun i => ((laneAddr b (dispOf d) idx j).toNat + i, (lane v j >>> (8 * i)).setWidth 8)) := by
  refine issueOp_ok hf ?_
  simp only [hb, hi, hm, hv, Eff.bind_ok, leBytes_toNat, cellsAt_map_range]
  rw [checkLanes_ok (forall_laneAddrs fun j hj hset => ?_), laneAddrs_eq, List.map_map, ← List.flatMap_def, storeSp_room (fun p hp => ?_) hu]
  · rfl
  · obtain ⟨j, hj, hp⟩ := List.mem_flatMap.1 hp
    obtain ⟨i, hi, rfl⟩ := List.mem_map.1 hp
    obtain ⟨h64, hset⟩ := mem_activeLanes.1 hj
    obtain ⟨-, -, free⟩ := hw j h64 hset
    exact free i (List.mem_range.1 hi)
  · obtain ⟨inside, aligned, -⟩ := hw j hj hset
    exact ⟨inside, aligned⟩

end

section
variable {vs : VReg} {aj : AReg} {mk : MReg} {o : Off5} {a : Int} {v : VBits} {m : W64}
  (ha : (s.ctx f.ctx).ea f.ent.word aj o 16 = .ok a) (hv : (s.ctx f.ctx).rdV f.ent.word vs = .ok v)
  (hm : (s.ctx f.ctx).rdM f.ent.word mk = .ok m) (hu : (s.ctx f.ctx).storeUsed f.ent.word < 64)
include ha hv hm hu

theorem execStV_ok {tag : Tag} (ht : (s.ctx f.ctx).rdVt f.ent.word vs = .ok tag) (hw : s.writable f a (tagBytes tag) 16) :
    execStV vs aj mk o s = stored s f (((List.range (tagBytes tag)).filter fun i => m.getLsbD (i / 4)).map fun i =>
      (a.toNat + i, v.extractLsb' (8 * i) 8)) := by
  obtain ⟨ho, hal, free⟩ := hw
  refine issueOp_ok hf ?_
  simp only [ha, hv, ht, hm, Eff.bind_ok]
  rw [checkAccess_ok ho hal, vBytes_eq, ← List.map_take, List.take_range, Nat.min_eq_left (tagBytes_le tag), cellsAt_map_range,
    List.filter_map, storeSp_room (fun p hp => ?_) hu]
  · simp only [Function.comp_def, Nat.add_sub_cancel_left]
  · obtain ⟨i, hi, rfl⟩ := List.mem_map.1 hp
    exact free i (List.mem_range.1 (List.mem_of_mem_filter hi))

theorem execStVCmp_ok (hal : a % 4 = 0) (hw : ∀ i, i < (activeLanes m).length → s.writable f (a + 4 * i) 4 4) :
    execStVCmp vs aj mk o s = stored s f
      (((activeLanes m).flatMap fun j => (List.range 4).map fun i => (lane v j >>> (8 * i)).setWidth 8).zipIdx.map
        fun p => (a.toNat + p.2, p.1)) := by
  refine issueOp_ok hf ?_
  simp only [ha, hv, hm, Eff.bind_ok, flatten_lanes, leBytes_toNat, length_words, Nat.mul_div_cancel_left _ (show 0 < 4 by decide)]
  rw [checkLanes_ok fun l hl => ?_, decide_eq_false (not_not_intro hal), trapIf_false, storeSp_room (fun p hp => ?_) hu, cellsAt_eq_zipIdx]
  · obtain ⟨i, hi, hp⟩ := mem_cellsAt hp
    rw [length_words] at hi
    rw [hp]
    exact byte_free hw hi
  · obtain ⟨i, hi, rfl⟩ := List.mem_map.1 hl
    obtain ⟨inside, aligned, -⟩ := hw i (List.mem_range.1 hi)
    exact ⟨inside, aligned⟩

end
end

/-- Settles O39: each access by the lanes, bytes or words that its mask selects. -/
theorem laneIndexedAndVectorStores : Obligations.LaneIndexedAndVectorStores := by
  unfold Obligations.LaneIndexedAndVectorStores
  intro s f vd vi aj mk mk3 i32 d o b t idx v m tag a hf hb hi
  refine ⟨fun hm hp hr => ⟨_, execLdVx_ok hf hb hi d vd i32 hm hp hr, fun j hj => lane_ofLanes _ hj⟩, fun hm hv hu =>
    ⟨fun hw => execStVx_ok hf hb hi d hm hv hu hw, fun ha ht => ⟨fun hw => execStV_ok hf ha hv hm hu ht hw,
      fun hal hw => execStVCmp_ok hf ha hv hm hu hal hw⟩⟩, ?_⟩
  decide

end Sys2Proof.Machine

end

section
/-!
PROOFS. Yields and the irrevocable operations, O21 and O31.
-/

namespace Sys2Proof.Machine

/-! ## Barrier addresses -/

theorem checkBar_ok {α : Type} {s : State} {c : Ctx} {b : W64} (hr : b.toNat < 2 ^ 41) (ho : s.barOutside c b.toNat = false)
    (ha : b.toNat % 16 = 0) (k : Eff α) : checkBar s c b k = k := by
  simp only [checkBar, Nat.div_eq_of_lt hr, ho, ha, ne_eq, not_true, decide_false, trapIf_false]

theorem checkBar_range {α : Type} {b : W64} (hr : 2 ^ 41 ≤ b.toNat) (s : State) (c : Ctx) (k : Eff α) :
    checkBar s c b k = .trap 0x04 b := by
  have high : b.toNat / 2 ^ 41 ≠ 0 := by omega
  simp only [checkBar, high, ne_eq, not_false_eq_true, decide_true, trapIf_true]

/-- Settles O21: `yield.t` by whether the register's write is still an engine's to make, `yield.b` by what the checks of its
address find and then by what the context has recorded. -/
theorem yieldOperations : Obligations.YieldOperations := by
  unfold Obligations.YieldOperations
  intro s f sa hf
  rw [exec_yieldT, exec_yieldB]
  refine ⟨fun hp hw => onCtx_ok hf ?_, fun x hp hx => onCtx_ok hf ?_, fun b hb => ⟨fun hr ho ha hd => ⟨fun g hg => onCtx_ok hf ?_,
    fun hn => onCtx_ok hf ?_⟩, fun hr => onCtx_trap hf ?_⟩⟩
  · simp only [hp, hw, if_true]
  · simp [hp, hx]
  · simp only [hb, Eff.bind_ok, checkBar_ok hr ho ha, hd, Bool.not_false, waitUnless_true, hg, if_true]
  · simp only [hb, Eff.bind_ok, checkBar_ok hr ho ha, hd, Bool.not_false, waitUnless_true, hn]
  · simp only [hb, Eff.bind_ok, checkBar_range hr]

/-! ## Operations that act once their word's mark has committed -/

/-- An operand that can be read gives an operation's check no trap. -/
@[simp] theorem Eff.trapOnly_ok {α : Type} (a : α) : (Eff.ok a).trapOnly = .ok () := rfl

/-- Settles O31: each is an operation that waits for its word's mark; its operands, which can be read, give no trap. -/
theorem irrevocableOperations : Obligations.IrrevocableOperations := by
  unfold Obligations.IrrevocableOperations
  intro s f sd sa sb b tm x y z hf hx hy hz
  rw [exec_launch, exec_watch, exec_ntreq]
  refine ⟨fun hc => ⟨afterMark_passes hf hc ?_, afterMark_passes hf hc ?_, afterMark_passes hf hc rfl⟩,
    fun hc hm => ⟨afterMark_waits hf hc hm, afterMark_waits hf hc hm, afterMark_waits hf hc hm⟩, fun hc hm => ⟨?_, ?_, ?_⟩⟩
  · simp [hx, hz, needAll]
  · simp [hx, hy, needAll]
  · exact (afterMark_performs hf hc hm).trans (issueOp_ok hf (by rw [hx, hz]; rfl))
  · exact (afterMark_performs hf hc hm).trans (issueOp_ok hf (by rw [hx, hy]; rfl))
  · exact (afterMark_performs hf hc hm).trans (issueOp_ok hf rfl)

end Sys2Proof.Machine

end

section
/-!
PROOFS. Checkpoints and the return from a trap, O22 and O28.
-/

namespace Sys2Proof.Machine

/-! ## Aborting to the abort label (R109) -/

/-- The context that an abort leaves: the rollback to the last committed mark, at the abort label with no checkpoint open. -/
theorem abort_ctx {s : State} {k : Nat} {x : Checkpoint} (hx : (s.ctx k).chk = some x) : (s.abort k).ctx k =
    { ((s.ctx k).rollbackBy fun _ => false).syncTags with pc := x.label, chk := none, dspec := false } := by
  simp only [State.abort, hx, setCtx_ctx_same, State.rollbackCtxBy, setCore_ctx]
  rfl

theorem abort_focus {s : State} {k : Nat} {x : Checkpoint} (hx : (s.ctx k).chk = some x) : (s.abort k).focus = none := by
  simp only [State.abort, hx]
  rfl

theorem abort_mem (s : State) (k : Nat) : (s.abort k).mem = s.mem := by
  unfold State.abort
  split <;> rfl

/-- What stays in the slots after a rollback belongs to the last committed mark's word or to an earlier one. -/
theorem rollbackBy_queues (c : Ctx) (undo : Op → Bool) : ∀ q ∈ (c.rollbackBy undo).queues, ∀ e ∈ q.2, e.word ≤ c.lastMark := by
  intro q hq e he
  obtain ⟨r, _, rfl⟩ := List.mem_map.1 hq
  simpa using (List.mem_filter.1 he).2

section
variable {s : State} {f : Focus} (hf : s.focus = some f)
include hf

theorem exec_specAbort_eq : exec .specAbort s =
    .next (if (s.ctx f.ctx).abortReady f.slot f.ent.word then s.abort f.ctx else { s with focus := none }) := by
  simp only [exec_specAbort, execSpecAbort, hf]

theorem exec_specCommit_true {pc : PReg} (hp : (s.ctx f.ctx).rdP f.ent.word pc = .ok true) : exec (.specCommit pc) s =
    issued s f { s.ctx f.ctx with chk := (s.ctx f.ctx).chk.map fun x => { x with commit := some f.ent.word } } := by
  simp only [exec_specCommit, execSpecCommit, hf, hp, issued]

/-- A `spec.commit` that fails does what `spec.abort` does. -/
theorem exec_specCommit_false {pc : PReg} (hp : (s.ctx f.ctx).rdP f.ent.word pc = .ok false) :
    exec (.specCommit pc) s = exec .specAbort s := by
  simp only [exec_specAbort_eq hf, exec_specCommit, execSpecCommit, hf, hp]

end

/-- Settles O22: `spec` is an operation that waits for its word's mark; the two ways to fail are one abort, a rollback to
that mark. -/
theorem checkpointOperations : Obligations.CheckpointOperations := by
  unfold Obligations.CheckpointOperations
  intro s f off pc hf
  rw [exec_spec, execSpec]
  refine ⟨fun hc => afterMark_passes hf hc rfl, afterMark_waits hf, fun hc hm => (afterMark_performs hf hc hm).trans (issueOp_ok hf rfl),
    exec_specCommit_true hf, fun x hx hr => ⟨s.abort f.ctx, ?_, fun hp => ?_, abort_focus hx, ?_⟩⟩
  · rw [exec_specAbort_eq hf, if_pos hr]
  · rw [exec_specCommit_false hf hp, exec_specAbort_eq hf, if_pos hr]
  · rw [abort_ctx hx]
    exact ⟨rfl, rfl, rollbackBy_queues (s.ctx f.ctx) fun _ => false, rfl, rfl, rfl, abort_mem ..⟩

/-! ## Returning from a handler (R117) -/

/-- Taking the shadow of word `n` leaves a context's status as it was. -/
theorem foldTo_stat (c : Ctx) (n : Nat) : (c.foldTo n).stat = c.stat := by
  have flags : ∀ c : Ctx, (c.foldFstat n).stat = c.stat := fun c => by unfold Ctx.foldFstat; dsimp only; split <;> rfl
  have draws : ∀ c : Ctx, (c.foldLfsr n).stat = c.stat := fun c => by unfold Ctx.foldLfsr; dsimp only; split <;> rfl
  have pops : ∀ c : Ctx, (c.foldPops n).stat = c.stat := fun _ => rfl
  have tiles : ∀ c : Ctx, (c.foldNt n).stat = c.stat := fun _ => rfl
  unfold Ctx.foldTo
  dsimp only
  rw [tiles, pops, draws, flags]

@[simp] theorem commitTo_mem (s : State) (k n next : Nat) : (s.commitTo k n next).mem = s.mem := by
  simp [State.commitTo, State.releaseTo]
@[simp] theorem commitTo_focus (s : State) (k n next : Nat) : (s.commitTo k n next).focus = s.focus := by
  simp [State.commitTo, State.releaseTo]
@[simp] theorem commitTo_ctx_stat (s : State) (k n next : Nat) : ((s.commitTo k n next).ctx k).stat = (s.ctx k).stat := by
  simp [State.commitTo, State.releaseTo, foldTo_stat]

section
variable {s : State} {f : Focus} (hf : s.focus = some f)
include hf

theorem exec_rti_outside (nx : Bool) (ht : (s.ctx f.ctx).stat.inTrap = false) : exec (.rti nx) s = .next (s.issueTrap f 0x02 0#64) := by
  simp [exec_rti, execRti, hf, ht]

variable (nx : Bool) (ht : (s.ctx f.ctx).stat.inTrap = true)
include ht

theorem exec_rti_waits (h : (s.ctx f.ctx).allIssuedBefore f.ent.word = false ∨ (s.ctx f.ctx).othersIssued f.slot f.ent.word = false ∨
    ((s.ctx f.ctx).heldChk ≠ none ∧ ((s.ctx f.ctx).marks ≠ [] ∨ (s.ctx f.ctx).passedTo f.ent.word = false))) :
    exec (.rti nx) s = waits s := by
  obtain h | h | ⟨h, m | p⟩ := h
  · simp [exec_rti, execRti, waits, hf, ht, h]
  · simp [exec_rti, execRti, waits, hf, ht, h]
  · simp [exec_rti, execRti, waits, hf, ht, h, m]
  · simp [exec_rti, execRti, waits, hf, ht, h, p]

theorem exec_rti_returns (hi : (s.ctx f.ctx).allIssuedBefore f.ent.word = true) (ho : (s.ctx f.ctx).othersIssued f.slot f.ent.word = true)
    (h : (s.ctx f.ctx).heldChk = none ∨ ((s.ctx f.ctx).marks = [] ∧ (s.ctx f.ctx).passedTo f.ent.word = true)) :
    exec (.rti nx) s = .next ((s.retire f).returnFrom f nx) := by
  obtain h | ⟨m, p⟩ := h
  · simp [exec_rti, execRti, hf, ht, hi, ho, h]
  · simp [exec_rti, execRti, hf, ht, hi, ho, m, p]

end

/-- The return itself, where no checkpoint was put aside. -/
theorem returnFrom_plain {s : State} {f : Focus} (h : (s.ctx f.ctx).heldChk = none) (nx : Bool) : s.returnFrom f nx =
    s.setCtx f.ctx { s.ctx f.ctx with
      stat := { (s.ctx f.ctx).stat with inTrap := false }, halt := false, pc := (s.ctx f.ctx).trapPc.toNat + if nx then 32 else 0 } := by
  simp only [State.returnFrom, h]

/-- The handler of context `k` is left with word `n` as the mark at which its checkpoint opens again. -/
def State.leaveHandler (s : State) (k n pc : Nat) : State :=
  (s.setCtx k { s.ctx k with stat := { (s.ctx k).stat with inTrap := false }, halt := false }).commitTo k n pc

theorem leaveHandler_stat (s : State) (k n pc : Nat) :
    ((s.leaveHandler k n pc).ctx k).stat = { (s.ctx k).stat with inTrap := false } := by simp [State.leaveHandler]

theorem leaveHandler_mem (s : State) (k n pc : Nat) : (s.leaveHandler k n pc).mem = s.mem := by simp [State.leaveHandler]

theorem leaveHandler_focus (s : State) (k n pc : Nat) : (s.leaveHandler k n pc).focus = s.focus := by simp [State.leaveHandler]

/-- The return into the checkpoint that the handler interrupted. -/
theorem returnFrom_checkpoint {s : State} {f : Focus} {x : Checkpoint} {pc : Nat} (h : (s.ctx f.ctx).heldChk = some (x, pc)) (nx : Bool) :
    s.returnFrom f nx = (s.leaveHandler f.ctx f.ent.word pc).setCtx f.ctx { (s.leaveHandler f.ctx f.ent.word pc).ctx f.ctx with
      pc := pc, heldChk := none, chk := some ⟨f.ent.word, x.label, none⟩, dspec := true } := by
  unfold State.returnFrom
  dsimp only
  split
  · next y at_ hy =>
    cases h.symm.trans hy
    rfl
  · next hn => cases h.symm.trans hn

/-- Settles O28, by what `rti` finds: no handler, something to wait for, or a return with or without a checkpoint put aside. -/
theorem returnFromTrap : Obligations.ReturnFromTrap := by
  unfold Obligations.ReturnFromTrap
  intro s f nx hf
  obtain ⟨w, y, n, left⟩ := retire_ctx_eq s f
  obtain ⟨rest, others, _, _⟩ := sameOutside_retire s f
  have mem : (s.retire f).mem = s.mem := (congrArg State.mem rest :)
  refine ⟨fun ht hi ho hh => ?_, fun x pc ht hi ho hh hm hp => ?_, fun ht h => exec_rti_waits hf nx ht h, exec_rti_outside hf nx⟩
  · refine ⟨_, exec_rti_returns hf nx ht hi ho (.inl hh), ?_⟩
    rw [returnFrom_plain (by rw [left]; exact hh), setCtx_ctx_same, left]
    exact ⟨retire_focus s f, rfl, rfl, rfl, rfl, rfl, rfl, rfl, mem, fun j hj => (setCtx_ctx_ne _ _ _ _ hj).trans (others j hj)⟩
  · refine ⟨_, exec_rti_returns hf nx ht hi ho (.inr ⟨hm, hp⟩), ?_⟩
    rw [returnFrom_checkpoint (by rw [left]; exact hh), setCtx_ctx_same]
    exact ⟨by rw [setCtx_focus, leaveHandler_focus, retire_focus], by rw [leaveHandler_stat], rfl, rfl, rfl,
      by rw [setCtx_mem, leaveHandler_mem, mem]⟩

end Sys2Proof.Machine

end

section
/-!
PROOFS. The scheduler: step graphs, demands, and the dispatch queues.
-/

namespace Sys2Proof.Machine

/-! ## Acceptance of a step graph (R225) -/

/-- The records of an accepted step graph as the scheduler keeps them, under the next numbers. -/
def State.newRecs (s : State) (va : Nat) (xs : List (List Byte × Checked)) : AMap LRec :=
  (List.range xs.length).filterMap fun i => (xs[i]?).map fun (x : List Byte × Checked) => (s.nextRec + i, s.makeRec va i x.1 x.2)

theorem mem_newRecs (s : State) (va : Nat) {xs : List (List Byte × Checked)} {j : Nat} {bs : List Byte} {x : Checked}
    (h : xs[j]? = some (bs, x)) : (s.nextRec + j, s.makeRec va j bs x) ∈ s.newRecs va xs := by
  have inside : j < xs.length := (List.getElem?_eq_some_iff.1 h).1
  exact List.mem_filterMap.2 ⟨j, List.mem_range.2 inside, by rw [h, Option.map_some]⟩

theorem count_inRange {n : Int} (h0 : 0 < n) (h1 : n ≤ 4096) : n ≠ 0 ∧ ¬ (n < 0 ∨ 4096 < n) := by omega

section
variable {s : State} (ext : ExtBytes) (cl : Nat) (by_ : Submitter) {va : Nat} {n : Int}

theorem acceptGraph_empty (va : Nat) (hn : n = 0) : s.acceptGraph ext cl by_ va n = (s, 0) := by
  simp only [State.acceptGraph, if_pos hn]

theorem acceptGraph_count (va : Nat) (hn : n < 0 ∨ 4096 < n) : s.acceptGraph ext cl by_ va n = (s, 2 ^ 63 + 0x02 * 2 ^ 16 + 0xFFFF) := by
  have nonzero : n ≠ 0 := by omega
  simp only [State.acceptGraph, if_neg nonzero, if_pos hn, refuseTok]

section
variable (h0 : 0 < n) (h1 : n ≤ 4096)
include h0 h1

theorem acceptGraph_unaligned (ha : va % 128 ≠ 0) : s.acceptGraph ext cl by_ va n = (s, 2 ^ 63 + 0x02 * 2 ^ 16) := by
  obtain ⟨nonzero, few⟩ := count_inRange h0 h1
  simp only [State.acceptGraph, if_neg nonzero, if_neg few, if_pos ha, refuseTok, Nat.add_zero]

variable (ha : va % 128 = 0) {recs : RecBytes} (hr : s.readRecs ext by_.vf va n.toNat = recs) {t : State}
include ha hr

/-- A record fails: none of the graph is accepted, and the demand graphs loaded for it go. -/
theorem acceptGraph_refused {r i : Nat} (hc : s.checkAll ext cl by_ recs 0 recs = (t, .error (r, i))) :
    s.acceptGraph ext cl by_ va n = ({ t with graphs := t.graphs.filter fun g => decide (g.graph ≠ t.nextGraph) },
      2 ^ 63 + r * 2 ^ 16 + i) := by
  obtain ⟨nonzero, few⟩ := count_inRange h0 h1
  simp only [State.acceptGraph, if_neg nonzero, if_neg few, if_neg (not_not.2 ha), hr, hc, refuseTok]

/-- Every record passes: each joins the scheduler's. -/
theorem acceptGraph_accepted {xs : List (List Byte × Checked)} (hc : s.checkAll ext cl by_ recs 0 recs = (t, .ok xs)) :
    s.acceptGraph ext cl by_ va n =
      ({ t with recs := t.recs ++ t.newRecs va xs, nextRec := t.nextRec + xs.length, nextGraph := t.nextGraph + 1 }, 0) := by
  obtain ⟨nonzero, few⟩ := count_inRange h0 h1
  simp only [State.acceptGraph, if_neg nonzero, if_neg few, if_neg (not_not.2 ha), hr, hc]
  rfl

end
end

/-- A `launch` has its token. -/
def State.answerLaunch (s : State) (g : GraphReq) (v : Nat) : State :=
  s.setCtx g.ctx (((s.ctx g.ctx).putTok g.op (BitVec.ofNat 64 v)).dropOp g.op)

/-- The oldest submitted graph leaves the queue, and its `launch` is answered as acceptance finds. -/
theorem stepGraphAccept_answers {s : State} {cl : Nat} {ext : ExtBytes} {g : GraphReq} {rest : List GraphReq}
    (hq : (s.cluster cl).graphs = g :: rest)
    (awake : ∀ a ∈ s.vaPas g.vf g.addr (128 * (min 4096 (signed 64 g.n)).toNat), s.dieAwake (dieOfPa a) = true) {t : State} {v : Nat}
    (h : (s.setCluster cl { s.cluster cl with graphs := rest }).acceptGraph ext cl ⟨g.vf, g.priv, g.lcap⟩ g.addr (signed 64 g.n) = (t, v)) :
    exec (.stepGraphAccept cl ext) s = .next (t.answerLaunch g v) := by
  simp only [exec_stepGraphAccept, execStepGraphAccept, hq, whenAwake_awake awake, h]
  rfl

/-! ## Demands (R265, R267) -/

section
variable {s : State} (cl : Nat) (ext : ExtBytes) {d : DemReq}

theorem serveDemand_released (hg : s.graphOf d.record = none) : s.serveDemand cl ext d = some (s.endDemand cl d 0x02 0 0) := by
  simp only [State.serveDemand, hg]

variable {g : DGraph} {n : DNode} (hg : s.graphOf d.record = some g) (hn : g.nodes[d.node]? = some n)
include hg hn

theorem serveDemand_met {x : Nat} (hd : n.d = some x) (hx : d.grade ≤ x) : s.serveDemand cl ext d = some (s.endDemand cl d 0x03 0 x) := by
  simp [State.serveDemand, hg, hn, hd, hx]

/-- A demand tighter than the node's is shared backward through the graph. -/
theorem serveDemand_shared (hr : d.redem = false) (hd : ∀ x, n.d = some x → x < d.grade) : s.serveDemand cl ext d =
    some ((s.setNodes g (walkDemand (g.nodes.length + 1) (g.nodes, []) d.node d.grade).1).endDemand cl d 0 0 d.grade) := by
  have tighter : n.d.any (fun x => decide (d.grade ≤ x)) = false := by simpa [Option.any_eq_false] using hd
  simp [State.serveDemand, hg, hn, hr, tighter]

end

section
variable {s : State} {cl : Nat} (ext : ExtBytes)

theorem toleranceDemandServe_none (h : ((s.takeDemands cl).cluster cl).demq = []) :
    exec (.toleranceDemandServe cl ext) s = .next (s.takeDemands cl) := by
  have nothing : ∀ a ∈ (s.takeDemands cl).gradePas cl, (s.takeDemands cl).dieAwake (dieOfPa a) = true := by simp [State.gradePas, h]
  simp only [exec_toleranceDemandServe, execToleranceDemandServe, whenAwake_awake nothing, h, State.serveFirst]

/-- The head of an engine's queue waits for no other demand. -/
theorem toleranceDemandServe_head {d : DemReq} {rest : List DemReq} (h : ((s.takeDemands cl).cluster cl).demq = d :: rest)
    (awake : ∀ a ∈ (s.takeDemands cl).gradePas cl, (s.takeDemands cl).dieAwake (dieOfPa a) = true) {t : State}
    (ht : (s.takeDemands cl).serveDemand cl ext d = some t) : exec (.toleranceDemandServe cl ext) s = .next t := by
  simp [exec_toleranceDemandServe, execToleranceDemandServe, whenAwake_awake awake, h, State.serveFirst, ht]

end

/-! ## Binding (R231) -/

section
variable {s : State} {core : Nat}

theorem taskBind_empty (h : (s.schedule.core core).dq = []) : exec (.taskBind core) s = .next s.schedule := by
  simp only [exec_taskBind, execTaskBind, h]

section
variable {t : Task} {rest : List Task} {r : LRec} (hq : (s.schedule.core core).dq = t :: rest)
  (hr : s.schedule.recs.find? t.record = some r)
include hq hr

theorem taskBind_waits (h : s.schedule.coreRuns core = false ∨ s.schedule.couldBind core none t = false ∨
    s.schedule.reloadsDue core ≠ [] ∨ s.schedule.freeSlot core = none) : exec (.taskBind core) s = .next s.schedule := by
  cases hk : s.schedule.freeSlot core with
  | none => simp only [exec_taskBind, execTaskBind, hq, hr, hk]
  | some k =>
    obtain h | h | h | h := h
    · simp [exec_taskBind, execTaskBind, hq, hr, hk, h]
    · simp [exec_taskBind, execTaskBind, hq, hr, hk, h]
    · simp [exec_taskBind, execTaskBind, hq, hr, hk, h]
    · cases hk.symm.trans h

theorem taskBind_binds {k : Nat} {u : Nat × Nat × Nat} (hc : s.schedule.coreRuns core = true) (hd : s.schedule.reloadsDue core = [])
    (hb : s.schedule.couldBind core none t = true) (hk : s.schedule.freeSlot core = some k)
    (hu : r.units (s.schedule.unitsUsed core none) = some u) : exec (.taskBind core) s = .next (s.schedule.bindTo core k t r u) := by
  simp [exec_taskBind, execTaskBind, hq, hr, hk, hc, hd, hb, hu]

end

/-- A task that takes its tile from its place in the grid binds, and the core's other contexts and memory stay as they were. -/
theorem bindTo_plain {k : Nat} {t : Task} {r : LRec} {u : Nat × Nat × Nat} (hf : bitAt r.flags 1 = false) (hp : r.pipe = none) :
    (s.bindTo core k t r u).ctx k = (s.ctx k).bound t.record t.tile (t.tol.getD (s.bindTol r)) r u ∧
    ((s.bindTo core k t r u).core core).dq = (s.core core).dq.drop 1 ∧ (∀ j, j ≠ k → (s.bindTo core k t r u).ctx j = s.ctx j) ∧
    (s.bindTo core k t r u).mem = s.mem := by
  have plain : ∀ x : State, x.recs.find? t.record = some r → x.openRing core t.record = x := fun x hx => by
    simp only [State.openRing, hx, hp]
  have bound : s.bindTo core k t r u = (({ s with recs := AMap.set s.recs t.record r } : State).setCore core
      { s.core core with dq := (s.core core).dq.drop 1 }).setCtx k ((s.ctx k).bound t.record t.tile (t.tol.getD (s.bindTol r)) r u) := by
    simp only [State.bindTo, hf, Bool.false_eq_true, if_false, false_and]
    exact plain _ (AMap.find?_set_same ..)
  rw [bound]
  exact ⟨setCtx_ctx_same .., by rw [setCtx_core, setCore_core_same], fun j hj => setCtx_ctx_ne _ _ _ _ hj, rfl⟩

/-! ## Aging (R227) -/

theorem ageDue_eq_false {t : Task} (h : t.aged = true ∨ s.now < t.since + 2 ^ 20) : s.ageDue t = false := by
  obtain h | h := h
  · simp only [State.ageDue, h, Bool.not_true, Bool.false_and]
  · simp only [State.ageDue, Nat.not_le.2 h, decide_false, Bool.and_false]

theorem taskAging_none (h : ∀ t ∈ (s.core core).dq, t.aged = true ∨ s.now < t.since + 2 ^ 20) :
    exec (.taskAging core) s = .next s := by
  have young : (s.core core).dq.filter s.ageDue = [] := List.filter_eq_nil_iff.2 fun t ht => by simp [ageDue_eq_false (h t ht)]
  simp only [exec_taskAging, execTaskAging, young]
  rfl

/-- The head alone has waited long: it joins the others as a task of class 0. -/
theorem taskAging_head {t : Task} {rest : List Task} (hq : (s.core core).dq = t :: rest) (ha : t.aged = false)
    (ht : t.since + 2 ^ 20 ≤ s.now) (hr : ∀ x ∈ rest, x.aged = true ∨ s.now < x.since + 2 ^ 20) : exec (.taskAging core) s =
    .next (s.setCore core { s.core core with dq := s.enqueue { t with aged := true } rest }) := by
  have old : s.ageDue t = true := by simp only [State.ageDue, ha, ht, Bool.not_false, decide_true, Bool.and_self]
  have young : rest.filter s.ageDue = [] := List.filter_eq_nil_iff.2 fun x hx => by simp [ageDue_eq_false (hr x hx)]
  have kept : rest.filter (fun x => !s.ageDue x) = rest := List.filter_eq_self.2 fun x hx => by simp [ageDue_eq_false (hr x hx)]
  simp [exec_taskAging, execTaskAging, hq, old, young, kept]

/-! ## Reloads (R236) -/

theorem reload_none (h : s.coreRuns core = false ∨ s.reloadsDue core = [] ∨ s.freeSlot core = none) :
    exec (.reload core) s = .next s := by
  cases hk : s.freeSlot core with
  | none => simp only [exec_reload, execReload, hk]
  | some k =>
    obtain h | h | h := h
    · simp [exec_reload, execReload, hk, h]
    · simp [exec_reload, execReload, hk, h]
    · cases hk.symm.trans h

section
variable {k : Nat} (hk : s.freeSlot core = some k)
include hk

theorem reload_unsettled (h : (s.ctx k).settled = false) : exec (.reload core) s = .next s := by
  simp [exec_reload, execReload, hk, h]

theorem reload_noUnits (h : ∀ b ∈ s.reloadsDue core, s.reloadTo b k = none) : exec (.reload core) s = .next s := by
  have nobody : (s.reloadsDue core).findSome? (fun b => s.reloadTo b k) = none := List.findSome?_eq_none_iff.2 h
  simp [exec_reload, execReload, hk, nobody]

/-- The first task whose units are free is reloaded. -/
theorem reload_first {b : Nat} {t : State} {older younger : List Nat} (hd : s.reloadsDue core = older ++ b :: younger)
    (hc : s.coreRuns core = true) (hs : (s.ctx k).settled = true) (ho : ∀ x ∈ older, s.reloadTo x k = none)
    (ht : s.reloadTo b k = some t) : exec (.reload core) s = .next t := by
  have first : (s.reloadsDue core).findSome? (fun b => s.reloadTo b k) = some t := by
    rw [hd, List.findSome?_append, List.findSome?_eq_none_iff.2 ho, Option.none_or, List.findSome?_cons_of_isSome (by simp [ht]), ht]
  simp [exec_reload, execReload, hk, hc, hs, first]

end
end

/-! ## Swap-out (R235) -/

section
variable {s : State} {k : Nat}

theorem swapOut_none (h : s.maySpill k = false ∨ isControl (ctxCore k) = true ∨ isSpilled k = true ∨ s.saveSlot (ctxCore k) = none ∨
    ((s.ctx k).spillDue ≠ some (s.ctx k).word ∧ s.now ≤ (s.ctx k).yieldCyc + (s.core (ctxCore k)).swapthr)) :
    exec (.swapOut k) s = .next s := by
  obtain h | h | h | h | ⟨hd, hw⟩ := h
  · simp [exec_swapOut, execSwapOut, h]
  · simp [exec_swapOut, execSwapOut, h]
  · simp [exec_swapOut, execSwapOut, h]
  · simp [exec_swapOut, execSwapOut, h]
  · have content : s.wantsSpill k = false := by simp only [State.wantsSpill, Nat.not_lt.2 hw, decide_false, Bool.false_and]
    simp [exec_swapOut, execSwapOut, hd, content]

section
variable {b : Nat} (hs : isSpilled k = false) (hc : isControl (ctxCore k) = false) (hm : s.maySpill k = true)
  (hb : s.saveSlot (ctxCore k) = some b)
include hs hc hm hb

/-- A context that follows another is spilled for that reason alone. -/
theorem swapOut_follows (hd : (s.ctx k).spillDue = some (s.ctx k).word) : exec (.swapOut k) s = .next (s.spill k) := by
  simp [exec_swapOut, execSwapOut, hs, hc, hm, hb, hd]

/-- A context that waits at no barrier is spilled alone. -/
theorem swapOut_alone (hw : s.wantsSpill k = true) (ha : (s.ctx k).waitsAt = none) : exec (.swapOut k) s = .next (s.spill k) := by
  simp [exec_swapOut, execSwapOut, hs, hc, hm, hb, hw, ha]

end

theorem wantsSpill_of_task (ht : (s.ctx k).yieldCyc + (s.core (ctxCore k)).swapthr < s.now)
    (h : ∃ t ∈ (s.core (ctxCore k)).dq, s.couldBind (ctxCore k) (some k) t = true) : s.wantsSpill k = true := by
  simp only [State.wantsSpill, ht, decide_true, Bool.true_and, List.any_eq_true]
  exact h

end

end Sys2Proof.Machine

end

section
/-!
PROOFS. The scheduler: completion, and a pipeline's loader and storer.
-/

namespace Sys2Proof.Machine

/-! ## Translation does not read the scheduler's records -/

theorem walkFrom_recs (s : State) (rs : AMap LRec) (asid va fuel l frame : Nat) :
    ({ s with recs := rs } : State).walkFrom asid va fuel l frame = s.walkFrom asid va fuel l frame := by
  induction fuel generalizing l frame with
  | zero => rfl
  | succ fuel ih =>
    have entry : ∀ l a, ({ s with recs := rs } : State).pteAt l a = s.pteAt l a := fun _ _ => rfl
    have leaf : ∀ e, ({ s with recs := rs } : State).leafOf asid va l e = s.leafOf asid va l e := fun _ => rfl
    simp only [State.walkFrom, entry, leaf, ih]

theorem xlate_recs (s : State) (rs : AMap LRec) (vf va : Nat) (a : Acc) :
    ({ s with recs := rs } : State).xlate vf va a = s.xlate vf va a := by
  have walk : ({ s with recs := rs } : State).walk vf va = s.walk vf va := by
    have func : ({ s with recs := rs } : State).func vf = s.func vf := rfl
    simp only [State.walk, walkFrom_recs, func]
  have place : ∀ e, ({ s with recs := rs } : State).place e va = s.place e va := fun _ => rfl
  simp only [State.xlate, walk, place]

/-! ## Completion (R228) -/

section
variable {s : State} {key : Nat}

theorem noRecord (ext : ExtBytes) (h : s.recs.find? key = none) : exec (.recordCompletion key) s = .next s ∧
    exec (.loaderTile key ext) s = .next s ∧ exec (.storerWriteback key) s = .next s ∧ exec (.pipelinePreempt key) s = .next s := by
  simp only [exec_recordCompletion, execRecordCompletion, exec_loaderTile, execLoaderTile, exec_storerWriteback, execStorerWriteback,
    exec_pipelinePreempt, execPipelinePreempt, h, and_self]

section
variable {r : LRec} (hr : s.recs.find? key = some r)
include hr

theorem noPipe (ext : ExtBytes) (h : r.pipe = none) : exec (.loaderTile key ext) s = .next s ∧
    exec (.storerWriteback key) s = .next s ∧ exec (.pipelinePreempt key) s = .next s := by
  simp only [exec_loaderTile, execLoaderTile, exec_storerWriteback, execStorerWriteback, exec_pipelinePreempt, execPipelinePreempt, hr, h,
    and_self]

theorem recordCompletion_done (h : r.done = true) : exec (.recordCompletion key) s = .next (s.releaseGraph r.graph) := by
  simp [exec_recordCompletion, execRecordCompletion, hr, h]

theorem recordCompletion_running (hd : r.done = false) (h : r.completing = true ∨ r.ended s = false) :
    exec (.recordCompletion key) s = .next s := by
  obtain h | h := h <;> simp [exec_recordCompletion, execRecordCompletion, hr, hd, h]

theorem recordCompletion_writes (hd : r.done = false) (hc : r.completing = false) (he : r.ended s = true) (hp : r.pipe = none)
    (hn : r.redem = none) (awake : ∀ a ∈ s.walkPas r.vf r.compl, s.dieAwake (dieOfPa a) = true) :
    exec (.recordCompletion key) s = .next (s.writeCompletion key r) := by
  simp [exec_recordCompletion, execRecordCompletion, hr, hd, hc, he, whenAwake_awake awake, hp, State.settleRedem, hn]

end

/-- The completion doubleword goes to its home as a masked write under the scheduler's engine number. -/
theorem writeCompletion_ok {r : LRec} {home pa : Nat} (h : s.xlate r.vf r.compl .wr = .ok (home, pa)) : s.writeCompletion key r =
    ({ s with recs := AMap.set s.recs key { r with completing := true } } : State).emit (.compl key) home
      (engSched ((nthSet 32 r.place 0).getD 0)) r.vf opWRM (pa / 128 * 128) []
      (wrmData (pa % 128) (leBytes 8 (2 ^ 63 + r.failed % 2 ^ 32)) fun _ => false) := by
  simp only [State.writeCompletion, State.writeVa, xlate_recs, h]
  rfl

end

/-! ## The loader (R335) -/

theorem awake_flatten {s : State} {α : Type} {ps : List α} {pas : α → List Nat}
    (h : ∀ x ∈ ps, ∀ a ∈ pas x, s.dieAwake (dieOfPa a) = true) : ∀ a ∈ (ps.map pas).flatten, s.dieAwake (dieOfPa a) = true := by
  intro a ha
  obtain ⟨_, hl, ha⟩ := List.mem_flatten.1 ha
  obtain ⟨x, hx, rfl⟩ := List.mem_map.1 hl
  exact h x hx a ha

/-- Whether the loader may copy this tile: it holds the permit of its buffer, and the transfer is not held. -/
def Pipe.loadable (p : Pipe) (x : Nat × Nat) : Bool := p.permits.elem (x.1, x.2 % p.nbuf) && !p.held.elem (x.2, false)

theorem loadable_eq_false {p : Pipe} {x : Nat × Nat} (h : p.permits.elem (x.1, x.2 % p.nbuf) = false ∨ p.held.elem (x.2, false) = true) :
    p.loadable x = false := by
  obtain h | h := h <;> simp only [Pipe.loadable, h, Bool.false_and, Bool.not_true, Bool.and_false]

theorem find?_loadable {p : Pipe} {core tile : Nat} {rest : List (Nat × Nat)} (hl : p.loads = (core, tile) :: rest)
    (hm : p.permits.elem (core, tile % p.nbuf) = true) (hh : p.held.elem (tile, false) = false) :
    p.loads.find? p.loadable = some (core, tile) := by
  rw [hl, List.find?_cons_of_pos]
  simp only [Pipe.loadable, hm, hh, Bool.not_false, Bool.and_self]

section
variable {s : State} {key : Nat} {r : LRec} {p : Pipe} (ext : ExtBytes) (hr : s.recs.find? key = some r) (hp : r.pipe = some p)
include hr hp

theorem loaderTile_idle (h : p.loads.find? p.loadable = none) : exec (.loaderTile key ext) s = .next s := by
  unfold Pipe.loadable at h
  simp only [exec_loaderTile, execLoaderTile, hr, hp, h]

section
variable {core tile : Nat} (hl : p.loads.find? p.loadable = some (core, tile))
include hl

theorem loaderTile_taken (ht : (p.parts r.splo p.lrec tile).any (s.lineTaken r) = true) : exec (.loaderTile key ext) s = .next s := by
  unfold Pipe.loadable at hl
  simp only [exec_loaderTile, execLoaderTile, hr, hp, hl, ht, or_true, if_true]

variable (hs : s.resetting r.vf = false) (ht : (p.parts r.splo p.lrec tile).any (s.lineTaken r) = false)
  (awake : ∀ x ∈ p.parts r.splo p.lrec tile, ∀ a ∈ s.vaPas r.vf x.va x.len, s.dieAwake (dieOfPa a) = true)
include hs ht awake

theorem loaderTile_faults {cause val : Nat} (h : s.partFault ext r.vf core .rd (p.parts r.splo p.lrec tile) = some (cause, val)) :
    exec (.loaderTile key ext) s = .next (s.holdPipe key r p tile false cause val) := by
  unfold Pipe.loadable at hl
  simp only [exec_loaderTile, execLoaderTile, hr, hp, hl, hs, ht, Bool.false_eq_true, or_self, if_false, whenAwake_awake (awake_flatten awake),
    h]

theorem loaderTile_fills (h : s.partFault ext r.vf core .rd (p.parts r.splo p.lrec tile) = none) : exec (.loaderTile key ext) s =
    .next ((s.fillBuffer ext key r p core tile).touch (s.partLines r.vf (p.parts r.splo p.lrec tile))) := by
  unfold Pipe.loadable at hl
  simp only [exec_loaderTile, execLoaderTile, hr, hp, hl, hs, ht, Bool.false_eq_true, or_self, if_false, whenAwake_awake (awake_flatten awake),
    h]

end
end

/-! ## The storer (R335) -/

/-- Whether a tile that is being written back has arrived: its transfer is not held, and none of its requests is out. -/
def State.landed (s : State) (key : Nat) (p : Pipe) (x : Nat × Nat) : Bool :=
  !p.held.elem (x.2, true) && !(s.reqs.any fun q => decide (q.owner = .pipe key x.2))

/-- Whether the storer may copy out the tile of a full buffer: it is computed, and its transfer is not held. -/
def State.storable (s : State) (p : Pipe) (f : Nat × Nat × Nat) : Bool := s.computed p f && !p.held.elem (f.2.1, true)

theorem find?_landed {s : State} {key : Nat} {p : Pipe} {x : Nat × Nat} {rest : List (Nat × Nat)} (hw : p.writing = x :: rest)
    (hh : p.held.elem (x.2, true) = false) (hq : ∀ q ∈ s.reqs, q.owner ≠ .pipe key x.2) : p.writing.find? (s.landed key p) = some x := by
  have arrived : s.reqs.any (fun q => decide (q.owner = .pipe key x.2)) = false := by simpa using hq
  rw [hw, List.find?_cons_of_pos]
  simp only [State.landed, hh, arrived, Bool.not_false, Bool.and_self]

theorem storable_eq_false {s : State} {p : Pipe} {f : Nat × Nat × Nat} (h : s.computed p f = false ∨ p.held.elem (f.2.1, true) = true) :
    s.storable p f = false := by
  obtain h | h := h <;> simp only [State.storable, h, Bool.false_and, Bool.not_true, Bool.and_false]

theorem find?_storable {s : State} {p : Pipe} {f : Nat × Nat × Nat} {rest : List (Nat × Nat × Nat)} (hl : p.full = f :: rest)
    (hc : s.computed p f = true) (hh : p.held.elem (f.2.1, true) = false) : p.full.find? (s.storable p) = some f := by
  rw [hl, List.find?_cons_of_pos]
  simp only [State.storable, hc, hh, Bool.not_false, Bool.and_self]

section
variable {s : State} {key : Nat} {r : LRec} {p : Pipe} (hr : s.recs.find? key = some r) (hp : r.pipe = some p)
include hr hp

/-- A tile whose landing no barrier is told of: its buffer's permit goes to the loader. -/
theorem storerWriteback_returns {x : Nat × Nat} (hw : p.writing.find? (s.landed key p) = some x) (hb : p.srec.barV = false) :
    exec (.storerWriteback key) s = .next { s with recs := AMap.set s.recs key { r with pipe := some { p with
      writing := p.writing.erase x, permits := p.permits ++ [(x.1, x.2 % p.nbuf)] } } } := by
  unfold State.landed at hw
  simp only [exec_storerWriteback, execStorerWriteback, hr, hp, hw, hb, Bool.false_eq_true, if_false]

section
variable (hw : p.writing = [])
include hw

theorem storerWriteback_idle (h : p.full.find? (s.storable p) = none) : exec (.storerWriteback key) s = .next s := by
  unfold State.storable at h
  simp only [exec_storerWriteback, execStorerWriteback, hr, hp, hw, List.find?_nil, h]

variable {f : Nat × Nat × Nat} (hf : p.full.find? (s.storable p) = some f) (hs : s.resetting r.vf = false)
  (awake : ∀ x ∈ p.parts r.splo p.srec f.2.1, ∀ a ∈ s.walkPas r.vf x.va, s.dieAwake (dieOfPa a) = true)
include hf hs awake

theorem storerWriteback_faults {cause val : Nat} (h : s.partFault [] r.vf f.1 .wr (p.parts r.splo p.srec f.2.1) = some (cause, val)) :
    exec (.storerWriteback key) s = .next (s.holdPipe key r p f.2.1 true cause val) := by
  unfold State.storable at hf
  simp only [exec_storerWriteback, execStorerWriteback, hr, hp, hw, List.find?_nil, hf, hs, Bool.false_eq_true, if_false,
    whenAwake_awake (awake_flatten awake), h]

theorem storerWriteback_copies (h : s.partFault [] r.vf f.1 .wr (p.parts r.splo p.srec f.2.1) = none) : exec (.storerWriteback key) s =
    .next ((p.parts r.splo p.srec f.2.1).foldl (fun s x => s.emitBack key r p f.1 f.2.1 x)
      { s with recs := AMap.set s.recs key { r with pipe := some { p with full := p.full.erase f, writing := [(f.1, f.2.1)] } } }) := by
  unfold State.storable at hf
  simp only [exec_storerWriteback, execStorerWriteback, hr, hp, hw, List.find?_nil, hf, hs, Bool.false_eq_true, if_false,
    whenAwake_awake (awake_flatten awake), h, List.nil_append]

end

/-! ## Pre-emption (R239) -/

theorem pipelinePreempt_goesOn (hs : p.stop = 0)
    (h : r.queued = false ∨ r.completing = true ∨ r.done = true ∨ s.class0Waits key p = false) : exec (.pipelinePreempt key) s = .next s := by
  obtain h | h | h | h := h <;> simp [exec_pipelinePreempt, execPipelinePreempt, hr, hp, hs, h]

theorem pipelinePreempt_stops (hs : p.stop = 0) (hq : r.queued = true) (hc : r.completing = false) (hd : r.done = false)
    (hw : s.class0Waits key p = true) : exec (.pipelinePreempt key) s = .next (s.stopPipe key r p) := by
  simp [exec_pipelinePreempt, execPipelinePreempt, hr, hp, hs, hq, hc, hd, hw]

/-- A stopped pipeline with nothing left in its buffers starts afresh. -/
theorem pipelinePreempt_restarts (hs : p.stop ≠ 0) (hl : r.live = 0) (hw : p.writing = []) (hf : ∀ f ∈ p.full, s.computed p f = false) :
    exec (.pipelinePreempt key) s = .next { s with recs := AMap.set s.recs key { r with readyAt := s.now, pipe := some { p with
      stop := 0, loads := [], full := [], held := [], permits := p.ring } } } := by
  have uncomputed : p.full.any (fun f => s.computed p f) = false := by simpa using hf
  simp [exec_pipelinePreempt, execPipelinePreempt, hr, hp, hs, hl, hw, uncomputed]

end

end Sys2Proof.Machine

end

section
/-!
PROOFS. The events of the scheduler, O57.
-/

namespace Sys2Proof.Machine

/-- Settles O57: a submitted graph, a demand, a core's dispatch queue, a waiting context, and a record with its pipeline, each by
what its unit finds at the head of its queue. -/
theorem schedulerEvents : Obligations.SchedulerEvents := by
  unfold Obligations.SchedulerEvents
  refine ⟨fun s cl e => ⟨fun hq => ?_, fun g rest hq awake => ?_, ?_⟩,
    fun s core => ?_, fun s k => ?_, fun s key e => ?_⟩
  · simp only [exec_stepGraphAccept, execStepGraphAccept, hq]
  · refine ⟨fun hn => ?_, fun hn => ?_, fun h0 h1 ha => ?_, fun recs h0 h1 ha hr => ⟨fun t r i hc => ?_, fun t xs hc => ?_⟩⟩
    · exact stepGraphAccept_answers hq awake (acceptGraph_empty e cl _ _ hn)
    · exact stepGraphAccept_answers hq awake (acceptGraph_count e cl _ _ hn)
    · exact stepGraphAccept_answers hq awake (acceptGraph_unaligned e cl _ h0 h1 ha)
    · exact stepGraphAccept_answers hq awake (acceptGraph_refused e cl ⟨g.vf, g.priv, g.lcap⟩ h0 h1 ha hr hc)
    · have accepted := acceptGraph_accepted e cl ⟨g.vf, g.priv, g.lcap⟩ h0 h1 ha hr hc
      exact ⟨t.newRecs g.addr xs, stepGraphAccept_answers hq awake accepted, fun j bs x hj => mem_newRecs t g.addr hj⟩
  · refine ⟨toleranceDemandServe_none e, fun d rest hq awake => ⟨fun hg => ?_, fun g n x hg hn hd hx => ?_, fun g n hg hn hr hd => ?_⟩⟩
    · exact toleranceDemandServe_head e hq awake (serveDemand_released cl e hg)
    · exact toleranceDemandServe_head e hq awake (serveDemand_met cl e hg hn hd hx)
    · exact toleranceDemandServe_head e hq awake (serveDemand_shared cl e hg hn hr hd)
  · refine ⟨⟨taskBind_empty, fun t rest r hq hr => ⟨taskBind_waits hq hr, fun k u hc hd hb hk hu hf hp => ?_⟩⟩,
      taskAging_none, fun t rest hq ha ht hr => taskAging_head hq ha ht hr, reload_none, fun k hk => ⟨reload_unsettled hk,
        reload_noUnits hk, fun b t older younger hd hc hs ho ht => reload_first hk hd hc hs ho ht⟩⟩
    obtain ⟨ctx, dq, others, mem⟩ := bindTo_plain (s := s.schedule) (core := core) (k := k) (t := t) (u := u) hf hp
    exact ⟨_, taskBind_binds hq hr hc hd hb hk hu, ctx, dq.trans (by rw [hq]; rfl), others, mem⟩
  · exact ⟨swapOut_none, fun b hs hc hm hb hd => swapOut_follows hs hc hm hb hd,
      fun b hs hc hm hw ht hb ha => swapOut_alone hs hc hm hb (wantsSpill_of_task hw ht) ha⟩
  · refine ⟨noRecord e, fun r hr => ⟨recordCompletion_done hr, recordCompletion_running hr, fun hd hc he hp hn home pa awake hx => ?_,
      noPipe hr e, fun p hp => ⟨fun h => ?_, fun core tile rest hl hm hh => ?_, fun hw h => ?_, fun x rest hw hh hq hb => ?_,
        fun f rest hw hl hc hh hs awake => ?_, pipelinePreempt_goesOn hr hp, pipelinePreempt_stops hr hp, pipelinePreempt_restarts hr hp⟩⟩⟩
    · rw [recordCompletion_writes hr hd hc he hp hn awake, writeCompletion_ok hx]
    · exact loaderTile_idle e hr hp (List.find?_eq_none.2 fun x hx => by simp [loadable_eq_false (h x hx)])
    · have first := find?_loadable hl hm hh
      exact ⟨loaderTile_taken e hr hp first, fun hs ht awake =>
        ⟨fun cause val => loaderTile_faults e hr hp first hs ht awake, loaderTile_fills e hr hp first hs ht awake⟩⟩
    · exact storerWriteback_idle hr hp hw (List.find?_eq_none.2 fun f hf => by simp [storable_eq_false (h f hf)])
    · rw [storerWriteback_returns hr hp (find?_landed hw hh hq) hb, hw, List.erase_cons_head]
    · have first := find?_storable hl hc hh
      refine ⟨fun cause val => storerWriteback_faults hr hp hw first hs awake, fun h => ?_⟩
      rw [storerWriteback_copies hr hp hw first hs awake h, hl, List.erase_cons_head]

end Sys2Proof.Machine

end

section
/-!
PROOFS. What a home does with the request whose turn it is.
-/

namespace Sys2Proof.Machine

/-! ## The request whose turn it is (R252) -/

section
variable {s : State} {i op : Nat} {a : Arr}

theorem arrival_absent (h : s.inbox[i]? = none) (op : Nat) : s.arrival i op = none := by simp [State.arrival, h]

section
variable (ha : s.inbox[i]? = some a)
include ha

theorem arrival_waits (h : s.mayApply i a = false) (op : Nat) : s.arrival i op = none := by simp [State.arrival, ha, h]

theorem arrival_other (h : a.pkt.op ≠ op) : s.arrival i op = none := by simp [State.arrival, ha, h]

theorem arrival_turn (hd : a.pkt.dst ≠ 0x7FF) (hm : s.mayApply i a = true) (ho : a.pkt.op = op) : s.arrival i op = some a := by
  simp [State.arrival, ha, isMulticast, hd, hm, ho]

end

section
variable {acc : FAcc} {go : State → Arr → HomeAns}

theorem serveMem_none (h : s.arrival i op = none) : s.serveMem i op acc go = .next s := by simp only [State.serveMem, h]

theorem serveUnit_none (h : s.arrival i op = none) : s.serveUnit i op go = .next s := by simp only [State.serveUnit, h]

section
variable (turn : s.arrival i op = some a)
include turn

theorem serveMem_refused (hr : s.resetting a.pkt.vf = true) :
    s.serveMem i op acc go = .next ((s.take i).answer a.pkt 0x02 [] []) := by
  simp only [State.serveMem, turn, hr, if_true]

theorem serveUnit_refused (hr : s.resetting a.pkt.vf = true) :
    s.serveUnit i op go = .next ((s.take i).answer a.pkt 0x02 [] []) := by
  simp only [State.serveUnit, turn, hr, if_true]

section
variable (hr : s.resetting a.pkt.vf = false)
include hr

theorem serveMem_code {c : Nat} (hc : s.checkFrame a.pkt acc = .code c) :
    s.serveMem i op acc go = .next ((s.take i).answer a.pkt c [] []) := by
  simp only [State.serveMem, turn, hr, Bool.false_eq_true, if_false, hc]

theorem serveMem_done {t : State} {c : Nat} {args data : List Byte} (hc : s.checkFrame a.pkt acc = .ok)
    (hg : go s a = .done t c args data) : s.serveMem i op acc go = .next ((t.take i).answer a.pkt c args data) := by
  simp only [State.serveMem, turn, hr, Bool.false_eq_true, if_false, hc, hg, State.finish]

/-- A frame that neither answers with a code nor lies here is left to the event that forwards. -/
theorem serveMem_forwarded (hc : ∀ c, s.checkFrame a.pkt acc ≠ .code c) (ho : s.checkFrame a.pkt acc ≠ .ok) :
    s.serveMem i op acc go = .next s := by
  cases h : s.checkFrame a.pkt acc with
  | ok => exact absurd h ho
  | code c => exact absurd h (hc c)
  | peer d f => simp only [State.serveMem, turn, hr, Bool.false_eq_true, if_false, h]
  | pool g => simp only [State.serveMem, turn, hr, Bool.false_eq_true, if_false, h]

theorem serveUnit_done {t : State} {c : Nat} {args data : List Byte} (hg : go s a = .done t c args data) :
    s.serveUnit i op go = .next ((t.take i).answer a.pkt c args data) := by
  simp only [State.serveUnit, turn, hr, Bool.false_eq_true, if_false, hg, State.finish]

end
end
end

theorem execWrPkt_none (h : s.arrival i opWR = none) : execWrPkt i s = .next s := by simp only [execWrPkt, h]

/-- A write that carries no row for a receive buffer (R280). -/
theorem execWrPkt_plain (turn : s.arrival i opWR = some a) (h1 : pktArg a.pkt 0 1 ≠ 1) (h2 : pktArg a.pkt 0 1 ≠ 2) :
    execWrPkt i s = s.serveMem i opWR .write State.homeWR := by
  simp only [execWrPkt, turn, h1, h2, ne_eq, not_false_eq_true, and_self, if_true]

theorem homeRequests_idle (h : ∀ op, s.arrival i op = none) :
    exec (.rdPkt i) s = .next s ∧ exec (.wrPkt i) s = .next s ∧ exec (.wrmPkt i) s = .next s ∧ exec (.wrcPkt i) s = .next s ∧
    exec (.rdcPkt i) s = .next s ∧ exec (.atPkt i) s = .next s ∧ exec (.ancPkt i) s = .next s ∧ exec (.pubPkt i) s = .next s ∧
    exec (.barPkt i) s = .next s ∧ exec (.redPkt i) s = .next s :=
  ⟨serveMem_none (h _), execWrPkt_none (h _), serveMem_none (h _), serveMem_none (h _), serveMem_none (h _), serveMem_none (h _),
    serveUnit_none (h _), serveUnit_none (h _), serveUnit_none (h _), serveMem_none (h _)⟩

end

/-! ## The access that an operation makes -/

/-- A request for memory of which the frame table says neither that it is here nor a code: no home answers it. -/
theorem serveMem_away {s : State} {i op : Nat} {a : Arr} {acc acc' : FAcc} {go : State → Arr → HomeAns} (ha : s.inbox[i]? = some a)
    (hd : a.pkt.dst ≠ 0x7FF) (hm : s.mayApply i a = true) (hr : s.resetting a.pkt.vf = false) (hx : frameAcc a.pkt.op = some acc)
    (hc : ∀ c, s.checkFrame a.pkt acc ≠ .code c) (ho : s.checkFrame a.pkt acc ≠ .ok) (hop : frameAcc op = some acc') :
    s.serveMem i op acc' go = .next s := by
  by_cases h : a.pkt.op = op
  · obtain rfl : acc = acc' := Option.some.inj (hx.symm.trans (h ▸ hop))
    exact serveMem_forwarded (arrival_turn ha hd hm h) hr hc ho
  · exact serveMem_none (arrival_other ha h)

/-! ## Commit records (R147, R336) -/

section
variable {s : State} {cid vf : Nat}

theorem commitOf_absent (h : s.commits.find? (cid % 8192) = none) : s.commitOf cid vf = .code 0x01 := by
  simp only [State.commitOf, h]

section
variable {r : Commit} (h : s.commits.find? (cid % 8192) = some r)
include h

theorem commitOf_foreign (hv : r.vf ≠ vf) : s.commitOf cid vf = .code 0x02 := by
  simp only [State.commitOf, h, hv, ne_eq, not_false_eq_true, if_true]

theorem commitOf_own (hv : r.vf = vf) : s.commitOf cid vf = .got r.c := by
  simp only [State.commitOf, h, hv, ne_eq, not_true, if_false]

/-- C of a constellation of this device's is that of its own table. -/
theorem cFor_here {a : Arr} (hd : cid / 8192 = s.vertex) (hv : r.vf = a.pkt.vf) : s.cFor a cid = .got r.c := by
  simp only [State.cFor, hd, if_true, commitOf_own h hv]

end
end

/-! ## Reads (R146, R243) -/

section
variable {s : State} {vf pa n : Nat}

theorem readBytes_sound (h : ∀ l ∈ linesAt pa n, s.badLine l = false) :
    s.readBytes vf pa n = .done (s.noteFixes (linesAt pa n)) 0 [] (s.rdMem pa n) := by
  have none_bad : (linesAt pa n).find? s.badLine = none := List.find?_eq_none.2 fun l hl => by simp [h l hl]
  simp only [State.readBytes, none_bad]

theorem readBytes_bad {l : Nat} {ls : List Nat} (hl : linesAt pa n = l :: ls) (hb : s.badLine l = true) :
    s.readBytes vf pa n = .done (s.noteBad l vf) 0x03 [] [] := by
  simp only [State.readBytes, hl, List.find?_cons_of_pos hb]

/-- What a read of a twin page's line answers, from the slot that its version selects. -/
def State.readSlot (s : State) (vf pa n cid v : Nat) : Option Nat → HomeAns
  | none => .done s 0x07 [] []
  | some slot =>
    match s.readBytes vf (slot + pa % 128) n with
    | .done s 0 _ data => .done s 0 (leBytes 3 cid ++ leBytes 4 v) data
    | r => r

/-- `readAt` is unfolded as a function, since to unfold its application has the kernel evaluate the comparison of versions. -/
theorem readAt_eq (s : State) (vf pa n cid v : Nat) :
    s.readAt vf pa n cid v = s.readSlot vf pa n cid v (s.slotAt (pa / 128 * 128) cid v) := by
  have body : @State.readAt = @State.readAt := rfl
  conv at body => rhs; delta State.readAt
  rw [body]
  dsimp only
  generalize s.slotAt (pa / 128 * 128) cid v = slot
  cases slot <;> rfl

theorem readSlot_some {cid v slot : Nat} {t : State} {args data : List Byte} (h : s.readBytes vf (slot + pa % 128) n = .done t 0 args data) :
    s.readSlot vf pa n cid v (some slot) = .done t 0 (leBytes 3 cid ++ leBytes 4 v) data := by
  simp only [State.readSlot, h]

theorem readAt_overrun {cid v : Nat} (h : s.slotAt (pa / 128 * 128) cid v = none) : s.readAt vf pa n cid v = .done s 0x07 [] [] := by
  rw [readAt_eq, h, State.readSlot]

theorem readAt_slot {cid v slot : Nat} (h : s.slotAt (pa / 128 * 128) cid v = some slot)
    (sound : ∀ l ∈ linesAt (slot + pa % 128) n, s.badLine l = false) : s.readAt vf pa n cid v =
      .done (s.noteFixes (linesAt (slot + pa % 128) n)) 0 (leBytes 3 cid ++ leBytes 4 v) (s.rdMem (slot + pa % 128) n) := by
  rw [readAt_eq, h, readSlot_some (readBytes_sound sound)]

section
variable {a : Arr}

theorem plainRead_plain (h : bitAt (s.frameEnt pa) 53 = false) : s.plainRead a pa n = s.readBytes a.pkt.vf pa n := by
  simp only [State.plainRead, h, Bool.false_eq_true, false_and, if_false]

theorem plainRead_constellation {c : Nat} (h : bitAt (s.frameEnt pa) 53 = true) (hz : s.lineCid (pa / 128 * 128) ≠ 0)
    (hc : s.cFor a (s.lineCid (pa / 128 * 128)) = .got c) :
    s.plainRead a pa n = s.readAt a.pkt.vf pa n (s.lineCid (pa / 128 * 128)) c := by
  simp only [State.plainRead, h, hz, hc, ne_eq, not_false_eq_true, and_self, if_true]

theorem homeRD_found {t : State} {args data : List Byte} (h : s.plainRead a a.pkt.addr (16 * pktArg a.pkt 0 1) = .done t 0 args data) :
    s.homeRD a = .done (t.hostHas a.pkt) 0 args data := by
  simp only [State.homeRD, h]

theorem homeRD_failed {t : State} {c : Nat} {args data : List Byte} (hc : c ≠ 0)
    (h : s.plainRead a a.pkt.addr (16 * pktArg a.pkt 0 1) = .done t c args data) : s.homeRD a = .done t c args data := by
  unfold State.homeRD
  rw [h]
  split
  · next heq => exact absurd (HomeAns.done.inj heq).2.1 hc
  · rfl

/-- A read of a line of which slot A carries the constellation's CID, at a version. -/
theorem homeRDC_atVersion (h : bitAt (s.frameEnt (a.pkt.addr / 128 * 128)) 53 = true) (hz : pktArg a.pkt 0 3 ≠ 0)
    (hs : (s.sideOf (a.pkt.addr / 128 * 128)).cid = pktArg a.pkt 0 3) :
    s.homeRDC a = s.readAt a.pkt.vf (a.pkt.addr / 128 * 128) 128 (pktArg a.pkt 0 3) (pktArg a.pkt 3 4) := by
  simp only [State.homeRDC, h, hz, hs, ne_eq, not_false_eq_true, true_or, and_self, if_true]

end
end

/-! ## Writes (R145, R252, R321) -/

/-- Making lines good again changes the records of errors alone, and brings no error that is still to be corrected. -/
theorem heals_eq (ls : List Nat) (s : State) : ∃ d c b x, ls.foldl State.heal s =
    { s with dies := d, conf := c, eccBad := b, eccFix := x } ∧ (s.eccFix = [] → x = []) := by
  induction ls generalizing s with
  | nil => exact ⟨s.dies, s.conf, s.eccBad, s.eccFix, rfl, id⟩
  | cons l ls ih =>
    obtain ⟨d, c, b, x, h, hx⟩ := ih (s.heal l)
    exact ⟨d, c, b, x, h, fun hs => hx (by simp [State.heal, hs])⟩

/-- Bytes stored in lines that can all be read: whole lines become good again, and nothing is noted where no error is to be corrected. -/
theorem putCells_sound {s : State} {cells : List (Nat × Byte)} (hfix : s.eccFix = []) (sound : ∀ x ∈ cells, s.badLine (x.1 / 128) = false)
    (vf : Nat) : ∃ u : State, s.putCells vf cells = (u.wrMem cells, 0) ∧ u.mem = s.mem ∧ u.cores = s.cores ∧ u.side = s.side ∧
      u.rings = s.rings ∧ u.ctxs = s.ctxs := by
  unfold State.putCells
  extract_lets lines whole
  have good : ∀ l ∈ lines, s.badLine l = false := fun l hl => by
    obtain ⟨x, hx, rfl⟩ := List.mem_map.1 (List.mem_eraseDups.1 hl)
    exact sound x hx
  have none_bad : lines.find? (fun l => s.badLine l && !whole l) = none := List.find?_eq_none.2 fun l hl => by simp [good l hl]
  obtain ⟨d, c, b, x, heals, hx⟩ := heals_eq (lines.filter whole) s
  refine ⟨{ s with dies := d, conf := c, eccBad := b, eccFix := x }, ?_, rfl, rfl, rfl, rfl, rfl⟩
  simp only [none_bad, heals]
  rw [noteFixes_none (hx hfix)]

theorem afterWrite_noRings {s : State} (h : s.rings = []) (vf line occ : Nat) : s.afterWrite vf line occ = s := by
  simp [State.afterWrite, h]

theorem afterWrites_noRings {s : State} (h : s.rings = []) (vf : Nat) (occ : Nat → Nat) (lines : List Nat) :
    lines.foldl (fun t l => t.afterWrite vf l (occ l)) s = s := by
  induction lines with
  | nil => rfl
  | cons l ls ih => rw [List.foldl_cons, afterWrite_noRings h, ih]

/-- A write to device memory fires watches, and leaves the outstanding operations of every context. -/
theorem resolves_wrMem {s u : State} (h : u.ctxs = s.ctxs) (cells : List (Nat × Byte)) : (u.wrMem cells).resolves = s.resolves := by
  simp only [State.resolves, State.wrMem, List.map_map, h]
  rfl

theorem spoil_noResolves {s : State} (h : s.resolves = []) (p : Pkt) (cells : List (Nat × Byte)) : s.spoil p cells = s := by
  simp [State.spoil, h]

section
variable {s : State} {a : Arr} (hfix : s.eccFix = []) (hring : s.rings = []) (hres : s.resolves = [])
include hfix hring hres

theorem write_stores {cells : List (Nat × Byte)} (sound : ∀ x ∈ cells, s.badLine (x.1 / 128) = false) (vf : Nat) (p : Pkt) :
    ∃ t, (s.applyWrite vf cells).spoiling p cells = .done t 0 [] [] ∧ t.mem = memSets s.mem cells ∧ t.cores = s.cores ∧ t.side = s.side := by
  obtain ⟨u, put, mem, cores, side, rings, ctxs⟩ := putCells_sound hfix sound vf
  have unspoiled : (u.wrMem cells).resolves = [] := (resolves_wrMem ctxs cells).trans hres
  have noRings : (u.wrMem cells).rings = [] := rings.trans hring
  refine ⟨u.wrMem cells, ?_, congrArg (memSets · cells) mem, cores, side⟩
  simp only [State.applyWrite, put, if_true, HomeAns.spoiling]
  rw [afterWrites_noRings noRings, spoil_noResolves unspoiled]

theorem homeAT_sound (sound : s.badLine (a.pkt.addr / 128) = false) {w x : Nat} (hw : w = if bitAt (pktArg a.pkt 0 1) 7 then 8 else 4)
    (hx : x = leNat (s.rdMem a.pkt.addr w)) : s.homeAT a =
      .done (s.wrMem (cellsAt a.pkt.addr (leBytes w (atomicNew (pktArg a.pkt 0 1 % 16) (8 * w) x
        (rfld a.pkt.data 0 8 % 2 ^ (8 * w)) (rfld a.pkt.data 8 8 % 2 ^ (8 * w)))))) 0 [] (leBytes w x) := by
  subst hx hw
  simp only [State.homeAT, sound, Bool.false_eq_true, if_false, noteFixes_none hfix]
  rw [afterWrite_noRings (by exact hring), spoil_noResolves ((resolves_wrMem rfl _).trans hres)]

end

/-! ## Member writes (R145) -/

section
variable {s : State} {a : Arr} {c : Nat} (hc : s.cFor a (pktArg a.pkt 0 3) = .got c)
include hc

theorem homeWRC_stale (hv : pktArg a.pkt 3 4 ≠ (c + 1) % 2 ^ 32) : s.homeWRC a = .done s 0x06 [] [] := by
  simp only [State.homeWRC, hc, hv, ne_eq, not_false_eq_true, if_true]

/-- The next version's line goes into the slot that R145 gives it, with its sideband. -/
theorem homeWRC_stores (hv : pktArg a.pkt 3 4 = (c + 1) % 2 ^ 32) : ∃ t, s.homeWRC a = .done t 0 [] [] ∧
    (let slot := s.slotFor (a.pkt.addr / 128 * 128) (pktArg a.pkt 0 3) (pktArg a.pkt 3 4)
     t.mem = memSets s.mem (cellsAt slot a.pkt.data) ∧ t.commits = s.commits ∧
     t.side = AMap.set s.side (slot / 128) ⟨pktArg a.pkt 0 3, pktArg a.pkt 3 4, pktArg a.pkt 7 2, pktArg a.pkt 9 2⟩) := by
  have current : ¬ pktArg a.pkt 3 4 ≠ (c + 1) % 2 ^ 32 := not_not.2 hv
  simp only [State.homeWRC, hc, if_neg current]
  exact ⟨_, rfl, rfl, rfl, rfl⟩

end

/-! ## Commit records, asked and advanced (R147, R149) -/

section
variable {s : State} {a : Arr}

theorem homeANC_code {n : Nat} (h : s.commitOf (pktArg a.pkt 0 3) a.pkt.vf = .code n) : s.homeANC a = .done s n [] [] := by
  simp only [State.homeANC, h]

theorem homeANC_got {c : Nat} (h : s.commitOf (pktArg a.pkt 0 3) a.pkt.vf = .got c) : s.homeANC a = .done s 0 (leBytes 4 c) [] := by
  simp only [State.homeANC, h]

theorem homePUB_code {n : Nat} (h : s.commitOf (pktArg a.pkt 0 3) a.pkt.vf = .code n) : s.homePUB a = .done s n [] [] := by
  simp only [State.homePUB, h]

theorem homePUB_next {c : Nat} (h : s.commitOf (pktArg a.pkt 0 3) a.pkt.vf = .got c) (hv : pktArg a.pkt 3 4 = (c + 1) % 2 ^ 32) :
    s.homePUB a = .done { s with commits := AMap.set s.commits (pktArg a.pkt 0 3 % 8192) ⟨a.pkt.vf, pktArg a.pkt 3 4⟩ } 0 [] [] := by
  simp only [State.homePUB, h, if_pos hv.symm]

theorem homePUB_other {c : Nat} (h : s.commitOf (pktArg a.pkt 0 3) a.pkt.vf = .got c) (hv : pktArg a.pkt 3 4 ≠ (c + 1) % 2 ^ 32) :
    s.homePUB a = .done s 0x09 [] [] := by
  simp only [State.homePUB, h, if_neg hv.symm]

/-! ## Arrivals of a reduction (R330) -/

theorem homeRED_bad (h : s.badLine (a.pkt.addr / 128) = true) :
    s.homeRED a = .done (s.noteBad (a.pkt.addr / 128) a.pkt.vf) 0x03 [] [] := by
  simp only [State.homeRED, h, if_true]

theorem homeRED_counts {n : Nat} (h : s.badLine (a.pkt.addr / 128) = false) (hfix : s.eccFix = [])
    (hn : n = (leNat (s.rdMem a.pkt.addr 4) + 1) % 2 ^ 32) : s.homeRED a =
      .done ((s.wrMem (cellsAt a.pkt.addr (leBytes 4 n))).redArrive a.pkt.addr a.pkt.vf n a.pkt.data none) 0 [] [] := by
  subst hn
  simp only [State.homeRED, h, Bool.false_eq_true, if_false, noteFixes_none hfix]

section
variable (hdr vf n : Nat) (pl : List Byte)

theorem redArrive_first (h : s.redns = []) : s.redArrive hdr vf n pl none =
    { s with redns := [⟨hdr, false, [rfld pl 16 2], pl, vf, decide (n = rfld pl 18 2), 0, false, none⟩] } := by
  simp [State.redArrive, h]

theorem redArrive_next {r : Redn} (h : s.redns = [r]) (hh : r.hdr = hdr) (hd : r.due = false) (hn : n ≠ 1) :
    s.redArrive hdr vf n pl none = { s with redns := [{ r with
      order := r.order ++ [rfld pl 16 2], args := pl, vf := vf, mixed := r.mixed || !redAgree r.args pl,
      due := decide (n = rfld pl 18 2), pool := none }] } := by
  simp [State.redArrive, h, hh, hd, hn]

end
end

end Sys2Proof.Machine

end

section
/-!
PROOFS. The requests that a home answers, O55.
-/

namespace Sys2Proof.Machine

/-- Settles O55: a request whose turn has not come is left, one whose turn has come is refused or served by its operation's home. -/
theorem homeRequests : Obligations.HomeRequests := by
  unfold Obligations.HomeRequests
  intro s i
  refine ⟨fun h => homeRequests_idle (arrival_absent h), fun a ha _ hm => homeRequests_idle (arrival_waits ha hm),
    fun a ha hd hm hr => ?_, fun a ha hd hm hr => ?_⟩
  · have turn : ∀ {op}, a.pkt.op = op → s.arrival i op = some a := arrival_turn ha hd hm
    exact ⟨fun ho => serveMem_refused (turn ho) hr, fun ho => serveMem_refused (turn ho) hr,
      fun ho h1 h2 => (execWrPkt_plain (turn ho) h1 h2).trans (serveMem_refused (turn ho) hr), fun ho => serveMem_refused (turn ho) hr,
      fun ho => serveMem_refused (turn ho) hr, fun ho => serveMem_refused (turn ho) hr, fun ho => serveUnit_refused (turn ho) hr,
      fun ho => serveUnit_refused (turn ho) hr, fun ho => serveUnit_refused (turn ho) hr, fun ho => serveMem_refused (turn ho) hr⟩
  · have turn : ∀ {op}, a.pkt.op = op → s.arrival i op = some a := arrival_turn ha hd hm
    have wr {h} (ho : a.pkt.op = opWR) (h1 : pktArg a.pkt 0 1 ≠ 1) (h2 : pktArg a.pkt 0 1 ≠ 2)
        (served : s.serveMem i opWR .write State.homeWR = h) : exec (.wrPkt i) s = h := (execWrPkt_plain (turn ho) h1 h2).trans served
    intro p answered line sound
    refine ⟨fun ho => ⟨fun c hc => serveMem_code (turn ho) hr hc, fun hc => ?read⟩, fun ho hc hp hz hs => ?readAtVersion, ?write,
      fun c hc => ⟨fun ho h1 h2 => wr ho h1 h2 (serveMem_code (turn ho) hr hc), fun ho => serveMem_code (turn ho) hr hc⟩,
      fun r ho hc hv hcr hrv => ?memberWrite, fun ho hfix hring hres hc hs => ?atomic, fun hn => ?noRecord, fun r hn => ?record,
      fun ho => serveUnit_done (turn ho) hr rfl, fun ho hc => ?reduction, fun c ho hc => serveMem_code (turn ho) hr hc, ?forwarded⟩
    case read =>
      refine ⟨fun hp hs => ?_, fun l ls hp hl hb => ?_, fun r pa hp hz hv hcr hrv => ?_⟩
      · exact serveMem_done (turn ho) hr hc (homeRD_found ((plainRead_plain hp).trans (readBytes_sound hs)))
      · exact serveMem_done (turn ho) hr hc (homeRD_failed (by decide) ((plainRead_plain hp).trans (readBytes_bad hl hb)))
      · have atC := plainRead_constellation (n := 16 * pktArg a.pkt 0 1) hp hz (cFor_here hcr hv hrv)
        exact ⟨fun hn => serveMem_done (turn ho) hr hc (homeRD_failed (by decide) (atC.trans (readAt_overrun hn))),
          fun hn hs => serveMem_done (turn ho) hr hc (homeRD_found (atC.trans (readAt_slot hn hs)))⟩
    case readAtVersion =>
      have whole : line / 128 * 128 = line := by omega
      have start : line % 128 = 0 := by omega
      refine ⟨fun hn => ?_, fun pa hn hs' => ?_⟩
      · exact serveMem_done (turn ho) hr hc ((homeRDC_atVersion hp hz hs).trans (readAt_overrun (whole ▸ hn)))
      · have found := readAt_slot (vf := a.pkt.vf) (n := 128) (pa := line) (whole.symm ▸ hn) (by rw [start]; exact hs')
        rw [start] at found
        exact serveMem_done (turn ho) hr hc ((homeRDC_atVersion hp hz hs).trans found)
    case write =>
      intro hfix hring hres hc stores
      refine ⟨fun ho h1 h2 hs => ?_, fun ho hs => ?_⟩ <;>
        obtain ⟨t, hw, hmem, hcores, hside⟩ := write_stores hfix hring hres hs a.pkt.vf a.pkt
      · exact ⟨t, wr ho h1 h2 (serveMem_done (turn ho) hr hc hw), hmem, hcores, hside⟩
      · exact ⟨t, serveMem_done (turn ho) hr hc hw, hmem, hcores, hside⟩
    case memberWrite =>
      refine ⟨fun hver => serveMem_done (turn ho) hr hc (homeWRC_stale (cFor_here hcr hv hrv) hver), fun hver => ?_⟩
      obtain ⟨t, hw, stored⟩ := homeWRC_stores (cFor_here hcr hv hrv) hver
      exact ⟨t, serveMem_done (turn ho) hr hc hw, stored⟩
    case atomic => exact serveMem_done (turn ho) hr hc (homeAT_sound hfix hring hres hs rfl rfl)
    case noRecord =>
      exact ⟨fun ho => serveUnit_done (turn ho) hr (homeANC_code (commitOf_absent hn)),
        fun ho => serveUnit_done (turn ho) hr (homePUB_code (commitOf_absent hn))⟩
    case record =>
      exact ⟨fun hv => ⟨fun ho => serveUnit_done (turn ho) hr (homeANC_code (commitOf_foreign hn hv)),
          fun ho => serveUnit_done (turn ho) hr (homePUB_code (commitOf_foreign hn hv))⟩,
        fun hv ho => serveUnit_done (turn ho) hr (homeANC_got (commitOf_own hn hv)),
        fun hv ho hver => serveUnit_done (turn ho) hr (homePUB_next (commitOf_own hn hv) hver),
        fun hv ho hver => serveUnit_done (turn ho) hr (homePUB_other (commitOf_own hn hv) hver)⟩
    case reduction =>
      refine ⟨fun hb => serveMem_done (turn ho) hr hc (homeRED_bad hb), fun hb hfix => ?_⟩
      intro n s1 due first
      have counts : s.homeRED a = .done (s1.redArrive a.pkt.addr a.pkt.vf n a.pkt.data none) 0 [] [] := homeRED_counts hb hfix rfl
      refine ⟨fun hrd => ?_, fun r hrd hh hdue hn => ?_⟩
      · rw [redArrive_first (s := s1) _ _ _ _ hrd] at counts
        exact serveMem_done (turn ho) hr hc counts
      · rw [redArrive_next (s := s1) _ _ _ _ hrd hh hdue hn] at counts
        exact serveMem_done (turn ho) hr hc counts
    case forwarded =>
      intro acc hx hc hok h1 h2
      have away {op acc' go} (h : frameAcc op = some acc') : s.serveMem i op acc' go = .next s := serveMem_away ha hd hm hr hx hc hok h
      refine ⟨away rfl, ?_, away rfl, away rfl, away rfl, away rfl, away rfl⟩
      by_cases ho : a.pkt.op = opWR
      · exact wr ho h1 h2 (away rfl)
      · exact execWrPkt_none (arrival_other ha ho)

end Sys2Proof.Machine

end

section
/-!
PROOFS. Operations that enter an engine, and the scale table, the predictor and the iteration tables, O34.
-/

namespace Sys2Proof.Machine

/-! ## Entering an engine (R128, R142) -/

section
variable {s : State} {f : Focus} {k : Focus → Ctx → Eff State} {o : Op} (hf : s.focus = some f)
include hf

theorem issueOp_enters (hk : k f (s.ctx f.ctx) = addOp s f (s.ctx f.ctx) o) : issueOp s k = enters s f o := issueOp_ok hf hk

/-- A gated operation that finds an entry of the restart buffer free. -/
theorem issueOp_entersGated (room : (s.ctx f.ctx).remoteUsed < 16) (hk : k f (s.ctx f.ctx) = addGated s f (s.ctx f.ctx) o) :
    issueOp s k = entersGated s f o :=
  issueOp_ok hf (hk.trans (addGated_room room o))

end

/-! ## Reading the predictor's table (R212) -/

section
variable {s : State} {f : Focus} {sd sa : SReg} {x : W64} (hf : s.focus = some f) (hx : (s.ctx f.ctx).rdS f.ent.word sa = .ok x)
include hf

theorem execPtRd_early (hc : f.ent.checked = true) (ht : s.now < f.ent.cyc + 2) : execPtRd sd sa s = waits s := by
  simp only [execPtRd, hf, hc, ht, if_true, waits]

include hx

/-- The cycle at which the slot reached the operation is noted in its entry. -/
theorem execPtRd_reached (hc : f.ent.checked = false) :
    execPtRd sd sa s = .next ({ s with focus := none }.setCtx f.ctx ((s.ctx f.ctx).stampQ f.slot f.ent.id s.now)) := by
  simp only [execPtRd, hf, hc, Bool.false_eq_true, if_false, hx]

theorem execPtRd_reads (hc : f.ent.checked = true) (ht : f.ent.cyc + 2 ≤ s.now) : execPtRd sd sa s =
    wroteS s f sd ((AMap.get 0#32 (s.cluster (ctxCluster f.ctx)).pt (x.toNat % 16384)).setWidth 64) := by
  simp only [execPtRd, hf, hc, if_true, Nat.not_lt.2 ht, if_false]
  exact issueOp_ok hf (by rw [hx]; rfl)

end

/-! ## Demands of tolerance (R219) -/

theorem demandOp_enters {s : State} {f : Focus} {sa sb : SReg} {x y : W64} (hf : s.focus = some f) (room : (s.ctx f.ctx).remoteUsed < 16)
    (hx : (s.ctx f.ctx).rdS f.ent.word sa = .ok x) (hy : (s.ctx f.ctx).rdS f.ent.word sb = .ok y) (kind : OpKind) (sd : SReg) :
    demandOp s kind sd sa sb = entersGated s f { Op.of f kind sd with
      addr := x.toNat % 65536, b := y.toNat % 256, c := (s.ctx f.ctx).record } :=
  issueOp_entersGated hf room (by rw [hx, hy]; rfl)

/-! ## How many iterations reach a grade (R221) -/

theorem toNat_byte (t : W64) (j : Nat) : (t >>> (8 * j)).toNat % 256 = bits t.toNat (8 * j) 8 := by
  simp [bits, Nat.shiftRight_eq_div_pow]

theorem itrFit_least {t : W64} {tol i : Nat} (hi : i < 8) (below : ∀ j, j < i → bits t.toNat (8 * j) 8 < tol)
    (reach : tol ≤ bits t.toNat (8 * i) 8) : itrFit t tol = i := by
  have first : (List.range 8).find? (fun i => decide (tol ≤ bits t.toNat (8 * i) 8)) = some i :=
    List.find?_range_eq_some.2 ⟨by simpa using reach, List.mem_range.2 hi, fun j hj => by simpa using below j hj⟩
  simp only [itrFit, first]

theorem itrFit_none {t : W64} {tol : Nat} (below : ∀ j, j < 8 → bits t.toNat (8 * j) 8 < tol) : itrFit t tol = 2 ^ 63 + 7 := by
  have none_reaches : (List.range 8).find? (fun i => decide (tol ≤ bits t.toNat (8 * i) 8)) = none :=
    List.find?_range_eq_none.2 fun j hj => by simpa using below j hj
  simp only [itrFit, none_reaches]

/-! ## Loading the scale table (R194) -/

theorem checkAligned_ok {α : Type} {c : Ctx} {a : Int} {len algn : Nat} (ho : c.outside a len = false) (ha : a % (algn : Int) = 0)
    (k : Eff α) : checkAligned c a len algn k = k := by
  simp only [checkAligned, ha, ho, ne_eq, not_true, decide_false, trapIf_false]

theorem rfld_spRead (s : State) (k w a : Nat) {len off n : Nat} (h : off + n ≤ len) :
    rfld (s.spRead k w a len) off n = leNat (s.spRead k w (a + off) n) := by
  refine congrArg leNat (List.ext_getElem (by simp [State.spRead]; omega) fun i h1 h2 => ?_)
  simp [State.spRead, Nat.add_assoc]

theorem execSctl_loads {s : State} {f : Focus} {aj : AReg} {off : BitVec 13} {b t : BitVec 24} (hf : s.focus = some f)
    (ha : (s.ctx f.ctx).rdA f.ent.word aj = .ok (b, t)) (h : s.readable f (b.toNat + 64 * off.toNat : Nat) 64 64) :
    execSctl aj off s = .next ((s.loadScale f none ((List.range 16).map fun i =>
      BitVec.ofNat 32 (leNat (s.spRead f.ctx f.ent.word (b.toNat + 64 * off.toNat + 4 * i) 4)))).retire f) := by
  obtain ⟨inside, aligned, clear, unstalled, sound⟩ := h
  rw [Int.toNat_natCast] at unstalled sound
  have words : (List.range 16).map (fun i => BitVec.ofNat 32 (rfld (s.spRead f.ctx f.ent.word (b.toNat + 64 * off.toNat) 64) (4 * i) 4)) =
      (List.range 16).map fun i => BitVec.ofNat 32 (leNat (s.spRead f.ctx f.ent.word (b.toNat + 64 * off.toNat + 4 * i) 4)) :=
    List.map_congr_left fun i hi => by rw [rfld_spRead _ _ _ _ (by have := List.mem_range.1 hi; omega)]
  refine issueOp_ok hf ?_
  have place : (b.toNat : Int) + 64 * (off.toNat : Int) = ((b.toNat + 64 * off.toNat : Nat) : Int) := by push_cast; rfl
  simp only [ha, Eff.bind_ok, place, checkAligned_ok inside aligned, clear, unstalled, Bool.not_false, Bool.and_self, waitUnless_true,
    State.eccCheck, sound, Int.toNat_natCast, words]

/-- Settles O34: the table's operations by the cycle or the restart-buffer entry that they find, the others by what they read. -/
theorem predictorAndIterationOperations : Obligations.PredictorAndIterationOperations := by
  unfold Obligations.PredictorAndIterationOperations
  intro s f sd sa sb pc it k aj off x y p hf hx hy hp
  rw [exec_ptWr, exec_ptUpd, exec_ptClr, exec_demand, exec_redem, exec_itrDef, exec_itrFit, exec_sctlEnt]
  refine ⟨execPtRd_reached hf hx, execPtRd_early hf, execPtRd_reads hf hx, fun room => ⟨?_, ?_, ?_, ?_, ?_⟩, ?_,
    fun tol t htol ht => ⟨?_, ?_⟩, ?_, fun b t ha h => execSctl_loads hf ha h⟩
  · exact issueOp_entersGated hf room (by rw [hx, hy]; rfl)
  · exact issueOp_entersGated hf room (by rw [hx, hp]; rfl)
  · exact issueOp_entersGated hf room (by rw [hx, hy]; rfl)
  · exact demandOp_enters hf room hx hy .demand sd
  · exact demandOp_enters hf room hx hy .redem sd
  · exact onCtx_ok hf (by rw [hx]; rfl)
  · intro i hi below reach
    simp only [toNat_byte] at below reach
    exact onCtx_ok hf (by rw [htol, ht, Eff.bind_ok, Eff.bind_ok, itrFit_least hi below reach])
  · intro below
    simp only [toNat_byte] at below
    exact onCtx_ok hf (by rw [htol, ht, Eff.bind_ok, Eff.bind_ok, itrFit_none below]; rfl)
  · exact issueOp_ok hf (by rw [hx]; rfl)

end Sys2Proof.Machine

end

section
/-!
PROOFS. Global accesses, barriers, drains and constellation operations at issue, O51.
-/

namespace Sys2Proof.Machine

/-! ## Global accesses (R135, R136, R148) -/

theorem gstWaiting_of_cFree {s : State} {k : Nat} (h : s.cFree k = true) : (s.ctx k).gstWaiting = false := by
  simp only [State.cFree, Bool.and_eq_true, Bool.not_eq_true'] at h
  exact h.1

/-- No `gst` of a drain holds back an operation of a context whose translated operations may issue. -/
theorem gstGate {α : Type} {s : State} {k : Nat} (h : s.cFree k = true) (x : Eff α) : waitUnless (!(s.ctx k).gstWaiting) x = x := by
  rw [gstWaiting_of_cFree h, Bool.not_false, waitUnless_true]

theorem gaddr_ok {c : Ctx} {n : Nat} {sa : SReg} {x : W64} (h : c.rdS n sa = .ok x) (disp : Option Ext) :
    c.gaddr n sa disp = .ok (x + w64 (dispOf disp)) := by
  simp only [Ctx.gaddr, h, Eff.bind_ok]

/-- A horizon that is valid gives the CID and the version that it holds. -/
theorem horizon_valid {c : Ctx} {n j : Nat} {h : W64} (hr : c.rdU n (uHzn + j) = .ok h) (hv : h.getLsbD 63 = true) :
    c.horizon n j = .ok (h.toNat / 2 ^ 32 % 2 ^ 24, h.toNat % 2 ^ 32) := by
  simp only [Ctx.horizon, hr, Eff.bind_ok, hv, if_true, bits, Nat.pow_zero, Nat.div_one]

theorem horizon_invalid {c : Ctx} {n j : Nat} {h : W64} (hr : c.rdU n (uHzn + j) = .ok h) (hv : h.getLsbD 63 = false) :
    c.horizon n j = .trap 0x0E (BitVec.ofNat 64 j) := by
  simp only [Ctx.horizon, hr, Eff.bind_ok, hv, Bool.false_eq_true, if_false]

/-- Whether a horizon holds a CID, read from its bits 55 to 32. -/
theorem horizonCid_eq_iff (h : W64) (y : BitVec 24) : (h >>> 32).setWidth 24 = y ↔ bits h.toNat 32 24 = y.toNat := by
  rw [← BitVec.toNat_inj, BitVec.toNat_setWidth, BitVec.toNat_ushiftRight, Nat.shiftRight_eq_div_pow]
  rfl

section
variable {s : State} {f : Focus} {sd sa sb : SReg} {hj sz : BitVec 2} {sx : Bool} {disp : Option Ext} {a v : W64} (hf : s.focus = some f)
include hf

/-- While a `gst` of a drain waits, or the context is quiescent for a shoot-down, no global access issues. -/
theorem globalAccess_held (busy : s.cFree f.ctx = false) {k : Focus → Ctx → Eff State} :
    issueOp s (fun f c => waitUnless (s.cFree f.ctx) (k f c)) = waits s :=
  issueOp_wait hf (by rw [busy, waitUnless_false])

theorem atomicOp_held (busy : s.cFree f.ctx = false) (n : Nat) (w : Bool) : atomicOp s n sd sa sb w disp = waits s :=
  globalAccess_held hf busy

variable (free : s.cFree f.ctx = true) (ha : (s.ctx f.ctx).gaddr f.ent.word sa disp = .ok a)
include free ha

section
variable (off : a.toNat % 2 ^ sz.toNat ≠ 0)
include off

theorem exec_gld_misaligned : exec (.gld sd sa sz sx disp) s = .next (s.issueTrap f 0x05 a) :=
  (exec_gld s).trans <| issueOp_trap hf (by
    simp only [free, ha, Eff.bind_ok, sizeBytes, waitUnless_true, off, ne_eq, not_false_eq_true, decide_true, trapIf_true])

theorem exec_gst_misaligned (hv : (s.ctx f.ctx).rdS f.ent.word sb = .ok v) : exec (.gst sb sa sz disp) s = .next (s.issueTrap f 0x05 a) :=
  (exec_gst s).trans <| issueOp_trap hf (by
    simp only [free, ha, hv, Eff.bind_ok, sizeBytes, waitUnless_true, off, ne_eq, not_false_eq_true, decide_true, trapIf_true])

end

section
variable (aligned : a.toNat % 2 ^ sz.toNat = 0)
include aligned

theorem exec_gld_enters : exec (.gld sd sa sz sx disp) s = enters s f { Op.of f (.gld (2 ^ sz.toNat) sx) sd with
    addr := a.toNat, passed := false, pieces := [onePiece a.toNat (2 ^ sz.toNat) []],
    list := s.overlay f.ctx f.ent.word a.toNat (2 ^ sz.toNat) } :=
  (exec_gld s).trans <| issueOp_enters hf (by
    simp only [free, ha, Eff.bind_ok, sizeBytes, waitUnless_true, aligned, ne_eq, not_true, decide_false, trapIf_false])

theorem exec_gst_enters (room : (s.ctx f.ctx).remoteUsed < 16) (hv : (s.ctx f.ctx).rdS f.ent.word sb = .ok v) :
    exec (.gst sb sa sz disp) s = entersGated s f { Op.of f .gst 0#5 with
      addr := a.toNat, passed := false,
      pieces := [onePiece a.toNat (2 ^ sz.toNat) ((List.range (2 ^ sz.toNat)).map fun i => (v >>> (8 * i)).setWidth 8)] } :=
  (exec_gst s).trans <| issueOp_entersGated hf room (by
    simp only [free, ha, hv, Eff.bind_ok, sizeBytes, waitUnless_true, aligned, ne_eq, not_true, decide_false, trapIf_false, leBytes_toNat])

variable {h : W64} (hh : (s.ctx f.ctx).rdU f.ent.word (uHzn + hj.toNat) = .ok h)
include hh

theorem exec_cld_enters (valid : h.getLsbD 63 = true) : exec (.cld sd sa hj sz sx disp) s =
    enters s f { Op.of f (.cld (2 ^ sz.toNat) sx) sd with
      addr := a.toNat, passed := false, pieces := [onePiece a.toNat (2 ^ sz.toNat) []], b := h.toNat % 2 ^ 32,
      c := h.toNat / 2 ^ 32 % 2 ^ 24, list := s.overlay f.ctx f.ent.word a.toNat (2 ^ sz.toNat) } :=
  (exec_cld s).trans <| issueOp_enters hf (by
    simp only [free, ha, Eff.bind_ok, sizeBytes, waitUnless_true, aligned, ne_eq, not_true, decide_false, trapIf_false,
      horizon_valid hh valid])

theorem exec_cld_invalid (invalid : h.getLsbD 63 = false) :
    exec (.cld sd sa hj sz sx disp) s = .next (s.issueTrap f 0x0E (BitVec.ofNat 64 hj.toNat)) :=
  (exec_cld s).trans <| issueOp_trap hf (by
    simp only [free, ha, Eff.bind_ok, sizeBytes, waitUnless_true, aligned, ne_eq, not_true, decide_false, trapIf_false,
      horizon_invalid hh invalid, Eff.bind_trap])

end

/-! ## Atomics (R138) -/

/-- An atomic of width `w`; `y` is what it compares with, which only `at.cas` reads. -/
theorem atomicOp_enters (room : (s.ctx f.ctx).remoteUsed < 16) (hv : (s.ctx f.ctx).rdS f.ent.word sb = .ok v) (n : Nat) (w : Bool) {y : W64}
    (hy : (if n = atCasN then (s.ctx f.ctx).rdS f.ent.word sd else .ok 0#64) = .ok y) (aligned : a.toNat % (if w then 8 else 4) = 0) :
    atomicOp s n sd sa sb w disp = entersGated s f { Op.of f (.at n w) sd with
      addr := a.toNat, passed := false, b := v.toNat % 2 ^ (if w then 64 else 32), c := y.toNat % 2 ^ (if w then 64 else 32),
      pieces := [onePiece a.toNat (if w then 8 else 4) []] } :=
  issueOp_entersGated hf room (by
    have width : 8 * (if w then 8 else 4) = if w then 64 else 32 := by cases w <;> rfl
    simp only [free, ha, hv, hy, Eff.bind_ok, waitUnless_true, aligned, ne_eq, not_true, decide_false, trapIf_false, width])

end

/-! ## Barriers and constellations (R140, R147, R149) -/

section
variable {s : State} {f : Focus} {sd sa : SReg} {re : RegExt} {x m : W64} (hf : s.focus = some f) (free : s.cFree f.ctx = true)
include hf free

section
variable (hx : (s.ctx f.ctx).rdS f.ent.word sa = .ok x) (hm : (s.ctx f.ctx).rdRegExt f.ent.word re = .ok m)
include hx hm

theorem exec_barInit_range (hr : 2 ^ 41 ≤ x.toNat) : exec (.barInit sa re) s = .next (s.issueTrap f 0x04 x) :=
  (exec_barInit s).trans <| issueOp_trap hf (by simp only [gstGate free, hx, hm, Eff.bind_ok, checkBar_range hr])

theorem exec_barArr_range (hr : 2 ^ 41 ≤ x.toNat) : exec (.barArr sd sa re) s = .next (s.issueTrap f 0x04 x) :=
  (exec_barArr s).trans <| issueOp_trap hf (by simp only [gstGate free, hx, hm, Eff.bind_ok, checkBar_range hr])

section
variable (hr : x.toNat < 2 ^ 41) (ho : s.barOutside (s.ctx f.ctx) x.toNat = false) (aligned : x.toNat % 16 = 0)
  (room : (s.ctx f.ctx).remoteUsed < 16)
include hr ho aligned room

theorem exec_barInit_enters : exec (.barInit sa re) s = entersGated s f { Op.of f .barInit 0#5 with addr := x.toNat, b := max m.toNat 1 } :=
  (exec_barInit s).trans <| issueOp_entersGated hf room (by
    simp only [gstGate free, hx, hm, Eff.bind_ok, checkBar_ok hr ho aligned])

theorem exec_barArr_enters : exec (.barArr sd sa re) s = entersGated s f { Op.of f .barArr sd with addr := x.toNat, b := m.toNat } :=
  (exec_barArr s).trans <| issueOp_entersGated hf room (by
    simp only [gstGate free, hx, hm, Eff.bind_ok, checkBar_ok hr ho aligned])

end

theorem exec_publish_enters (room : (s.ctx f.ctx).remoteUsed < 16) : exec (.publish sd sa re) s =
    entersGated s f { Op.of f .publish sd with c := x.toNat % 2 ^ 24, b := m.toNat % 2 ^ 32 } :=
  (exec_publish s).trans <| issueOp_entersGated hf room (by simp only [gstGate free, hx, hm, Eff.bind_ok])

end

theorem exec_anchor_enters {hj : BitVec 2} {cid : CidSrc} {y : Nat} (hy : (s.ctx f.ctx).rdCid f.ent.word cid = .ok y) :
    exec (.anchor hj sd cid) s = enters s f { Op.of f (.anchor hj.toNat) sd with c := y } :=
  (exec_anchor s).trans <| issueOp_enters hf (by simp only [gstGate free, hy, Eff.bind_ok])

theorem exec_hznRel_clears {hj : BitVec 2} {h : W64} (hh : (s.ctx f.ctx).rdU f.ent.word (uHzn + hj.toNat) = .ok h) :
    exec (.hznRel hj none) s = issued s f ((s.ctx f.ctx).putU f.ent.id (uHzn + hj.toNat) (h &&& 0x7FFFFFFFFFFFFFFF#64)) :=
  (exec_hznRel s).trans <| onCtx_ok hf (by simp only [gstGate free, hh, Eff.bind_ok, if_true])

theorem exec_hznRel_clearsCid {hj : BitVec 2} {h : W64} (hh : (s.ctx f.ctx).rdU f.ent.word (uHzn + hj.toNat) = .ok h) (y : BitVec 24) :
    exec (.hznRel hj (some y)) s = issued s f ((s.ctx f.ctx).putU f.ent.id (uHzn + hj.toNat)
      (if (h >>> 32).setWidth 24 = y then h &&& 0x7FFFFFFFFFFFFFFF#64 else h)) :=
  (exec_hznRel s).trans <| onCtx_ok hf (by
    simp only [gstGate free, hh, Eff.bind_ok, horizonCid_eq_iff, decide_eq_true_eq])

end

/-! ## An operation that leaves its context as it was -/

theorem AMap.set_set {α : Type} (m : AMap α) (k : Nat) (u v : α) : AMap.set (AMap.set m k u) k v = AMap.set m k v := by
  induction m with
  | nil => simp [AMap.set]
  | cons p m ih =>
    obtain ⟨j, w⟩ := p
    by_cases hlt : k < j
    · simp [AMap.set, hlt]
    · by_cases heq : k = j
      · simp [AMap.set, heq]
      · simp [AMap.set, hlt, heq, ih]

theorem setCtx_setCtx (s : State) (k : Nat) (c d : Ctx) : (s.setCtx k c).setCtx k d = s.setCtx k d := by
  simp only [State.setCtx, AMap.set_set]

/-- To have made the context that it was is to have issued alone: the entry's leaving writes the context again. -/
theorem issued_same (s : State) (f : Focus) : issued s f (s.ctx f.ctx) = .next (s.retire f) := by
  unfold issued State.retire
  rw [setCtx_ctx_same, setCtx_now]
  exact congrArg (fun t : State => Host.Outcome.next (t.afterIssue f.ctx)) (setCtx_setCtx { s with focus := none } f.ctx _ _)

/-! ## Drains and quiescent points (R142, R143) -/

theorem gstFaults_nil {c : Ctx} {sc t : BitVec 3} (h : c.gstErr = [] ∨ sc = 0#3 ∨ t ≠ 0#3) : c.gstFaults sc t = [] := by
  obtain h | h | h := h <;> simp [Ctx.gstFaults, h]

section
variable {s : State} {f : Focus} {sc l t k : BitVec 3} {i : BitVec 4} (hf : s.focus = some f)
include hf

/-- A drain that waits for each store takes the first fault that a `gst` has reported (R137). -/
theorem exec_drain_fault {code : Nat} {rest : List Nat} (hg : (s.ctx f.ctx).gstErr = code :: rest) (hs : sc ≠ 0#3) (ht : t = 0#3)
    (ready : (s.ctx f.ctx).trapReady f.slot f.ent.word = true) : exec (.drain sc l t k i) s =
      .next ((s.setCtx f.ctx { s.ctx f.ctx with gstErr := rest }).preciseTrap f.ctx f.ent.word f.ent.pc 0x0C (BitVec.ofNat 64 code)) := by
  simp only [exec_drain, execDrain, hf, Ctx.gstFaults, hs, ht, ne_eq, not_false_eq_true, and_self, if_true, hg, ready]

section
variable (noFault : (s.ctx f.ctx).gstErr = [] ∨ sc = 0#3 ∨ t ≠ 0#3)
include noFault

theorem exec_drain_waits (h : l.toNat < (s.ctx f.ctx).loadsOut ∨ t.toNat < s.storesOut f.ctx sc.toNat ∨ k.toNat < (s.ctx f.ctx).copiesOut ∨
    i.toNat < (s.ctx f.ctx).tilesBefore f.ent.word s.now ∨ (s.ctx f.ctx).marksDone f.ent.word = false) :
    exec (.drain sc l t k i) s = waits s := by
  simp only [exec_drain, execDrain, hf, gstFaults_nil noFault]
  refine issueOp_wait hf ?_
  obtain h | h | h | h | h := h <;> simp [Nat.not_le.2, h]

section
variable (free : s.cFree f.ctx = true) (marks : (s.ctx f.ctx).marksDone f.ent.word = true) (loads : (s.ctx f.ctx).loadsOut ≤ l.toNat)
  (stores : s.storesOut f.ctx sc.toNat ≤ t.toNat) (copies : (s.ctx f.ctx).copiesOut ≤ k.toNat)
  (tiles : (s.ctx f.ctx).tilesBefore f.ent.word s.now ≤ i.toNat)
include free marks loads stores copies tiles

/-- A drain that finds its counts and its marks: only the tile count decides what it does. -/
theorem exec_drain_goesOn : exec (.drain sc l t k i) s = issueOp s fun f c =>
    if i = 0#4 then
      .ok (s.setCtx f.ctx { ((c.settleRows s.now).raise f.ent.id (c.settleRows s.now).mxf) with mxf := 0#8 })
    else .ok s := by
  simp only [exec_drain, execDrain, hf, gstFaults_nil noFault, issueOp, gstWaiting_of_cFree free, marks, loads, stores, copies, tiles, decide_true,
    Bool.not_false, Bool.and_self, waitUnless_true]

theorem exec_drain_issues (hi : i ≠ 0#4) : exec (.drain sc l t k i) s = issued s f (s.ctx f.ctx) := by
  rw [exec_drain_goesOn hf noFault free marks loads stores copies tiles, issued_same]
  exact issueOp_ok hf (if_neg hi)

/-- With a tile count of 0 the engine's flags go into fstat (R83). -/
theorem exec_drain_flags (hi : i = 0#4) : exec (.drain sc l t k i) s = issued s f
    { (((s.ctx f.ctx).settleRows s.now).raise f.ent.id ((s.ctx f.ctx).settleRows s.now).mxf) with mxf := 0#8 } := by
  rw [exec_drain_goesOn hf noFault free marks loads stores copies tiles]
  exact issueOp_ok hf (if_pos hi)

end
end

section
variable (free : s.cFree f.ctx = true) (passed : ∀ o ∈ (s.ctx f.ctx).ops, o.word < f.ent.word → o.passed = true)
include free passed

theorem exec_qpoint_passed : exec .qpoint s = issueOp s fun f c =>
    .ok (if s.sdPending (ctxCore f.ctx) then s.setCtx f.ctx { c with quiet := true, cHold := true } else s) := by
  have all_passed : ((s.ctx f.ctx).ops.all fun o => decide (f.ent.word ≤ o.word) || o.passed) = true :=
    List.all_eq_true.2 fun o ho => by
      by_cases h : f.ent.word ≤ o.word
      · simp [h]
      · simp [passed o ho (Nat.not_le.1 h)]
  simp only [exec_qpoint, execQpoint, hf, all_passed, gstWaiting_of_cFree free, Bool.not_true, Bool.or_self, Bool.false_eq_true, if_false]

theorem exec_qpoint_issues (calm : s.sdPending (ctxCore f.ctx) = false) : exec .qpoint s = .next (s.retire f) := by
  rw [exec_qpoint_passed hf free passed]
  exact issueOp_ok hf (by simp only [calm, Bool.false_eq_true, if_false])

theorem exec_qpoint_quiesces (pending : s.sdPending (ctxCore f.ctx) = true) :
    exec .qpoint s = issued s f { s.ctx f.ctx with quiet := true, cHold := true } := by
  rw [exec_qpoint_passed hf free passed]
  exact issueOp_ok hf (by simp only [pending, if_true])

end
end

/-- Settles O51, operation by operation: what the address, the operands and the entries found let each one do. -/
theorem globalAccessesIssue : Obligations.GlobalAccessesIssue := by
  unfold Obligations.GlobalAccessesIssue
  refine ⟨fun s f sd sa sb hj sz sx w disp hf busy => ?_, fun s f sd sa sb hj sz sx w disp re cid x v d m hf free hx hv hd hm => ?_⟩
  · rw [exec_gld, exec_gst, exec_cld, exec_atAdd, exec_atFadd, exec_atCas]
    exact ⟨globalAccess_held hf busy, globalAccess_held hf busy, globalAccess_held hf busy, atomicOp_held hf busy 0 w,
      atomicOp_held hf busy 1 false, atomicOp_held hf busy 10 w⟩
  · intro c n a len one
    have ha : (s.ctx f.ctx).gaddr f.ent.word sa disp = .ok a := gaddr_ok hx disp
    refine ⟨fun off => ⟨?_, ?_⟩, fun aligned => ⟨?_, fun room => ?_, fun h hh => ⟨fun hv => ?_, fun hv => ?_⟩⟩, ?atomics,
      fun hr => ⟨?_, ?_⟩, fun hr ho aligned room => ⟨?_, ?_⟩, fun room => ?_, fun y hy => ?_,
      fun h hh => ⟨?_, fun y => ?_⟩,
      fun sc l t k i => ⟨fun code rest hg hs ht ready => ?_, fun noFault h => ?_,
        fun noFault marks loads stores copies tiles => ⟨?_, ?_⟩⟩,
      fun passed => ⟨?_, ?_⟩⟩
    case atomics =>
      intro at' room
      have unconditional (k : Nat) (hk : k ≠ atCasN) (wide : Bool) (aligned : a.toNat % (if wide then 8 else 4) = 0) :
          atomicOp s k sd sa sb wide disp = entersGated s f (at' k wide 0) :=
        atomicOp_enters (y := 0#64) hf free ha room hv k wide (if_neg hk) aligned
      refine ⟨fun aligned => ⟨?_, ?_, ?_, ?_, ?_, ?_, ?_, ?_⟩, fun aligned => ⟨?_, ?_, ?_⟩⟩
      · exact (exec_atAdd s).trans (unconditional 0 (by decide) w aligned)
      · exact (exec_atMin s).trans (unconditional 2 (by decide) w aligned)
      · exact (exec_atMax s).trans (unconditional 3 (by decide) w aligned)
      · exact (exec_atAnd s).trans (unconditional 6 (by decide) w aligned)
      · exact (exec_atOr s).trans (unconditional 7 (by decide) w aligned)
      · exact (exec_atXor s).trans (unconditional 8 (by decide) w aligned)
      · exact (exec_atSwap s).trans (unconditional 9 (by decide) w aligned)
      · exact (exec_atCas s).trans (atomicOp_enters hf free ha room hv 10 w ((if_pos rfl).trans hd) aligned)
      · exact (exec_atFadd s).trans (unconditional 1 (by decide) false aligned)
      · exact (exec_atFmin s).trans (unconditional 4 (by decide) false aligned)
      · exact (exec_atFmax s).trans (unconditional 5 (by decide) false aligned)
    · exact exec_gld_misaligned hf free ha off
    · exact exec_gst_misaligned hf free ha off hv
    · exact exec_gld_enters hf free ha aligned
    · exact exec_gst_enters hf free ha aligned room hv
    · exact exec_cld_enters hf free ha aligned hh hv
    · exact exec_cld_invalid hf free ha aligned hh hv
    · exact exec_barInit_range hf free hx hm hr
    · exact exec_barArr_range hf free hx hm hr
    · exact exec_barInit_enters hf free hx hm hr ho aligned room
    · exact exec_barArr_enters hf free hx hm hr ho aligned room
    · exact exec_publish_enters hf free hx hm room
    · exact exec_anchor_enters hf free hy
    · exact exec_hznRel_clears hf free hh
    · exact exec_hznRel_clearsCid hf free hh y
    · exact exec_drain_fault hf hg hs ht ready
    · exact exec_drain_waits hf noFault h
    · exact exec_drain_issues hf noFault free marks loads stores copies tiles
    · exact exec_drain_flags hf noFault free marks loads stores copies tiles
    · exact exec_qpoint_issues hf free passed
    · exact exec_qpoint_quiesces hf free passed

end Sys2Proof.Machine

end

section
/-!
PROOFS. The mask instructions, O43.
-/

namespace Sys2Proof.Machine

section
variable {s : State} {f : Focus} {ma mb : MReg} {x y : W64} (hf : s.focus = some f)
include hf

theorem maskBin_ok (md : MReg) (hx : (s.ctx f.ctx).rdM f.ent.word ma = .ok x) (hy : (s.ctx f.ctx).rdM f.ent.word mb = .ok y)
    (g : W64 → W64 → W64) : maskBin s md ma mb g = wroteM s f md (g x y) :=
  onCtx_ok hf (by simp only [hx, hy, Eff.bind_ok])

theorem exec_mpop_ok (sd : SReg) (hx : (s.ctx f.ctx).rdM f.ent.word ma = .ok x) :
    exec (.mpop sd ma) s = wroteS s f sd (BitVec.ofNat 64 ((List.range 64).filter fun i => x.getLsbD i).length) := by
  rw [exec_mpop, ← popcNat_toNat]
  exact onCtx_ok hf (by simp only [hx, Eff.bind_ok])

end

/-- m0 holds ones (R39), so that `mandn` of it inverts a mask. -/
theorem exec_mandn_m0 {s : State} {f : Focus} {mb : MReg} {y : W64} (hf : s.focus = some f) (md : MReg)
    (hy : (s.ctx f.ctx).rdM f.ent.word mb = .ok y) : exec (.mandn md 0#3 mb) s = wroteM s f md (~~~y) := by
  have ones : (s.ctx f.ctx).rdM f.ent.word 0#3 = .ok (BitVec.allOnes 64) := if_pos rfl
  rw [← BitVec.allOnes_and (x := ~~~y)]
  exact maskBin_ok hf md ones hy fun a b => a &&& ~~~b

/-- Settles O43: the encodings as the encoder gives them, and each operation on the two masks that it reads. -/
theorem maskOperationResults : Obligations.MaskOperationResults := by
  unfold Obligations.MaskOperationResults
  refine ⟨fun md ma mb sd => ⟨rfl, rfl, rfl, rfl, rfl⟩, fun s f md ma mb sd x y hf hx hy => ?_⟩
  have binary := maskBin_ok hf md hx hy
  exact ⟨binary (· &&& ·), binary (· ||| ·), binary (· ^^^ ·), binary fun a b => a &&& ~~~b, exec_mandn_m0 hf md hy,
    exec_mpop_ok hf sd hx⟩

end Sys2Proof.Machine

end

section
/-!
PROOFS. The sort stage, O36.
-/

namespace Sys2Proof.Machine

/-! ## The order of keys (R169) -/

section
variable {t : Tag} {a b : W32} (asc : Bool) (p q : W32)

theorem precedes_of_below (h : keyCmp t a b = -1) : precedes t asc a p b q = asc := by
  cases asc <;> simp [precedes, h]

theorem precedes_of_above (h : keyCmp t a b = 1) : precedes t asc a p b q = !asc := by
  cases asc <;> simp [precedes, h]

/-- Equal keys go by the payload, whatever the order. -/
theorem precedes_of_equal (h : keyCmp t a b = 0) : precedes t asc a p b q = decide (p.toNat < q.toNat) := by
  cases asc <;> simp [precedes, h]

end

theorem keyCmp_i32 (a b : W32) : keyCmp tI32 a b = if a.toInt < b.toInt then -1 else if a.toInt = b.toInt then 0 else 1 :=
  if_neg (by decide)

theorem keyCmp_i32_self (a : W32) : keyCmp tI32 a a = 0 := by simp [keyCmp_i32]

theorem keyCmp_i32_below {a b : W32} (h : a.toInt < b.toInt) : keyCmp tI32 a b = -1 := (keyCmp_i32 a b).trans (if_pos h)

theorem keyCmp_i32_above {a b : W32} (h : a.toInt < b.toInt) : keyCmp tI32 b a = 1 := by
  rw [keyCmp_i32, if_neg (by omega), if_neg (by omega)]

theorem decode_fmt32_nan {x : W32} (h : x.toNat % 2 ^ 31 > 0x7F800000) : (fmt32.decode x.toNat).isNan = true :=
  congrArg XV.isNan (dec32_nan false h)

/-- An infinity or below: no fraction beside the highest exponent. -/
theorem decode_fmt32_number {x : W32} (h : x.toNat % 2 ^ 31 ≤ 0x7F800000) : (fmt32.decode x.toNat).isNan = false := by
  by_cases top : bits x.toNat 23 8 = 255
  · have fr : bits x.toNat 0 23 = 0 := by simp only [bits] at top ⊢; omega
    simp [Fmt.decode, Fmt.noInf, fmt32, top, fr, XV.isNan]
  · by_cases low : bits x.toNat 23 8 = 0 <;> simp [Fmt.decode, Fmt.noInf, fmt32, top, low, XV.isNan]

section
variable {a b : W32} (ha : a.toNat % 2 ^ 31 > 0x7F800000)
include ha

theorem keyCmp_f32_nan_nan (hb : b.toNat % 2 ^ 31 > 0x7F800000) : keyCmp tF32 a b = 0 := by
  simp [keyCmp, decode_fmt32_nan ha, decode_fmt32_nan hb]

theorem keyCmp_f32_nan_number (hb : b.toNat % 2 ^ 31 ≤ 0x7F800000) : keyCmp tF32 a b = 1 := by
  simp [keyCmp, decode_fmt32_nan ha, decode_fmt32_number hb]

theorem keyCmp_f32_number_nan (hb : b.toNat % 2 ^ 31 ≤ 0x7F800000) : keyCmp tF32 b a = -1 := by
  simp [keyCmp, decode_fmt32_nan ha, decode_fmt32_number hb]

end

/-! ## Compare-exchange (R171) -/

/-- The order in which lane `l` is compared: the flip bit reverses it. -/
def stageOrder (asc : Bool) (flip l : Nat) : Bool := if flip ≠ 0 ∧ l / 2 ^ flip % 2 = 1 then !asc else asc

theorem bne_flip_eq_stageOrder (asc : Bool) (flip l : Nat) :
    (asc != (decide (flip ≠ 0) && bitAt l flip)) = stageOrder asc flip l := by
  rw [bitAt, ← Bool.decide_and, stageOrder]
  split <;> simp [*]

/-- The partner of a lane below 64 is below 64, and has the bit of the distance set. -/
theorem partner_of_clear {l dist : Nat} (hd : dist ≤ 5) (hl : l < 64) (clear : l / 2 ^ dist % 2 = 0) :
    l + 2 ^ dist < 64 ∧ bitAt (l + 2 ^ dist) dist = true := by
  constructor
  · interval_cases dist <;> omega
  · rw [bitAt, Nat.add_div_right l (Nat.two_pow_pos dist)]
    exact decide_eq_true (by omega)

/-- Whether lane `l` changes places with its partner. -/
def exchanges (t : Tag) (asc : Bool) (dist flip : Nat) (ks ps : VBits) (l : Nat) : Bool :=
  precedes t (stageOrder asc flip l) (lane ks (l + 2 ^ dist)) (lane ps (l + 2 ^ dist)) (lane ks l) (lane ps l)

/-- The lane whose element lane `l` takes. -/
def exchangeSource (t : Tag) (asc : Bool) (dist flip : Nat) (ks ps : VBits) (l : Nat) : Nat :=
  if bitAt l dist then (if exchanges t asc dist flip ks ps (l - 2 ^ dist) then l - 2 ^ dist else l)
  else if exchanges t asc dist flip ks ps l then l + 2 ^ dist else l

section
variable (t : Tag) (asc : Bool) (dist flip : Nat) (ks ps : VBits)

theorem ceStage_eq : ceStage t asc dist flip ks ps =
    (ofLanes ((List.range 64).map fun l => lane ks (exchangeSource t asc dist flip ks ps l)),
      ofLanes ((List.range 64).map fun l => lane ps (exchangeSource t asc dist flip ks ps l))) := by
  simp only [ceStage, bne_flip_eq_stageOrder]
  rfl

variable {dist} {l : Nat} (clear : l / 2 ^ dist % 2 = 0)
include clear

theorem exchangeSource_lower : exchangeSource t asc dist flip ks ps l =
    if exchanges t asc dist flip ks ps l then l + 2 ^ dist else l :=
  if_neg (by simp [bitAt, clear])

variable (hd : dist ≤ 5) (hl : l < 64)
include hd hl

theorem exchangeSource_upper : exchangeSource t asc dist flip ks ps (l + 2 ^ dist) =
    if exchanges t asc dist flip ks ps l then l else l + 2 ^ dist := by
  rw [exchangeSource, if_pos (partner_of_clear hd hl clear).2, Nat.add_sub_cancel]

/-- Key and payload of a lane and of its partner change places together, or stay. -/
theorem ceStage_lanes :
    let h := l + 2 ^ dist
    let ks' := (ceStage t asc dist flip ks ps).1
    let ps' := (ceStage t asc dist flip ks ps).2
    if exchanges t asc dist flip ks ps l = true then
      lane ks' l = lane ks h ∧ lane ps' l = lane ps h ∧ lane ks' h = lane ks l ∧ lane ps' h = lane ps l
    else lane ks' l = lane ks l ∧ lane ps' l = lane ps l ∧ lane ks' h = lane ks h ∧ lane ps' h = lane ps h := by
  have hh := (partner_of_clear hd hl clear).1
  simp only [ceStage_eq, lane_ofLanes _ hl, lane_ofLanes _ hh, exchangeSource_lower t asc flip ks ps clear,
    exchangeSource_upper t asc flip ks ps clear hd hl]
  cases exchanges t asc dist flip ks ps l <;> exact ⟨rfl, rfl, rfl, rfl⟩

end

/-! ## The operations -/

section
variable {s : State} {f : Focus} (hf : s.focus = some f)
include hf

theorem exec_srtIota_ok (vd : VReg) (c : BitVec 11) : exec (.srtIota vd c) s =
    wroteV s f vd (ofLanes ((List.range 64).map fun j => BitVec.ofNat 32 (64 * c.toNat + j))) := by
  rw [exec_srtIota]
  exact onCtx_ok hf rfl

theorem sortCe_ok {vk : BitVec 4} {ks ps : VBits} {t : Tag} (hk : (s.ctx f.ctx).rdV f.ent.word (vk ++ 0#1) = .ok ks)
    (hp : (s.ctx f.ctx).rdV f.ent.word (vk ++ 1#1) = .ok ps) (ht : (s.ctx f.ctx).rdVt f.ent.word (vk ++ 0#1) = .ok t)
    (asc : Bool) (dist flip : BitVec 3) : sortCe s asc vk dist flip =
      issued s f (((s.ctx f.ctx).putV f.ent.id (vk ++ 0#1) (ceStage t asc dist.toNat flip.toNat ks ps).1).putV f.ent.id (vk ++ 1#1)
        (ceStage t asc dist.toNat flip.toNat ks ps).2) :=
  onCtx_ok hf (by simp only [hk, hp, ht, Eff.bind_ok])

end

theorem exec_srtCe (s : State) (asc : Bool) (vk : BitVec 4) (dist flip : BitVec 3) :
    exec (if asc then .srtCeA vk dist flip else .srtCeD vk dist flip) s = sortCe s asc vk dist flip := by
  cases asc
  · exact exec_srtCeD s
  · exact exec_srtCeA s

/-- Lane by lane the second register's where `sw` says so, and else the first's. -/
def pickLanes (sw : Nat → Bool) (x y : VBits) : VBits := ofLanes ((List.range 64).map fun j => if sw j then lane y j else lane x j)

theorem lane_pickLanes (sw : Nat → Bool) (x y : VBits) {j : Nat} (h : j < 64) :
    lane (pickLanes sw x y) j = if sw j then lane y j else lane x j := lane_ofLanes _ h

/-- Picked both ways, key and payload of lane `j` change places between two pairs together, or stay. -/
theorem pickLanes_exchange (sw : Nat → Bool) (ka pa kb pb : VBits) {j : Nat} (h : j < 64) :
    let ka' := pickLanes sw ka kb
    let pa' := pickLanes sw pa pb
    let kb' := pickLanes sw kb ka
    let pb' := pickLanes sw pb pa
    if sw j = true then lane ka' j = lane kb j ∧ lane pa' j = lane pb j ∧ lane kb' j = lane ka j ∧ lane pb' j = lane pa j
    else lane ka' j = lane ka j ∧ lane pa' j = lane pa j ∧ lane kb' j = lane kb j ∧ lane pb' j = lane pb j := by
  simp only [lane_pickLanes sw _ _ h]
  cases sw j <;> exact ⟨rfl, rfl, rfl, rfl⟩

/-- Whether the element of lane `j` in the second pair comes first in descending order (R172). -/
def topSwaps (t : Tag) (ka pa kb pb : VBits) (j : Nat) : Bool := precedes t false (lane kb j) (lane pb j) (lane ka j) (lane pa j)

theorem exec_srtTop_ok {s : State} {f : Focus} {va vb : BitVec 4} {ka pa kb pb : VBits} {t : Tag} (hf : s.focus = some f)
    (hka : (s.ctx f.ctx).rdV f.ent.word (va ++ 0#1) = .ok ka) (hpa : (s.ctx f.ctx).rdV f.ent.word (va ++ 1#1) = .ok pa)
    (hkb : (s.ctx f.ctx).rdV f.ent.word (vb ++ 0#1) = .ok kb) (hpb : (s.ctx f.ctx).rdV f.ent.word (vb ++ 1#1) = .ok pb)
    (ht : (s.ctx f.ctx).rdVt f.ent.word (va ++ 0#1) = .ok t) :
    let sw := topSwaps t ka pa kb pb
    exec (.srtTop va vb) s = issued s f (((((s.ctx f.ctx).putV f.ent.id (va ++ 0#1) (pickLanes sw ka kb)).putV f.ent.id (va ++ 1#1)
      (pickLanes sw pa pb)).putV f.ent.id (vb ++ 0#1) (pickLanes sw kb ka)).putV f.ent.id (vb ++ 1#1) (pickLanes sw pb pa)) := by
  rw [exec_srtTop]
  exact onCtx_ok hf (by simp only [hka, hpa, hkb, hpb, ht, Eff.bind_ok]; rfl)

/-- Settles O36: the lanes of each operation's result, and the order that they go by. -/
theorem sortStageResults : Obligations.SortStageResults := by
  unfold Obligations.SortStageResults
  refine ⟨fun s f vd c hf => ⟨_, exec_srtIota_ok hf vd c, fun j hj => lane_ofLanes _ hj⟩,
    fun s f vk dist flip ks ps t hf hd _ hk hp ht asc => ?exchange,
    fun s f va vb ka pa kb pb t hf hka hpa hkb hpb ht => ?top,
    fun a b p q => ⟨fun below => ?lt, ?same, ?same', fun ha hb => ?nan⟩⟩
  case exchange =>
    exact ⟨_, _, (exec_srtCe s asc vk dist flip).trans (sortCe_ok hf hk hp ht asc dist flip),
      fun l hl clear => ceStage_lanes t asc flip.toNat ks ps clear hd hl⟩
  case top =>
    exact ⟨_, _, _, _, exec_srtTop_ok hf hka hpa hkb hpb ht, fun j hj => pickLanes_exchange (topSwaps t ka pa kb pb) ka pa kb pb hj⟩
  case lt =>
    exact ⟨precedes_of_below _ p q (keyCmp_i32_below below), precedes_of_above _ p q (keyCmp_i32_above below),
      precedes_of_above _ p q (keyCmp_i32_above below)⟩
  case same => exact precedes_of_equal true p q (keyCmp_i32_self a)
  case same' => exact precedes_of_equal false p q (keyCmp_i32_self a)
  case nan =>
    exact ⟨precedes_of_above _ p q (keyCmp_f32_nan_number ha hb), precedes_of_below _ p q (keyCmp_f32_number_nan ha hb),
      precedes_of_equal _ p q (keyCmp_f32_nan_nan ha ha)⟩

end Sys2Proof.Machine

end

section
/-!
PROOFS. Configuration and permits of the matrix engine, O46.
-/

namespace Sys2Proof.Machine

/-! ## An operation that waits for the rest of its word -/

section
variable {s : State} {f : Focus} {check : Focus → Ctx → Eff Unit} {k : Focus → Ctx → Eff State} (hf : s.focus = some f)
  (hc : check f (s.ctx f.ctx) = .ok ())
include hf hc

theorem afterRest_passes (h : (s.ctx f.ctx).allIssuedBefore f.ent.word = false ∨ (s.ctx f.ctx).othersIssued f.slot f.ent.word = false) :
    afterRest s check k = passes s f := by
  simp only [afterRest, hf, hc, Bool.and_eq_false_iff.2 h]
  rfl

theorem afterRest_performs (hb : (s.ctx f.ctx).allIssuedBefore f.ent.word = true)
    (ho : (s.ctx f.ctx).othersIssued f.slot f.ent.word = true) : afterRest s check k = issueOp s k := by
  simp only [afterRest, hf, hc, hb, ho, Bool.and_self, if_true]

end

/-! ## Configuration (R179) -/

theorem execMxCfg_ext {s : State} {f : Focus} (hf : s.focus = some f) (v : BitVec 10) :
    execMxCfg (.ext v) s = issued s f ((s.ctx f.ctx).putU f.ent.id uMxc (v.setWidth 64)) := onCtx_ok hf rfl

theorem execMxCfg_reg {s : State} {f : Focus} {sa : SReg} {x : W64} (hf : s.focus = some f)
    (hx : (s.ctx f.ctx).rdS f.ent.word sa = .ok x) : execMxCfg (.reg sa) s =
      issued s f ((s.ctx f.ctx).putU f.ent.id uMxc (BitVec.ofNat 64 (x.toNat % 1024))) := by
  have low : x &&& 0x3FF#64 = BitVec.ofNat 64 (x.toNat % 1024) := BitVec.eq_of_toNat_eq <|
    calc (x &&& 0x3FF#64).toNat = x.toNat &&& (2 ^ 10 - 1) := BitVec.toNat_and ..
      _ = x.toNat % 2 ^ 10 := Nat.and_two_pow_sub_one_eq_mod x.toNat 10
      _ = (BitVec.ofNat 64 (x.toNat % 1024)).toNat := (Nat.mod_eq_of_lt (by omega)).symm
  rw [← low]
  exact onCtx_ok hf (by simp only [Ctx.cfgVal, hx, Eff.bind_ok])

theorem mxcRows_setWidth (v : BitVec 10) : mxcRows (v.setWidth 64) = v.toNat % 128 + 1 := by
  rw [mxcRows_eq, BitVec.toNat_setWidth_of_le (by decide)]

theorem mxcGroups_setWidth (v : BitVec 10) : mxcGroups (v.setWidth 64) = v.toNat / 128 + 1 := by
  rw [mxcGroups_eq, BitVec.toNat_setWidth_of_le (by decide), Nat.mod_eq_of_lt (by omega)]

/-! ## Releasing a permit and granting one (R177, R178, R366) -/

section
variable {s : State} {k : Nat} {p : Permit}

theorem dropPermit_none (h : (s.ctx k).permit = none) : s.dropPermit k = s := by
  simp only [State.dropPermit, h]

theorem dropPermit_granted (h : (s.ctx k).permit = some p) (hg : p.granted = true) : s.dropPermit k =
    (s.setCtx k { s.ctx k with permit := none }).setDie (clusterDie (ctxCluster k))
      { s.die (clusterDie (ctxCluster k)) with held := (s.die (clusterDie (ctxCluster k))).held - 2 ^ p.lvl } := by
  simp only [State.dropPermit, h, hg, if_true, permitCost]

theorem dropPermit_pending (h : (s.ctx k).permit = some p) (hg : p.granted = false) : s.dropPermit k =
    (s.setCtx k { (s.ctx k).putTok p.id (token 1 0) with permit := none }).setDie (clusterDie (ctxCluster k))
      { s.die (clusterDie (ctxCluster k)) with
        queue := (s.die (clusterDie (ctxCluster k))).queue.filter fun q => decide (q.1 ≠ k) } := by
  simp only [State.dropPermit, h, hg, Bool.false_eq_true, if_false]

end

section
variable {s : State} {d k id lvl : Nat} {rest : List (Nat × Nat × Nat)} (hq : (s.die d).queue = (k, id, lvl) :: rest)
include hq

theorem execPermitGrant_holds (h : (s.die d).hold = true ∨ (s.die d).budget < (s.die d).held + 2 ^ lvl) :
    execPermitGrant d s = .next s := by
  have holds : ((s.die d).hold || decide ((s.die d).budget < (s.die d).held + permitCost lvl)) = true := by
    rwa [Bool.or_eq_true, decide_eq_true_eq]
  simp only [execPermitGrant, hq, holds, if_true]

theorem execPermitGrant_grants (hh : (s.die d).hold = false) (fits : (s.die d).held + 2 ^ lvl ≤ (s.die d).budget) :
    execPermitGrant d s = .next ((s.setDie d { s.die d with queue := rest, held := (s.die d).held + 2 ^ lvl }).setCtx k
      { (s.ctx k).putTok id (token 0 lvl) with permit := (s.ctx k).permit.map fun p => { p with granted := true } }) := by
  have grants : ((s.die d).hold || decide ((s.die d).budget < (s.die d).held + permitCost lvl)) = false := by
    rw [hh, Bool.false_or]
    exact decide_eq_false (Nat.not_lt.2 fits)
  simp only [execPermitGrant, hq, grants, Bool.false_eq_true, if_false]
  rfl

end

section
variable {s : State} {f : Focus} (hf : s.focus = some f)
include hf

section
variable (h : (s.ctx f.ctx).allIssuedBefore f.ent.word = false ∨ (s.ctx f.ctx).othersIssued f.slot f.ent.word = false)
include h

theorem execMxPermit_passes (sd : SReg) (lvl : BitVec 2) : execMxPermit sd lvl s = passes s f := afterRest_passes hf rfl h

theorem execMxRel_passes : execMxRel s = passes s f := afterRest_passes hf rfl h

end

section
variable (hb : (s.ctx f.ctx).allIssuedBefore f.ent.word = true) (ho : (s.ctx f.ctx).othersIssued f.slot f.ent.word = true)
include hb ho

theorem execMxRel_releases : execMxRel s = .next ((s.dropPermit f.ctx).retire f) :=
  (afterRest_performs hf rfl hb ho).trans (issueOp_ok hf rfl)

theorem execMxPermit_requests (sd : SReg) (lvl : BitVec 2) :
    let u := s.dropPermit f.ctx
    let d := clusterDie (ctxCluster f.ctx)
    execMxPermit sd lvl s = .next (((u.setCtx f.ctx { u.ctx f.ctx with permit := some ⟨f.ent.id, lvl.toNat, false⟩ }).setDie d
      { u.die d with queue := (u.die d).queue ++ [(f.ctx, f.ent.id, lvl.toNat)] }).retire f) :=
  (afterRest_performs hf rfl hb ho).trans (issueOp_ok hf rfl)

end
end

theorem token_zero (low : Nat) : token 0 low = BitVec.ofNat 64 (2 ^ 63 + low) := by
  rw [token, tokDone, Nat.zero_mul, Nat.add_zero]

/-- Settles O46: configuration at issue, permits once the rest of the word has issued, and the governor by what is left of its
budget. -/
theorem matrixConfigurationAndPermits : Obligations.MatrixConfigurationAndPermits := by
  unfold Obligations.MatrixConfigurationAndPermits
  refine ⟨fun s f sd sa lvl v x hf => ⟨⟨_, execMxCfg_ext hf v, mxcRows_setWidth v, mxcGroups_setWidth v⟩, execMxCfg_reg hf,
      fun h => ⟨execMxPermit_passes hf h sd lvl, execMxRel_passes hf h⟩,
      fun hb ho => ⟨execMxRel_releases hf hb ho, execMxPermit_requests hf hb ho sd lvl⟩⟩,
    fun s k p => ⟨dropPermit_none, dropPermit_granted, dropPermit_pending⟩, fun s d k id lvl rest hq =>
      ⟨execPermitGrant_holds hq, fun hh fits => ?_⟩⟩
  rw [← token_zero]
  exact execPermitGrant_grants hq hh fits

end Sys2Proof.Machine

end

section
/-!
PROOFS. Weight registers of the matrix engine, O47.
-/

namespace Sys2Proof.Machine

/-! ## Weight registers (R173, R181) -/

section
variable {c : Ctx} {f : Focus} {w : Nat} {t : Tag} (m : List (List XV)) (rd : Nat)

theorem writeW_f32 (ht : t = tF32) : c.writeW f w t m rd =
    .ok ((c.postW f w ⟨t, false, m, rd, [], 0⟩).postW f (w + 1) ⟨tRAW, false, [], rd, [], 0⟩) := by
  simp only [Ctx.writeW, ht, if_true, WReg.blank]

theorem writeW_even (ht : t ≠ tF32) (hw : w % 2 = 0) : c.writeW f w t m rd = .ok (c.postW f w ⟨t, false, m, rd, [], 0⟩) := by
  simp only [Ctx.writeW, ht, hw, if_false, Nat.zero_ne_one]

/-- The even register before an odd one keeps its tag where it holds no FP32 values. -/
theorem writeW_odd {e : WReg} (ht : t ≠ tF32) (hw : w % 2 = 1) (he : c.rdW f.ent.word (w - 1) = .ok e) (hte : e.tag ≠ tF32) :
    c.writeW f w t m rd = .ok (c.postW f w ⟨t, false, m, rd, [], 0⟩) := by
  simp only [Ctx.writeW, ht, hw, he, hte, if_true, if_false, Eff.bind_ok]

end

theorem mAt_transposeM (m : List (List XV)) {r e : Nat} (hr : r < 128) (he : e < 128) : mAt (transposeM m) r e = mAt m e r := by
  simp [mAt, transposeM, hr, he]

theorem mAt_wMatrix_transposed (t : Tag) (tbl : List W32) {rows : List (List Byte)} {r : Nat} (hr : r < rows.length) (e : Nat) :
    mAt (wMatrix t tbl true rows) r e = (segElems t tbl (rows.getD r [])).getD e XV.zero := by
  simp [mAt, wMatrix, hr]

/-- A load that does not transpose is the transposed one with rows and columns exchanged. -/
theorem mAt_wMatrix_plain (t : Tag) (tbl : List W32) {rows : List (List Byte)} {r e : Nat} (hl : rows.length = 128) (hr : r < 128)
    (he : e < 128) : mAt (wMatrix t tbl false rows) e r = (segElems t tbl (rows.getD r [])).getD e XV.zero :=
  (mAt_transposeM _ he hr).trans (mAt_wMatrix_transposed t tbl (hl ▸ hr) e)

/-- A weight register may be read or written at cycle `now`. -/
def Ctx.weightReady (c : Ctx) (n now w : Nat) : Prop := ∃ x, c.rdW n w = .ok x ∧ x.ready ≤ now

theorem wIsReady_ok {α : Type} {c : Ctx} {n now : Nat} {ws : List Nat} (h : ∀ w ∈ ws, c.weightReady n now w) (k : Eff α) :
    wIsReady c n now ws k = k := by
  induction ws with
  | nil => rfl
  | cons w ws ih =>
    obtain ⟨⟨x, hx, hr⟩, rest⟩ := List.forall_mem_cons.1 h
    simp only [wIsReady, hx, hr, Eff.bind_ok, decide_true, waitUnless_true]
    exact ih rest

theorem forall_wTouched {P : Nat → Prop} {w : Nat} {t : Tag} (h : P w) (pair : t = tF32 → P (w + 1)) : ∀ i ∈ wTouched w t, P i := by
  unfold wTouched
  split
  · next ht => exact List.forall_mem_cons.2 ⟨h, List.forall_mem_singleton.2 (pair ht)⟩
  · exact List.forall_mem_singleton.2 h

/-! ## Rows of scratchpad that do not trap or wait (R180, R350) -/

theorem checkRows_ok {α : Type} {c : Ctx} {len : Nat} {as : List Int} (h : ∀ a ∈ as, c.outside a len = false ∧ a % 16 = 0)
    (k : Eff α) : checkRows c len as k = k := by
  induction as with
  | nil => rfl
  | cons a as ih =>
    obtain ⟨⟨inside, aligned⟩, rest⟩ := List.forall_mem_cons.1 h
    exact (checkAligned_ok inside aligned _).trans (ih rest)

theorem eccRows_ok {α : Type} {s : State} {core len : Nat} {as : List Nat} (h : ∀ a ∈ as, (s.core core).eccAt a len = none)
    (k : Eff α) : s.eccRows core len as k = k := by
  induction as with
  | nil => rfl
  | cons a as ih =>
    obtain ⟨sound, rest⟩ := List.forall_mem_cons.1 h
    simp only [State.eccRows, sound]
    exact ih rest

theorem eccAt_of_empty {co : Core} (h : co.ecc = []) (a len : Nat) : co.eccAt a len = none := by
  simp only [Core.eccAt, h, List.find?_nil]

/-- A read of `rs` in word `n` waits for the store of entry `e`. -/
def Ctx.awaitsStore (c : Ctx) (n : Nat) (rs : List (Int × Nat)) (e : Entry) : Bool :=
  decide (e.word < n) && isSpStore e.op &&
    match c.storeRanges e.word e.op with
    | .ok ws => ws.any fun w => rs.any (rangesMeet w)
    | _ => true

section
variable {c : Ctx} {n : Nat} {rs : List (Int × Nat)}

theorem storesPending_eq_false_iff :
    c.storesPending n rs = false ↔ ∀ k ∈ [1, 2], ∀ e ∈ c.queue k, c.awaitsStore n rs e = false := by
  have unfolded : c.storesPending n rs = [1, 2].any fun k => (c.queue k).any (c.awaitsStore n rs) := rfl
  simp only [unfolded, List.any_eq_false, Bool.not_eq_true]

/-- An entry awaited for several ranges is awaited for one of them. -/
theorem awaitsStore_of_each {e : Entry} (ne : rs ≠ []) (h : ∀ r ∈ rs, c.awaitsStore n [r] e = false) :
    c.awaitsStore n rs e = false := by
  obtain ⟨r, hr⟩ := List.exists_mem_of_ne_nil rs ne
  unfold Ctx.awaitsStore at h ⊢
  cases hs : c.storeRanges e.word e.op with
  | ok ws =>
    simp only [hs, Bool.and_eq_false_imp, List.any_eq_false, List.any_cons, List.any_nil, Bool.or_false] at h ⊢
    exact fun store w hw meets => by
      obtain ⟨r, hr, meet⟩ := List.any_eq_true.1 meets
      exact h r hr store w hw meet
  | wait => simpa only [hs] using h r hr
  | late => simpa only [hs] using h r hr
  | trap cause val => simpa only [hs] using h r hr

theorem storesPending_of_each (ne : rs ≠ []) (h : ∀ r ∈ rs, c.storesPending n [r] = false) : c.storesPending n rs = false :=
  storesPending_eq_false_iff.2 fun k hk e he => awaitsStore_of_each ne fun r hr => storesPending_eq_false_iff.1 (h r hr) k hk e he

end

/-! ## Loading weights (R180) -/

/-- Address of row `r` of a load. -/
def weightRow (b st : BitVec 24) (disp : Option Ext) (r : Nat) : Int := b.toNat + dispOf disp + r * st.toInt

theorem rowAddrs_weightRow (b st : BitVec 24) (disp : Option Ext) (n : Nat) :
    rowAddrs (b.toNat + dispOf disp) st.toInt n = (List.range n).map (weightRow b st disp) := rfl

theorem forall_weightRows {P : Int → Prop} {b st : BitVec 24} {disp : Option Ext} (h : ∀ r, r < 128 → P (weightRow b st disp r)) :
    ∀ a ∈ (List.range 128).map (weightRow b st disp), P a :=
  List.forall_mem_map.2 fun r hr => h r (List.mem_range.1 hr)

section
variable {s : State} {f : Focus} {wd : BitVec 2} {aj : AReg} {t : Tag} {disp : Option Ext} {tr : Bool} {b st : BitVec 24}
  {tbl : List W32} (hf : s.focus = some f) (ha : (s.ctx f.ctx).rdA f.ent.word aj = .ok (b, st))
  (ready : ∀ w ∈ wTouched wd.toNat t, (s.ctx f.ctx).weightReady f.ent.word s.now w)
include hf ha ready

theorem weightLoad_ok {c' : Ctx} (ht : s.tblFor f.ctx f.ent.word t = .ok tbl)
    (hr : ∀ r, r < 128 → s.readable f (weightRow b st disp r) (rowBytes t) 16)
    (hw : (s.ctx f.ctx).writeW f wd.toNat t (wMatrix t tbl tr ((List.range 128).map fun r =>
      s.spRead f.ctx f.ent.word (weightRow b st disp r).toNat (rowBytes t))) (s.now + wReady t) = .ok c') :
    weightLoad s wd aj t disp tr = issued s f c' := by
  have rows : ∀ a ∈ (List.range 128).map (weightRow b st disp), s.readable f a (rowBytes t) 16 := forall_weightRows hr
  have free : (((List.range 128).map (weightRow b st disp)).any fun a => (s.ctx f.ctx).wmStall a.toNat (rowBytes t)) = false :=
    List.any_eq_false.2 fun a ha => by
      obtain ⟨-, -, -, unstalled, -⟩ := rows a ha
      simp [unstalled]
  have clear : (s.ctx f.ctx).storesPending f.ent.word (((List.range 128).map (weightRow b st disp)).map fun a => (a, rowBytes t)) =
      false := by
    refine storesPending_of_each (by simp) (List.forall_mem_map.2 fun a ha => ?_)
    obtain ⟨-, -, clear, -⟩ := rows a ha
    exact clear
  refine issueOp_ok hf ?_
  simp only [ha, Eff.bind_ok, rowAddrs_weightRow]
  rw [checkRows_ok fun a ha => ?_, wIsReady_ok ready, clear, free, Bool.not_false, Bool.and_self, waitUnless_true,
    eccRows_ok (List.forall_mem_map.2 fun a ha => ?_), ht, Eff.bind_ok, List.map_map]
  · exact congrArg (fun x => Eff.bind x _) hw
  · obtain ⟨-, -, -, -, sound⟩ := rows a ha
    exact sound
  · obtain ⟨inside, aligned, -⟩ := rows a ha
    exact ⟨inside, aligned⟩

/-- What `mx.ldr` does once the rows of its stage have come. -/
def ldrLoad (s : State) (n src : Nat) (wd : BitVec 2) (t : Tag) (tr : Bool) (g : Stage) (rows : List (List Byte)) : Out :=
  issueOp s fun f c => s.eccRows src (rowBytes t) g.addrs <| (s.tblFor f.ctx n t).bind fun tbl =>
    (c.writeW f wd.toNat t (wMatrix t tbl tr rows) (g.arrived + wReady t)).bind fun c' =>
      .ok (s.setCtx f.ctx (c'.dropStage n f.slot))

theorem execMxLdr_staged {kx : BitVec 3}
    (hr : ∀ r, r < 128 → (s.ctx f.ctx).outside (weightRow b st disp r) (rowBytes t) = false ∧ weightRow b st disp r % 16 = 0) :
    execMxLdr wd aj t kx tr disp s = withStage s f (s.coreFor (ctxCluster f.ctx) kx.toNat)
      ((List.range 128).map (weightRow b st disp)) (rowBytes t) none
      (ldrLoad s f.ent.word (s.coreFor (ctxCluster f.ctx) kx.toNat) wd t tr) := by
  simp only [execMxLdr, hf, ha, Eff.bind_ok, rowAddrs_weightRow, checkRows_ok (forall_weightRows hr), wIsReady_ok ready]
  rfl

end

theorem ldrLoad_ok {s : State} {f : Focus} {src : Nat} {wd : BitVec 2} {t : Tag} {tr : Bool} {g : Stage} {rows : List (List Byte)}
    {tbl : List W32} {c' : Ctx} (hf : s.focus = some f) (he : (s.core src).ecc = []) (ht : s.tblFor f.ctx f.ent.word t = .ok tbl)
    (hw : (s.ctx f.ctx).writeW f wd.toNat t (wMatrix t tbl tr rows) (g.arrived + wReady t) = .ok c') :
    ldrLoad s f.ent.word src wd t tr g rows = issued s f (c'.dropStage f.ent.word f.slot) :=
  issueOp_ok hf (by rw [eccRows_ok fun a _ => eccAt_of_empty he a _, ht, Eff.bind_ok, hw, Eff.bind_ok])

/-! ## Rows of another core (R249) -/

section
variable {s : State} {f : Focus} {core : Nat} {as : List Int} {len : Nat} {mc : Option Nat} {k : Stage → List (List Byte) → Out}

theorem withStage_early (hs : (s.ctx f.ctx).stageOf f.ent.word f.slot = none)
    (hi : (s.ctx f.ctx).allIssuedBefore f.ent.word = false) : withStage s f core as len mc k = waits s := by
  simp only [withStage, hs, hi, Bool.false_eq_true, if_false, waits]

theorem withStage_begins (hs : (s.ctx f.ctx).stageOf f.ent.word f.slot = none)
    (hi : (s.ctx f.ctx).allIssuedBefore f.ent.word = true) : withStage s f core as len mc k =
      .next ({ s with focus := none }.setCtx f.ctx { s.ctx f.ctx with
        stages := (s.ctx f.ctx).stages ++
        [(⟨f.ent.word, f.slot, core, as.map Int.toNat, len, mc, none, 0⟩ : Stage)] }) := by
  simp only [withStage, hs, hi, if_true]

theorem withStage_arrived {g : Stage} {rows : List (List Byte)} (hs : (s.ctx f.ctx).stageOf f.ent.word f.slot = some g)
    (hg : g.rows = some rows) : withStage s f core as len mc k = k g rows := by
  simp only [withStage, hs, hg]

end

/-! ## Copies and column sums (R182, R183) -/

section
variable {s : State} {f : Focus} {ws : BitVec 2} {x : WReg} (hf : s.focus = some f)
  (hx : (s.ctx f.ctx).rdW f.ent.word ws.toNat = .ok x) (hr : x.ready ≤ s.now)
include hf hx hr

theorem execMxWsel_ok {wd : BitVec 2} {tr : Bool} {c' : Ctx}
    (ready : ∀ w ∈ wTouched wd.toNat x.tag, (s.ctx f.ctx).weightReady f.ent.word s.now w)
    (hw : (s.ctx f.ctx).writeW f wd.toNat x.tag (if tr then transposeM x.w else x.w) (s.now + wReady x.tag) = .ok c') :
    execMxWsel wd ws tr s = issued s f c' := by
  refine issueOp_ok hf ?_
  dsimp only
  rw [wIsReady_ok (List.forall_mem_singleton.2 ⟨x, hx, hr⟩), hx, Eff.bind_ok, wIsReady_ok ready, hw, Eff.bind_ok]

theorem execMxCsum_ok : execMxCsum ws s =
    issued s f ((s.ctx f.ctx).postW f ws.toNat { x with csv := true, sums := colSums x.w, sumReady := s.now + 24 }) := by
  refine issueOp_ok hf ?_
  dsimp only
  rw [wIsReady_ok (List.forall_mem_singleton.2 ⟨x, hx, hr⟩), hx, Eff.bind_ok]

end

theorem exec_weightLoad (s : State) (tr : Bool) (wd : BitVec 2) (aj : AReg) (t : Tag) (disp : Option Ext) :
    exec (if tr then .mxLdT wd aj t disp else .mxLd wd aj t disp) s = weightLoad s wd aj t disp tr := by
  cases tr
  · exact exec_mxLd s
  · exact exec_mxLdT s

/-- Settles O47: the writes of a weight register, the matrix that rows give, the loads over rows that are there, and the copies and
sums of registers that are ready. -/
theorem weightRegisterOperations : Obligations.WeightRegisterOperations := by
  unfold Obligations.WeightRegisterOperations
  refine ⟨fun c f w t m rd => ⟨writeW_even m rd, writeW_f32 m rd, fun e => writeW_odd m rd⟩,
    fun t tbl rows r e hl hr he => ⟨mAt_wMatrix_plain t tbl hl hr he, mAt_wMatrix_transposed t tbl (hl ▸ hr) e⟩,
    fun s f wd kx aj t disp tr b st tbl c' hf ha ht => ?loads, fun s f wd ws tr x y c' hf hx hr => ⟨fun hy hry pair hw => ?wsel,
      fun m r e => mAt_transposeM m, execMxCsum_ok hf hx hr⟩⟩
  case loads =>
    intro c n rb row ready first second
    have touched : ∀ w ∈ wTouched wd.toNat t, c.weightReady n s.now w := forall_wTouched first second
    rw [exec_weightLoad, exec_mxLdr]
    refine ⟨weightLoad_ok hf ha touched ht, fun inside => ?_⟩
    rw [execMxLdr_staged hf ha touched inside]
    refine ⟨withStage_early, fun hs hi => ?_, fun g rows hs hg he hw => ?_⟩
    · rw [withStage_begins hs hi, List.map_map]
      rfl
    · rw [withStage_arrived hs hg]
      exact ldrLoad_ok hf he ht hw
  case wsel => exact execMxWsel_ok hf hx hr (forall_wTouched ⟨y, hy, hry⟩ pair) hw

end Sys2Proof.Machine

end

section
/-!
PROOFS. Shares and least grades of tolerance, O33.
-/

namespace Sys2Proof.Machine

/-! ## The share (R220) -/

theorem signed_eight (y : W64) : signed 8 y.toNat = (y.setWidth 8).toInt := by
  rw [signed, BitVec.toInt_eq_toNat_cond, BitVec.toNat_setWidth]
  split_ifs <;> omega

theorem clampInt_byte (t : Int) : clampInt 0 255 t = if t < 0 then 0 else if 255 < t then 255 else t := by
  unfold clampInt
  split_ifs <;> omega

theorem ofNat_toNat_clampInt (t : Int) : BitVec.ofNat 64 (clampInt 0 255 t).toNat = BitVec.ofInt 64 (clampInt 0 255 t) := by
  have nonneg : 0 ≤ clampInt 0 255 t := le_max_left 0 _
  rw [← BitVec.ofInt_natCast, Int.toNat_of_nonneg nonneg]

theorem tolShare_clamps (x y : W64) :
    let t : Int := (x.toNat % 256 : Nat) + ((y.setWidth 8).toInt + (y.toNat / 256 % 256 : Nat))
    BitVec.ofNat 64 (tolShare x y) = BitVec.ofInt 64 (if t < 0 then 0 else if 255 < t then 255 else t) := by
  intro t
  have sum : (x.toNat % 256 : Nat) + signed 8 y.toNat + (bits y.toNat 8 8 : Nat) = t := by rw [signed_eight, add_assoc]; rfl
  rw [tolShare, sum, ofNat_toNat_clampInt, clampInt_byte]

/-! ## The least grade (R167, R220) -/

/-- The grade of the format that `cvt.fit` chooses is the first grade of its candidates that reaches the tolerance. -/
theorem gradeOf_fitChoice (cls : Bool) (d : Nat) :
    gradeOf (fitChoice cls d) = (((fitCandidates cls).map gradeOf).find? fun g => decide (d ≤ g)).getD 192 := by
  rw [List.find?_map]
  exact (Option.getD_map gradeOf tF32 _).symm

section
variable {s : State} {f : Focus} {sa sb : SReg} {x y : W64} (hf : s.focus = some f) (hx : (s.ctx f.ctx).rdS f.ent.word sa = .ok x)
include hf hx

theorem execTolShare_ok (sd : SReg) (hy : (s.ctx f.ctx).rdS f.ent.word sb = .ok y) :
    execTolShare sd sa sb s = wroteS s f sd (BitVec.ofNat 64 (tolShare x y)) :=
  onCtx_ok hf (by rw [hx, hy]; rfl)

theorem execTolMin_ok (sd : SReg) (cls : Bool) :
    execTolMin sd sa cls s = wroteS s f sd (BitVec.ofNat 64 (gradeOf (fitChoice cls (x.toNat % 256)))) :=
  onCtx_ok hf (by rw [hx]; rfl)

end

/-- Settles O33: the sum clamped to a byte, and the grade of the format that `cvt.fit` would choose. -/
theorem toleranceShares : Obligations.ToleranceShares := by
  unfold Obligations.ToleranceShares
  refine ⟨fun sd sa sb c => ⟨rfl, rfl, rfl, rfl⟩, fun s f sd sa sb x y hf hx hy => ⟨?share, ?least⟩⟩
  case share => exact (execTolShare_ok hf hx sd hy).trans (congrArg (wroteS s f sd) (tolShare_clamps x y))
  case least =>
    intro d least
    have ofClass0 : gradeOf (fitChoice false d) = least [12, 31, 55, 64, 88, 192] := gradeOf_fitChoice false d
    have ofClass1 : gradeOf (fitChoice true d) = least [24, 32, 64, 88, 192] := gradeOf_fitChoice true d
    rw [← ofClass0, ← ofClass1]
    exact ⟨execTolMin_ok hf hx sd false, execTolMin_ok hf hx sd true, rfl, rfl⟩

end Sys2Proof.Machine

end

section
/-!
PROOFS. The predictor's table and the update that reaches it next, O35.
-/

namespace Sys2Proof.Machine

/-! ## The fields of an entry (R210) -/

/-- An entry of the table: CONF, HIT and MISS in their places. -/
def ptEntry (conf hit miss : Nat) : W32 := BitVec.ofNat 32 (conf * 2 ^ 29 + hit * 2 ^ 16 + miss * 8)

section
variable {conf hit miss : Nat} (hc : conf < 8) (hh : hit < 8192) (hm : miss < 8192)
include hc hh hm

theorem ptEntry_fields : bits (ptEntry conf hit miss).toNat 29 3 = conf ∧ bits (ptEntry conf hit miss).toNat 16 13 = hit ∧
    bits (ptEntry conf hit miss).toNat 3 13 = miss := by
  simp only [bits, ptEntry, BitVec.toNat_ofNat]
  omega

theorem ptHit_ptEntry : ptHit (ptEntry conf hit miss) = ptEntry (min (conf + 1) 7) (min (hit + 1) 8191) miss := by
  obtain ⟨fc, fh, fm⟩ := ptEntry_fields hc hh hm
  simp only [ptHit, fc, fh, fm]
  rfl

theorem ptMiss_ptEntry : ptMiss (ptEntry conf hit miss) = ptEntry (conf - 1) hit (min (miss + 1) 8191) := by
  obtain ⟨fc, fh, fm⟩ := ptEntry_fields hc hh hm
  simp only [ptMiss, fc, fh, fm]
  rfl

theorem ptUnseen_ptEntry : ptUnseen (ptEntry conf hit miss) = ptEntry conf hit (min (miss + 1) 8191) := by
  obtain ⟨fc, fh, fm⟩ := ptEntry_fields hc hh hm
  simp only [ptUnseen, fc, fh, fm]
  rfl

end

/-! ## Entries after an update (R211) -/

theorem AMap.find?_filter {α : Type} (keep : Nat → Bool) (m : AMap α) (j : Nat) :
    AMap.find? (m.filter fun p => keep p.1) j = if keep j then AMap.find? m j else none := by
  induction m with
  | nil => simp [AMap.find?]
  | cons p rest ih =>
    by_cases hp : keep p.1 <;> by_cases hj : p.1 = j <;> simp_all [AMap.find?]

theorem AMap.get_filter {α : Type} (d : α) (keep : Nat → Bool) (m : AMap α) (j : Nat) :
    AMap.get d (m.filter fun p => keep p.1) j = if keep j then AMap.get d m j else d := by
  rw [AMap.get, AMap.find?_filter]
  split <;> rfl

/-- An entry of zero is not listed, and reads as the zero that was put. -/
theorem get_ptPut (t : AMap W32) (i j : Nat) (v : W32) :
    AMap.get 0#32 (ptPut t i v) j = if j = i then v else AMap.get 0#32 t j := by
  unfold ptPut
  split
  · next hv =>
    subst hv
    rw [AMap.erase, AMap.get_filter (keep := fun k => decide (k ≠ i))]
    by_cases h : j = i <;> simp [h]
  · split
    · next h => rw [h, AMap.get_set_same]
    · next h => exact AMap.get_set_ne _ _ _ _ _ h

theorem get_ptApply_clr (t : AMap W32) (i n j : Nat) :
    AMap.get 0#32 (ptApply t (.clr i n)) j = if (j + 16384 - i) % 16384 < n then 0#32 else AMap.get 0#32 t j := by
  rw [ptApply, AMap.get_filter (keep := fun k => !decide ((k + 16384 - i) % 16384 < n))]
  by_cases h : (j + 16384 - i) % 16384 < n <;> simp [h]

/-! ## The next update (R212, R285) -/

/-- Cycle, kind and core of a request, as one number. -/
def PtReq.key (r : PtReq) : Nat := (2 * r.cyc + b2n r.byResolve) * 2 ^ 16 + ctxCore r.ctx

theorem before_eq_false_iff {a b : PtReq} : a.before b = false ↔ b.key ≤ a.key := by
  rw [← Nat.not_lt]
  exact decide_eq_false_iff_not

/-- A table operation stands behind an earlier one of its core. -/
def PtReq.behind (q : List PtReq) (i : Nat) (r : PtReq) : Bool :=
  !r.byResolve && (q.take i).any fun x => !x.byResolve && decide (ctxCore x.ctx = ctxCore r.ctx)

/-- The requests that may go: neither behind another of the queue nor held. -/
def State.ptGoes (s : State) (cl i : Nat) (r : PtReq) : Prop :=
  (s.cluster cl).ptq[i]? = some r ∧ r.behind (s.cluster cl).ptq i = false ∧ s.ptHeld r = false

/-- The better of a request that may go and the best so far. -/
def ptBetter (i : Nat) (r : PtReq) : Option (Nat × PtReq) → Option (Nat × PtReq)
  | some (j, b) => if r.before b then some (i, r) else some (j, b)
  | none => some (i, r)

/-- One place of the queue against the best so far: the step of `State.nextPt`. -/
def State.ptPick (s : State) (cl : Nat) (best : Option (Nat × PtReq)) (i : Nat) : Option (Nat × PtReq) :=
  match (s.cluster cl).ptq[i]? with
  | none => best
  | some r =>
    if r.behind (s.cluster cl).ptq i || s.ptHeld r then best else ptBetter i r best

theorem nextPt_eq_foldl (s : State) (cl : Nat) :
    s.nextPt cl = (List.range (s.cluster cl).ptq.length).foldl (s.ptPick cl) none := rfl

/-- What is best among the first `n` places of the queue. -/
def State.bestPt (s : State) (cl n : Nat) : Option (Nat × PtReq) → Prop
  | none => ∀ j x, j < n → ¬ s.ptGoes cl j x
  | some (i, r) => s.ptGoes cl i r ∧ ∀ j x, j < n → s.ptGoes cl j x → x.before r = false

section
variable {s : State} {cl n : Nat} {best : Option (Nat × PtReq)} (hb : s.bestPt cl n best)
include hb

/-- A place from which nothing may go leaves the best one. -/
theorem bestPt_idle (h : ∀ x, ¬ s.ptGoes cl n x) : s.bestPt cl (n + 1) best := by
  have below {j x} (hj : j < n + 1) (hx : s.ptGoes cl j x) : j < n :=
    Nat.lt_of_le_of_ne (Nat.le_of_lt_succ hj) fun e => h x (e ▸ hx)
  cases best with
  | none => exact fun j x hj hx => hb j x (below hj hx) hx
  | some p =>
    obtain ⟨goes, least⟩ := hb
    exact ⟨goes, fun j x hj hx => least j x (below hj hx) hx⟩

/-- A request that may go takes the place of the best one if it comes before it. -/
theorem bestPt_goes {r : PtReq} (h : s.ptGoes cl n r) : s.bestPt cl (n + 1) (ptBetter n r best) := by
  have only {x} (hx : s.ptGoes cl n x) : x = r := Option.some.inj (hx.1.symm.trans h.1)
  have self : r.before r = false := before_eq_false_iff.2 le_rfl
  cases best with
  | none =>
    refine ⟨h, fun j x hj hx => ?_⟩
    obtain hj | rfl := Nat.lt_succ_iff_lt_or_eq.1 hj
    · exact absurd hx (hb j x hj)
    · rw [only hx, self]
  | some p =>
    obtain ⟨i, b⟩ := p
    obtain ⟨goes, least⟩ := hb
    simp only [ptBetter]
    split
    · next hr =>
      refine ⟨h, fun j x hj hx => ?_⟩
      obtain hj | rfl := Nat.lt_succ_iff_lt_or_eq.1 hj
      · have first : r.key < b.key := of_decide_eq_true hr
        exact before_eq_false_iff.2 (first.le.trans (before_eq_false_iff.1 (least j x hj hx)))
      · rw [only hx, self]
    · next hr =>
      refine ⟨goes, fun j x hj hx => ?_⟩
      obtain hj | rfl := Nat.lt_succ_iff_lt_or_eq.1 hj
      · exact least j x hj hx
      · exact only hx ▸ Bool.eq_false_iff.2 hr

theorem bestPt_ptPick : s.bestPt cl (n + 1) (s.ptPick cl best n) := by
  unfold State.ptPick
  split
  · next hq => exact bestPt_idle hb fun x hx => Option.some_ne_none x (hx.1.symm.trans hq)
  · next r hq =>
    split
    · next hheld =>
      refine bestPt_idle hb fun x ⟨hx, behind, held⟩ => ?_
      obtain rfl : x = r := Option.some.inj (hx.symm.trans hq)
      simp [behind, held] at hheld
    · next hfree => exact bestPt_goes hb ⟨hq, by simpa using hfree⟩

end

theorem bestPt_nextPt (s : State) (cl : Nat) : s.bestPt cl (s.cluster cl).ptq.length (s.nextPt cl) := by
  rw [nextPt_eq_foldl]
  induction (s.cluster cl).ptq.length with
  | zero => exact fun _ _ h => absurd h (Nat.not_lt_zero _)
  | succ n ih =>
    rw [List.range_succ, List.foldl_append]
    exact bestPt_ptPick ih

section
variable {s : State} {q i : Nat} {r : PtReq} (h : s.nextPt q = some (i, r))
include h

theorem nextPt_goes : s.ptGoes q i r := (h ▸ bestPt_nextPt s q : s.bestPt q _ (some (i, r))).1

theorem nextPt_least {j : Nat} {x : PtReq} (hx : s.ptGoes q j x) : x.before r = false :=
  (h ▸ bestPt_nextPt s q : s.bestPt q _ (some (i, r))).2 j x (List.getElem?_eq_some_iff.1 hx.1).1 hx

theorem nextPt_firstOfCore (hr : r.byResolve = false) {j : Nat} {x : PtReq} (hj : j < i) (hx : (s.cluster q).ptq[j]? = some x)
    (hxr : x.byResolve = false) : ctxCore x.ctx ≠ ctxCore r.ctx := by
  obtain ⟨-, behind, -⟩ := nextPt_goes h
  have earlier : x ∈ (s.cluster q).ptq.take i := List.mem_of_getElem? ((List.getElem?_take_of_lt hj).trans hx)
  simp only [PtReq.behind, hr, Bool.not_false, Bool.true_and, List.any_eq_false] at behind
  simpa [hxr] using behind x earlier

/-- An update of a `resolve` stands behind nothing, so it may go unless it is held. -/
theorem nextPt_beforeResolves {j : Nat} {x : PtReq} (hx : (s.cluster q).ptq[j]? = some x) (hxr : x.byResolve = true)
    (free : s.ptHeld x = false) : x.before r = false :=
  nextPt_least h ⟨hx, by simp [PtReq.behind, hxr], free⟩

theorem predictorTableApply_applies : ∃ t, execPredictorTableApply q s = .next t ∧ (t.cluster q).pt = ptApply (s.cluster q).pt r.ev ∧
    (t.cluster q).ptq = (s.cluster q).ptq.eraseIdx i ∧ (r.byResolve = false → t.ctx r.ctx = (s.ctx r.ctx).dropOp r.op) ∧
    t.mem = s.mem ∧ (∀ c, c ≠ r.ctx → t.ctx c = s.ctx c) ∧ ∀ j, j ≠ q → t.cluster j = s.cluster j := by
  simp only [execPredictorTableApply, h]
  refine ⟨_, rfl, ?_, ?_, fun hr => ?_, rfl, fun c hc => ?_, fun j hj => ?_⟩
  · rw [setCtx_cluster, setCluster_cluster_same]
  · rw [setCtx_cluster, setCluster_cluster_same]
  · rw [setCtx_ctx_same, hr]
    rfl
  · rw [setCtx_ctx_ne _ _ _ _ hc, setCluster_ctx]
  · rw [setCtx_cluster, setCluster_cluster_ne _ _ _ _ hj]

end

theorem predictorTableApply_idle {s : State} {q : Nat} (h : s.nextPt q = none) : execPredictorTableApply q s = .next s := by
  simp only [execPredictorTableApply, h]

/-- Settles O35: an update by the fields of its entry, and the next one as the first in order of those that may go. -/
theorem predictorTableUpdates : Obligations.PredictorTableUpdates := by
  unfold Obligations.PredictorTableUpdates
  refine ⟨fun conf hit miss hc hh hm => ⟨ptHit_ptEntry hc hh hm, ptMiss_ptEntry hc hh hm, ptUnseen_ptEntry hc hh hm⟩,
    fun t i j v _ => ⟨get_ptPut t i j v, get_ptPut t i j _, get_ptPut t i j _, fun n _ _ _ => get_ptApply_clr t i n j⟩,
    fun s q => predictorTableApply_idle, fun s q i r h => ?next⟩
  case next =>
    obtain ⟨place, -, free⟩ := nextPt_goes h
    exact ⟨place, free, fun hr j x => nextPt_firstOfCore h hr, fun j x => nextPt_beforeResolves h, predictorTableApply_applies h⟩

end Sys2Proof.Machine

end

section
/-!
PROOFS. Replies and time-outs, packets that pass through, and the paths of lanes.
-/

namespace Sys2Proof.Machine

/-! ## The end of a request (R321, R322) -/

@[simp] theorem take_reqs (s : State) (i : Nat) : (s.take i).reqs = s.reqs := rfl

/-- A request of this device's host interface to its own memory ends: the host gets the bytes that it asked for. -/
theorem endReq_host {s : State} {q : Req} {h n code : Nat} (ho : q.owner = .host h n) (hd : q.dst = s.vertex) (hc : code ≠ 0x0A)
    (args data : List Byte) : s.endReq q code args data = { s with
      reqs := s.reqs.filter fun x => !(decide (x.tag = q.tag) && decide (x.eng = q.eng)),
      hostOut := s.hostOut ++ [(code, (data.drop (h % 16)).take n)] } := by
  simp only [State.endReq, State.complete, ho, if_pos hd, if_neg hc]

section
variable {s : State} {i : Nat}

theorem execReplyPkt_absent (h : s.inbox[i]? = none) : execReplyPkt i s = .next s := by simp only [execReplyPkt, h]

section
variable {a : Arr} (ha : s.inbox[i]? = some a)
include ha

theorem execReplyPkt_other (ho : a.pkt.op ≠ opREPLY) : execReplyPkt i s = .next s := by
  simp [execReplyPkt, ha, Arr.isReply, ho]

section
variable (ho : a.pkt.op = opREPLY) (hm : s.mayApply i a = true)
include ho hm

theorem execReplyPkt_discards (h : ∀ q ∈ s.reqs, q.tag = a.pkt.tag → q.eng ≠ a.pkt.eng) : execReplyPkt i s = .next (s.take i) := by
  have unasked : s.reqs.find? (fun q => decide (q.tag = a.pkt.tag) && decide (q.eng = a.pkt.eng)) = none :=
    List.find?_eq_none.2 fun q hq => by simpa using h q hq
  simp [execReplyPkt, ha, Arr.isReply, ho, hm, unasked]

theorem execReplyPkt_ends {q : Req}
    (h : s.reqs.find? (fun q => decide (q.tag = a.pkt.tag) && decide (q.eng = a.pkt.eng)) = some q) :
    execReplyPkt i s = .next ((s.take i).endReq q a.pkt.code a.pkt.args a.pkt.data) := by
  simp [execReplyPkt, ha, Arr.isReply, ho, hm, h]

end
end

section
variable {tag : Nat}

theorem execRequestTimeout_early (h : ∀ q ∈ s.reqs, q.tag = tag → s.now < q.sentAt + 8388608) : execRequestTimeout tag s = .next s := by
  have young : s.reqs.find? (fun q => decide (q.tag = tag) && decide (q.sentAt + 8388608 ≤ s.now)) = none :=
    List.find?_eq_none.2 fun q hq => by simpa using h q hq
  simp only [execRequestTimeout, young]

theorem execRequestTimeout_ends {q : Req} (h : s.reqs.find? (fun q => decide (q.tag = tag) && decide (q.sentAt + 8388608 ≤ s.now)) = some q) :
    execRequestTimeout tag s = .next (s.endReq q (lostCode q.op) [] []) := by
  simp only [execRequestTimeout, h]

end
end

/-! ## Packets from a link (R318, R323, R352) -/

section
variable {s : State} {port : Nat} {p : Pkt}

theorem live_of_roster {v : Nat} (h : s.roster.elem v = true) : s.live v = true := by rw [State.live, h, Bool.or_true]

theorem execPacketRoute_stranger (hs : p.src ≠ s.vertex) (hr : s.roster.elem p.src = false) :
    execPacketRoute port p s = .next (s.record 5 0 p.eng p.vf p.src) := by
  simp only [execPacketRoute, State.live, hs, hr, decide_false, Bool.or_self, Bool.not_false, if_true]

section
variable (hl : s.live p.src = true)
include hl

theorem execPacketRoute_multicast (hd : p.dst = 0x7FF) : execPacketRoute port p s = .next (s.deliver p (2 * port)) := by
  simp [execPacketRoute, hl, isMulticast, hd, portRank]

section
variable (hd : p.dst ≠ 0x7FF)
include hd

/-- A unicast packet on its minimal path ends here, or gains a hop. -/
theorem execPacketRoute_minimal (hn : p.nm = false) : execPacketRoute port p s = .next (if p.dst = s.vertex then s.deliver p (2 * port) else
    { s with egress := s.egress ++ [(s.minPort p.dst, { p with hops := p.hops + 1 })] }) := by
  by_cases h : p.dst = s.vertex <;> simp [execPacketRoute, hl, isMulticast, hd, portRank, hn, h]

theorem execPacketRoute_towardsVia (hn : p.nm = true) (hv : p.via ≠ s.vertex) : execPacketRoute port p s =
    .next { s with egress := s.egress ++ [(s.minPort p.via, { p with hops := p.hops + 1 })] } := by
  simp [execPacketRoute, hl, isMulticast, hd, hn, hv]

/-- At its intermediate a packet goes over to the minimal path. -/
theorem execPacketRoute_atVia (hn : p.nm = true) (hv : p.via = s.vertex) (h : p.dst ≠ s.vertex) : execPacketRoute port p s =
    .next { s with egress := s.egress ++ [(s.minPort p.dst, { p with nm := false, via := 0, hops := p.hops + 1 })] } := by
  simp [execPacketRoute, hl, isMulticast, hd, hn, hv, h]

end
end
end

/-! ## Paths of lanes (R251, R317) -/

/-- A lane's path towards a destination set. -/
def State.setLane (s : State) (dst lane : Nat) (x : LanePath) : State := { s with paths := AMap.set s.paths (8 * dst + lane) x }

section
variable {s : State} {dst lane : Nat}

theorem execLaneNonminimalMove_stays (h : (s.lanePath dst lane).via ≠ none ∨ s.routes.find? dst = none) :
    execLaneNonminimalMove dst lane s = .next s := by
  obtain h | h := h
  · simp only [execLaneNonminimalMove, if_neg (mt Option.isNone_iff_eq_none.1 h)]
  · simp [execLaneNonminimalMove, State.nextVia, h]

theorem execLaneNonminimalMove_moves {port m : Nat} {l : List Nat} (hv : (s.lanePath dst lane).via = none)
    (hr : s.routes.find? dst = some (port, l)) (hl : l ≠ []) (hm : l[(s.lanePath dst lane).idx % l.length]? = some m) :
    execLaneNonminimalMove dst lane s = .next (s.setLane dst lane
      { s.lanePath dst lane with idx := (s.lanePath dst lane).idx + 1, pend := some (some m) }) := by
  simp [State.setLane, execLaneNonminimalMove, State.nextVia, hv, hr, hl, hm, laneKey]

theorem execLaneMinimalReturn_stays
    (h : (s.lanePath dst lane).via = none ∨ s.now < (s.lanePath dst lane).since + 65536 ∨ s.pathUp dst none = false) :
    execLaneMinimalReturn dst lane s = .next s := by
  simp only [execLaneMinimalReturn, Option.isNone_iff_eq_none, Bool.not_eq_true', if_pos h]

theorem execLaneMinimalReturn_returns (hv : (s.lanePath dst lane).via ≠ none) (hs : (s.lanePath dst lane).since + 65536 ≤ s.now)
    (hp : s.pathUp dst none = true) : execLaneMinimalReturn dst lane s =
      .next (s.setLane dst lane { s.lanePath dst lane with pend := some none }) := by
  simp [State.setLane, execLaneMinimalReturn, hv, Nat.not_lt.2 hs, hp, laneKey]

end

end Sys2Proof.Machine

end

section
/-!
PROOFS. Management packets and reports, requests sent on to a peer or to the pool, and multicast writes.
-/

namespace Sys2Proof.Machine

/-! ## Management packets, reports, and packets of no known operation (R281, R310, R321) -/

section
variable {s : State} {i : Nat} {a : Arr}

theorem execMgmtPkt_none (h : s.arrival i opMGMT = none) : execMgmtPkt i s = .next s := by simp only [execMgmtPkt, h]

section
variable (turn : s.arrival i opMGMT = some a)
include turn

theorem execMgmtPkt_noJob (h7 : rfld a.pkt.data 8 1 ≠ 7) (h12 : rfld a.pkt.data 8 1 ≠ 12)
    (job : s.jobFunc a.pkt.vf (rfld a.pkt.data 9 2) = none) : execMgmtPkt i s = .next ((s.take i).answer a.pkt 0 [] []) := by
  simp only [execMgmtPkt, turn, if_neg h7, if_neg h12, job]

theorem execMgmtPkt_placesRepl {vf : Nat} (h4 : rfld a.pkt.data 8 1 = 4) (job : s.jobFunc a.pkt.vf (rfld a.pkt.data 9 2) = some vf) :
    execMgmtPkt i s =
      .next (((s.setFunc vf { s.func vf with repl := some (rfld a.pkt.data 0 8) }).take i).answer a.pkt 0 [] []) := by
  have h7 : rfld a.pkt.data 8 1 ≠ 7 := by omega
  have h12 : rfld a.pkt.data 8 1 ≠ 12 := by omega
  simp only [execMgmtPkt, turn, if_neg h7, if_neg h12, job, if_pos h4]

end

/-- What is known of a receive buffer after a report of it (R281). -/
def State.hearReport (s : State) (p : Pkt) : State :=
  { s with known := updKnown s.known (s.engCore (pktArg p 8 2)) p.src p.addr (pktArg p 0 8) fun x =>
      { x with occ := pktArg p 0 8, had := rfld p.data 0 8 } }

theorem execQrptPkt_none (h : s.arrival i opQRPT = none) : execQrptPkt i s = .next s := serveUnit_none h

theorem execQrptPkt_hears (turn : s.arrival i opQRPT = some a) (hr : s.resetting a.pkt.vf = false) :
    execQrptPkt i s = .next (((s.hearReport a.pkt).take i).answer a.pkt 0 [] []) := serveUnit_done turn hr rfl

theorem execUnknownOpPacket_absent (h : s.inbox[i]? = none) : execUnknownOpPacket i s = .next s := by
  simp only [execUnknownOpPacket, h]

section
variable (ha : s.inbox[i]? = some a)
include ha

theorem execUnknownOpPacket_known (h : a.pkt.op ∈ knownOps) : execUnknownOpPacket i s = .next s := by
  simp only [execUnknownOpPacket, ha, List.elem_eq_mem, h, decide_true, if_true]

theorem execUnknownOpPacket_drops (h : a.pkt.op ∉ knownOps) :
    execUnknownOpPacket i s = .next ((s.take i).record 5 0 a.pkt.eng a.pkt.vf a.pkt.src) := by
  simp only [execUnknownOpPacket, ha, List.elem_eq_mem, h, decide_false, Bool.false_eq_true, if_false]

end

/-! ## Requests for a forwarded frame (R298) -/

theorem execForwardedRequest_absent (h : s.inbox[i]? = none) : execForwardedRequest i s = .next s := by
  simp only [execForwardedRequest, h]

section
variable {acc : FAcc} (ha : s.inbox[i]? = some a) (hd : a.pkt.dst ≠ 0x7FF) (hm : s.mayApply i a = true) (hr : s.resetting a.pkt.vf = false)
  (hx : frameAcc a.pkt.op = some acc)
include ha hd hm hr hx

theorem execForwardedRequest_peer {d f : Nat} (hc : s.checkFrame a.pkt acc = .peer d f) :
    execForwardedRequest i s = .next ((s.take i).sendOn a.pkt d (f * 65536 + a.pkt.addr % 65536)) := by
  simp [execForwardedRequest, ha, hx, isMulticast, hd, hm, hr, hc]

theorem execForwardedRequest_pool {g : Nat} (hc : s.checkFrame a.pkt acc = .pool g) (ho : a.pkt.op ≠ opWRC) : execForwardedRequest i s =
    .next { (s.take i).holdBack a.pkt with poolOut := s.poolOut ++ [⟨a.pkt, g * 65536 + a.pkt.addr % 65536⟩] } := by
  simp [execForwardedRequest, ha, hx, isMulticast, hd, hm, hr, hc, ho]
  rfl

/-- The pool has no twin pages, so a member write is refused. -/
theorem execForwardedRequest_poolMember {g : Nat} (hc : s.checkFrame a.pkt acc = .pool g) (ho : a.pkt.op = opWRC) :
    execForwardedRequest i s = .next ((s.take i).answer a.pkt 0x0A [] []) := by
  simp only [execForwardedRequest, ha, hx, isMulticast, hd, hm, hr, hc, decide_false, Bool.not_true, Bool.false_eq_true, or_self,
    if_false, if_pos ho]

end
end

/-! ## Multicast writes (R323) -/

/-- The copies of a multicast packet, with the ports that they leave by: those of the group, but for the one that it came by. -/
def Arr.copies (a : Arr) (group : Nat) : List (Nat × Pkt) :=
  ((mcPorts group).filter fun q => decide (some q ≠ a.ingress)).map fun q =>
    (q, { a.pkt with hops := if a.ingress = none then a.pkt.hops else a.pkt.hops + 1 })

/-- The table's entry for a packet's group. -/
def State.groupOf (s : State) (p : Pkt) : Nat := (AMap.get 0#64 s.mcast p.mcg).toNat

/-- Arrival `i` has left the inbox, and its copies this device. -/
def State.sendCopies (s : State) (i : Nat) (a : Arr) : State := { s.take i with egress := s.egress ++ a.copies (s.groupOf a.pkt) }

/-- The delivery of a multicast write on this device, by what the frame table says of it. -/
def State.performCopy (s : State) (a : Arr) : FrameRes → Out
  | .code c => .next (s.answer a.pkt c [] [])
  | .ok =>
    match s.homeWR { a with pkt := { a.pkt with data := mcBytes a.pkt } } with
    | .done t code _ _ => .next ((t.mcLand a.pkt code).answer a.pkt code [] [])
    | .needC _ => .next s
  | .peer d f => .next (s.sendOn a.pkt d (f * 65536 + a.pkt.addr % 65536))
  | .pool g => .next { s.holdBack a.pkt with poolOut := s.poolOut ++ [⟨a.pkt, g * 65536 + a.pkt.addr % 65536⟩] }

section
variable {s : State} {i : Nat} {a : Arr}

theorem execMulticastWr_absent (h : s.inbox[i]? = none) : execMulticastWr i s = .next s := by simp only [execMulticastWr, h]

theorem multicast_turn (hd : a.pkt.dst = 0x7FF) (hm : s.mayApply i a = true) :
    ¬ ((!isMulticast a.pkt) = true ∨ (!s.mayApply i a) = true) := by simp [isMulticast, hd, hm]

section
variable (ha : s.inbox[i]? = some a)
include ha

theorem execMulticastWr_waits (h : a.pkt.dst ≠ 0x7FF ∨ s.mayApply i a = false) : execMulticastWr i s = .next s := by
  simp only [execMulticastWr, ha, isMulticast]
  rw [if_pos (by simpa using h)]

section
variable (hd : a.pkt.dst = 0x7FF) (hm : s.mayApply i a = true)
include hd hm

theorem execMulticastWr_drops (h : bitAt (s.groupOf a.pkt) 63 = false ∨ a.pkt.op ≠ opWR) :
    execMulticastWr i s = .next ((s.take i).record 5 0 a.pkt.eng a.pkt.vf a.pkt.src) := by
  simp only [execMulticastWr, ha, if_neg (multicast_turn hd hm)]
  exact if_pos (by simpa [State.groupOf] using h)

section
variable (ho : a.pkt.op = opWR) (valid : bitAt (s.groupOf a.pkt) 63 = true)
include ho valid

/-- What a write of a valid group does: its copies leave, and it is performed here where the entry's LOCAL bit is set. -/
theorem execMulticastWr_copies : execMulticastWr i s =
    if !bitAt (s.groupOf a.pkt) 33 then .next (s.sendCopies i a)
    else if s.resetting a.pkt.vf then .next ((s.sendCopies i a).answer a.pkt 0x02 [] [])
    else (s.sendCopies i a).performCopy a (s.frameCheck a.pkt.addr a.pkt.vf .write) := by
  simp only [execMulticastWr, ha, if_neg (multicast_turn hd hm), Option.isNone_iff_eq_none]
  exact if_neg (by simpa [ho, State.groupOf] using valid)

theorem execMulticastWr_passesOn (h : bitAt (s.groupOf a.pkt) 33 = false) : execMulticastWr i s = .next (s.sendCopies i a) := by
  simp only [execMulticastWr_copies ha hd hm ho valid, h, Bool.not_false, if_true]

section
variable (here : bitAt (s.groupOf a.pkt) 33 = true)
include here

theorem execMulticastWr_resetting (hr : s.resetting a.pkt.vf = true) :
    execMulticastWr i s = .next ((s.sendCopies i a).answer a.pkt 0x02 [] []) := by
  simp only [execMulticastWr_copies ha hd hm ho valid, here, hr, Bool.not_true, Bool.false_eq_true, if_false, if_true]

variable (hr : s.resetting a.pkt.vf = false)
include hr

theorem execMulticastWr_code {c : Nat} (hc : s.frameCheck a.pkt.addr a.pkt.vf .write = .code c) :
    execMulticastWr i s = .next ((s.sendCopies i a).answer a.pkt c [] []) := by
  simp only [execMulticastWr_copies ha hd hm ho valid, here, hr, Bool.not_true, Bool.false_eq_true, if_false, hc,
    State.performCopy]

theorem execMulticastWr_peer {d f : Nat} (hc : s.frameCheck a.pkt.addr a.pkt.vf .write = .peer d f) :
    execMulticastWr i s = .next ((s.sendCopies i a).sendOn a.pkt d (f * 65536 + a.pkt.addr % 65536)) := by
  simp only [execMulticastWr_copies ha hd hm ho valid, here, hr, Bool.not_true, Bool.false_eq_true, if_false, hc,
    State.performCopy]

end
end
end
end
end

/-! ## Requests that the pooled memory has performed (R298) -/

/-- Request `i` of the pool has an earlier one of its stream or of its line before it. -/
def State.poolHeld (s : State) (i : Nat) (r : PoolReq) : Bool :=
  (s.poolOut.take i).any fun q => sameStream q.pkt r.pkt || decide (q.addr / 128 = r.addr / 128)

theorem poolHeld_eq_false {s : State} {i : Nat} {r : PoolReq}
    (h : ∀ q ∈ s.poolOut.take i, sameStream q.pkt r.pkt = false ∧ q.addr / 128 ≠ r.addr / 128) : s.poolHeld i r = false :=
  List.any_eq_false.2 fun q hq => by simp [h q hq]

theorem poolHeld_eq_true {s : State} {i : Nat} {r q : PoolReq} (hq : q ∈ s.poolOut.take i)
    (h : sameStream q.pkt r.pkt = true ∨ q.addr / 128 = r.addr / 128) : s.poolHeld i r = true :=
  List.any_eq_true.2 ⟨q, hq, by simpa using h⟩

section
variable {s : State} {i : Nat} {e : ExtBytes} {r : PoolReq}

theorem execPooledMemoryReply_absent (h : s.poolOut[i]? = none) : execPooledMemoryReply i e s = .next s := by
  simp only [execPooledMemoryReply, h]

section
variable (hr : s.poolOut[i]? = some r)
include hr

theorem execPooledMemoryReply_held (h : s.poolHeld i r = true) : execPooledMemoryReply i e s = .next s := by
  simp only [execPooledMemoryReply, hr]
  exact if_pos h

section
variable (free : s.poolHeld i r = false)
include free

/-- An atomic reads first; its write takes its place, marked by CODE 1. -/
theorem execPooledMemoryReply_atomicReads (ho : r.pkt.op = opAT) (hc : r.pkt.code = 0) : ∃ q : PoolReq,
    execPooledMemoryReply i e s = .next { s with poolOut := s.poolOut.take i ++ q :: s.poolOut.drop (i + 1) } ∧ q.addr = r.addr ∧
      q.pkt.code = 1 ∧ q.pkt.args = leBytes (if bitAt (pktArg r.pkt 0 1) 7 then 8 else 4)
        (leNat (extRead e r.addr (if bitAt (pktArg r.pkt 0 1) 7 then 8 else 4))) := by
  simp only [execPooledMemoryReply, hr]
  exact ⟨_, (if_neg (Bool.eq_false_iff.1 free)).trans (if_pos ⟨ho, hc⟩), rfl, rfl, rfl⟩

/-- So does the arrival of a reduction, which counts up. -/
theorem execPooledMemoryReply_arrivalReads (ho : r.pkt.op = opRED) (hc : r.pkt.code = 0) : execPooledMemoryReply i e s =
    .next { s with poolOut := s.poolOut.take i ++
      ⟨{ r.pkt with code := 1, args := leBytes 4 ((leNat (extRead e r.addr 4) + 1) % 2 ^ 32) }, r.addr⟩ :: s.poolOut.drop (i + 1) } := by
  have noAtomic : ¬ (r.pkt.op = opAT ∧ r.pkt.code = 0) := fun h => absurd (ho.symm.trans h.1) (by decide)
  simp only [execPooledMemoryReply, hr]
  exact (if_neg (Bool.eq_false_iff.1 free)).trans ((if_neg noAtomic).trans (if_pos ⟨ho, hc⟩))

/-- Request `i` has left the pool. -/
def State.poolDone (s : State) (i : Nat) : State := { s with poolOut := s.poolOut.eraseIdx i }

theorem execPooledMemoryReply_read (ho : r.pkt.op = opRD) : execPooledMemoryReply i e s =
    .next ((s.poolDone i).answerBack r.pkt 0 [] (extRead e r.addr (16 * pktArg r.pkt 0 1))) := by
  simp only [execPooledMemoryReply, hr]
  refine (if_neg (Bool.eq_false_iff.1 free)).trans ?_
  simp only [ho]
  rfl

theorem execPooledMemoryReply_wrote (ho : r.pkt.op = opWR) (hd : r.pkt.dst ≠ 0x7FF) :
    execPooledMemoryReply i e s = .next ((s.poolDone i).answerBack r.pkt 0 [] []) := by
  have unicast : (s.poolDone i).mcLand r.pkt 0 = s.poolDone i := by simp [State.mcLand, isMulticast, hd]
  rw [← unicast]
  simp only [execPooledMemoryReply, hr]
  refine (if_neg (Bool.eq_false_iff.1 free)).trans ?_
  simp only [ho]
  rfl

theorem execPooledMemoryReply_atomicWrote (ho : r.pkt.op = opAT) (hc : r.pkt.code ≠ 0) :
    execPooledMemoryReply i e s = .next ((s.poolDone i).answerBack r.pkt 0 [] r.pkt.args) := by
  simp only [execPooledMemoryReply, hr]
  refine (if_neg (Bool.eq_false_iff.1 free)).trans ?_
  simp only [ho, hc]
  rfl

end
end
end

end Sys2Proof.Machine

end

section
/-!
PROOFS. The walkers of collectives, the end of a collective, and reductions at their home.
-/

namespace Sys2Proof.Machine

/-! ## One step of a walker (R327, R328) -/

section
variable {s : State} {k : Nat} {o : Op} {r : Coll}

/-- The first piece of the transfers that has its reply lands. -/
theorem walk1_lands {j : Nat} {p : Piece} (hj : o.pieces[j]? = some p) (hp : p.st = .replied)
    (first : ∀ q ∈ o.pieces.take j, q.st ≠ .replied) : s.walk1 k o r = s.landXfer k o r j p := by
  have inside : j < o.pieces.length := (List.getElem?_eq_some_iff.1 hj).1
  have found : (List.range o.pieces.length).find? (fun i => (o.pieces[i]?).any fun p => decide (p.st = .replied)) = some j := by
    refine List.find?_range_eq_some.2 ⟨by simp [hj, hp], List.mem_range.2 inside, fun i hi => ?_⟩
    have hlt : i < o.pieces.length := hi.trans inside
    have earlier : o.pieces[i] ∈ o.pieces.take j := List.mem_take_iff_getElem.2 ⟨i, lt_min hi hlt, rfl⟩
    simp [List.getElem?_eq_getElem hlt, first _ earlier]
  simp only [State.walk1, found, hj]

section
variable (none_out : o.pieces = [])
include none_out

theorem arrivalDue_noPieces : o.arrivalDue r = false := by simp [Op.arrivalDue, none_out]

/-- With no piece out the walker emits its next transfer, unless it is aborted, held or has none left. -/
theorem walk1_emits (ht : s.tagLeft (engPort (ctxCluster k)) = true) (ha : r.aborted = false) (hh : r.held = false)
    (more : r.next < r.total) (few : o.xferOut r < 64) (small : r.total * (r.blk + 32) ≤ 2 ^ 20) :
    s.walk1 k o r = s.emitXfer k o r r.next := by
  have fits : s.burstSmall k o r = true := by
    simp only [State.burstSmall, decide_eq_true small, Bool.or_true, Bool.true_or]
  simp [State.walk1, none_out, ht, arrivalDue_noPieces none_out, ha, hh, fits, more, few]

theorem walk1_stops (h : r.aborted = true ∨ r.held = true ∨ r.total ≤ r.next) : s.walk1 k o r = s := by
  have stop : (r.aborted || r.held || decide (r.total ≤ r.next) || decide (64 ≤ o.xferOut r)) = true := by
    obtain h | h | h := h <;> simp [h]
  simp only [State.walk1, none_out, List.length_nil, List.range_zero, List.find?_nil, arrivalDue_noPieces none_out, Bool.false_eq_true,
    if_false, stop, if_true, ite_self]

end
end

section
variable {s : State} {k id : Nat}

theorem execWalkerTransfer_absent (h : (s.ctx k).findOp id = none) : execWalkerTransfer k id s = .next s := by
  simp only [execWalkerTransfer, h]

section
variable {o : Op} {r : Coll} (ho : (s.ctx k).findOp id = some o) (hr : o.coll = some r)
include ho hr

theorem execWalkerTransfer_gated (h : o.released = false) : execWalkerTransfer k id s = .next s := by
  simp only [execWalkerTransfer, ho, hr, h, Bool.not_false, Bool.true_or, if_true]

theorem execWalkerTransfer_walks (hl : o.released = true) (ha : o.abandoned = false) (hs : s.resetting (s.ctx k).stat.vf = false)
    (hc : (s.ctx k).collActive id = true)
    (awake : ∀ a ∈ s.walkPas (s.ctx k).stat.vf (vaOf (r.target r.next)), s.dieAwake (dieOfPa a) = true) :
    execWalkerTransfer k id s = .next (s.walk1 k o r) := by
  simp only [execWalkerTransfer, ho, hr, hl, ha, hs, hc, Bool.not_true, Bool.or_self, Bool.false_eq_true, if_false]
  exact whenAwake_awake awake

end

/-! ## The end of a collective (R208, R209) -/

theorem execCollectiveCompletion_absent (h : (s.ctx k).findOp id = none) : execCollectiveCompletion k id s = .next s := by
  simp only [execCollectiveCompletion, h]

section
variable {o : Op} (ho : (s.ctx k).findOp id = some o)
include ho

theorem execCollectiveCompletion_aborts (hk : o.kind = .collAbort) :
    execCollectiveCompletion k id s = .next (if o.released then s.applyAbort k o else s) := by
  simp only [execCollectiveCompletion, ho, hk]

section
variable {r : Coll} (hr : o.coll = some r) (hk : o.kind = .coll)
include hr hk

theorem execCollectiveCompletion_early (h : o.released = false ∨ o.collOver r = false) : execCollectiveCompletion k id s = .next s := by
  simp only [execCollectiveCompletion, ho, hr, hk]
  exact if_pos (by simpa using h)

theorem execCollectiveCompletion_ends (hl : o.released = true) (allOver : o.collOver r = true)
    (published : r.cst = false ∨ r.published = true ∨ r.aborted = true) : execCollectiveCompletion k id s = .next (s.endColl k o r) := by
  have done : (r.cst && !r.published && !r.aborted) = false := by obtain h | h | h := published <;> simp [h]
  simp only [execCollectiveCompletion, ho, hr, hk, hl, allOver, done, Bool.not_true, Bool.or_self, Bool.false_eq_true, if_false]

end
end
end

/-- A collective that holds a unit of the fabric governor gives it back with its token. -/
theorem endColl_burst {s : State} {k : Nat} {o : Op} {r : Coll} (h : o.burst = 2) : s.endColl k o r =
    { s.setCtx k ((((s.ctx k).putTok o.id (o.collToken r)).dropOp o.id).dropRows) with burstHeld := s.burstHeld - 1 } := by
  simp only [State.endColl, if_pos h]
  rfl

/-! ## Reductions at their home (R330) -/

section
variable {s : State} {i : Nat} {r : Redn}

theorem execReductionComplete_absent (h : s.redns[i]? = none) : execReductionComplete i s = .next s := by
  simp only [execReductionComplete, h]

section
variable (hr : s.redns[i]? = some r)
include hr

theorem execReductionComplete_early (hd : r.due = false) : execReductionComplete i s = .next s := by
  simp only [execReductionComplete, hr, hd, Bool.not_false, if_true]

section
variable (hd : r.due = true)
include hd

/-- A reduction that is due starts once the engine's earlier requests are over and its lines are free. -/
theorem execReductionComplete_unstarted (hs : r.started = false) : execReductionComplete i s =
    .next (if !(s.reqsOf (engPort 32)).isEmpty || r.lines.any s.lineBusy then s else s.redStart r) := by
  simp only [execReductionComplete, hr, hd, hs, Bool.not_true, Bool.not_false, Bool.false_eq_true, if_false, if_true]

theorem execReductionComplete_waits (hs : r.started = false) (h : s.reqsOf (engPort 32) ≠ [] ∨ ∃ l ∈ r.lines, s.lineBusy l = true) :
    execReductionComplete i s = .next s := by
  rw [execReductionComplete_unstarted hr hd hs, if_pos]
  simpa using h

theorem execReductionComplete_starts (hs : r.started = false) (hq : s.reqsOf (engPort 32) = []) (hl : ∀ l ∈ r.lines, s.lineBusy l = false) :
    execReductionComplete i s = .next (s.redStart r) := by
  rw [execReductionComplete_unstarted hr hd hs, if_neg]
  simpa [hq] using hl

section
variable (hs : r.started = true)
include hs

theorem execReductionComplete_writing
    (h : (∃ q ∈ s.reqs, q.owner = .reduce r.hdr) ∨ (r.pool = none ∧ s.lineBusy (r.hdr / 128) = true)) :
    execReductionComplete i s = .next s := by
  simp only [execReductionComplete, hr, hd, hs, Bool.not_true, Bool.false_eq_true, if_false]
  exact if_pos (by simpa using h)

/-- Once its result has been written a reduction ends, with COUNT cleared: in a record, or in the landing that its BAR asks for. -/
theorem execReductionComplete_ends (hq : ∀ q ∈ s.reqs, q.owner ≠ .reduce r.hdr) (hl : r.pool ≠ none ∨ s.lineBusy (r.hdr / 128) = false) :
    let t := ({ s with redns := s.redns.eraseIdx i } : State).clearCount r
    execReductionComplete i s = .next (if r.code ≠ 0 then t.record 9 r.code (engPort 32) r.vf r.hdr
      else if bitAt (rfld r.args 8 8) 63 then
        t.landBar (engPort 32) r.vf (redDst r.args).1 (rfld r.args 8 8 % 2 ^ 30) (rfld r.args 24 4)
      else t) := by
  have written : ¬ (s.reqs.any (fun q => decide (q.owner = .reduce r.hdr)) || (r.pool.isNone && s.lineBusy (r.hdr / 128))) = true := by
    obtain hl | hl := hl <;> simpa [hl] using hq
  simp only [execReductionComplete, hr, hd, hs, Bool.not_true, Bool.false_eq_true, if_false, if_neg written]

end
end
end
end

/-! ## COUNT cleared -/

/-- The four bytes of a word that does not cross a line lie in one line. -/
theorem lines_of_word {a : Nat} (h : a % 4 = 0) (x : Nat) : ((cellsAt a (leBytes 4 x)).map fun p => p.1 / 128).eraseDups = [a / 128] := by
  have same : ∀ i < 4, (a + i) / 128 = a / 128 := by omega
  have lines : (cellsAt a (leBytes 4 x)).map (fun p => p.1 / 128) = List.replicate 4 (a / 128) := by
    refine List.eq_replicate_iff.2 ⟨by simp [cellsAt, leBytes], fun l hl => ?_⟩
    obtain ⟨p, hp, rfl⟩ := List.mem_map.1 hl
    obtain ⟨j, hj, hpa⟩ := mem_cellsAt hp
    rw [hpa, same j (by simpa [leBytes] using hj)]
  rw [lines]
  simp [List.replicate, List.eraseDups_cons]

/-- Fewer than 128 cells do not fill a line. -/
theorem line_not_full {cells : List (Nat × Byte)} (h : cells.length < 128) (l : Nat) :
    ((List.range 128).all fun i => cells.any fun p => decide (p.1 = 128 * l + i)) = false := by
  refine Bool.eq_false_iff.2 fun full => ?_
  have covered : (List.range 128).map (128 * l + ·) ⊆ cells.map (·.1) := by
    intro a ha
    obtain ⟨i, hi, rfl⟩ := List.mem_map.1 ha
    obtain ⟨p, hp, hpa⟩ := List.any_eq_true.1 (List.all_eq_true.1 full i hi)
    exact List.mem_map.2 ⟨p, hp, of_decide_eq_true hpa⟩
  have distinct : ((List.range 128).map (128 * l + ·)).Nodup := List.nodup_range.map fun _ _ => Nat.add_left_cancel
  have enough := (List.subperm_of_subset distinct covered).length_le
  simp at enough
  omega

/-- A word written to a sound line where no error is to be corrected changes the memory alone. -/
theorem putCells_word {s : State} {a : Nat} (h : a % 4 = 0) (sound : s.badLine (a / 128) = false) (hfix : s.eccFix = []) (vf x : Nat) :
    s.putCells vf (cellsAt a (leBytes 4 x)) = (s.wrMem (cellsAt a (leBytes 4 x)), 0) := by
  have part : (cellsAt a (leBytes 4 x)).length < 128 := by simp [cellsAt, leBytes]
  simp only [State.putCells, lines_of_word h, line_not_full part, Bool.not_false, Bool.and_true, List.find?_cons, sound, List.find?_nil,
    List.filter_false, List.foldl_nil, noteFixes_none hfix]

theorem clearCount_home {s : State} {r : Redn} (hp : r.pool = none) (h : r.hdr % 4 = 0) (sound : s.badLine (r.hdr / 128) = false)
    (hfix : s.eccFix = []) : s.clearCount r = (s.wrMem (cellsAt r.hdr (leBytes 4 0))).touch [r.hdr / 128] := by
  simp only [State.clearCount, hp, putCells_word h sound hfix]

end Sys2Proof.Machine

end

section
/-!
PROOFS. The events of the fabric and of collectives, O56.
-/

namespace Sys2Proof.Machine

/-- Settles O56, event by event: each by the rule for what its unit finds. -/
theorem fabricAndCollectiveEvents : Obligations.FabricAndCollectiveEvents := by
  unfold Obligations.FabricAndCollectiveEvents
  refine ⟨fun s i e => ⟨fun h => ?absent, fun a ha => ?arrived, execPooledMemoryReply_absent, fun r hr free => ?pool,
      fun r q hr hq h => execPooledMemoryReply_held hr (poolHeld_eq_true hq h)⟩,
    fun s tag => ⟨execRequestTimeout_early, fun q => execRequestTimeout_ends⟩,
    fun s port p hs => ⟨execPacketRoute_stranger hs, fun hr => ?route⟩,
    fun s dst lane => ⟨execLaneNonminimalMove_stays, fun port l m => execLaneNonminimalMove_moves, execLaneMinimalReturn_stays,
      execLaneMinimalReturn_returns⟩,
    fun s k id => ⟨fun h => ⟨execWalkerTransfer_absent h, execCollectiveCompletion_absent h⟩, fun o r ho hr => ?collective,
      fun o ho hk => ?abort⟩,
    fun s i => ⟨execReductionComplete_absent, fun r hr => ⟨execReductionComplete_early hr, fun hd hs =>
      ⟨execReductionComplete_waits hr hd hs, execReductionComplete_starts hr hd hs⟩, fun hd hs =>
      ⟨execReductionComplete_writing hr hd hs, fun hq hl => ?reduced⟩⟩⟩⟩
  case absent =>
    exact ⟨execReplyPkt_absent h, execQrptPkt_none (arrival_absent h _), execMgmtPkt_none (arrival_absent h _), execUnknownOpPacket_absent h,
      execForwardedRequest_absent h, execMulticastWr_absent h⟩
  case arrived =>
    intro p
    refine ⟨fun ho hm => ⟨execReplyPkt_discards ha ho hm, fun q hq => ⟨execReplyPkt_ends ha ho hm hq, fun h n how hd hc => ?_⟩⟩,
      execReplyPkt_other ha, fun hd hm hr => ?request, execUnknownOpPacket_drops ha, execUnknownOpPacket_known ha,
      execMulticastWr_waits ha, fun hd hm ho => execMulticastWr_drops ha hd hm (.inr ho), fun hd hm ho => ?multicast⟩
    · exact (execReplyPkt_ends ha ho hm hq).trans (congrArg _ (endReq_host (s := s.take i) how hd hc _ _))
    case request =>
      have turn {op} : a.pkt.op = op → s.arrival i op = some a := arrival_turn ha hd hm
      have acc {op x} (ho : a.pkt.op = op) (hx : frameAcc op = some x) : frameAcc a.pkt.op = some x := ho ▸ hx
      refine ⟨fun ho => execMgmtPkt_noJob (turn ho), fun vf ho => execMgmtPkt_placesRepl (turn ho), fun ho => execQrptPkt_hears (turn ho) hr,
        fun d f ho hc => ⟨?_, execForwardedRequest_peer ha hd hm hr (acc ho rfl) hc⟩,
        fun g ho hc => execForwardedRequest_pool ha hd hm hr (acc ho rfl) hc fun h => ?_,
        fun g ho hc => execForwardedRequest_poolMember ha hd hm hr (acc ho rfl) hc ho⟩
      · exact serveMem_forwarded (turn ho) hr (fun c h => nomatch hc.symm.trans h) fun h => nomatch hc.symm.trans h
      · exact absurd (ho.symm.trans h) (by decide)
    case multicast =>
      exact ⟨fun h => execMulticastWr_drops ha hd hm (.inl h), execMulticastWr_passesOn ha hd hm ho,
        fun valid here hr c => execMulticastWr_code ha hd hm ho valid here hr, execMulticastWr_resetting ha hd hm ho,
        fun valid here hr d f => execMulticastWr_peer ha hd hm ho valid here hr⟩
  case pool =>
    have first := poolHeld_eq_false free
    exact ⟨execPooledMemoryReply_read hr first, execPooledMemoryReply_wrote hr first, execPooledMemoryReply_atomicReads hr first,
      execPooledMemoryReply_atomicWrote hr first, execPooledMemoryReply_arrivalReads hr first⟩
  case route =>
    have live := live_of_roster hr
    refine ⟨execPacketRoute_multicast live, fun hd => ⟨fun hn h => ?_, fun hn h => ?_, execPacketRoute_towardsVia live hd,
      execPacketRoute_atVia live hd⟩⟩
    · exact (execPacketRoute_minimal live hd hn).trans (congrArg _ (if_pos h))
    · exact (execPacketRoute_minimal live hd hn).trans (congrArg _ (if_neg h))
  case collective =>
    refine ⟨execWalkerTransfer_gated ho hr, fun hl ha hs hc awake => ?walks, execCollectiveCompletion_early ho hr,
      fun hk hl ended published burst => ?ends⟩
    case walks =>
      rw [exec_walkerTransfer, execWalkerTransfer_walks ho hr hl ha hs hc awake]
      refine ⟨fun j p hj hp first => congrArg _ (walk1_lands hj hp first), fun none_out ht h0 ha hh more few small => congrArg _ ?_,
        fun none_out h0 h => congrArg _ (walk1_stops none_out ?_)⟩
      · rw [← h0] at more ⊢
        exact walk1_emits none_out ht ha hh more few small
      · rwa [h0, Nat.le_zero]
    case ends =>
      rw [exec_collectiveCompletion, execCollectiveCompletion_ends ho hr hk hl ended published, endColl_burst burst]
      rfl
  case abort =>
    exact ⟨fun hl => (execCollectiveCompletion_aborts ho hk).trans (congrArg _ (if_neg (Bool.eq_false_iff.1 hl))),
      fun hl => (execCollectiveCompletion_aborts ho hk).trans (congrArg _ (if_pos hl))⟩
  case reduced =>
    intro s0 s1
    have ends := execReductionComplete_ends hr hd hs hq hl
    refine ⟨fun hp h sound => clearCount_home (s := s0) hp h sound, fun hc => ?_, fun hc hb => ?_, fun hc hb => ?_⟩
    · exact ends.trans (congrArg _ (if_pos hc))
    · exact ends.trans (congrArg _ ((if_neg (not_not.2 hc)).trans (if_pos hb)))
    · exact ends.trans (congrArg _ ((if_neg (not_not.2 hc)).trans (if_neg (Bool.eq_false_iff.1 hb))))

end Sys2Proof.Machine

end

section
/-!
Every memory stays in its canonical form. The model writes device memory and the scratchpads by `memSet`, `memSets`, `memPut` and
`memClear` only, or empties a scratchpad, and each of the four keeps the form (Laws.Memory). What follows carries this through every
function that answers a state, in the order in which the model defines them, up to the operations, the events and the step. A function
that touches no memory gets an equivalence, so that `simp` looks through it; one that writes a memory, or answers more than a state,
an implication.
-/

namespace Sys2Proof.Machine

/-! ## What an answer holds -/

/-- Every scratchpad of a table of cores is in canonical form. -/
def CoresWf (cs : AMap Core) : Prop := ∀ q, Memory.wf (AMap.get Core.reset cs q).sp = true

/-- `State.memoriesWf` of the two fields that it reads. -/
def MemsWf (m : List Host.Cell) (cs : AMap Core) : Prop := Memory.wf m = true ∧ CoresWf cs

/-- A next state, if the outcome is one, has its memories in canonical form. -/
def OutWf : Out → Prop
  | .next t => t.memoriesWf
  | _ => True

/-- The same of an operation's effect. -/
def EffWf : Eff State → Prop
  | .ok t => t.memoriesWf
  | _ => True

/-- The same of what a home answers to a packet. -/
def AnsWf : HomeAns → Prop
  | .done t _ _ _ => t.memoriesWf
  | _ => True

/-- The same of a translation. -/
def LookupWf : Lookup → Prop
  | .filled t _ => t.memoriesWf
  | .fault t _ => t.memoriesWf
  | _ => True

/-- The same of a state that may be missing. -/
def OptWf (x : Option State) : Prop := ∀ t, x = some t → t.memoriesWf

/-- The same of an access that may fail. -/
def ExcWf {ε : Type} : Except ε State → Prop
  | .ok t => t.memoriesWf
  | _ => True

section
variable {t : State}

@[simp] theorem outWf_next : OutWf (.next t) ↔ t.memoriesWf := ⟨id, id⟩
@[simp] theorem outWf_fault (r : Fault) : OutWf (.fault r) := trivial
@[simp] theorem outWf_refused (r : Refusal) : OutWf (.refused r) := trivial
@[simp] theorem effWf_ok : EffWf (.ok t) ↔ t.memoriesWf := ⟨id, id⟩
@[simp] theorem effWf_wait : EffWf .wait := trivial
@[simp] theorem effWf_late : EffWf .late := trivial
@[simp] theorem effWf_trap (a : Nat) (b : W64) : EffWf (.trap a b) := trivial
@[simp] theorem ansWf_done (a : Nat) (b c : List Byte) : AnsWf (.done t a b c) ↔ t.memoriesWf := ⟨id, id⟩
@[simp] theorem ansWf_needC (a : Nat) : AnsWf (.needC a) := trivial
@[simp] theorem lookupWf_filled (e : TlbEnt) : LookupWf (.filled t e) ↔ t.memoriesWf := ⟨id, id⟩
@[simp] theorem lookupWf_fault (e : Nat) : LookupWf (.fault t e) ↔ t.memoriesWf := ⟨id, id⟩
@[simp] theorem lookupWf_again : LookupWf .again := trivial
@[simp] theorem lookupWf_hit (e : TlbEnt) : LookupWf (.hit e) := trivial
@[simp] theorem optWf_some : OptWf (some t) ↔ t.memoriesWf := by simp [OptWf]
@[simp] theorem optWf_none : OptWf none := by simp [OptWf]
@[simp] theorem excWf_ok {ε : Type} : ExcWf (.ok t : Except ε State) ↔ t.memoriesWf := ⟨id, id⟩
@[simp] theorem excWf_error {ε : Type} (e : ε) : ExcWf (.error e) := trivial

theorem OutWf.of_next {x : Out} (hx : OutWf x) (e : x = .next t) : t.memoriesWf := by rw [e] at hx; exact hx
theorem EffWf.of_ok {x : Eff State} (hx : EffWf x) (e : x = .ok t) : t.memoriesWf := by rw [e] at hx; exact hx
theorem OptWf.of_some {x : Option State} (hx : OptWf x) (e : x = some t) : t.memoriesWf := hx t e
theorem ExcWf.of_ok {ε : Type} {x : Except ε State} (hx : ExcWf x) (e : x = .ok t) : t.memoriesWf := by rw [e] at hx; exact hx

theorem optWf_findSome? {α : Type} {f : α → Option State} (hf : ∀ a, OptWf (f a)) (l : List α) : OptWf (l.findSome? f) := by
  induction l with
  | nil => exact optWf_none
  | cons a l ih =>
    rw [List.findSome?_cons]
    split
    · next e => rw [← e]; exact hf a
    · exact ih

@[simp] theorem optWf_getD {x : Option State} (hx : OptWf x) (ht : t.memoriesWf) : (x.getD t).memoriesWf := by
  cases x with
  | none => exact ht
  | some a => exact hx a rfl

@[simp] theorem excWf_toOption_getD {ε : Type} {x : Except ε State} (hx : ExcWf x) (ht : t.memoriesWf) :
    (x.toOption.getD t).memoriesWf := by
  cases x with
  | ok a => exact hx
  | error e => exact ht

end

/-! ## Answers that depend on a condition -/

section
variable (c : Prop) [Decidable c]

@[simp] theorem memoriesWf_ite (s t : State) : (if c then s else t).memoriesWf ↔ if c then s.memoriesWf else t.memoriesWf := by
  split <;> rfl

@[simp] theorem memoriesWf_fst_ite {α : Type} (s t : State × α) :
    (if c then s else t).1.memoriesWf ↔ if c then s.1.memoriesWf else t.1.memoriesWf := by
  split <;> rfl

@[simp] theorem outWf_ite (s t : Out) : OutWf (if c then s else t) ↔ if c then OutWf s else OutWf t := by
  split <;> rfl

@[simp] theorem effWf_ite (s t : Eff State) : EffWf (if c then s else t) ↔ if c then EffWf s else EffWf t := by
  split <;> rfl

@[simp] theorem ansWf_ite (s t : HomeAns) : AnsWf (if c then s else t) ↔ if c then AnsWf s else AnsWf t := by
  split <;> rfl

@[simp] theorem excWf_ite {ε : Type} (s t : Except ε State) : ExcWf (if c then s else t) ↔ if c then ExcWf s else ExcWf t := by
  split <;> rfl

end

/-! ## The guards of an effect -/

@[simp] theorem effWf_bind {α : Type} (x : Eff α) (k : α → Eff State) : EffWf (x.bind k) ↔ ∀ a, x = .ok a → EffWf (k a) := by
  cases x <;> simp

@[simp] theorem effWf_waitUnless (b : Bool) (k : Eff State) : EffWf (waitUnless b k) ↔ (b = true → EffWf k) := by
  cases b <;> simp

@[simp] theorem effWf_trapIf (b : Bool) (c : Nat) (v : W64) (k : Eff State) : EffWf (trapIf b c v k) ↔ (b = false → EffWf k) := by
  cases b <;> simp

section
variable {α β : Type}

@[simp] theorem trapIf_eq_ok_iff (b : Bool) (c : Nat) (v : W64) (k : Eff α) (x : α) :
    trapIf b c v k = .ok x ↔ b = false ∧ k = .ok x := by
  cases b <;> simp

@[simp] theorem waitUnless_eq_ok_iff (b : Bool) (k : Eff α) (x : α) : waitUnless b k = .ok x ↔ b = true ∧ k = .ok x := by
  cases b <;> simp

@[simp] theorem bind_eq_ok_iff (x : Eff α) (k : α → Eff β) (b : β) : x.bind k = .ok b ↔ ∃ a, x = .ok a ∧ k a = .ok b := by
  cases x <;> simp

@[simp] theorem eccCheck_eq_ok_iff (s : State) (j a n : Nat) (k : Eff α) (x : α) :
    s.eccCheck j a n k = .ok x ↔ (s.core (ctxCore j)).eccAt a n = none ∧ k = .ok x := by
  unfold State.eccCheck; split <;> simp [*]

/-- A read of a record, and what is done with its bytes, apart. -/
theorem readRec_eq_bind (s : State) (f : Focus) (c : Ctx) (a n : Nat) (k : List Byte → Eff α) :
    readRec s f c a n k = (readRec s f c a n .ok).bind k := by
  unfold readRec
  split
  · rfl
  · cases (!c.storesPending f.ent.word [((a : Int), n)]) <;> simp [State.eccCheck]
    split <;> rfl

/-- A load, and what is done with its bytes, apart. -/
theorem loadBytes_eq_bind (s : State) (f : Focus) (c : Ctx) (a : Int) (n b : Nat) (k : List Byte → Eff α) :
    loadBytes s f c a n b k = (loadBytes s f c a n b .ok).bind k := by
  unfold loadBytes
  simp only [checkAccess, State.eccCheck, trapIf, waitUnless]
  repeat' split
  all_goals rfl

end

@[simp] theorem effWf_readRec (s : State) (f : Focus) (c : Ctx) (a n : Nat) (k : List Byte → Eff State) :
    EffWf (readRec s f c a n k) ↔ ∀ bs, readRec s f c a n .ok = .ok bs → EffWf (k bs) := by
  rw [readRec_eq_bind, effWf_bind]

@[simp] theorem effWf_loadBytes (s : State) (f : Focus) (c : Ctx) (a : Int) (n b : Nat) (k : List Byte → Eff State) :
    EffWf (loadBytes s f c a n b k) ↔ ∀ bs, loadBytes s f c a n b .ok = .ok bs → EffWf (k bs) := by
  rw [loadBytes_eq_bind, effWf_bind]

section
variable (k : Eff State)

@[simp] theorem effWf_checkAccess (c : Ctx) (a : Int) (n b : Nat) :
    EffWf (checkAccess c a n b k) ↔ (c.outside a n = false → ¬ a % (b : Int) ≠ 0 → EffWf k) := by
  simp [checkAccess]

@[simp] theorem effWf_checkAligned (c : Ctx) (a : Int) (n b : Nat) :
    EffWf (checkAligned c a n b k) ↔ (¬ a % (b : Int) ≠ 0 → c.outside a n = false → EffWf k) := by
  simp [checkAligned]

@[simp] theorem effWf_recTrap (a : Nat) (fs : List Nat) : EffWf (recTrap a fs k) ↔ (fs = [] → EffWf k) := by
  cases fs <;> simp [recTrap]

@[simp] theorem effWf_collTrap (a : W64) (fs : List Nat) : EffWf (collTrap a fs k) ↔ (fs = [] → EffWf k) := by
  cases fs <;> simp [collTrap]

@[simp] theorem effWf_barOk (s : State) (c : Ctx) (r : Shape) :
    EffWf (barOk s c r k) ↔ ((r.barV && s.barOutside c r.bar) = false → (r.barV && decide (r.bar % 16 ≠ 0)) = false → EffWf k) := by
  unfold barOk; rw [effWf_trapIf, effWf_trapIf]

@[simp] theorem effWf_eccCheck (s : State) (j a n : Nat) :
    EffWf (s.eccCheck j a n k) ↔ ((s.core (ctxCore j)).eccAt a n = none → EffWf k) := by
  unfold State.eccCheck; split <;> simp [*]

/-! A check of many addresses stands for itself with nothing after it. -/

@[simp] theorem effWf_checkLanes (c : Ctx) (ls : List (Nat × Int)) :
    EffWf (checkLanes c ls k) ↔ (checkLanes c ls (.ok ()) = .ok () → EffWf k) := by
  induction ls with
  | nil => simp [checkLanes]
  | cons l ls ih => simp [checkLanes, ih, checkAccess, and_imp]

@[simp] theorem effWf_eccLanes (s : State) (j : Nat) (ls : List (Nat × Int)) :
    EffWf (s.eccLanes j ls k) ↔ (s.eccLanes j ls (.ok ()) = .ok () → EffWf k) := by
  induction ls with
  | nil => simp [State.eccLanes]
  | cons l ls ih => simp [State.eccLanes, ih, and_imp]

@[simp] theorem effWf_checkRows (c : Ctx) (n : Nat) (as : List Int) :
    EffWf (checkRows c n as k) ↔ (checkRows c n as (.ok ()) = .ok () → EffWf k) := by
  induction as with
  | nil => simp [checkRows]
  | cons a as ih => simp [checkRows, ih, checkAligned, and_imp]

@[simp] theorem effWf_eccRows (s : State) (j n : Nat) (as : List Nat) :
    EffWf (s.eccRows j n as k) ↔ (s.eccRows j n as (.ok ()) = .ok () → EffWf k) := by
  induction as with
  | nil => simp [State.eccRows]
  | cons a as ih => unfold State.eccRows; split <;> simp [ih]

@[simp] theorem effWf_wIsReady (c : Ctx) (n now : Nat) (ws : List Nat) :
    EffWf (wIsReady c n now ws k) ↔ (wIsReady c n now ws (.ok ()) = .ok () → EffWf k) := by
  induction ws with
  | nil => simp [wIsReady]
  | cons w ws ih =>
    simp only [wIsReady, effWf_bind, effWf_waitUnless, ih, bind_eq_ok_iff, waitUnless_eq_ok_iff, forall_exists_index, and_imp]

@[simp] theorem effWf_checkBar (s : State) (c : Ctx) (b : W64) :
    EffWf (checkBar s c b k) ↔ (checkBar s c b (.ok ()) = .ok () → EffWf k) := by
  simp [checkBar, and_imp]

end

/-! ## The two fields that hold a memory -/

/-- The fields of an updated state, whatever they are: only device memory and the cores matter. -/
@[simp] theorem memoriesWf_mk (now booted bootStep bootFail shut conf ctxs cs clusters dies funcs m side frames commits eccBad eccFix
    svc rgen roster vertex fwver measures routes paths mcast ports errs errOvr mboxes mbOrder posts recs nextRec nextGraph graphs inbox
    reqs nextTag egress poolOut backs hostOut hostInv flights expRows rings known redns migs burstHeld burstQ ident scrub removed asks
    touched agenda focus fresh) :
    State.memoriesWf ⟨now, booted, bootStep, bootFail, shut, conf, ctxs, cs, clusters, dies, funcs, m, side, frames, commits, eccBad,
      eccFix, svc, rgen, roster, vertex, fwver, measures, routes, paths, mcast, ports, errs, errOvr, mboxes, mbOrder, posts, recs,
      nextRec, nextGraph, graphs, inbox, reqs, nextTag, egress, poolOut, backs, hostOut, hostInv, flights, expRows, rings, known, redns,
      migs, burstHeld, burstQ, ident, scrub, removed, asks, touched, agenda, focus, fresh⟩ ↔ MemsWf m cs := ⟨id, id⟩

@[simp] theorem memsWf_self (s : State) : MemsWf s.mem s.cores ↔ s.memoriesWf := ⟨id, id⟩

@[simp] theorem memsWf_setCore (s : State) (k : Nat) (c : Core) :
    MemsWf s.mem (s.setCore k c).cores ↔ (s.setCore k c).memoriesWf := ⟨id, id⟩

section
variable {m : List Host.Cell} {cs : AMap Core}

@[simp] theorem memsWf_memSets (cells : List (Nat × Byte)) (h : MemsWf m cs) : MemsWf (memSets m cells) cs :=
  ⟨memSets_wf cells h.1, h.2⟩

@[simp] theorem memsWf_memPut (a : Nat) (bs : List Byte) (h : MemsWf m cs) : MemsWf (memPut m a bs) cs :=
  ⟨memPut_wf a bs h.1, h.2⟩

theorem AMap.get_map_sp {f : Nat × Core → Nat × Core} (hk : ∀ p, (f p).1 = p.1) (hs : ∀ p, (f p).2.sp = p.2.sp) (cs : AMap Core)
    (q : Nat) : (AMap.get Core.reset (cs.map f) q).sp = (AMap.get Core.reset cs q).sp := by
  induction cs with
  | nil => rfl
  | cons p cs ih =>
    simp only [AMap.get, List.map_cons, AMap.find?, hk] at ih ⊢
    split
    · exact hs p
    · exact ih

@[simp] theorem memsWf_map {f : Nat × Core → Nat × Core} (hk : ∀ p, (f p).1 = p.1) (hs : ∀ p, (f p).2.sp = p.2.sp) :
    MemsWf m (cs.map f) ↔ MemsWf m cs := by
  simp only [MemsWf, CoresWf, AMap.get_map_sp hk hs]

end

/-! ## A core put back -/

section
variable {s : State} {k : Nat} {c : Core}

@[simp] theorem memoriesWf_core (h : s.memoriesWf) (q : Nat) : Memory.wf (s.core q).sp = true := h.2 q

@[simp] theorem setCore_memoriesWf (h : s.memoriesWf) (hc : Memory.wf c.sp = true) : (s.setCore k c).memoriesWf := by
  refine ⟨h.1, fun q => ?_⟩
  by_cases hq : q = k
  · subst hq; rw [setCore_core_same]; exact hc
  · rw [setCore_core_ne _ _ _ _ hq]; exact h.2 q

@[simp] theorem setCore_memoriesWf_iff (hc : c.sp = (s.core k).sp) : (s.setCore k c).memoriesWf ↔ s.memoriesWf := by
  have sp : ∀ q, ((s.setCore k c).core q).sp = (s.core q).sp := fun q => by
    by_cases hq : q = k
    · subst hq; rw [setCore_core_same, hc]
    · rw [setCore_core_ne _ _ _ _ hq]
  exact and_congr Iff.rfl (forall_congr' fun q => by rw [sp])

end

/-! `setCtx_core` and `setCluster_core` of Laws.State hold by `rfl`; the rules for `setCore` need them as rewrites that leave a proof. -/

theorem core_setCtx (s : State) (j q : Nat) (c : Ctx) : (s.setCtx j c).core q = s.core q := by simp
theorem core_setCluster (s : State) (j q : Nat) (c : Cluster) : (s.setCluster j c).core q = s.core q := by simp

section
variable (co : Core)

@[simp] theorem release_sp (k : Nat) : (co.release k).sp = co.sp := by unfold Core.release; split <;> rfl
@[simp] theorem dropScale_sp (k n : Nat) : (co.dropScale k n).sp = co.sp := by rw [Core.dropScale]
@[simp] theorem settleScale_sp (k n : Nat) : (co.settleScale k n).sp = co.sp := by rw [Core.settleScale]
@[simp] theorem foldScale_sp (g : Nat → Nat) : (co.foldScale g).sp = co.sp := by rw [Core.foldScale]

end

/-! ## The same for each member of a list -/

section
variable {α : Type}

theorem foldl_memory_wf {f : List Host.Cell → α → List Host.Cell} (hf : ∀ m a, Memory.wf m = true → Memory.wf (f m a) = true)
    (l : List α) {m : List Host.Cell} (h : Memory.wf m = true) : Memory.wf (l.foldl f m) = true :=
  List.foldlRecOn l f h fun m hm a _ => hf m a hm

theorem foldl_memoriesWf {f : State → α → State} (hf : ∀ s a, s.memoriesWf → (f s a).memoriesWf) (l : List α) {s : State}
    (h : s.memoriesWf) : (l.foldl f s).memoriesWf :=
  List.foldlRecOn l f h fun s hs a _ => hf s a hs

@[simp] theorem foldl_memoriesWf_iff {f : State → α → State} (hf : ∀ s a, (f s a).memoriesWf ↔ s.memoriesWf) (l : List α)
    (s : State) : (l.foldl f s).memoriesWf ↔ s.memoriesWf := by
  induction l generalizing s with
  | nil => rfl
  | cons a l ih => exact (ih _).trans (hf s a)

end

section
variable {s : State}

/-! ## Operations and traps -/

@[simp] theorem setCtx_memoriesWf {k c} : (s.setCtx k c).memoriesWf ↔ s.memoriesWf := ⟨id, id⟩

@[simp] theorem setCluster_memoriesWf {k c} : (s.setCluster k c).memoriesWf ↔ s.memoriesWf := ⟨id, id⟩

@[simp] theorem setDie_memoriesWf {k d} : (s.setDie k d).memoriesWf ↔ s.memoriesWf := ⟨id, id⟩

@[simp] theorem setFunc_memoriesWf {k f} : (s.setFunc k f).memoriesWf ↔ s.memoriesWf := ⟨id, id⟩

@[simp] theorem rollbackCtxBy_memoriesWf {k undo} : (s.rollbackCtxBy k undo).memoriesWf ↔ s.memoriesWf := by
  dsimp only [State.rollbackCtxBy]
  simp [-setCtx_core, core_setCtx]

@[simp] theorem rollbackCtx_memoriesWf {k} : (s.rollbackCtx k).memoriesWf ↔ s.memoriesWf := by
  dsimp only [State.rollbackCtx]
  simp

@[simp] theorem record_memoriesWf {kind code src vf addr} : (s.record kind code src vf addr).memoriesWf ↔ s.memoriesWf := by
  dsimp only [State.record]
  simp

@[simp] theorem dropWait_memoriesWf {k} : (s.dropWait k).memoriesWf ↔ s.memoriesWf := by
  dsimp only [State.dropWait]
  split <;> simp

@[simp] theorem enterTrap_memoriesWf {k cause pc val} : (s.enterTrap k cause pc val).memoriesWf ↔ s.memoriesWf := by
  dsimp only [State.enterTrap]
  simp [-setCtx_core, core_setCtx]

@[simp] theorem preciseTrap_memoriesWf {k n pc cause val} : (s.preciseTrap k n pc cause val).memoriesWf ↔ s.memoriesWf := by
  dsimp only [State.preciseTrap]
  simp

@[simp] theorem afterIssue_memoriesWf {k} : (s.afterIssue k).memoriesWf ↔ s.memoriesWf := by
  dsimp only [State.afterIssue]
  split <;> simp [-setCtx_core, core_setCtx]

@[simp] theorem retire_memoriesWf {f} : (s.retire f).memoriesWf ↔ s.memoriesWf := by
  dsimp only [State.retire]
  simp

@[simp] theorem issueTrap_memoriesWf {f cause val} : (s.issueTrap f cause val).memoriesWf ↔ s.memoriesWf := by
  dsimp only [State.issueTrap]
  simp

@[simp] theorem holdLate_memoriesWf {f} : (s.holdLate f).memoriesWf ↔ s.memoriesWf := ⟨id, id⟩

@[simp] theorem issueOp_memoriesWf {k : Focus → Ctx → Eff State} (h : s.memoriesWf) (hk : ∀ f c, EffWf (k f c)) : OutWf (issueOp s k) := by
  unfold issueOp
  split
  · simp [h]
  · next f _ =>
    have ok := hk f (s.ctx f.ctx)
    split
    · next e => simp [ok.of_ok e]
    · simp [h]
    · simp [h]
    · simp [h]

@[simp] theorem onCtx_memoriesWf {k} (h : s.memoriesWf) : OutWf (onCtx s k) := by
  dsimp only [onCtx]
  simp [h]

@[simp] theorem storeSp_memoriesWf {f c cells} (h : s.memoriesWf) : EffWf (storeSp s f c cells) := by
  dsimp only [storeSp]
  simp [h]

@[simp] theorem addGated_memoriesWf {f c o} (h : s.memoriesWf) : EffWf (addGated s f c o) := by
  dsimp only [addGated]
  simp [h]

@[simp] theorem addOp_memoriesWf {f c o} (h : s.memoriesWf) : EffWf (addOp s f c o) := h

@[simp] theorem releaseTo_memoriesWf {k n} : (s.releaseTo k n).memoriesWf ↔ s.memoriesWf := by
  dsimp only [State.releaseTo]
  simp

/-! ## Operands -/

@[simp] theorem storeBytes_memoriesWf {f c a bs algn} (h : s.memoriesWf) : EffWf (storeBytes s f c a bs algn) := by
  dsimp only [storeBytes]
  simp [h]

/-! ## Tasks -/

@[simp] theorem commitTo_memoriesWf {k n next} : (s.commitTo k n next).memoriesWf ↔ s.memoriesWf := by
  dsimp only [State.commitTo]
  simp [-setCtx_core, core_setCtx]

@[simp] theorem dropPermit_memoriesWf {k} : (s.dropPermit k).memoriesWf ↔ s.memoriesWf := by
  dsimp only [State.dropPermit]
  split <;> simp

@[simp] theorem countEnd_memoriesWf {r failed} : (s.countEnd r failed).memoriesWf ↔ s.memoriesWf := by
  dsimp only [State.countEnd]
  split <;> simp

@[simp] theorem freeCtx_memoriesWf {k} : (s.freeCtx k).memoriesWf ↔ s.memoriesWf := by
  dsimp only [State.freeCtx]
  split <;> simp [-setCtx_core, core_setCtx]

@[simp] theorem endTask_memoriesWf {k failed} : (s.endTask k failed).memoriesWf ↔ s.memoriesWf := by
  dsimp only [State.endTask]
  simp

/-! ## Control -/

@[simp] theorem branchOp_memoriesWf {op eff} (h : s.memoriesWf) : OutWf (branchOp s op eff) := by
  dsimp only [branchOp]
  repeat' split
  all_goals simp [h]

@[simp] theorem afterMark_memoriesWf {check : Focus → Ctx → Eff Unit} {k : Focus → Ctx → Eff State} (h : s.memoriesWf)
    (hk : ∀ f c, EffWf (k f c)) : OutWf (afterMark s check k) := by
  unfold afterMark
  split
  · simp [h]
  · dsimp only
    split
    · simp [h, hk]
    · split <;> simp [h]

@[simp] theorem execSpec_memoriesWf {off} (h : s.memoriesWf) : OutWf (execSpec off s) := by
  dsimp only [execSpec]
  simp [h]

@[simp] theorem abort_memoriesWf {k} : (s.abort k).memoriesWf ↔ s.memoriesWf := by
  dsimp only [State.abort]
  split <;> simp

@[simp] theorem execSpecCommit_memoriesWf {pc} (h : s.memoriesWf) : OutWf (execSpecCommit pc s) := by
  dsimp only [execSpecCommit]
  repeat' split
  all_goals simp [h]

@[simp] theorem execSpecAbort_memoriesWf (h : s.memoriesWf) : OutWf (execSpecAbort s) := by
  dsimp only [execSpecAbort]
  split <;> simp [h]

@[simp] theorem execSpecForcedAbort_memoriesWf {k} (h : s.memoriesWf) : OutWf (execSpecForcedAbort k s) := by
  dsimp only [execSpecForcedAbort]
  simp [h]

@[simp] theorem exitNext_memoriesWf {f} : (s.exitNext f).1.memoriesWf ↔ s.memoriesWf := by
  dsimp only [State.exitNext]
  split <;> simp

@[simp] theorem exitStep_memoriesWf {f} : (s.exitStep f).memoriesWf ↔ s.memoriesWf := by
  dsimp only [State.exitStep]
  simp

@[simp] theorem execExit_memoriesWf (h : s.memoriesWf) : OutWf (execExit s) := by
  dsimp only [execExit]
  split <;> simp [h]

@[simp] theorem execTrap_memoriesWf {imm} (h : s.memoriesWf) : OutWf (execTrap imm s) := by
  dsimp only [execTrap]
  split <;> simp [h]

@[simp] theorem returnFrom_memoriesWf {f next} : (s.returnFrom f next).memoriesWf ↔ s.memoriesWf := by
  dsimp only [State.returnFrom]
  split <;> simp

@[simp] theorem execRti_memoriesWf {next} (h : s.memoriesWf) : OutWf (execRti next s) := by
  dsimp only [execRti]
  split <;> simp [h]

/-! ## System -/

@[simp] theorem writeSd_memoriesWf {k n v} : (s.writeSd k n v).memoriesWf ↔ s.memoriesWf := by
  dsimp only [State.writeSd]
  repeat' split
  all_goals simp

@[simp] theorem csrSys_memoriesWf {k n m v} : (s.csrSys k n m v).memoriesWf ↔ s.memoriesWf := by
  dsimp only [State.csrSys]
  simp

@[simp] theorem afterRest_memoriesWf {check : Focus → Ctx → Eff Unit} {k : Focus → Ctx → Eff State} (h : s.memoriesWf)
    (hk : ∀ f c, EffWf (k f c)) : OutWf (afterRest s check k) := by
  unfold afterRest
  split
  · simp [h]
  · dsimp only
    split <;> simp [h, hk]

@[simp] theorem csrOp_memoriesWf {o m src} (h : s.memoriesWf) : OutWf (csrOp s o m src) := by
  dsimp only [csrOp]
  simp [h]

@[simp] theorem execLaunch_memoriesWf {sd sa nrec} (h : s.memoriesWf) : OutWf (execLaunch sd sa nrec s) := by
  dsimp only [execLaunch]
  simp [h]

@[simp] theorem execWatch_memoriesWf {sd sa sb timeout} (h : s.memoriesWf) : OutWf (execWatch sd sa sb timeout s) := by
  dsimp only [execWatch]
  simp [h]

@[simp] theorem execNtreq_memoriesWf (h : s.memoriesWf) : OutWf (execNtreq s) := by
  dsimp only [execNtreq]
  simp [h]

/-! ## Matrix passes -/

@[simp] theorem weightLoad_memoriesWf {wd aj t disp tr} (h : s.memoriesWf) : OutWf (weightLoad s wd aj t disp tr) := by
  dsimp only [weightLoad]
  simp [h]

@[simp] theorem withStage_memoriesWf {f : Focus} {core : Nat} {as : List Int} {len : Nat} {mc : Option Nat}
    {k : Stage → List (List Byte) → Out} (h : s.memoriesWf) (hk : ∀ g rows, OutWf (k g rows)) : OutWf (withStage s f core as len mc k) := by
  unfold withStage
  dsimp only
  split
  · split <;> simp [h, hk]
  · simp [h]

@[simp] theorem execMxLdr_memoriesWf {wd aj t kx tr disp} (h : s.memoriesWf) : OutWf (execMxLdr wd aj t kx tr disp s) := by
  dsimp only [execMxLdr]
  repeat' split
  all_goals simp [h]

@[simp] theorem execRemoteReadArrival_memoriesWf {k} (h : s.memoriesWf) : OutWf (execRemoteReadArrival k s) := h

@[simp] theorem execMxWsel_memoriesWf {wd ws tr} (h : s.memoriesWf) : OutWf (execMxWsel wd ws tr s) := by
  dsimp only [execMxWsel]
  simp [h]

@[simp] theorem execMxCsum_memoriesWf {ws} (h : s.memoriesWf) : OutWf (execMxCsum ws s) := by
  dsimp only [execMxCsum]
  simp [h]

@[simp] theorem execMxPermit_memoriesWf {_sd lvl} (h : s.memoriesWf) : OutWf (execMxPermit _sd lvl s) := by
  dsimp only [execMxPermit]
  simp [h]

@[simp] theorem execMxRel_memoriesWf (h : s.memoriesWf) : OutWf (execMxRel s) := by
  dsimp only [execMxRel]
  simp [h]

@[simp] theorem execPassRowWrite_memoriesWf {core} (h : s.memoriesWf) : OutWf (execPassRowWrite core s) := by
  dsimp only [execPassRowWrite]
  simp [h]

@[simp] theorem passOp_memoriesWf {set acc w op st} (h : s.memoriesWf) : OutWf (passOp s set acc w op st) := by
  unfold passOp
  refine afterMark_memoriesWf h fun f c => ?_
  simp only [effWf_bind]
  intro _ _ _ _ _ _ _ _
  split
  · simp [h]
  · simp

@[simp] theorem execMxClr_memoriesWf {acc ninf} (h : s.memoriesWf) : OutWf (execMxClr acc ninf s) := by
  dsimp only [execMxClr]
  simp [h]

@[simp] theorem execPermitGrant_memoriesWf {d} (h : s.memoriesWf) : OutWf (execPermitGrant d s) := by
  dsimp only [execPermitGrant]
  split <;> simp [h]

@[simp] theorem execMxDrain_memoriesWf {_st acc cv strm rows} (h : s.memoriesWf) : OutWf (execMxDrain _st acc cv strm rows s) := by
  dsimp only [execMxDrain]
  simp [h]

/-! ## Drains and feeds -/

@[simp] theorem feedOp_memoriesWf {fk fmt incr src addrs} (h : s.memoriesWf) : OutWf (feedOp s fk fmt incr src addrs) := by
  dsimp only [feedOp]
  repeat' split
  all_goals simp [h]

@[simp] theorem execFdAMc_memoriesWf {aj fk fmt kx members} (h : s.memoriesWf) : OutWf (execFdAMc aj fk fmt kx members s) := by
  unfold execFdAMc
  split
  · simp [h]
  · have fed : OutWf (feedOp s fk fmt true (some (kx, some (members.toNat + 1))) (plainAddrs aj fk)) := feedOp_memoriesWf h
    dsimp only
    split
    · next e =>
      have t := fed.of_next e
      split <;> simp [t]
    · exact fed

@[simp] theorem deliverRows_memoriesWf {who} : (s.deliverRows who).memoriesWf ↔ s.memoriesWf := ⟨id, id⟩

@[simp] theorem execMcRendezvousClose_memoriesWf {cl} (h : s.memoriesWf) : OutWf (execMcRendezvousClose cl s) := by
  dsimp only [execMcRendezvousClose]
  split <;> simp [h]

@[simp] theorem execFdZ_memoriesWf (h : s.memoriesWf) : OutWf (execFdZ s) := by
  dsimp only [execFdZ]
  simp [h]

/-! ## Scratchpad accesses -/

@[simp] theorem scalarLoad_memoriesWf {sd aj off len g} (h : s.memoriesWf) : OutWf (scalarLoad s sd aj off len g) := by
  dsimp only [scalarLoad]
  simp [h]

@[simp] theorem scalarStore_memoriesWf {sd aj off len} (h : s.memoriesWf) : OutWf (scalarStore s sd aj off len) := by
  dsimp only [scalarStore]
  simp [h]

@[simp] theorem vecLoad_memoriesWf {vd aj off t} (h : s.memoriesWf) : OutWf (vecLoad s vd aj off t) := by
  dsimp only [vecLoad]
  simp [h]

@[simp] theorem execLdVBcast_memoriesWf {vd aj t off} (h : s.memoriesWf) : OutWf (execLdVBcast vd aj t off s) := by
  dsimp only [execLdVBcast]
  simp [h]

@[simp] theorem execLdVx_memoriesWf {vd aj vi _i32 mk disp} (h : s.memoriesWf) : OutWf (execLdVx vd aj vi _i32 mk disp s) := by
  dsimp only [execLdVx]
  simp [h]

@[simp] theorem execStVx_memoriesWf {vs aj vi mk disp} (h : s.memoriesWf) : OutWf (execStVx vs aj vi mk disp s) := by
  dsimp only [execStVx]
  simp [h]

@[simp] theorem execStV_memoriesWf {vs aj mk off} (h : s.memoriesWf) : OutWf (execStV vs aj mk off s) := by
  dsimp only [execStV]
  simp [h]

@[simp] theorem execStVCmp_memoriesWf {vs aj mk off} (h : s.memoriesWf) : OutWf (execStVCmp vs aj mk off s) := by
  dsimp only [execStVCmp]
  simp [h]

@[simp] theorem execLdM_memoriesWf {mk aj off} (h : s.memoriesWf) : OutWf (execLdM mk aj off s) := by
  dsimp only [execLdM]
  simp [h]

@[simp] theorem execStM_memoriesWf {mk aj off} (h : s.memoriesWf) : OutWf (execStM mk aj off s) := by
  dsimp only [execStM]
  simp [h]

@[simp] theorem execStGrade_memoriesWf {aj sa adj off} (h : s.memoriesWf) : OutWf (execStGrade aj sa adj off s) := by
  dsimp only [execStGrade]
  simp [h]

/-! ## Copies -/

@[simp] theorem copyIn_memoriesWf {kind st ch f c r hz lost src} (h : s.memoriesWf) : EffWf (copyIn s kind st ch f c r hz lost src) :=
  h

@[simp] theorem withRec_memoriesWf {ch : BitVec 4} {a : Nat} {form : CopyForm} {k : Focus → Ctx → Shape → Eff State} (h : s.memoriesWf)
    (hk : ∀ f c r, EffWf (k f c r)) : OutWf (withRec s ch a form k) := by
  unfold withRec
  simp [h, hk]

@[simp] theorem execCpIn_memoriesWf {st ch rc} (h : s.memoriesWf) : OutWf (execCpIn st ch rc s) := by
  dsimp only [execCpIn]
  simp [h]

@[simp] theorem execCpPf_memoriesWf {st ch rc} (h : s.memoriesWf) : OutWf (execCpPf st ch rc s) := by
  dsimp only [execCpPf]
  simp [h]

@[simp] theorem execCpGat_memoriesWf {st ch rc} (h : s.memoriesWf) : OutWf (execCpGat st ch rc s) := by
  dsimp only [execCpGat]
  simp [h]

@[simp] theorem copyOut_memoriesWf {kind st ch f c r ps} (h : s.memoriesWf) : EffWf (copyOut s kind st ch f c r ps) :=
  h

@[simp] theorem execCpOut_memoriesWf {st ch rc} (h : s.memoriesWf) : OutWf (execCpOut st ch rc s) := by
  dsimp only [execCpOut]
  simp [h]

@[simp] theorem execCpCst_memoriesWf {st ch rc} (h : s.memoriesWf) : OutWf (execCpCst st ch rc s) := by
  dsimp only [execCpCst]
  simp [h]

@[simp] theorem execAccLd_memoriesWf {st ch acc rc} (h : s.memoriesWf) : OutWf (execAccLd st ch acc rc s) := by
  dsimp only [execAccLd]
  simp [h]

@[simp] theorem execAccSt_memoriesWf {st ch acc rc} (h : s.memoriesWf) : OutWf (execAccSt st ch acc rc s) := by
  dsimp only [execAccSt]
  simp [h]

@[simp] theorem execGld_memoriesWf {sd sa size sx disp} (h : s.memoriesWf) : OutWf (execGld sd sa size sx disp s) := by
  dsimp only [execGld]
  simp [h]

@[simp] theorem execGst_memoriesWf {sb sa size disp} (h : s.memoriesWf) : OutWf (execGst sb sa size disp s) := by
  dsimp only [execGst]
  simp [h]

@[simp] theorem execCld_memoriesWf {sd sa hj size sx disp} (h : s.memoriesWf) : OutWf (execCld sd sa hj size sx disp s) := by
  dsimp only [execCld]
  simp [h]

@[simp] theorem atomicOp_memoriesWf {n sd sa sb w disp} (h : s.memoriesWf) : OutWf (atomicOp s n sd sa sb w disp) := by
  dsimp only [atomicOp]
  simp [h]

@[simp] theorem execBarInit_memoriesWf {sa cnt} (h : s.memoriesWf) : OutWf (execBarInit sa cnt s) := by
  dsimp only [execBarInit]
  simp [h]

@[simp] theorem execBarArr_memoriesWf {sd sa m} (h : s.memoriesWf) : OutWf (execBarArr sd sa m s) := by
  dsimp only [execBarArr]
  simp [h]

@[simp] theorem execDrain_memoriesWf {scope loads stores copies tiles} (h : s.memoriesWf) :
    OutWf (execDrain scope loads stores copies tiles s) := by
  dsimp only [execDrain]
  repeat' split
  all_goals simp [h]

@[simp] theorem execQpoint_memoriesWf (h : s.memoriesWf) : OutWf (execQpoint s) := by
  dsimp only [execQpoint]
  split <;> simp [h]

@[simp] theorem execAnchor_memoriesWf {hj sd cid} (h : s.memoriesWf) : OutWf (execAnchor hj sd cid s) := by
  dsimp only [execAnchor]
  simp [h]

@[simp] theorem execPublish_memoriesWf {sd sa ver} (h : s.memoriesWf) : OutWf (execPublish sd sa ver s) := by
  dsimp only [execPublish]
  simp [h]

/-! ## Experts -/

@[simp] theorem execGred_memoriesWf {st ch rc} (h : s.memoriesWf) : OutWf (execGred st ch rc s) := by
  dsimp only [execGred]
  simp [h]

@[simp] theorem execXdisp_memoriesWf {st ch q rc} (h : s.memoriesWf) : OutWf (execXdisp st ch q rc s) := by
  unfold execXdisp
  refine issueOp_memoriesWf h fun f c => ?_
  simp only [effWf_waitUnless, effWf_readRec, effWf_recTrap]
  intro _ _ _ _
  split <;> simp [h]

@[simp] theorem execResolve_memoriesWf {st ch k rc} (h : s.memoriesWf) : OutWf (execResolve st ch k rc s) := by
  dsimp only [execResolve]
  simp [h]

/-! ## Vectors -/

@[simp] theorem vecFp_memoriesWf {o fm rounds readsVd g} (h : s.memoriesWf) : OutWf (vecFp s o fm rounds readsVd g) := by
  dsimp only [vecFp]
  simp [h]

@[simp] theorem vecFp1_memoriesWf {o fm g} (h : s.memoriesWf) : OutWf (vecFp1 s o fm g) := by
  dsimp only [vecFp1]
  simp [h]

@[simp] theorem vecInt_memoriesWf {o g} (h : s.memoriesWf) : OutWf (vecInt s o g) := by
  dsimp only [vecInt]
  simp [h]

@[simp] theorem vecFcmp_memoriesWf {fm cond md va vb} (h : s.memoriesWf) : OutWf (vecFcmp s fm cond md va vb) := by
  dsimp only [vecFcmp]
  simp [h]

@[simp] theorem vecEst_memoriesWf {o fn} (h : s.memoriesWf) : OutWf (vecEst s o fn) := by
  dsimp only [vecEst]
  simp [h]

@[simp] theorem vecMove_memoriesWf {vd va src} (h : s.memoriesWf) : OutWf (vecMove s vd va src) := by
  dsimp only [vecMove]
  simp [h]

@[simp] theorem vecSplat_memoriesWf {vd src imm} (h : s.memoriesWf) : OutWf (vecSplat s vd src imm) := by
  dsimp only [vecSplat]
  simp [h]

@[simp] theorem maskBin_memoriesWf {md ma mb g} (h : s.memoriesWf) : OutWf (maskBin s md ma mb g) := by
  dsimp only [maskBin]
  simp [h]

@[simp] theorem execCvt_memoriesWf {vd va t part} (h : s.memoriesWf) : OutWf (execCvt vd va t part s) := by
  dsimp only [execCvt]
  simp [h]

@[simp] theorem execCvtSx_memoriesWf {vd va fmt k} (h : s.memoriesWf) : OutWf (execCvtSx vd va fmt k s) := by
  dsimp only [execCvtSx]
  simp [h]

@[simp] theorem execCvtFit_memoriesWf {vk va cls k} (h : s.memoriesWf) : OutWf (execCvtFit vk va cls k s) := by
  dsimp only [execCvtFit]
  simp [h]

/-! ## Sends and collectives -/

@[simp] theorem sendOp_memoriesWf {sa mc entry} (h : s.memoriesWf) : OutWf (sendOp s sa mc entry) := by
  dsimp only [sendOp]
  simp [h]

@[simp] theorem reserveAll_memoriesWf {ds} (h : s.memoriesWf) : (s.reserveAll ds).1.memoriesWf := by
  induction ds generalizing s with
  | nil => exact h
  | cons d ds ih =>
    unfold State.reserveAll
    split
    · exact ih (setCtx_memoriesWf.2 h)
    · exact ih h

@[simp] theorem execSendReservation_memoriesWf {k} (h : s.memoriesWf) : OutWf (execSendReservation k s) := by
  dsimp only [execSendReservation]
  split <;> simp [h]

@[simp] theorem execSendArrival_memoriesWf {i} (h : s.memoriesWf) : OutWf (execSendArrival i s) := by
  dsimp only [execSendArrival]
  split <;> simp [h]

@[simp] theorem recvOp_memoriesWf {vd qj add} (h : s.memoriesWf) : OutWf (recvOp s vd qj add) := by
  dsimp only [recvOp]
  simp [h]

@[simp] theorem execCollStart_memoriesWf {sd sa gs} (h : s.memoriesWf) : OutWf (execCollStart sd sa gs s) := by
  dsimp only [execCollStart]
  simp [h]

@[simp] theorem execCollAbort_memoriesWf {sd} (h : s.memoriesWf) : OutWf (execCollAbort sd s) := by
  dsimp only [execCollAbort]
  simp [h]

/-! ## Fabric and global accesses -/

@[simp] theorem laneNow_memoriesWf {dst lane} : (s.laneNow dst lane).1.memoriesWf ↔ s.memoriesWf := by
  dsimp only [State.laneNow]
  split <;> simp

@[simp] theorem sendOut_memoriesWf {p} : (s.sendOut p).memoriesWf ↔ s.memoriesWf := by
  dsimp only [State.sendOut]
  simp

@[simp] theorem deliver_memoriesWf {p rank} : (s.deliver p rank).memoriesWf ↔ s.memoriesWf := ⟨id, id⟩

@[simp] theorem sendReply_memoriesWf {r} : (s.sendReply r).memoriesWf ↔ s.memoriesWf := by
  dsimp only [State.sendReply]
  simp

@[simp] theorem answer_memoriesWf {p code args data} : (s.answer p code args data).memoriesWf ↔ s.memoriesWf := by
  dsimp only [State.answer]
  simp

@[simp] theorem flushBacks_memoriesWf {n} (h : s.memoriesWf) : (s.flushBacks n).memoriesWf := by
  induction n generalizing s with
  | zero => exact h
  | succ n ih =>
    unfold State.flushBacks
    split
    · exact h
    · split
      · exact ih (by simp [h])
      · exact h

@[simp] theorem holdBack_memoriesWf {p} : (s.holdBack p).memoriesWf ↔ s.memoriesWf := ⟨id, id⟩

@[simp] theorem answerBack_memoriesWf {p code args data} (h : s.memoriesWf) : (s.answerBack p code args data).memoriesWf := by
  dsimp only [State.answerBack]
  simp [h]

@[simp] theorem await_memoriesWf {owner p dst} : (s.await owner p dst).memoriesWf ↔ s.memoriesWf :=
  ⟨id, id⟩

@[simp] theorem emit_memoriesWf {owner dst eng vf op addr args data} :
    (s.emit owner dst eng vf op addr args data).memoriesWf ↔ s.memoriesWf := by
  dsimp only [State.emit]
  simp

@[simp] theorem noteVa_memoriesWf {va} : (s.noteVa va).memoriesWf ↔ s.memoriesWf := ⟨id, id⟩

@[simp] theorem wrMem_memoriesWf {cells} (h : s.memoriesWf) : (s.wrMem cells).memoriesWf := by
  dsimp only [State.wrMem]
  simp [h]

@[simp] theorem barStep_memoriesWf {a op n} (h : s.memoriesWf) : (s.barStep a op n).1.memoriesWf := by
  unfold State.barStep
  extract_lets core co r co'
  have landed : Memory.wf co'.sp = true := land_wf _ (memoriesWf_core h core)
  clear_value co' r
  exact setCore_memoriesWf h landed

@[simp] theorem landBar_memoriesWf {eng vf dev a n} (h : s.memoriesWf) : (s.landBar eng vf dev a n).memoriesWf := by
  dsimp only [State.landBar]
  simp [h]

/-! ## Translation and shoot-downs -/

@[simp] theorem whenAwake_memoriesWf {pas : List Nat} {k : State → Out} (h : s.memoriesWf) (hk : OutWf (k s)) :
    OutWf (whenAwake s pas k) := by
  obtain e | ⟨ds, e⟩ := whenAwake_cases s pas k <;> rw [e]
  · exact hk
  · exact h

@[simp] theorem xlateFault_memoriesWf {k o kind va} : (s.xlateFault k o kind va).memoriesWf ↔ s.memoriesWf := by
  dsimp only [State.xlateFault]
  simp

@[simp] theorem setFrame_memoriesWf {frame e} (h : s.memoriesWf) : (s.setFrame frame e).memoriesWf := by
  dsimp only [State.setFrame]
  simp [h]

@[simp] theorem armWatch_memoriesWf {k o home pa} : (s.armWatch k o home pa).memoriesWf ↔ s.memoriesWf := by
  dsimp only [State.armWatch]
  repeat' split
  all_goals simp

@[simp] theorem execWatchFire_memoriesWf {k} (h : s.memoriesWf) : OutWf (execWatchFire k s) := by
  dsimp only [execWatchFire]
  simp [h]

@[simp] theorem execWatchTimeout_memoriesWf {k} (h : s.memoriesWf) : OutWf (execWatchTimeout k s) := by
  dsimp only [execWatchTimeout]
  simp [h]

@[simp] theorem sdAck_memoriesWf {cl is} (h : s.memoriesWf) : (s.sdAck cl is).memoriesWf := by
  induction is generalizing s with
  | nil => exact h
  | cons i is ih =>
    unfold State.sdAck
    exact ih (by simp [h])

@[simp] theorem sdEffect_memoriesWf {cl} : (s.sdEffect cl).memoriesWf ↔ s.memoriesWf := by
  dsimp only [State.sdEffect]
  simp

@[simp] theorem sdUpdate_memoriesWf {cl} (h : s.memoriesWf) : (s.sdUpdate cl).memoriesWf := by
  dsimp only [State.sdUpdate]
  simp [h]

@[simp] theorem execShootdownStart_memoriesWf {cl} (h : s.memoriesWf) : OutWf (execShootdownStart cl s) := by
  dsimp only [execShootdownStart]
  simp [h]

@[simp] theorem sdStop_memoriesWf {k} : (s.sdStop k).memoriesWf ↔ s.memoriesWf := by
  dsimp only [State.sdStop]
  simp [-setCtx_core, core_setCtx]

@[simp] theorem execShootdownWatchdog_memoriesWf {cl} (h : s.memoriesWf) : OutWf (execShootdownWatchdog cl s) := by
  dsimp only [execShootdownWatchdog]
  simp [h]

@[simp] theorem execShootdownEnd_memoriesWf {cl} (h : s.memoriesWf) : OutWf (execShootdownEnd cl s) := by
  dsimp only [execShootdownEnd]
  simp [h]

@[simp] theorem fillTlb_sp {co : Core} {e : TlbEnt} : (co.fillTlb e).sp = co.sp := by unfold Core.fillTlb; split <;> rfl

@[simp] theorem lookup_memoriesWf {k vf va icnt accs} (h : s.memoriesWf) : LookupWf (s.lookup k vf va icnt accs) := by
  unfold State.lookup
  split
  · simp [h]
  · dsimp only
    repeat' split
    all_goals simp [h]

/-! ## Engines -/

@[simp] theorem emitPiece_memoriesWf {k o i p} : (s.emitPiece k o i p).memoriesWf ↔ s.memoriesWf := by
  dsimp only [State.emitPiece]
  repeat' split
  all_goals simp

@[simp] theorem recordCode_memoriesWf {code eng vf addr} : (s.recordCode code eng vf addr).memoriesWf ↔ s.memoriesWf := by
  dsimp only [State.recordCode]
  simp

@[simp] theorem emitFrom_memoriesWf {k id n i} (h : s.memoriesWf) : (s.emitFrom k id n i).memoriesWf := by
  induction n generalizing s i with
  | zero => exact h
  | succ n ih =>
    unfold State.emitFrom
    split
    · exact h
    · split
      · exact h
      · exact ih (by simp [h])

@[simp] theorem emitPlain_memoriesWf {k o} : (s.emitPlain k o).memoriesWf ↔ s.memoriesWf := by
  dsimp only [State.emitPlain]
  repeat' split
  all_goals simp

@[simp] theorem combine_memoriesWf {k o} (h : s.memoriesWf) : OptWf (s.combine k o) := by
  dsimp only [State.combine]
  repeat' split
  all_goals simp [h]

@[simp] theorem emitRow_memoriesWf {owner dev eng vf desc kind bs} :
    (s.emitRow owner dev eng vf desc kind bs).memoriesWf ↔ s.memoriesWf := by
  dsimp only [State.emitRow]
  simp

@[simp] theorem shipRow_memoriesWf {k o i x dev desc occ ovf} : (s.shipRow k o i x dev desc occ ovf).memoriesWf ↔ s.memoriesWf := by
  dsimp only [State.shipRow]
  simp

@[simp] theorem chooseRow_memoriesWf {k o ovf} : (s.chooseRow k o ovf).memoriesWf ↔ s.memoriesWf := by
  dsimp only [State.chooseRow]
  repeat' split
  all_goals simp

@[simp] theorem execOverflowAfterWait_memoriesWf {k id} (h : s.memoriesWf) : OutWf (execOverflowAfterWait k id s) := by
  dsimp only [execOverflowAfterWait]
  split <;> simp [h]

@[simp] theorem resolveStep_memoriesWf {k o} : (s.resolveStep k o).memoriesWf ↔ s.memoriesWf := by
  unfold State.resolveStep
  extract_lets c put t
  have put_wf : ∀ y, (put y).memoriesWf ↔ s.memoriesWf := fun _ => setCtx_memoriesWf
  clear_value put
  split
  · simp [put_wf]
  · split
    · rfl
    · split
      · rfl
      · split
        · exact put_wf _
        · split
          · exact put_wf _
          · split
            · extract_lets
              split
              · exact Iff.rfl
              · exact put_wf _
            · exact put_wf _

@[simp] theorem markOp_memoriesWf {k id} : (s.markOp k id).memoriesWf ↔ s.memoriesWf := by
  dsimp only [State.markOp]
  split <;> simp

@[simp] theorem failLost_memoriesWf {k o} : (s.failLost k o).memoriesWf ↔ s.memoriesWf := by
  dsimp only [State.failLost]
  simp

@[simp] theorem advance_memoriesWf {k id} (h : s.memoriesWf) : (s.advance k id).memoriesWf := by
  dsimp only [State.advance]
  repeat' split
  all_goals simp [h]

@[simp] theorem askBurst_memoriesWf {k o} : (s.askBurst k o).memoriesWf ↔ s.memoriesWf := by
  dsimp only [State.askBurst]
  simp

@[simp] theorem pumpOp_memoriesWf {k id} (h : s.memoriesWf) : (s.pumpOp k id).memoriesWf := by
  dsimp only [State.pumpOp]
  repeat' split
  all_goals simp [h]

@[simp] theorem pump_memoriesWf {k} (h : s.memoriesWf) : (s.pump k).memoriesWf :=
  foldl_memoriesWf (fun _ _ h => pumpOp_memoriesWf h) _ (setCtx_memoriesWf.2 h)

@[simp] theorem pumpCore_memoriesWf {core} (h : s.memoriesWf) : (s.pumpCore core).memoriesWf :=
  foldl_memoriesWf (fun _ _ h => pump_memoriesWf h) _ h

@[simp] theorem execFabricBurstPermit_memoriesWf (h : s.memoriesWf) : OutWf (execFabricBurstPermit s) := by
  dsimp only [execFabricBurstPermit]
  split <;> simp [h]

@[simp] theorem execCombiningBufferSend_memoriesWf {core lane} (h : s.memoriesWf) : OutWf (execCombiningBufferSend core lane s) := by
  dsimp only [execCombiningBufferSend]
  repeat' split
  all_goals simp [h]

@[simp] theorem translated_memoriesWf {k o i home pa twin} (h : s.memoriesWf) : (s.translated k o i home pa twin).memoriesWf := by
  dsimp only [State.translated]
  split <;> simp [h]

@[simp] theorem failWalk_memoriesWf {k o p kind} : (s.failWalk k o p kind).memoriesWf ↔ s.memoriesWf := by
  dsimp only [State.failWalk]
  split <;> simp

@[simp] theorem execPageWalk_memoriesWf {k id} (h : s.memoriesWf) : OutWf (execPageWalk k id s) := by
  unfold execPageWalk
  dsimp only
  split
  · simp [h]
  · next o _ =>
    split
    · simp [h]
    · split
      · simp [h]
      · next p _ =>
        have found := lookup_memoriesWf (k := k) (vf := (s.ctx k).stat.vf) (va := p.va) (icnt := o.icnt) (accs := pieceAccs o.kind p) h
        split
        · simp [h]
        · split
          · simp [h]
          · next e => rw [e] at found; exact whenAwake_memoriesWf h (translated_memoriesWf found)
          · simp [h]
          · next e => rw [e] at found; exact whenAwake_memoriesWf h (failWalk_memoriesWf.2 found)

@[simp] theorem copyBar_memoriesWf {k o n} (h : s.memoriesWf) : (s.copyBar k o n).memoriesWf := by
  dsimp only [State.copyBar]
  simp [h]

@[simp] theorem landSp_memoriesWf {k o cells} (h : s.memoriesWf) : (s.landSp k o cells).memoriesWf :=
  setCtx_memoriesWf.2 (setCore_memoriesWf h (land_wf _ (memoriesWf_core h _)))

@[simp] theorem gredLand_memoriesWf {k o} (h : s.memoriesWf) : (s.gredLand k o).memoriesWf := by
  dsimp only [State.gredLand]
  repeat' split
  all_goals simp [h]

@[simp] theorem tileLand_memoriesWf {k o row} (h : s.memoriesWf) : (s.tileLand k o row).memoriesWf := by
  dsimp only [State.tileLand]
  split <;> simp [h]

@[simp] theorem landPiece_memoriesWf {k o i p} (h : s.memoriesWf) : (s.landPiece k o i p).memoriesWf := by
  dsimp only [State.landPiece]
  simp [h]

@[simp] theorem execCopyRowLanding_memoriesWf {k id} (h : s.memoriesWf) : OutWf (execCopyRowLanding k id s) := by
  dsimp only [execCopyRowLanding]
  repeat' split
  all_goals simp [h]

@[simp] theorem execCopyCompletion_memoriesWf {k id} (h : s.memoriesWf) : OutWf (execCopyCompletion k id s) := by
  dsimp only [execCopyCompletion]
  split <;> simp [h]

@[simp] theorem rowAnswer_memoriesWf {k id i code room} (h : s.memoriesWf) : (s.rowAnswer k id i code room).memoriesWf := by
  dsimp only [State.rowAnswer]
  split <;> simp [h]

@[simp] theorem pieceReply_memoriesWf {k id i code args data} (h : s.memoriesWf) : (s.pieceReply k id i code args data).memoriesWf := by
  dsimp only [State.pieceReply]
  repeat' split
  all_goals simp [h]

@[simp] theorem combineReply_memoriesWf {core k tag code} (h : s.memoriesWf) : (s.combineReply core k tag code).memoriesWf := by
  dsimp only [State.combineReply]
  simp [h]

/-! ## Homes of packets -/

@[simp] theorem noteBad_memoriesWf {line vf} : (s.noteBad line vf).memoriesWf ↔ s.memoriesWf := by
  dsimp only [State.noteBad]
  simp

@[simp] theorem noteCorrected_memoriesWf {addr} : (s.noteCorrected addr).memoriesWf ↔ s.memoriesWf := by
  dsimp only [State.noteCorrected]
  simp

@[simp] theorem noteFixes_memoriesWf {lines} : (s.noteFixes lines).memoriesWf ↔ s.memoriesWf := by
  dsimp only [State.noteFixes]
  simp

@[simp] theorem heal_memoriesWf {line} : (s.heal line).memoriesWf ↔ s.memoriesWf := ⟨id, id⟩

@[simp] theorem touch_memoriesWf {lines} : (s.touch lines).memoriesWf ↔ s.memoriesWf := ⟨id, id⟩

@[simp] theorem take_memoriesWf {i} : (s.take i).memoriesWf ↔ s.memoriesWf := ⟨id, id⟩

@[simp] theorem fetchC_memoriesWf {i a cid} : (s.fetchC i a cid).memoriesWf ↔ s.memoriesWf := by
  dsimp only [State.fetchC]
  simp

@[simp] theorem putCells_memoriesWf {vf cells} (h : s.memoriesWf) : (s.putCells vf cells).1.memoriesWf := by
  dsimp only [State.putCells]
  split <;> simp [h]

@[simp] theorem wrRange_memoriesWf {vf va frames bs} (h : s.memoriesWf) : (s.wrRange vf va frames bs).1.memoriesWf := by
  dsimp only [State.wrRange]
  simp [h]

@[simp] theorem setRing_memoriesWf {r} : (s.setRing r).memoriesWf ↔ s.memoriesWf := by
  dsimp only [State.setRing]
  simp

@[simp] theorem ringChanged_memoriesWf {desc} : (s.ringChanged desc).memoriesWf ↔ s.memoriesWf := by
  dsimp only [State.ringChanged]
  simp

@[simp] theorem ringPut_memoriesWf {vf desc ovf bs} (h : s.memoriesWf) : ExcWf (s.ringPut vf desc ovf bs) := by
  dsimp only [State.ringPut]
  split <;> simp [h]

@[simp] theorem overflowReturn_memoriesWf {vf desc n} (h : s.memoriesWf) : (s.overflowReturn vf desc n).memoriesWf := by
  induction n generalizing s with
  | zero => exact h
  | succ n ih =>
    unfold State.overflowReturn
    dsimp only
    split
    · exact h
    · split
      · exact h
      · split
        · exact ih (by simp [h])
        · split
          · exact h
          · next e =>
            have put := (ringPut_memoriesWf h).of_ok e
            exact ih (by simp [put])

@[simp] theorem afterWrite_memoriesWf {vf line occ} (h : s.memoriesWf) : (s.afterWrite vf line occ).memoriesWf := by
  dsimp only [State.afterWrite]
  simp [h]

@[simp] theorem readBytes_memoriesWf {vf pa n} (h : s.memoriesWf) : AnsWf (s.readBytes vf pa n) := by
  dsimp only [State.readBytes]
  split <;> simp [h]

@[simp] theorem readAt_memoriesWf {vf pa n cid v} (h : s.memoriesWf) : AnsWf (s.readAt vf pa n cid v) := by
  rw [readAt_eq]
  cases s.slotAt (pa / 128 * 128) cid v with
  | none => exact h
  | some slot =>
    have read := readBytes_memoriesWf (vf := vf) (pa := slot + pa % 128) (n := n) h
    simp only [State.readSlot]
    split
    · next e => simpa [e] using read
    · exact read

@[simp] theorem plainRead_memoriesWf {a pa n} (h : s.memoriesWf) : AnsWf (s.plainRead a pa n) := by
  dsimp only [State.plainRead]
  repeat' split
  all_goals simp [h]

@[simp] theorem hostHas_memoriesWf {p} : (s.hostHas p).memoriesWf ↔ s.memoriesWf := by
  dsimp only [State.hostHas]
  simp

@[simp] theorem homeRD_memoriesWf {a} (h : s.memoriesWf) : AnsWf (s.homeRD a) := by
  unfold State.homeRD
  have read := plainRead_memoriesWf (a := a) (pa := a.pkt.addr) (n := 16 * pktArg a.pkt 0 1) h
  split
  · next e => rw [e] at read; exact hostHas_memoriesWf.2 read
  · exact read

@[simp] theorem homeRDC_memoriesWf {a} (h : s.memoriesWf) : AnsWf (s.homeRDC a) := by
  dsimp only [State.homeRDC]
  simp [h]

@[simp] theorem applyWrite_memoriesWf {vf cells} (h : s.memoriesWf) : AnsWf (s.applyWrite vf cells) := by
  have put := putCells_memoriesWf (vf := vf) (cells := cells) h
  unfold State.applyWrite
  simp only [ansWf_done]
  split
  · exact foldl_memoriesWf (fun _ _ h => afterWrite_memoriesWf h) _ put
  · exact put

@[simp] theorem spoilToken_memoriesWf {cells k o t} (h : s.memoriesWf) : (s.spoilToken cells k o t).memoriesWf := by
  dsimp only [State.spoilToken]
  simp [h]

@[simp] theorem spoil_memoriesWf {p cells} (h : s.memoriesWf) : (s.spoil p cells).memoriesWf := by
  unfold State.spoil
  dsimp only
  split
  · exact h
  · exact foldl_memoriesWf (fun _ _ h => foldl_memoriesWf (fun _ _ h => spoilToken_memoriesWf h) _ h) _ h

@[simp] theorem spoiling_memoriesWf {p cells r} (h : AnsWf r) : AnsWf (r.spoiling p cells) := by
  unfold HomeAns.spoiling
  split
  · exact spoil_memoriesWf h
  · exact h

@[simp] theorem homeWR_memoriesWf {a} (h : s.memoriesWf) : AnsWf (s.homeWR a) := by
  dsimp only [State.homeWR]
  simp [h]

@[simp] theorem homeWRM_memoriesWf {a} (h : s.memoriesWf) : AnsWf (s.homeWRM a) := by
  dsimp only [State.homeWRM]
  simp [h]

@[simp] theorem homeWRC_memoriesWf {a} (h : s.memoriesWf) : AnsWf (s.homeWRC a) := by
  dsimp only [State.homeWRC]
  split <;> simp [h]

@[simp] theorem homeAT_memoriesWf {a} (h : s.memoriesWf) : AnsWf (s.homeAT a) := by
  unfold State.homeAT
  dsimp only
  split
  · simp [h]
  · exact spoil_memoriesWf (afterWrite_memoriesWf (by simp [h]))

@[simp] theorem homeANC_memoriesWf {a} (h : s.memoriesWf) : AnsWf (s.homeANC a) := by
  dsimp only [State.homeANC]
  split <;> simp [h]

@[simp] theorem homePUB_memoriesWf {a} (h : s.memoriesWf) : AnsWf (s.homePUB a) := by
  dsimp only [State.homePUB]
  split <;> simp [h]

@[simp] theorem homeBAR_memoriesWf {a} (h : s.memoriesWf) : AnsWf (s.homeBAR a) := by
  dsimp only [State.homeBAR]
  simp [h]

@[simp] theorem redStart_memoriesWf {r} : (s.redStart r).memoriesWf ↔ s.memoriesWf := by
  dsimp only [State.redStart]
  simp

@[simp] theorem redArrive_memoriesWf {hdr vf n pl pool} : (s.redArrive hdr vf n pl pool).memoriesWf ↔ s.memoriesWf :=
  ⟨id, id⟩

@[simp] theorem homeRED_memoriesWf {a} (h : s.memoriesWf) : AnsWf (s.homeRED a) := by
  dsimp only [State.homeRED]
  simp [h]

@[simp] theorem clearCount_memoriesWf {r} (h : s.memoriesWf) : (s.clearCount r).memoriesWf := by
  dsimp only [State.clearCount]
  split <;> simp [h]

@[simp] theorem execReductionComplete_memoriesWf {i} (h : s.memoriesWf) : OutWf (execReductionComplete i s) := by
  dsimp only [execReductionComplete]
  split <;> simp [h]

@[simp] theorem mcLand_memoriesWf {p code} (h : s.memoriesWf) : (s.mcLand p code).memoriesWf := by
  dsimp only [State.mcLand]
  simp [h]

@[simp] theorem sendOn_memoriesWf {p dev addr} : (s.sendOn p dev addr).memoriesWf ↔ s.memoriesWf := by
  dsimp only [State.sendOn]
  simp

@[simp] theorem finish_memoriesWf {i a r} (h : s.memoriesWf) (hr : AnsWf r) : (s.finish i a r).memoriesWf := by
  unfold State.finish
  cases r with
  | done t code args data => simpa using hr
  | needC cid => simp [h]

@[simp] theorem serveMem_memoriesWf {i op : Nat} {acc : FAcc} {go : State → Arr → HomeAns} (h : s.memoriesWf) (hg : ∀ a, AnsWf (go s a)) :
    OutWf (s.serveMem i op acc go) := by
  unfold State.serveMem
  split
  · simp [h]
  · split
    · simp [h]
    · split <;> simp [h, hg]

@[simp] theorem serveUnit_memoriesWf {i op : Nat} {go : State → Arr → HomeAns} (h : s.memoriesWf) (hg : ∀ a, AnsWf (go s a)) :
    OutWf (s.serveUnit i op go) := by
  unfold State.serveUnit
  split <;> simp [h, hg]

@[simp] theorem execWrPkt_memoriesWf {i} (h : s.memoriesWf) : OutWf (execWrPkt i s) := by
  dsimp only [execWrPkt]
  repeat' split
  all_goals simp [h]

@[simp] theorem execRdPkt_memoriesWf {i} (h : s.memoriesWf) : OutWf (execRdPkt i s) :=
  serveMem_memoriesWf h fun _ => homeRD_memoriesWf h

@[simp] theorem execWrmPkt_memoriesWf {i} (h : s.memoriesWf) : OutWf (execWrmPkt i s) :=
  serveMem_memoriesWf h fun _ => homeWRM_memoriesWf h

@[simp] theorem execWrcPkt_memoriesWf {i} (h : s.memoriesWf) : OutWf (execWrcPkt i s) :=
  serveMem_memoriesWf h fun _ => homeWRC_memoriesWf h

@[simp] theorem execRdcPkt_memoriesWf {i} (h : s.memoriesWf) : OutWf (execRdcPkt i s) :=
  serveMem_memoriesWf h fun _ => homeRDC_memoriesWf h

@[simp] theorem execAtPkt_memoriesWf {i} (h : s.memoriesWf) : OutWf (execAtPkt i s) :=
  serveMem_memoriesWf h fun _ => homeAT_memoriesWf h

@[simp] theorem execAncPkt_memoriesWf {i} (h : s.memoriesWf) : OutWf (execAncPkt i s) :=
  serveUnit_memoriesWf h fun _ => homeANC_memoriesWf h

@[simp] theorem execPubPkt_memoriesWf {i} (h : s.memoriesWf) : OutWf (execPubPkt i s) :=
  serveUnit_memoriesWf h fun _ => homePUB_memoriesWf h

@[simp] theorem execBarPkt_memoriesWf {i} (h : s.memoriesWf) : OutWf (execBarPkt i s) :=
  serveUnit_memoriesWf h fun _ => homeBAR_memoriesWf h

@[simp] theorem execRedPkt_memoriesWf {i} (h : s.memoriesWf) : OutWf (execRedPkt i s) :=
  serveMem_memoriesWf h fun _ => homeRED_memoriesWf h

@[simp] theorem execQrptPkt_memoriesWf {i} (h : s.memoriesWf) : OutWf (execQrptPkt i s) :=
  serveUnit_memoriesWf h fun _ => h

@[simp] theorem execUnknownOpPacket_memoriesWf {i} (h : s.memoriesWf) : OutWf (execUnknownOpPacket i s) := by
  dsimp only [execUnknownOpPacket]
  split <;> simp [h]

@[simp] theorem execForwardedRequest_memoriesWf {i} (h : s.memoriesWf) : OutWf (execForwardedRequest i s) := by
  dsimp only [execForwardedRequest]
  repeat' split
  all_goals simp [h]

@[simp] theorem execPooledMemoryReply_memoriesWf {i ext} (h : s.memoriesWf) : OutWf (execPooledMemoryReply i ext s) := by
  dsimp only [execPooledMemoryReply]
  split <;> simp [h]

@[simp] theorem recReply_memoriesWf {r code eng vf addr} : (s.recReply r code eng vf addr).memoriesWf ↔ s.memoriesWf := by
  dsimp only [State.recReply]
  split <;> simp

@[simp] theorem walkerFault_memoriesWf {cl k op cause val port xfer} :
    (s.walkerFault cl k op cause val port xfer).memoriesWf ↔ s.memoriesWf := by
  dsimp only [State.walkerFault]
  simp

@[simp] theorem pipeReply_memoriesWf {r tile vf addr code} : (s.pipeReply r tile vf addr code).memoriesWf ↔ s.memoriesWf := by
  dsimp only [State.pipeReply]
  repeat' split
  all_goals simp

@[simp] theorem complete_memoriesWf {q code args data} (h : s.memoriesWf) : (s.complete q code args data).memoriesWf := by
  dsimp only [State.complete]
  split <;> simp [h]

@[simp] theorem laneBack_memoriesWf {dst lane} : (s.laneBack dst lane).memoriesWf ↔ s.memoriesWf := ⟨id, id⟩

@[simp] theorem endReq_memoriesWf {q code args data} (h : s.memoriesWf) : (s.endReq q code args data).memoriesWf := by
  dsimp only [State.endReq]
  simp [h]

@[simp] theorem execReplyPkt_memoriesWf {i} (h : s.memoriesWf) : OutWf (execReplyPkt i s) := by
  dsimp only [execReplyPkt]
  repeat' split
  all_goals simp [h]

@[simp] theorem execRequestTimeout_memoriesWf {tag} (h : s.memoriesWf) : OutWf (execRequestTimeout tag s) := by
  dsimp only [execRequestTimeout]
  split <;> simp [h]

@[simp] theorem rowDone_memoriesWf {e code room} (h : s.memoriesWf) : (s.rowDone e code room).memoriesWf := by
  dsimp only [State.rowDone]
  split <;> simp [h]

@[simp] theorem execExpertRowArrival_memoriesWf {i} (h : s.memoriesWf) : OutWf (execExpertRowArrival i s) := by
  unfold execExpertRowArrival
  split
  · exact h
  · split
    · exact h
    · extract_lets
      refine whenAwake_memoriesWf h ?_
      extract_lets s1 d r s2 ovf
      have h1 : s1.memoriesWf := by simp [s1, h]
      have h2 : s2.memoriesWf := by simp [s2, h1]
      clear_value s2 d r s1
      split
      · exact rowDone_memoriesWf h1
      · split
        · exact rowDone_memoriesWf h1
        · exact rowDone_memoriesWf h1
        · exact rowDone_memoriesWf h1
        · split
          · exact rowDone_memoriesWf (by simp [h1])
          · split
            · exact rowDone_memoriesWf h2
            · split
              · exact rowDone_memoriesWf h2
              · next e => exact rowDone_memoriesWf (overflowReturn_memoriesWf ((ringPut_memoriesWf h2).of_ok e))

@[simp] theorem execOccupancyReport_memoriesWf {i} (h : s.memoriesWf) : OutWf (execOccupancyReport i s) := by
  dsimp only [execOccupancyReport]
  split <;> simp [h]

@[simp] theorem execBarrierNotify_memoriesWf {core} (h : s.memoriesWf) : OutWf (execBarrierNotify core s) := by
  dsimp only [execBarrierNotify]
  split <;> simp [h]

@[simp] theorem freeBit_memoriesWf : (s.freeBit).2.memoriesWf ↔ s.memoriesWf := ⟨id, id⟩

@[simp] theorem execBarrierQueryAnswer_memoriesWf {k} (h : s.memoriesWf) : OutWf (execBarrierQueryAnswer k s) := by
  dsimp only [execBarrierQueryAnswer]
  split <;> simp [h]

@[simp] theorem execMulticastWr_memoriesWf {i} (h : s.memoriesWf) : OutWf (execMulticastWr i s) := by
  unfold execMulticastWr
  split
  · exact h
  · next a _ =>
    extract_lets p e s1 outs hops s2 held
    have h1 : s1.memoriesWf := by simp [s1, h]
    have h2 : s2.memoriesWf := by simp [s2, h1]
    have wrote := homeWR_memoriesWf (a := { a with pkt := { p with data := mcBytes p } }) h2
    have kept : held.memoriesWf := holdBack_memoriesWf.2 h2
    clear_value held s2 s1
    split
    · exact h
    · split
      · simp [h1]
      · split
        · exact h2
        · split
          · simp [h2]
          · split
            · simp [h2]
            · split
              · next e =>
                rw [e] at wrote
                simpa using mcLand_memoriesWf wrote
              · exact h2
            · simp [h2]
            · simp [kept]

@[simp] theorem execPacketRoute_memoriesWf {port p} (h : s.memoriesWf) : OutWf (execPacketRoute port p s) := by
  dsimp only [execPacketRoute]
  simp [h]

@[simp] theorem execLaneNonminimalMove_memoriesWf {dst lane} (h : s.memoriesWf) : OutWf (execLaneNonminimalMove dst lane s) := by
  dsimp only [execLaneNonminimalMove]
  split <;> simp [h]

@[simp] theorem execLaneMinimalReturn_memoriesWf {dst lane} (h : s.memoriesWf) : OutWf (execLaneMinimalReturn dst lane s) := by
  dsimp only [execLaneMinimalReturn]
  simp [h]

/-! ## Predictors -/

@[simp] theorem loadScale_memoriesWf {f ent vals} : (s.loadScale f ent vals).memoriesWf ↔ s.memoriesWf := by
  dsimp only [State.loadScale]
  simp

@[simp] theorem execSctl_memoriesWf {aj off} (h : s.memoriesWf) : OutWf (execSctl aj off s) := by
  dsimp only [execSctl]
  simp [h]

@[simp] theorem execSctlEnt_memoriesWf {k sa} (h : s.memoriesWf) : OutWf (execSctlEnt k sa s) := by
  dsimp only [execSctlEnt]
  simp [h]

@[simp] theorem execPtRd_memoriesWf {sd sa} (h : s.memoriesWf) : OutWf (execPtRd sd sa s) := by
  dsimp only [execPtRd]
  repeat' split
  all_goals simp [h]

@[simp] theorem execPtWr_memoriesWf {sa sb} (h : s.memoriesWf) : OutWf (execPtWr sa sb s) := by
  dsimp only [execPtWr]
  simp [h]

@[simp] theorem execPtUpd_memoriesWf {sa pc} (h : s.memoriesWf) : OutWf (execPtUpd sa pc s) := by
  dsimp only [execPtUpd]
  simp [h]

@[simp] theorem execPtClr_memoriesWf {sa sb} (h : s.memoriesWf) : OutWf (execPtClr sa sb s) := by
  dsimp only [execPtClr]
  simp [h]

@[simp] theorem execPredictorTableApply_memoriesWf {cl} (h : s.memoriesWf) : OutWf (execPredictorTableApply cl s) := by
  dsimp only [execPredictorTableApply]
  split <;> simp [h]

@[simp] theorem demandOp_memoriesWf {k sd sa sb} (h : s.memoriesWf) : OutWf (demandOp s k sd sa sb) := by
  dsimp only [demandOp]
  simp [h]

/-! ## Front ends -/

@[simp] theorem dispatchWord_memoriesWf {k} (h : s.memoriesWf) : EffWf (s.dispatchWord k) := by
  unfold State.dispatchWord
  dsimp only
  rw [effWf_trapIf]
  intro _
  split
  · simp
  · simp only [effWf_bind, effWf_waitUnless]
    intro _ _ _ _ _ _ _ _ _ _ _ _
    simp [h]

@[simp] theorem dispatch_memoriesWf {k} (h : s.memoriesWf) : (s.dispatch k).memoriesWf := by
  unfold State.dispatch
  split
  · split
    · next e => exact (dispatchWord_memoriesWf h).of_ok e
    · exact h
    · simp [h]
    · simp [h]
  · exact h

@[simp] theorem giveTurn_memoriesWf {core} : (s.giveTurn core).memoriesWf ↔ s.memoriesWf := by
  dsimp only [State.giveTurn]
  repeat' split
  all_goals simp [-setCtx_core, core_setCtx]

@[simp] theorem execWordDispatch_memoriesWf {core} (h : s.memoriesWf) : OutWf (execWordDispatch core s) := by
  dsimp only [execWordDispatch]
  repeat' split
  all_goals simp [h]

@[simp] theorem execSpanLimit_memoriesWf {core} (h : s.memoriesWf) : OutWf (execSpanLimit core s) := by
  dsimp only [execSpanLimit]
  split <;> simp [h]

@[simp] theorem commitFirst_memoriesWf {k} (h : s.memoriesWf) : (s.commitFirst k).memoriesWf := by
  dsimp only [State.commitFirst]
  split <;> simp [h]

@[simp] theorem execMarkCommit_memoriesWf {k} (h : s.memoriesWf) : OutWf (execMarkCommit k s) := by
  dsimp only [execMarkCommit]
  simp [h]

@[simp] theorem execWriteQueueBankWrite_memoriesWf {core} (h : s.memoriesWf) : OutWf (execWriteQueueBankWrite core s) := by
  unfold execWriteQueueBankWrite
  extract_lets co
  split
  · exact h
  · exact setCore_memoriesWf h (memSet_wf _ _ (memoriesWf_core h core))

/-! ## Collectives -/

@[simp] theorem walkerXlate_memoriesWf {k vf va a} (h : s.memoriesWf) : (s.walkerXlate k vf va a).1.memoriesWf := by
  have found := lookup_memoriesWf (k := k) (vf := vf) (va := va) (icnt := (s.core (ctxCore k)).icnt) (accs := [a]) h
  unfold State.walkerXlate
  split
  · exact h
  · next e => rw [e] at found; exact found
  · exact h
  · next e => rw [e] at found; exact found

@[simp] theorem walkerPieces_memoriesWf {k vf ps} (h : s.memoriesWf) : (s.walkerPieces k vf ps).1.memoriesWf := by
  induction ps generalizing s with
  | nil => exact h
  | cons p ps ih =>
    unfold State.walkerPieces
    extract_lets r
    have hr : r.1.memoriesWf := walkerXlate_memoriesWf h
    split
    · exact hr
    · exact ih hr

@[simp] theorem emitMc_memoriesWf {owner eng vf addr mcg args data} :
    (s.emitMc owner eng vf addr mcg args data).memoriesWf ↔ s.memoriesWf :=
  ⟨id, id⟩

@[simp] theorem emitXferPiece_memoriesWf {k o r i} : (s.emitXferPiece k o r i).memoriesWf ↔ s.memoriesWf := by
  dsimp only [State.emitXferPiece]
  repeat' split
  all_goals simp

@[simp] theorem emitReady_memoriesWf {k id n i} (h : s.memoriesWf) : (s.emitReady k id n i).memoriesWf := by
  induction n generalizing s i with
  | zero => exact h
  | succ n ih =>
    unfold State.emitReady
    split
    · exact h
    · extract_lets s1
      have h1 : s1.memoriesWf := by
        unfold s1
        split <;> simp [h]
      exact ih h1

@[simp] theorem updColl_memoriesWf {k id g} : (s.updColl k id g).memoriesWf ↔ s.memoriesWf :=
  ⟨fun h => h, fun h => h⟩

@[simp] theorem holdWalker_memoriesWf {k id t cause val} : (s.holdWalker k id t cause val).memoriesWf ↔ s.memoriesWf := by
  dsimp only [State.holdWalker]
  simp

@[simp] theorem addPieces_memoriesWf {k id ps} (h : s.memoriesWf) : (s.addPieces k id ps).memoriesWf := by
  dsimp only [State.addPieces]
  split <;> simp [h]

@[simp] theorem xferSource_memoriesWf {k id r t} (h : s.memoriesWf) : ∀ p ∈ s.xferSource k id r t, p.1.memoriesWf := by
  intro p hp
  unfold State.xferSource at hp
  extract_lets c co at hp
  split at hp
  · obtain ⟨q, -, rfl⟩ := Option.map_eq_some_iff.1 hp
    simp [h]
  · cases hp
    exact h

@[simp] theorem arrivalPiece_memoriesWf {k r t} (h : s.memoriesWf) : (s.arrivalPiece k r t).1.memoriesWf := by
  dsimp only [State.arrivalPiece]
  split <;> simp [h]

@[simp] theorem emitXfer_memoriesWf {k o r t} (h : s.memoriesWf) : (s.emitXfer k o r t).memoriesWf := by
  unfold State.emitXfer
  extract_lets vf bad base x y
  have hx : x.1.memoriesWf := walkerPieces_memoriesWf h
  split
  · simp [h]
  · split
    · simp [hx]
    · split
      · simp [hx]
      · have hy : y.1.memoriesWf := by
          unfold y
          split
          · exact arrivalPiece_memoriesWf hx
          · exact hx
        split
        · simp [hy]
        · split
          · exact h
          · next e =>
            have hs := xferSource_memoriesWf hy _ e
            simp [hs]

@[simp] theorem landXfer_memoriesWf {k o r i p} (h : s.memoriesWf) : (s.landXfer k o r i p).memoriesWf := by
  dsimp only [State.landXfer]
  split <;> simp [h]

@[simp] theorem failXfer_memoriesWf {k o i p code} : (s.failXfer k o i p code).memoriesWf ↔ s.memoriesWf := by
  dsimp only [State.failXfer]
  simp

@[simp] theorem walk1_memoriesWf {k o r} (h : s.memoriesWf) : (s.walk1 k o r).memoriesWf := by
  dsimp only [State.walk1]
  repeat' split
  all_goals simp [h]

@[simp] theorem execWalkerTransfer_memoriesWf {k id} (h : s.memoriesWf) : OutWf (execWalkerTransfer k id s) := by
  dsimp only [execWalkerTransfer]
  repeat' split
  all_goals simp [h]

@[simp] theorem publishColl_memoriesWf {k o r} : (s.publishColl k o r).memoriesWf ↔ s.memoriesWf := by
  dsimp only [State.publishColl]
  simp

@[simp] theorem endColl_memoriesWf {k o r} : (s.endColl k o r).memoriesWf ↔ s.memoriesWf := by
  dsimp only [State.endColl]
  simp

@[simp] theorem applyAbort_memoriesWf {k o} : (s.applyAbort k o).memoriesWf ↔ s.memoriesWf := ⟨id, id⟩

@[simp] theorem execCollectiveCompletion_memoriesWf {k id} (h : s.memoriesWf) : OutWf (execCollectiveCompletion k id s) := by
  dsimp only [execCollectiveCompletion]
  repeat' split
  all_goals simp [h]

@[simp] theorem resumeWalker_memoriesWf {k id t} (h : s.memoriesWf) : (s.resumeWalker k id t).memoriesWf := by
  unfold State.resumeWalker
  split
  · exact h
  · next o _ =>
    split
    · exact h
    · next r _ =>
      extract_lets s1 vf stuck x waits y
      have h1 : s1.memoriesWf := by simp [s1, h]
      have hx : x.1.memoriesWf := walkerPieces_memoriesWf h1
      split
      · simp [h1]
      · split
        · simp [hx]
        · have hy : y.1.memoriesWf := by
            unfold y
            split
            · exact arrivalPiece_memoriesWf hx
            · exact hx
          split <;> simp [hy]

/-! ## Graphs launched -/

@[simp] theorem writeVa_memoriesWf {owner cl vf va bs} (h : s.memoriesWf) : ExcWf (s.writeVa owner cl vf va bs) := by
  dsimp only [State.writeVa]
  split <;> simp [h]

@[simp] theorem loadGraph_memoriesWf {ext cl bs recs} (h : s.memoriesWf) : (s.loadGraph ext cl bs recs).1.memoriesWf := by
  unfold State.loadGraph
  extract_lets vf va home put
  have put_wf : ∀ t code node, t.memoriesWf → (put t code node).memoriesWf := fun t code node ht => by
    have wrote : ExcWf (t.writeVa .firmware cl vf (va + 8) (leBytes 8 (graphStatus code node))) := writeVa_memoriesWf ht
    unfold put
    cases e : t.writeVa .firmware cl vf (va + 8) (leBytes 8 (graphStatus code node)) with
    | error c => exact ht
    | ok u => exact wrote.of_ok e
  split
  · exact put_wf _ _ _ h
  · exact put_wf _ _ _ (by simp [h])

@[simp] theorem checkAll_memoriesWf {ext cl by_ recs bs i} (h : s.memoriesWf) : (s.checkAll ext cl by_ recs i bs).1.memoriesWf := by
  induction bs generalizing s i with
  | nil => exact h
  | cons b bs ih =>
    cases b with
    | error e =>
      unfold State.checkAll
      split <;> simp [h]
    | ok b =>
      unfold State.checkAll
      split
      · exact h
      · extract_lets known p
        have hp : p.1.memoriesWf := by
          unfold p
          split <;> simp [h]
        split
        · exact hp
        · have rest := ih hp (i := i + 1)
          split
          · next e => rw [e] at rest; exact rest
          · exact rest

@[simp] theorem acceptGraph_memoriesWf {ext cl by_ va n} (h : s.memoriesWf) : (s.acceptGraph ext cl by_ va n).1.memoriesWf := by
  unfold State.acceptGraph
  split
  · exact h
  · split
    · exact h
    · split
      · exact h
      · extract_lets recs
        have checked : (s.checkAll ext cl by_ recs 0 recs).1.memoriesWf := checkAll_memoriesWf h
        split
        · next e => rw [e] at checked; simpa using checked
        · next e => rw [e] at checked; simpa using checked

@[simp] theorem execStepGraphAccept_memoriesWf {cl ext} (h : s.memoriesWf) : OutWf (execStepGraphAccept cl ext s) := by
  dsimp only [execStepGraphAccept]
  split <;> simp [h]

/-! ## Migrations -/

@[simp] theorem editPtes_memoriesWf {as g} (h : s.memoriesWf) : (s.editPtes as g).memoriesWf :=
  foldl_memoriesWf (fun _ _ h => by simp [h]) _ h

@[simp] theorem startSd_memoriesWf {vf va npg cl} : (s.startSd vf va npg cl).memoriesWf ↔ s.memoriesWf := ⟨id, id⟩

@[simp] theorem stepSd_memoriesWf {m npg va} : (s.stepSd m npg va).1.memoriesWf ↔ s.memoriesWf := by
  dsimp only [State.stepSd]
  simp

@[simp] theorem tellMore_memoriesWf {vf va step about frame pool ver cnt dev} :
    (s.tellMore vf va step about frame pool ver cnt dev).memoriesWf ↔ s.memoriesWf := by
  dsimp only [State.tellMore]
  simp

@[simp] theorem tellDev_memoriesWf {vf va step about frame dev} : (s.tellDev vf va step about frame dev).memoriesWf ↔ s.memoriesWf := by
  dsimp only [State.tellDev]
  simp

@[simp] theorem tellAll_memoriesWf {vf va step about frame} : (s.tellAll vf va step about frame).memoriesWf ↔ s.memoriesWf := by
  dsimp only [State.tellAll]
  simp

@[simp] theorem resumeCtx_memoriesWf {k} : (s.resumeCtx k).memoriesWf ↔ s.memoriesWf := by
  dsimp only [State.resumeCtx]
  simp

@[simp] theorem dropMig_memoriesWf {m} : (s.dropMig m).memoriesWf ↔ s.memoriesWf := ⟨id, id⟩

@[simp] theorem setMig_memoriesWf {m n} : (s.setMig m n).memoriesWf ↔ s.memoriesWf := ⟨id, id⟩

@[simp] theorem beginHere_memoriesWf {m a} (h : s.memoriesWf) : (s.beginHere m a).memoriesWf := by
  dsimp only [State.beginHere]
  simp [h]

@[simp] theorem beginMig_memoriesWf {m a} (h : s.memoriesWf) : (s.beginMig m a).memoriesWf := by
  dsimp only [State.beginMig]
  simp [h]

@[simp] theorem freeFrames_memoriesWf {frame n} (h : s.memoriesWf) : (s.freeFrames frame n).memoriesWf :=
  foldl_memoriesWf (fun _ _ h => setFrame_memoriesWf h) _ h

@[simp] theorem ownAlone_memoriesWf {dev a l} (h : s.memoriesWf) : (s.ownAlone dev a l).memoriesWf := by
  dsimp only [State.ownAlone]
  simp [h]

@[simp] theorem resumeMig_memoriesWf {m} : (s.resumeMig m).memoriesWf ↔ s.memoriesWf := by
  dsimp only [State.resumeMig]
  simp

@[simp] theorem resumeAway_memoriesWf {vf va kind} : (s.resumeAway vf va kind).memoriesWf ↔ s.memoriesWf := by
  dsimp only [State.resumeAway]
  split <;> simp

@[simp] theorem collapse_memoriesWf {m a l} (h : s.memoriesWf) : (s.collapse m a l).memoriesWf := by
  dsimp only [State.collapse]
  simp [h]

@[simp] theorem serve4_memoriesWf {m} (h : s.memoriesWf) : (s.serve4 m).memoriesWf := by
  dsimp only [State.serve4]
  split <;> simp [h]

@[simp] theorem serveAway_memoriesWf {m mh} : (s.serveAway m mh).memoriesWf ↔ s.memoriesWf := by
  dsimp only [State.serveAway]
  simp

@[simp] theorem serveMig_memoriesWf {m} (h : s.memoriesWf) : (s.serveMig m).memoriesWf := by
  dsimp only [State.serveMig]
  simp [h]

@[simp] theorem execMigrationService_memoriesWf (h : s.memoriesWf) : OutWf (execMigrationService s) := by
  unfold execMigrationService
  extract_lets away s1
  have h1 : s1.memoriesWf := foldl_memoriesWf (fun _ _ h => serveMig_memoriesWf h) _ h
  split <;> simp [h1]

@[simp] theorem readyFrames_memoriesWf {vf frame n pool} (h : s.memoriesWf) : (s.readyFrames vf frame n pool).memoriesWf :=
  foldl_memoriesWf (fun _ _ h => setFrame_memoriesWf h) _ h

@[simp] theorem ownFrames_memoriesWf {vf e frame n} (h : s.memoriesWf) : (s.ownFrames vf e frame n).memoriesWf :=
  foldl_memoriesWf (fun _ _ h => setFrame_memoriesWf h) _ h

@[simp] theorem poison_memoriesWf {lines} : (s.poison lines).memoriesWf ↔ s.memoriesWf := by
  dsimp only [State.poison]
  simp

@[simp] theorem copyFrame_memoriesWf {ext vf va e home from_ to_ pool} (h : s.memoriesWf) :
    (s.copyFrame ext vf va e home from_ to_ pool).memoriesWf := by
  dsimp only [State.copyFrame]
  simp [h]

@[simp] theorem rehome_memoriesWf {vf a l home frame} (h : s.memoriesWf) : (s.rehome vf a l home frame).memoriesWf := by
  unfold State.rehome
  extract_lets e s1 s2
  have h1 : s1.memoriesWf := editPtes_memoriesWf h
  have h2 : s2.memoriesWf := by simp [s2, h1]
  simp [h2]

@[simp] theorem copyPage_memoriesWf {m e l home frame pool ext} (h : s.memoriesWf) : (s.copyPage m e l home frame pool ext).memoriesWf :=
  setMig_memoriesWf.2 (foldl_memoriesWf (fun _ _ h => copyFrame_memoriesWf h) _ h)

@[simp] theorem finishMove_memoriesWf {m a l home frame} (h : s.memoriesWf) : (s.finishMove m a l home frame).memoriesWf := by
  dsimp only [State.finishMove]
  simp [h]

@[simp] theorem execPageMove_memoriesWf {vf va home aim ext} (h : s.memoriesWf) : OutWf (execPageMove vf va home aim ext s) := by
  dsimp only [execPageMove]
  repeat' split
  all_goals simp [h]

/-! ## Saved contexts -/

@[simp] theorem saveLive_memoriesWf {key} (h : s.memoriesWf) : (s.saveLive key).memoriesWf := by
  unfold State.saveLive
  extract_lets c a m
  refine ⟨foldl_memory_wf (fun m j hm => ?_) _ (memPut_wf _ _ (memPut_wf _ _ h.1)), h.2⟩
  dsimp only
  split
  · exact hm
  · exact memPut_wf _ _ hm

@[simp] theorem saveSlotOf_memoriesWf {key} (h : s.memoriesWf) : (s.saveSlotOf key).memoriesWf := by
  unfold State.saveSlotOf
  extract_lets c a m1 m2 m3 m4
  have h1 : Memory.wf m1 = true := memPut_wf _ _ h.1
  have h2 : Memory.wf m2 = true := memPut_wf _ _ (memPut_wf _ _ h1)
  have h3 : Memory.wf m3 = true := foldl_memory_wf (fun _ _ hm => memPut_wf _ _ hm) _ h2
  have h4 : Memory.wf m4 = true := foldl_memory_wf (fun _ _ hm => memPut_wf _ _ hm) _ h3
  exact saveLive_memoriesWf ⟨h4, h.2⟩

/-! ## The scheduler -/

@[simp] theorem placeImage_memoriesWf {st : State × List Nat} {r : LRec} (h : st.1.memoriesWf) : (State.placeImage st r).1.memoriesWf := by
  unfold State.placeImage
  refine List.foldlRecOn (motive := fun st : State × List Nat => st.1.memoriesWf) _ _ h fun st hst cl _ => ?_
  dsimp only
  split
  · exact hst
  · split <;> exact hst

@[simp] theorem placeImages_memoriesWf (h : s.memoriesWf) : s.placeImages.memoriesWf := by
  unfold State.placeImages
  extract_lets live keep s1
  have h1 : s1.memoriesWf := by simp [s1, h]
  exact List.foldlRecOn (motive := fun st : State × List Nat => st.1.memoriesWf) _ _ h1 fun _ hst _ _ => placeImage_memoriesWf hst

@[simp] theorem giveTask_memoriesWf {core t} : (s.giveTask core t).memoriesWf ↔ s.memoriesWf := by
  dsimp only [State.giveTask]
  simp

@[simp] theorem dealRec_memoriesWf {key r} : (s.dealRec key r).memoriesWf ↔ s.memoriesWf := by
  dsimp only [State.dealRec]
  simp

@[simp] theorem dealAll_memoriesWf {n} (h : s.memoriesWf) : (s.dealAll n).memoriesWf := by
  induction n generalizing s with
  | zero => exact h
  | succ n ih =>
    unfold State.dealAll
    split
    · exact h
    · exact ih (by simp [h])

@[simp] theorem markReady_memoriesWf : s.markReady.memoriesWf ↔ s.memoriesWf := ⟨id, id⟩

@[simp] theorem schedule_memoriesWf (h : s.memoriesWf) : s.schedule.memoriesWf := by
  dsimp only [State.schedule]
  simp [h]

@[simp] theorem execTaskAging_memoriesWf {core} (h : s.memoriesWf) : OutWf (execTaskAging core s) := by
  dsimp only [execTaskAging]
  simp [h]

@[simp] theorem coreBar_memoriesWf {core a op n} (h : s.memoriesWf) : (s.coreBar core a op n).memoriesWf := by
  unfold State.coreBar
  extract_lets co r co'
  have landed : Memory.wf co'.sp = true := land_wf _ (memoriesWf_core h core)
  clear_value co' r
  exact setCore_memoriesWf h landed

@[simp] theorem openRing_memoriesWf {core key} (h : s.memoriesWf) : (s.openRing core key).memoriesWf := by
  unfold State.openRing
  split
  · exact h
  · split
    · exact h
    · extract_lets s1
      have h1 : s1.memoriesWf := foldl_memoriesWf (fun _ _ h => coreBar_memoriesWf (coreBar_memoriesWf h)) _ h
      split
      · exact h
      · simp [h1]

@[simp] theorem loaderTakes_memoriesWf {core key t} (h : s.memoriesWf) : (s.loaderTakes core key t).memoriesWf := by
  dsimp only [State.loaderTakes]
  repeat' split
  all_goals simp [h]

@[simp] theorem bindTo_memoriesWf {core k t r u} (h : s.memoriesWf) : (s.bindTo core k t r u).memoriesWf := by
  unfold State.bindTo
  extract_lets d tol s1 co s2 s3
  have h1 : s1.memoriesWf := by simp [s1, h]
  have h2 : s2.memoriesWf := setCore_memoriesWf h1 (memoriesWf_core h1 core)
  have h3 : s3.memoriesWf := openRing_memoriesWf (setCtx_memoriesWf.2 h2)
  simp [h3]

@[simp] theorem execTaskBind_memoriesWf {core} (h : s.memoriesWf) : OutWf (execTaskBind core s) := by
  dsimp only [execTaskBind]
  repeat' split
  all_goals simp [h]

@[simp] theorem execTileCounterServe_memoriesWf {cl} (h : s.memoriesWf) : OutWf (execTileCounterServe cl s) := by
  dsimp only [execTileCounterServe]
  repeat' split
  all_goals simp [h]

@[simp] theorem execNextTileDelivery_memoriesWf {k} (h : s.memoriesWf) : OutWf (execNextTileDelivery k s) := by
  dsimp only [execNextTileDelivery]
  split <;> simp [h]

@[simp] theorem rekey_memoriesWf {a b} : (s.rekey a b).memoriesWf ↔ s.memoriesWf := by
  dsimp only [State.rekey]
  simp

@[simp] theorem parkPermit_memoriesWf {k} : (s.parkPermit k).memoriesWf ↔ s.memoriesWf := by
  dsimp only [State.parkPermit]
  split <;> simp

@[simp] theorem spill_memoriesWf {k} (h : s.memoriesWf) : (s.spill k).memoriesWf := by
  dsimp only [State.spill]
  split <;> simp [h]

@[simp] theorem execSwapOut_memoriesWf {k} (h : s.memoriesWf) : OutWf (execSwapOut k s) := by
  unfold execSwapOut
  extract_lets core c follows a others
  split
  · exact h
  · split
    · simp [h]
    · refine outWf_next |>.2 (foldl_memoriesWf (fun s j h => ?_) _ (by simp [h]))
      simp [h]

@[simp] theorem reloadTo_memoriesWf {b k} (h : s.memoriesWf) : OptWf (s.reloadTo b k) := by
  dsimp only [State.reloadTo]
  repeat' split
  all_goals simp [h]

@[simp] theorem execReload_memoriesWf {core} (h : s.memoriesWf) : OutWf (execReload core s) := by
  unfold execReload
  split
  · next k _ =>
    have back : ∀ b, OptWf (s.reloadTo b k) := fun b => reloadTo_memoriesWf h
    split
    · exact outWf_next.2 (optWf_getD (optWf_findSome? back _) h)
    · exact h
  · exact h

@[simp] theorem writeCompletion_memoriesWf {key r} (h : s.memoriesWf) : (s.writeCompletion key r).memoriesWf := by
  unfold State.writeCompletion
  extract_lets cl s1
  have h1 : s1.memoriesWf := by simp [s1, h]
  split
  · next e => exact (writeVa_memoriesWf h1).of_ok e
  · simp [h1]

@[simp] theorem settleRedem_memoriesWf {r} : (s.settleRedem r).memoriesWf ↔ s.memoriesWf := by
  dsimp only [State.settleRedem]
  repeat' split
  all_goals simp

@[simp] theorem releaseGraph_memoriesWf {g} : (s.releaseGraph g).memoriesWf ↔ s.memoriesWf := by
  dsimp only [State.releaseGraph]
  simp

@[simp] theorem execRecordCompletion_memoriesWf {key} (h : s.memoriesWf) : OutWf (execRecordCompletion key s) := by
  dsimp only [execRecordCompletion]
  repeat' split
  all_goals simp [h]

/-! ## Pipelines -/

@[simp] theorem holdPipe_memoriesWf {key r p tile back cause val} : (s.holdPipe key r p tile back cause val).memoriesWf ↔ s.memoriesWf := by
  dsimp only [State.holdPipe]
  simp

@[simp] theorem fillBuffer_memoriesWf {ext key r p core tile} (h : s.memoriesWf) : (s.fillBuffer ext key r p core tile).memoriesWf := by
  unfold State.fillBuffer
  extract_lets cells b s1 s2 g
  have h1 : s1.memoriesWf := setCore_memoriesWf h (land_wf _ (memoriesWf_core h core))
  have h2 : s2.memoriesWf := coreBar_memoriesWf h1
  simp [h2]

@[simp] theorem execLoaderTile_memoriesWf {key ext} (h : s.memoriesWf) : OutWf (execLoaderTile key ext s) := by
  unfold execLoaderTile
  split
  · exact h
  · split
    · exact h
    · split
      · exact h
      · split
        · exact h
        · refine whenAwake_memoriesWf h ?_
          split <;> simp [h]

@[simp] theorem emitBack_memoriesWf {key r p core tile x} : (s.emitBack key r p core tile x).memoriesWf ↔ s.memoriesWf := by
  dsimp only [State.emitBack]
  split <;> simp

@[simp] theorem execStorerWriteback_memoriesWf {key} (h : s.memoriesWf) : OutWf (execStorerWriteback key s) := by
  unfold execStorerWriteback
  split
  · exact h
  · split
    · exact h
    · split
      · simp [h]
      · split
        · exact h
        · extract_lets ps
          split
          · exact h
          · refine whenAwake_memoriesWf h ?_
            split <;> simp [h]

@[simp] theorem resumePipe_memoriesWf {key tile abort} : (s.resumePipe key tile abort).memoriesWf ↔ s.memoriesWf := by
  unfold State.resumePipe
  split
  · rfl
  · split <;> exact Iff.rfl

@[simp] theorem stopPipe_memoriesWf {key r p} : (s.stopPipe key r p).memoriesWf ↔ s.memoriesWf := by
  dsimp only [State.stopPipe]
  simp

@[simp] theorem execPipelinePreempt_memoriesWf {key} (h : s.memoriesWf) : OutWf (execPipelinePreempt key s) := by
  dsimp only [execPipelinePreempt]
  repeat' split
  all_goals simp [h]

/-! ## Firmware services -/

@[simp] theorem unreserve_memoriesWf {k} : (s.unreserve k).memoriesWf ↔ s.memoriesWf := by
  dsimp only [State.unreserve]
  simp

@[simp] theorem discard_memoriesWf {k} : (s.discard k).memoriesWf ↔ s.memoriesWf := by
  dsimp only [State.discard]
  simp

@[simp] theorem abandonStuck_memoriesWf {k} : (s.abandonStuck k).memoriesWf ↔ s.memoriesWf := ⟨id, id⟩

@[simp] theorem beginEnd_memoriesWf {cl k} : (s.beginEnd cl k).memoriesWf ↔ s.memoriesWf := by
  dsimp only [State.beginEnd]
  simp

@[simp] theorem finishEnd_memoriesWf {cl f} : (s.finishEnd cl f).memoriesWf ↔ s.memoriesWf := by
  dsimp only [State.finishEnd]
  simp

@[simp] theorem raiseMsi_memoriesWf {fn} : (s.raiseMsi fn).memoriesWf ↔ s.memoriesWf := ⟨id, id⟩

@[simp] theorem post_memoriesWf {vf walker f cause val} : (s.post vf walker f cause val).memoriesWf ↔ s.memoriesWf :=
  ⟨id, id⟩

@[simp] theorem serviceXlate_memoriesWf {vf f val} : (s.serviceXlate vf f val).memoriesWf ↔ s.memoriesWf := by
  dsimp only [State.serviceXlate]
  simp

@[simp] theorem serviceDeferred_memoriesWf {vf f} : (s.serviceDeferred vf f).memoriesWf ↔ s.memoriesWf := by
  dsimp only [State.serviceDeferred]
  repeat' split
  all_goals simp

@[simp] theorem serviceFault_memoriesWf {cl f} : (s.serviceFault cl f).memoriesWf ↔ s.memoriesWf := by
  dsimp only [State.serviceFault]
  repeat' split
  all_goals simp

@[simp] theorem execFaultQueueService_memoriesWf {cl} (h : s.memoriesWf) : OutWf (execFaultQueueService cl s) := by
  dsimp only [execFaultQueueService]
  repeat' split
  all_goals simp [h]

@[simp] theorem execLineRetire_memoriesWf {line} (h : s.memoriesWf) : OutWf (execLineRetire line s) := by
  dsimp only [execLineRetire]
  simp [h]

@[simp] theorem scrubLine_memoriesWf {line} : (s.scrubLine line).memoriesWf ↔ s.memoriesWf := by
  dsimp only [State.scrubLine]
  simp

@[simp] theorem execPatrolScrub_memoriesWf {line} (h : s.memoriesWf) : OutWf (execPatrolScrub line s) := by
  dsimp only [execPatrolScrub]
  simp [h]

@[simp] theorem moveSpills_memoriesWf {a b} : (s.moveSpills a b).memoriesWf ↔ s.memoriesWf := by
  dsimp only [State.moveSpills]
  simp

@[simp] theorem respread_memoriesWf {core} (h : s.memoriesWf) : (s.respread core).memoriesWf := by
  unfold State.respread
  extract_lets dq co s1 others
  have h1 : s1.memoriesWf := setCore_memoriesWf h (memoriesWf_core h core)
  split
  · exact setCore_memoriesWf h1 (memoriesWf_core h1 core)
  · refine foldl_memoriesWf (fun s i h => ?_) _ h1
    split
    · exact giveTask_memoriesWf.2 h
    · exact h

@[simp] theorem useSpare_memoriesWf {core} (h : s.memoriesWf) : (s.useSpare core).memoriesWf := by
  dsimp only [State.useSpare]
  simp [-setCluster_core, core_setCluster, h]

@[simp] theorem execCoreRetire_memoriesWf {core} (h : s.memoriesWf) : OutWf (execCoreRetire core s) := by
  dsimp only [execCoreRetire]
  split
  · exact h
  · split
    · split <;> simp [h]
    · split
      · exact h
      · split <;> simp [h]

@[simp] theorem rerouteTo_memoriesWf {dst} : (s.rerouteTo dst).memoriesWf ↔ s.memoriesWf := by
  dsimp only [State.rerouteTo]
  simp

@[simp] theorem reroute_memoriesWf : s.reroute.memoriesWf ↔ s.memoriesWf := by
  dsimp only [State.reroute]
  simp

@[simp] theorem putRoster_memoriesWf (h : s.memoriesWf) : s.putRoster.memoriesWf := by
  dsimp only [State.putRoster]
  simp [h]

@[simp] theorem endAll_memoriesWf {v} (h : s.memoriesWf) : (s.endAll v).memoriesWf := by
  unfold State.endAll
  refine foldl_memoriesWf (fun s q h => ?_) _ h
  split
  · exact endReq_memoriesWf h
  · exact h

@[simp] theorem execRosterRemove_memoriesWf {v} (h : s.memoriesWf) : OutWf (execRosterRemove v s) := by
  dsimp only [execRosterRemove]
  simp [h]

@[simp] theorem execLaneSpare_memoriesWf {p} (h : s.memoriesWf) : OutWf (execLaneSpare p s) := by
  dsimp only [execLaneSpare]
  simp [h]

@[simp] theorem takeDown_memoriesWf {p} : (s.takeDown p).memoriesWf ↔ s.memoriesWf := by
  dsimp only [State.takeDown]
  simp

@[simp] theorem execPortDown_memoriesWf {p} (h : s.memoriesWf) : OutWf (execPortDown p s) := by
  dsimp only [execPortDown]
  simp [h]

@[simp] theorem enroll_memoriesWf {v} (h : s.memoriesWf) : (s.enroll v).memoriesWf := by
  dsimp only [State.enroll]
  simp [h]

@[simp] theorem readmit_memoriesWf {v} (h : s.memoriesWf) : (s.readmit v).memoriesWf := by
  dsimp only [State.readmit]
  simp [h]

@[simp] theorem sendOuv_memoriesWf {p v} : (s.sendOuv p v).memoriesWf ↔ s.memoriesWf := ⟨id, id⟩

@[simp] theorem peerUp_memoriesWf {v mode} (h : s.memoriesWf) : (s.peerUp v mode).memoriesWf := by
  dsimp only [State.peerUp]
  simp [h]

@[simp] theorem execLinkUp_memoriesWf {p ouv} (h : s.memoriesWf) : OutWf (execLinkUp p ouv s) := by
  dsimp only [execLinkUp]
  repeat' split
  all_goals simp [h]

/-! ## Function-level reset -/

@[simp] theorem flrStop1_memoriesWf {k} : (s.flrStop1 k).memoriesWf ↔ s.memoriesWf := by
  dsimp only [State.flrStop1]
  simp [-setCtx_core, core_setCtx]

@[simp] theorem flrStop_memoriesWf {vf} : (s.flrStop vf).memoriesWf ↔ s.memoriesWf := by
  dsimp only [State.flrStop]
  simp

@[simp] theorem flrDiscard_memoriesWf {vf} : (s.flrDiscard vf).memoriesWf ↔ s.memoriesWf := by
  dsimp only [State.flrDiscard]
  simp

@[simp] theorem flrCore_memoriesWf {asid core} (h : s.memoriesWf) : (s.flrCore asid core).memoriesWf := by
  unfold State.flrCore
  extract_lets idle s1 co
  have h1 : s1.memoriesWf := by simp [s1, h]
  exact setCore_memoriesWf h1 rfl

@[simp] theorem flrScrub_memoriesWf {vf} (h : s.memoriesWf) : (s.flrScrub vf).memoriesWf := by
  unfold State.flrScrub
  extract_lets cls cores held s1 here s2
  have h1 : s1.memoriesWf := foldl_memoriesWf (fun _ _ h => flrCore_memoriesWf h) _ h
  have h2 : s2.memoriesWf := ⟨foldl_memory_wf (fun _ _ hm => memClear_wf _ _ hm) _ h1.1, h1.2⟩
  simp [h2]

@[simp] theorem flrRelease_memoriesWf {vf} : (s.flrRelease vf).memoriesWf ↔ s.memoriesWf := ⟨id, id⟩

@[simp] theorem flrReport_memoriesWf {vf} : (s.flrReport vf).memoriesWf ↔ s.memoriesWf := by
  dsimp only [State.flrReport]
  simp

@[simp] theorem execFunctionLevelReset_memoriesWf {vf} (h : s.memoriesWf) : OutWf (execFunctionLevelReset vf s) := by
  dsimp only [execFunctionLevelReset]
  simp [h]

/-! ## The host interface -/

@[simp] theorem emitHost_memoriesWf {vf op addr n a args data} : (s.emitHost vf op addr n a args data).memoriesWf ↔ s.memoriesWf :=
  ⟨id, id⟩

@[simp] theorem hostRead_memoriesWf {vf a n} : (s.hostRead vf a n).memoriesWf ↔ s.memoriesWf := by
  dsimp only [State.hostRead]
  simp

@[simp] theorem hostWrite_memoriesWf {vf a bs} : (s.hostWrite vf a bs).memoriesWf ↔ s.memoriesWf := by
  dsimp only [State.hostWrite]
  simp

@[simp] theorem setMbox_memoriesWf {fn b} : (s.setMbox fn b).memoriesWf ↔ s.memoriesWf := ⟨id, id⟩

@[simp] theorem goBusy_memoriesWf {fn} : (s.goBusy fn).memoriesWf ↔ s.memoriesWf := by
  dsimp only [State.goBusy]
  simp

@[simp] theorem execMailboxGoBusy_memoriesWf {fn} (h : s.memoriesWf) : OutWf (execMailboxGoBusy fn s) := by
  dsimp only [execMailboxGoBusy]
  simp [h]

@[simp] theorem writeGo_memoriesWf {fn v} : (s.writeGo fn v).memoriesWf ↔ s.memoriesWf := by
  dsimp only [State.writeGo]
  simp

@[simp] theorem writeMbox_memoriesWf {fn off v} : (s.writeMbox fn off v).memoriesWf ↔ s.memoriesWf := by
  dsimp only [State.writeMbox]
  simp

@[simp] theorem execHostAccess_memoriesWf {acc} (h : s.memoriesWf) : OutWf (execHostAccess acc s) := by
  dsimp only [execHostAccess]
  split <;> simp [h]

@[simp] theorem execHifVersionWrite_memoriesWf {fn ver} (h : s.memoriesWf) : OutWf (execHifVersionWrite fn ver s) := h

@[simp] theorem mboxCmd_memoriesWf {fn : Nat} {is : Nat → Bool} {go : State → Mbox → State × Mbox} (h : s.memoriesWf)
    (hg : ∀ b, (go s b).1.memoriesWf) : OutWf (mboxCmd s fn is go) := by
  unfold mboxCmd
  simp [h, hg]

@[simp] theorem execPlaceSubq_memoriesWf {fn} (h : s.memoriesWf) : OutWf (execPlaceSubq fn s) := by
  dsimp only [execPlaceSubq]
  simp [h]

@[simp] theorem execPlaceRepl_memoriesWf {fn} (h : s.memoriesWf) : OutWf (execPlaceRepl fn s) := by
  dsimp only [execPlaceRepl]
  simp [h]

@[simp] theorem execCstCreate_memoriesWf {fn} (h : s.memoriesWf) : OutWf (execCstCreate fn s) := by
  refine mboxCmd_memoriesWf h fun b => ?_
  split <;> exact h

@[simp] theorem clearHere_memoriesWf {fn va} : (s.clearHere fn va).memoriesWf ↔ s.memoriesWf := by
  dsimp only [State.clearHere]
  split <;> simp

@[simp] theorem clearLine_memoriesWf {fn va} : (s.clearLine fn va).memoriesWf ↔ s.memoriesWf := by
  dsimp only [State.clearLine]
  split <;> simp

@[simp] theorem execCstDestroy_memoriesWf {fn} (h : s.memoriesWf) : OutWf (execCstDestroy fn s) := by
  unfold execCstDestroy
  extract_lets b vf s1
  have h1 : s1.memoriesWf := by simp [s1, h]
  split
  · simp [h1]
  · split
    · exact h
    · refine mboxCmd_memoriesWf h fun b => ?_
      split <;> exact h

@[simp] theorem execErrlog_memoriesWf {fn} (h : s.memoriesWf) : OutWf (execErrlog fn s) := by
  dsimp only [execErrlog]
  simp [h]

@[simp] theorem execRoster_memoriesWf {fn} (h : s.memoriesWf) : OutWf (execRoster fn s) := by
  dsimp only [execRoster]
  simp [h]

@[simp] theorem answerPost_memoriesWf {p ends} (h : s.memoriesWf) : (s.answerPost p ends).memoriesWf := by
  dsimp only [State.answerPost]
  simp [h]

@[simp] theorem execFaultAns_memoriesWf {fn} (h : s.memoriesWf) : OutWf (execFaultAns fn s) := by
  refine mboxCmd_memoriesWf h fun b => ?_
  split
  · exact h
  · split
    · exact h
    · exact answerPost_memoriesWf h

@[simp] theorem execDebugCmd_memoriesWf {fn} (h : s.memoriesWf) : OutWf (execDebugCmd fn s) := by
  dsimp only [execDebugCmd]
  simp [h]

@[simp] theorem execSetLtr_memoriesWf {fn} (h : s.memoriesWf) : OutWf (execSetLtr fn s) := by
  dsimp only [execSetLtr]
  simp [h]

@[simp] theorem execQuote_memoriesWf {fn} (h : s.memoriesWf) : OutWf (execQuote fn s) := by
  dsimp only [execQuote]
  simp [h]

@[simp] theorem execPreempt_memoriesWf {fn} (h : s.memoriesWf) : OutWf (execPreempt fn s) := by
  refine mboxCmd_memoriesWf h fun b => ?_
  split
  · exact h
  · split
    · exact h
    · simp [h]

@[simp] theorem execFlr_memoriesWf {fn} (h : s.memoriesWf) : OutWf (execFlr fn s) := by
  dsimp only [execFlr]
  simp [h]

@[simp] theorem execFaultNext_memoriesWf {fn} (h : s.memoriesWf) : OutWf (execFaultNext fn s) := by
  refine mboxCmd_memoriesWf h fun b => ?_
  split <;> exact h

@[simp] theorem execMailboxUnknownCmd_memoriesWf {fn} (h : s.memoriesWf) : OutWf (execMailboxUnknownCmd fn s) := by
  dsimp only [execMailboxUnknownCmd]
  simp [h]

@[simp] theorem putVa_memoriesWf {cl vf va bs} (h : s.memoriesWf) : (s.putVa cl vf va bs).memoriesWf := by
  unfold State.putVa
  split
  · exact h
  · split
    · simp [h]
    · exact excWf_toOption_getD (writeVa_memoriesWf h) h

@[simp] theorem serveEntry_memoriesWf {ext cl vf e} (h : s.memoriesWf) : (s.serveEntry ext cl vf e).1.memoriesWf := by
  dsimp only [State.serveEntry]
  repeat' split
  all_goals simp [h]

@[simp] theorem takeProd_memoriesWf {cl vf db prod cons qsz} (h : s.memoriesWf) : (s.takeProd cl vf db prod cons qsz).memoriesWf := by
  dsimp only [State.takeProd]
  simp [h]

@[simp] theorem execSubmissionQueueServe_memoriesWf {vf ext} (h : s.memoriesWf) : OutWf (execSubmissionQueueServe vf ext s) := by
  unfold execSubmissionQueueServe
  extract_lets f cl
  split
  · exact h
  · split
    · exact h
    · refine whenAwake_memoriesWf h ?_
      split
      · exact h
      · extract_lets cons qsz s1
        split
        · simp [s1, h]
        · split
          · simp [h]
          · refine whenAwake_memoriesWf h ?_
            extract_lets r s2
            have served : r.1.memoriesWf := by
              dsimp only [r]
              split <;> simp [h]
            simp [s2, served]

@[simp] theorem obey_memoriesWf {vf va step about frame src a l pool} (h : s.memoriesWf) :
    (s.obey vf va step about frame src a l pool).1.memoriesWf := by
  dsimp only [State.obey]
  repeat' split
  all_goals simp [h]

@[simp] theorem execMgmtPkt_memoriesWf {i} (h : s.memoriesWf) : OutWf (execMgmtPkt i s) := by
  unfold execMgmtPkt
  split
  · exact h
  · extract_lets va step
    split
    · simp [h]
    · split
      · simp [h]
      · split
        · simp [h]
        · split
          · simp [h]
          · split
            · simp [h]
            · split
              · simp [h]
              · split
                · simp [h]
                · split
                  · simp [h]
                  · split
                    · simp [h]
                    · split <;> simp [h]

/-! ## Power and boot -/

@[simp] theorem execPowerLevelEnter_memoriesWf {cl} (h : s.memoriesWf) : OutWf (execPowerLevelEnter cl s) := by
  dsimp only [execPowerLevelEnter]
  simp [h]

@[simp] theorem execPowerWake_memoriesWf {cl} (h : s.memoriesWf) : OutWf (execPowerWake cl s) := by
  dsimp only [execPowerWake]
  split
  · exact h
  · split
    · simp [h]
    · split
      · exact h
      · split
        · simp only [outWf_next, setDie_memoriesWf, setCluster_memoriesWf]
          exact foldl_memoriesWf (fun _ _ h => setCore_memoriesWf h (hc := rfl)) _ h
        · simp [h]

@[simp] theorem execThermalGrantHold_memoriesWf {d t} (h : s.memoriesWf) : OutWf (execThermalGrantHold d t s) := by
  dsimp only [execThermalGrantHold]
  simp [h]

@[simp] theorem execThermalGrantResume_memoriesWf {d t} (h : s.memoriesWf) : OutWf (execThermalGrantResume d t s) := by
  dsimp only [execThermalGrantResume]
  simp [h]

@[simp] theorem execThermalClockHalve_memoriesWf {d t} (h : s.memoriesWf) : OutWf (execThermalClockHalve d t s) := by
  dsimp only [execThermalClockHalve]
  simp [h]

@[simp] theorem execThermalClockRestore_memoriesWf {d t} (h : s.memoriesWf) : OutWf (execThermalClockRestore d t s) := by
  dsimp only [execThermalClockRestore]
  simp [h]

@[simp] theorem shutdown_memoriesWf (h : s.memoriesWf) : s.shutdown.memoriesWf := by
  dsimp only [State.shutdown]
  simp [h]

@[simp] theorem execThermalShutdown_memoriesWf {_d t} (h : s.memoriesWf) : OutWf (execThermalShutdown _d t s) := by
  dsimp only [execThermalShutdown]
  simp [h]

@[simp] theorem applyLost_memoriesWf : s.applyLost.memoriesWf ↔ s.memoriesWf := by
  dsimp only [State.applyLost]
  simp

@[simp] theorem applySpares_memoriesWf : s.applySpares.memoriesWf ↔ s.memoriesWf := by
  dsimp only [State.applySpares]
  simp [-setCluster_core, core_setCluster]

@[simp] theorem applyConfig_memoriesWf (h : s.memoriesWf) : s.applyConfig.memoriesWf := by
  unfold State.applyConfig
  extract_lets g ver s1 s2 s3
  have h2 : s2.memoriesWf := by simp [s2, s1, h]
  have h3 : s3.memoriesWf := foldl_memoriesWf (fun _ c h => by exact setCore_memoriesWf h (memoriesWf_core h c)) _ h2
  clear_value s3
  exact putRoster_memoriesWf (foldl_memoriesWf (fun _ _ h => setFrame_memoriesWf h) _ (by simp [h3]))

@[simp] theorem startFirmware_memoriesWf {cl} : (s.startFirmware cl).memoriesWf ↔ s.memoriesWf := ⟨id, id⟩

@[simp] theorem bootFails_memoriesWf {n} : (s.bootFails n).memoriesWf ↔ s.memoriesWf := ⟨id, id⟩

@[simp] theorem boot_memoriesWf (h : s.memoriesWf) : s.boot.memoriesWf := by
  dsimp only [State.boot]
  simp [h]

@[simp] theorem execPowerOnBoot_memoriesWf (h : s.memoriesWf) : OutWf (execPowerOnBoot s) := by
  dsimp only [execPowerOnBoot]
  simp [h]

/-! ## Scalar operations -/

@[simp] theorem execNop_memoriesWf (h : s.memoriesWf) : OutWf (execNop s) := by
  dsimp only [execNop]
  simp [h]

@[simp] theorem scalarBin_memoriesWf {sd sa b g} (h : s.memoriesWf) : OutWf (scalarBin s sd sa b g) := by
  dsimp only [scalarBin]
  simp [h]

@[simp] theorem scalarUn_memoriesWf {sd sa g} (h : s.memoriesWf) : OutWf (scalarUn s sd sa g) := by
  dsimp only [scalarUn]
  simp [h]

@[simp] theorem scalarCmp_memoriesWf {pd sa b g} (h : s.memoriesWf) : OutWf (scalarCmp s pd sa b g) := by
  dsimp only [scalarCmp]
  simp [h]

@[simp] theorem predBin_memoriesWf {pd pa pb g} (h : s.memoriesWf) : OutWf (predBin s pd pa pb g) := by
  dsimp only [predBin]
  simp [h]

@[simp] theorem scalarFp_memoriesWf {sd sa sb g readsSd} (h : s.memoriesWf) : OutWf (scalarFp s sd sa sb g readsSd) := by
  dsimp only [scalarFp]
  simp [h]

@[simp] theorem scalarMinMax_memoriesWf {sd sa sb mx} (h : s.memoriesWf) : OutWf (scalarMinMax s sd sa sb mx) := by
  dsimp only [scalarMinMax]
  simp [h]

@[simp] theorem scalarFcmp_memoriesWf {pd sa sb cond} (h : s.memoriesWf) : OutWf (scalarFcmp s pd sa sb cond) := by
  dsimp only [scalarFcmp]
  simp [h]

/-! ## The sorter -/

@[simp] theorem sortCe_memoriesWf {asc vk dist flip} (h : s.memoriesWf) : OutWf (sortCe s asc vk dist flip) := by
  dsimp only [sortCe]
  simp [h]

/-! ## Tolerance demands -/

@[simp] theorem setNodes_memoriesWf {g ns} : (s.setNodes g ns).memoriesWf ↔ s.memoriesWf := ⟨id, id⟩

@[simp] theorem takeDemands_memoriesWf {cl} : (s.takeDemands cl).memoriesWf ↔ s.memoriesWf := by
  dsimp only [State.takeDemands]
  simp

@[simp] theorem endDemand_memoriesWf {cl d code nred grade} : (s.endDemand cl d code nred grade).memoriesWf ↔ s.memoriesWf :=
  ⟨id, id⟩

@[simp] theorem reenter_memoriesWf {g : DGraph} {ns : List DNode} {d : DemReq} {st : State × AMap Nat} {m : Nat} {ts : List Nat}
    (h : st.1.memoriesWf) : (State.reenter g ns d st m ts).1.memoriesWf := by
  unfold State.reenter
  extract_lets s
  split
  · exact h
  · split <;> exact h

@[simp] theorem redispatch_memoriesWf {cl g ns sh d grade} (h : s.memoriesWf) : (s.redispatch cl g ns sh d grade).memoriesWf := by
  unfold State.redispatch
  extract_lets s1 s2 q s3
  have h2 : s2.memoriesWf :=
    List.foldlRecOn (motive := fun st : State × AMap Nat => st.1.memoriesWf) _ _ h fun _ hst _ _ => reenter_memoriesWf hst
  have h3 : s3.memoriesWf := setCluster_memoriesWf.2 h2
  split
  · exact endDemand_memoriesWf.2 h2
  · exact setCtx_memoriesWf.2 h3

@[simp] theorem serveDemand_memoriesWf {cl ext d} (h : s.memoriesWf) : OptWf (s.serveDemand cl ext d) := by
  dsimp only [State.serveDemand]
  repeat' split
  all_goals simp [h]

@[simp] theorem serveFirst_memoriesWf {cl ext ds busy} (h : s.memoriesWf) : (s.serveFirst cl ext ds busy).memoriesWf := by
  induction ds generalizing busy with
  | nil => exact h
  | cons d rest ih =>
    unfold State.serveFirst
    extract_lets g
    split
    · exact ih
    · split
      · next e => exact (serveDemand_memoriesWf h).of_some e
      · exact ih

@[simp] theorem execToleranceDemandServe_memoriesWf {cl ext} (h : s.memoriesWf) : OutWf (execToleranceDemandServe cl ext s) := by
  dsimp only [execToleranceDemandServe]
  simp [h]

/-! ## Every operation and event -/

/-- The operations of one family share its lemma; every other has its own, for `simp` to find. -/
theorem exec_memoriesWf {i} (h : s.memoriesWf) : OutWf (exec i s) := by
  cases i
  all_goals dsimp only [exec]
  case add | sub | mul | mulh | and | or | xor | shl | shr | sar | min | max | minu | maxu => exact scalarBin_memoriesWf h
  case clz | popc => exact scalarUn_memoriesWf h
  case mov | sel | aset | aget | yieldT | yieldB | csrd | srtIota | srtTop | tolShare | tolMin | itrDef | itrFit | vcmpI32 |
      vredAddF32 | vredMaxF32 | vredAddI32 | vperm | vsel | mpop | vmov | cvtAq8 | mxCfg | fdOff | fdInc | hznRel | recv =>
    exact onCtx_memoriesWf h
  case cmpEq | cmpNe | cmpLt | cmpLe | cmpLtu | cmpLeu => exact scalarCmp_memoriesWf h
  case pand | por => exact predBin_memoriesWf h
  case fadd | fsub | fmul | ffma => exact scalarFp_memoriesWf h
  case fmin | fmax => exact scalarMinMax_memoriesWf h
  case fcmpEq | fcmpLt | fcmpLe => exact scalarFcmp_memoriesWf h
  case br | brx | call | ret | loop | loopS => exact branchOp_memoriesWf h
  case csrw | csrs | csrc => exact csrOp_memoriesWf h
  case srtCeA | srtCeD => exact sortCe_memoriesWf h
  case demand | redem => exact demandOp_memoriesWf h
  case ldB | ldBu | ldH | ldHu | ldW | ldWu | ldD => exact scalarLoad_memoriesWf h
  case stB | stH | stW | stD => exact scalarStore_memoriesWf h
  case ldVF32 | ldVF16 | ldVBf16 | ldVE4m3 | ldVE5m2 | ldVI8 | ldVI32 | ldVSx7 | ldVSx4 | ldVSx2 | ldVAq8 => exact vecLoad_memoriesWf h
  case vaddF32 | vsubF32 | vmulF32 | vfmaF32 | vminF32 | vmaxF32 | vaddBf16 | vsubBf16 | vmulBf16 | vfmaBf16 | vminBf16 | vmaxBf16 =>
    exact vecFp_memoriesWf h
  case vabsF32 | vnegF32 | vabsBf16 | vnegBf16 => exact vecFp1_memoriesWf h
  case vaddI32 | vsubI32 | vmulI32 | vminI32 | vmaxI32 | vand | vor | vxor | vshl | vshr | vsar => exact vecInt_memoriesWf h
  case vcmpF32 | vcmpBf16 => exact vecFcmp_memoriesWf h
  case vrcpF32 | vrsqrtF32 | vexp2F32 | vlog2F32 => exact vecEst_memoriesWf h
  case vbcast | vrot => exact vecMove_memoriesWf h
  case mand | mor | mxor | mandn => exact maskBin_memoriesWf h
  case vsplatF32 | vsplatI32 => exact vecSplat_memoriesWf h
  case mxLd | mxLdT => exact weightLoad_memoriesWf h
  case mxRun | mxRunSet => exact passOp_memoriesWf h
  case fdA | fdAr | fdWin | fdTap => exact feedOp_memoriesWf h
  case atAdd | atFadd | atMin | atMax | atFmin | atFmax | atAnd | atOr | atXor | atSwap | atCas => exact atomicOp_memoriesWf h
  case send | sendQ | sendMc => exact sendOp_memoriesWf h
  case recvAdd | recvMax => exact recvOp_memoriesWf h
  all_goals simp [h]

/-! ## Issue of a slot -/

@[simp] theorem runEntry_memoriesWf {k slot e} (h : s.memoriesWf) : OutWf (s.runEntry k slot e) :=
  exec_memoriesWf h

@[simp] theorem probe_memoriesWf {k slots} (h : s.memoriesWf) : (s.probe k slots).1.memoriesWf := by
  induction slots generalizing s with
  | nil => exact h
  | cons j rest ih =>
    unfold State.probe
    split
    · exact h
    · split
      · exact h
      · exact h
      · next e =>
        have h' := (runEntry_memoriesWf h).of_next e
        split
        · exact h'
        · exact ih h'
        · exact ih (setCtx_memoriesWf.2 h)

@[simp] theorem issueAll_memoriesWf {k slots} (h : s.memoriesWf) : OptWf (s.issueAll k slots) := by
  induction slots generalizing s with
  | nil => exact optWf_some.2 h
  | cons j rest ih =>
    unfold State.issueAll
    split
    · exact optWf_none
    · split
      · next e =>
        have h' := (runEntry_memoriesWf h).of_next e
        split
        · exact ih h'
        · exact optWf_some.2 h'
        · exact optWf_none
      · exact optWf_none

@[simp] theorem spent_memoriesWf {k g} : (s.spent k g).memoriesWf ↔ s.memoriesWf := ⟨id, id⟩

@[simp] theorem issueExit_memoriesWf {k j e others} (h : s.memoriesWf) : (s.issueExit k j e others).memoriesWf := by
  unfold State.issueExit
  extract_lets f r
  have left : r.1.memoriesWf := exitNext_memoriesWf.2 h
  split
  · exact left
  · split
    · exact left
    · next e =>
      have h' := (issueAll_memoriesWf left).of_some e
      split
      · exact h'
      · exact spent_memoriesWf.2 (exitStep_memoriesWf.2 h')

@[simp] theorem issueSlot_memoriesWf {k slot} (h : s.memoriesWf) : OutWf (issueSlot s k slot) := by
  unfold issueSlot
  extract_lets c
  split
  · exact h
  · split
    · exact h
    · split
      · exact h
      · extract_lets g others p
        have probed : p.1.memoriesWf := probe_memoriesWf h
        split
        · split
          · exact runEntry_memoriesWf h
          · exact h
        · split
          · exact h
          · split
            · exact outWf_fault _
            · exact outWf_refused _
            · refine outWf_next.2 ?_
              split
              · split
                · exact issueExit_memoriesWf probed
                · split
                  · next e => exact spent_memoriesWf.2 ((issueAll_memoriesWf probed).of_some e)
                  · exact probed
              · exact probed

/-! ## Events of a cycle -/

@[simp] theorem CtxEv.run_memoriesWf {e k} (h : s.memoriesWf) : OutWf (CtxEv.run e k s) := by
  cases e <;> simp [CtxEv.run, h]

@[simp] theorem OpEv.run_memoriesWf {e k id} (h : s.memoriesWf) : OutWf (OpEv.run e k id s) := by
  cases e <;> simp [OpEv.run, h]

@[simp] theorem CoreEv.run_memoriesWf {e k} (h : s.memoriesWf) : OutWf (CoreEv.run e k s) := by
  cases e <;> simp [CoreEv.run, h]

@[simp] theorem ClusterEv.run_memoriesWf {e q} (h : s.memoriesWf) : OutWf (ClusterEv.run e q s) := by
  cases e <;> simp [ClusterEv.run, h]

@[simp] theorem RecEv.run_memoriesWf {e r} (h : s.memoriesWf) : OutWf (RecEv.run e r s) := by
  cases e <;> simp [RecEv.run, h]

@[simp] theorem retireNext_memoriesWf (h : s.memoriesWf) : OutWf (s.retireNext) := by
  dsimp only [State.retireNext]
  split <;> simp [h]

@[simp] theorem patrol_memoriesWf (h : s.memoriesWf) : OutWf (s.patrol) := by
  dsimp only [State.patrol]
  split
  · exact h
  · exact foldl_memoriesWf (fun _ _ h => scrubLine_memoriesWf.2 h) (List.range 4) h

@[simp] theorem DevEv.run_memoriesWf {e} (h : s.memoriesWf) : OutWf (DevEv.run e s) := by
  cases e <;> simp [DevEv.run, h]

@[simp] theorem packetRun_memoriesWf {i} (h : s.memoriesWf) : OutWf (s.packetRun i) := by
  dsimp only [State.packetRun]
  split
  · exact h
  · simp [h]

@[simp] theorem ItemEv.run_memoriesWf {e i} (h : s.memoriesWf) : OutWf (ItemEv.run e i s) := by
  cases e <;> simp [ItemEv.run, h]

@[simp] theorem mailboxRun_memoriesWf {fn} (h : s.memoriesWf) : OutWf (s.mailboxRun fn) := by
  dsimp only [State.mailboxRun]
  simp [h]

@[simp] theorem FuncEv.run_memoriesWf {e v} (h : s.memoriesWf) : OutWf (FuncEv.run e v s) := by
  cases e <;> simp [FuncEv.run, h]

@[simp] theorem Own.run_memoriesWf {e} (h : s.memoriesWf) : OutWf (Own.run e s) := by
  cases e <;> simp [Own.run, h]

@[simp] theorem planCycle_memoriesWf : s.planCycle.memoriesWf ↔ s.memoriesWf := by
  dsimp only [State.planCycle]
  simp

@[simp] theorem settleCtx_memoriesWf {k} (h : s.memoriesWf) : (s.settleCtx k).memoriesWf := by
  dsimp only [State.settleCtx]
  simp [h]

@[simp] theorem endCycle_memoriesWf (h : s.memoriesWf) : s.endCycle.memoriesWf := by
  unfold State.endCycle
  extract_lets s1 s2 s3
  have h1 : s1.memoriesWf := foldl_memoriesWf (fun _ _ h => settleCtx_memoriesWf h) _ h
  have h2 : s2.memoriesWf := foldl_memoriesWf (fun _ _ h => sdUpdate_memoriesWf h) _ h1
  exact foldl_memoriesWf (f := State.saveLive) (fun _ _ h => saveLive_memoriesWf h) _ (markReady_memoriesWf.2 h2)

/-! ## The step -/

theorem step_memoriesWf (h : s.memoriesWf) : OutWf (step s) := by
  unfold step
  split
  · exact exec_memoriesWf h
  · split
    · exact planCycle_memoriesWf.2 h
    · exact issueSlot_memoriesWf h
    · exact Own.run_memoriesWf h
    · exact exec_memoriesWf h
    · exact endCycle_memoriesWf h

end

/-! ## A scratchpad read through its write queue (R247) -/

theorem foldl_lastByte (cs : List (Nat × Byte)) (a : Nat) (acc : Option Byte) :
    cs.foldl (fun acc p => if p.1 = a then some p.2 else acc) acc = (lastByte cs a).or acc := by
  induction cs generalizing acc with
  | nil => rfl
  | cons p cs ih =>
    have e : lastByte (p :: cs) a = (lastByte cs a).or (if p.1 = a then some p.2 else none) := ih _
    rw [List.foldl_cons, ih, e, Option.or_assoc]
    split <;> rfl

theorem lastByte_cons (p : Nat × Byte) (cs : List (Nat × Byte)) (a : Nat) :
    lastByte (p :: cs) a = (lastByte cs a).or (if p.1 = a then some p.2 else none) :=
  foldl_lastByte cs a _

/-- A byte that leaves the head of the queue was read from there, unless a later byte of the queue hides it; either way the bank
write changes nothing of what is read. -/
theorem byte_bankWrite {co : Core} {e : WqEnt} {rest : List WqEnt} (h : Memory.wf co.sp = true) (hq : co.wq = e :: rest) (a : Nat) :
    ({ co with sp := memSet co.sp e.addr e.val, wq := rest } : Core).byte a = co.byte a := by
  simp only [Core.byte, hq, List.map_cons, lastByte_cons]
  cases lastByte (rest.map fun e => (e.addr, e.val)) a with
  | some b => rfl
  | none =>
    by_cases ha : e.addr = a
    · subst ha
      simp [memGet_memSet_same e.addr e.val h]
    · simp [ha, memGet_memSet_ne e.addr a e.val h (Ne.symm ha)]

theorem bankWrite_empty {s : State} {q : Nat} (hq : (s.core q).wq = []) : exec (.writeQueueBankWrite q) s = .next s := by
  simp only [exec_writeQueueBankWrite, execWriteQueueBankWrite, hq]

theorem bankWrite_head {s : State} {q : Nat} {e : WqEnt} {rest : List WqEnt} (hq : (s.core q).wq = e :: rest) :
    exec (.writeQueueBankWrite q) s = .next (s.setCore q { s.core q with sp := memSet (s.core q).sp e.addr e.val, wq := rest }) := by
  simp only [exec_writeQueueBankWrite, execWriteQueueBankWrite, hq]

theorem bankWrite_keeps_bytes {s t : State} {q : Nat} (h : s.memoriesWf) (ht : exec (.writeQueueBankWrite q) s = .next t) :
    t.mem = s.mem ∧ ∀ q' a, (t.core q').byte a = (s.core q').byte a := by
  cases hq : (s.core q).wq with
  | nil =>
    rw [bankWrite_empty hq] at ht
    cases ht
    exact ⟨rfl, fun _ _ => rfl⟩
  | cons e rest =>
    rw [bankWrite_head hq] at ht
    cases ht
    refine ⟨rfl, fun q' a => ?_⟩
    by_cases hne : q' = q
    · subst hne
      rw [setCore_core_same]
      exact byte_bankWrite (memoriesWf_core h q') hq a
    · rw [setCore_core_ne _ _ _ _ hne]

theorem memGet_memSets_last {m : List Host.Cell} (cs : List (Nat × Byte)) (a : Nat) (v : Byte) (h : Memory.wf m = true) :
    memGet (memSets m (cs ++ [(a, v)])) a = v := by
  have e : memSets m (cs ++ [(a, v)]) = memSet (memSets m cs) a v := List.foldl_append
  rw [e]
  exact memGet_memSet_same a v (memSets_wf cs h)

/-- Settles O14: the laws of memories in canonical form, and the bank write as one byte moved from the queue to the scratchpad. -/
theorem memoryStaysCanonical : Obligations.MemoryStaysCanonical := by
  unfold Obligations.MemoryStaysCanonical
  refine ⟨fun _ cs h => memSets_wf cs h, fun _ cs a v h => memGet_memSets_last cs a v h,
    fun _ cs a h ha => memGet_memSets_of_not_mem cs a h ha, fun _ a bs h => ⟨memPut_wf a bs h, fun i hi => ?_, fun x hx => ?_⟩,
    fun _ a n h => ⟨memClear_wf a n h, fun x => memGet_memClear a n x h⟩, fun _ _ hq => bankWrite_empty hq,
    fun _ _ _ _ hq => bankWrite_head hq, fun _ _ _ h ht => ⟨(exec_memoriesWf h).of_next ht, bankWrite_keeps_bytes h ht⟩⟩
  · rw [memGet_memPut_same a i bs h hi, List.getD_eq_getElem bs 0#8 hi]
  · exact memGet_memPut_ne a x bs h hx

/-! ## The device after power-on, and every step -/

theorem reset_memoriesWf : State.reset.memoriesWf := ⟨reset_mem_wf, fun _ => rfl⟩

theorem reset_preBoot : PreBoot State.reset := by
  refine ⟨rfl, rfl, rfl, rfl, rfl, .inl rfl, fun k => ⟨rfl, rfl, rfl⟩, fun k _ => rfl, fun q => rfl, ?_, ?_, rfl, fun _ => rfl,
    fun _ _ _ => rfl⟩
  · intro h
    exact absurd h (by decide)
  · intro h
    exact absurd h (by decide)

/-- Settles O11: power-on leaves nothing in flight and every memory empty; the first step plans the first cycle. -/
theorem preBootHoldsAtReset : Obligations.PreBootHoldsAtReset :=
  ⟨reset_preBoot, reset_memoriesWf, _, step_plan rfl rfl⟩

/-- Settles O12: whatever a step is, every memory it writes it writes by `memSet`, `memPut` or `memClear`, or empties; the layer of
`_memoriesWf` lemmas says so of each function of the model, and `step_memoriesWf` of the step. -/
theorem stepKeepsMemoriesCanonical : Obligations.StepKeepsMemoriesCanonical := by
  unfold Obligations.StepKeepsMemoriesCanonical
  exact fun _ _ h ht => (step_memoriesWf h).of_next ht

end Sys2Proof.Machine

end

section
/-!
The host's accesses, and what each mailbox command does and answers (O59).
-/

namespace Sys2Proof.Machine

/-! ## A command served or left alone (R361) -/

/-- A mailbox as firmware takes its command. -/
def Mbox.taken (b : Mbox) : Mbox := { b with err := false, status := 0 }

@[simp] theorem Mbox.taken_arg0 (b : Mbox) : b.taken.arg0 = b.arg0 := rfl
@[simp] theorem Mbox.taken_arg1 (b : Mbox) : b.taken.arg1 = b.arg1 := rfl

/-- The answer to a command, from the state and the mailbox that its effect leaves: the mailbox is written back without GO, and an
interrupt is raised. -/
def answered (fn : Nat) (r : State × Mbox) : Out := .next ((r.1.setMbox fn { r.2 with go := false }).raiseMsi fn)

theorem answered_ite (fn : Nat) (c : Prop) [Decidable c] (a b : State × Mbox) :
    answered fn (if c then a else b) = if c then answered fn a else answered fn b := apply_ite ..

section
variable {s : State} {fn : Nat} {is : Nat → Bool} {go : State → Mbox → State × Mbox}

theorem mboxCmd_idle (h : s.mboxTurn fn = false) : mboxCmd s fn is go = .next s := by simp [mboxCmd, h]

theorem mboxCmd_other (h : is (s.mbox fn).cmd = false) : mboxCmd s fn is go = .next s := by simp [mboxCmd, h]

theorem mboxCmd_served (ht : s.mboxTurn fn = true) (hc : is (s.mbox fn).cmd = true) :
    mboxCmd s fn is go = answered fn (go s (s.mbox fn).taken) := by
  simp [mboxCmd, ht, hc, answered, Mbox.taken]

/-- No known command: its turn has not come, or its code is above the last one. -/
theorem mboxCmd_eq_next {c : Nat} (hc : c ≤ 0x0D) (h : s.mboxTurn fn = false ∨ 0x0D < (s.mbox fn).cmd) :
    mboxCmd s fn (fun x => decide (x = c)) go = .next s := by
  rcases h with h | h
  · exact mboxCmd_idle h
  · exact mboxCmd_other (decide_eq_false (by omega))

/-- The command of a code, when its turn has come. -/
theorem mboxCmd_eq_served {c : Nat} (ht : s.mboxTurn fn = true) (hc : (s.mbox fn).cmd = c) :
    mboxCmd s fn (fun x => decide (x = c)) go = answered fn (go s (s.mbox fn).taken) :=
  mboxCmd_served ht (decide_eq_true hc)

end

/-! ## Host accesses (R257, R361, R372) -/

section
variable {s : State} {vf : Nat}

theorem hostRd_denied {a n : Nat} (h : (s.func vf).enabled = false ∨ (s.func vf).memActive = false ∨ s.granted vf a n = false) :
    exec (.hostAccess (.rd vf a n)) s = .next { s with hostOut := s.hostOut ++ [(0x01, [])] } := by
  rw [exec_hostAccess, execHostAccess]
  rcases h with h | h | h <;> simp [h]

theorem hostRd_granted {a n : Nat} (he : (s.func vf).enabled = true) (hm : (s.func vf).memActive = true)
    (hg : s.granted vf a n = true) : exec (.hostAccess (.rd vf a n)) s = .next (s.hostRead vf a n) := by
  simp [exec_hostAccess, execHostAccess, he, hm, hg]

theorem hostWr_granted {a : Nat} {bs : List Byte} (he : (s.func vf).enabled = true) (hm : (s.func vf).memActive = true)
    (hg : s.granted vf a bs.length = true) : exec (.hostAccess (.wr vf a bs)) s = .next (s.hostWrite vf a bs) := by
  simp [exec_hostAccess, execHostAccess, he, hm, hg]

theorem hostMemActive (he : (s.func vf).enabled = true) :
    exec (.hostAccess (.memActive vf)) s = .next (s.setFunc vf { s.func vf with memActive := true }) := by
  simp [exec_hostAccess, execHostAccess, he]

/-- No decoder covers the mailbox of a function that the device lacks, or whose version is not chosen. -/
theorem mailboxClosed (h : 16 < vf ∨ (s.func vf).enabled = false) : (decide (16 < vf) || !(s.func vf).enabled) = true := by
  rcases h with h | h <;> simp [h]

theorem mailboxOpen (h : vf ≤ 16) (he : (s.func vf).enabled = true) : (decide (16 < vf) || !(s.func vf).enabled) = false := by
  simp [he, h]

theorem hostMailbox_closed {off : Nat} {v : W64} (h : 16 < vf ∨ (s.func vf).enabled = false) :
    exec (.hostAccess (.mailbox vf off v)) s = .next s :=
  congrArg _ (if_pos (mailboxClosed h))

theorem hostMailbox_open {off : Nat} {v : W64} (h : vf ≤ 16) (he : (s.func vf).enabled = true) :
    exec (.hostAccess (.mailbox vf off v)) s = .next (s.writeMbox vf off v) :=
  congrArg _ (if_neg (Bool.eq_false_iff.1 (mailboxOpen h he)))

theorem hostMboxRd_closed {off : Nat} (h : 16 < vf ∨ (s.func vf).enabled = false) :
    exec (.hostAccess (.mboxRd vf off)) s = .next { s with hostOut := s.hostOut ++ [(0x01, [])] } := by
  rw [exec_hostAccess, execHostAccess, if_pos (mailboxClosed h)]

theorem hostMboxRd_open {off : Nat} (h : vf ≤ 16) (he : (s.func vf).enabled = true) :
    exec (.hostAccess (.mboxRd vf off)) s = .next { s with hostOut := s.hostOut ++ [(0, leBytes 8 (s.readMbox vf off))] } := by
  rw [exec_hostAccess, execHostAccess, if_neg (Bool.eq_false_iff.1 (mailboxOpen h he))]

theorem readMbox_status : s.readMbox vf 0 =
    b2n (s.mbox vf).go * 2 ^ 63 + b2n (s.mbox vf).err * 2 ^ 62 + (s.mbox vf).status * 2 ^ 32 + (s.mbox vf).cmd := by
  simp [State.readMbox]

theorem hostMboxRd_status (h : vf ≤ 16) (he : (s.func vf).enabled = true) :
    exec (.hostAccess (.mboxRd vf 0)) s = .next { s with hostOut := s.hostOut ++ [(0, leBytes 8
      (b2n (s.mbox vf).go * 2 ^ 63 + b2n (s.mbox vf).err * 2 ^ 62 + (s.mbox vf).status * 2 ^ 32 + (s.mbox vf).cmd))] } := by
  rw [hostMboxRd_open h he, readMbox_status]

theorem hostMboxRd_arg0 (h : vf ≤ 16) (he : (s.func vf).enabled = true) :
    exec (.hostAccess (.mboxRd vf 8)) s = .next { s with hostOut := s.hostOut ++ [(0, leBytes 8 (s.mbox vf).arg0)] } :=
  hostMboxRd_open h he

theorem hostMboxRd_arg1 (h : vf ≤ 16) (he : (s.func vf).enabled = true) :
    exec (.hostAccess (.mboxRd vf 16)) s = .next { s with hostOut := s.hostOut ++ [(0, leBytes 8 (s.mbox vf).arg1)] } :=
  hostMboxRd_open h he

theorem firmware_none {off : Nat} {v : W64} (h : 16 < vf) : exec (.hostAccess (.firmware vf off v)) s = .next s :=
  congrArg _ (if_pos h)

theorem firmware_write {off : Nat} {v : W64} (h : vf ≤ 16) :
    exec (.hostAccess (.firmware vf off v)) s = .next (s.writeMbox vf off v) :=
  congrArg _ (if_neg (Nat.not_lt.2 h))

theorem dvsecRd_none (h : 16 < vf) :
    exec (.hostAccess (.dvsecRd vf)) s = .next { s with hostOut := s.hostOut ++ [(0x01, [])] } := by
  rw [exec_hostAccess, execHostAccess, if_pos h]

theorem dvsecRd_version (h : vf ≤ 16) :
    exec (.hostAccess (.dvsecRd vf)) s = .next { s with hostOut := s.hostOut ++ [(0, leBytes 2 0x0100 ++ leBytes 1 s.bootFail)] } := by
  rw [exec_hostAccess, execHostAccess, if_neg (Nat.not_lt.2 h), ownHif]

theorem writeMbox_arg0 (v : W64) : s.writeMbox vf 8 v = s.setMbox vf { s.mbox vf with arg0 := v.toNat } := by simp [State.writeMbox]

theorem writeMbox_arg1 (v : W64) : s.writeMbox vf 16 v = s.setMbox vf { s.mbox vf with arg1 := v.toNat } := by simp [State.writeMbox]

theorem goBusy_set (h : (s.mbox vf).go = true) : s.goBusy vf = s.setMbox vf { s.mbox vf with err := true } := if_pos h

theorem goBusy_free (h : (s.mbox vf).go = false) : s.goBusy vf = s := if_neg (Bool.eq_false_iff.1 h)

theorem writeMbox_go_busy {v : W64} (hv : v.getLsbD 63 = true) (h : (s.mbox vf).go = true) :
    s.writeMbox vf 0 v = s.setMbox vf { s.mbox vf with err := true } := by
  simp [State.writeMbox, State.writeGo, hv, h, goBusy_set]

theorem writeMbox_go {v : W64} (hv : v.getLsbD 63 = true) (h : (s.mbox vf).go = false) (hb : s.bootFail = 0) :
    s.writeMbox vf 0 v = ({ s with mbOrder := s.mbOrder + 1 } : State).setMbox vf
      { s.mbox vf with go := true, cmd := v.toNat % 256, order := s.mbOrder } := by
  simp [State.writeMbox, State.writeGo, hv, h, hb, bits]

end

/-! ## What a command looks up (R337, R363) -/

section
variable {s : State} {fn : Nat}

/-- A device that no other is enrolled with tells nobody. -/
theorem tellAll_alone {t : State} (h : t.roster = []) (vf va step about frame : Nat) : t.tellAll vf va step about frame = t := by
  simp [State.tellAll, h]

theorem mayActOn_iff {vf : Nat} : mayActOn fn vf = true ↔ fn = vf ∨ fn = 16 := by simp [mayActOn]

section
variable {b : Mbox}

theorem destroyRefused_absent (hx : s.commits.find? (b.arg0 % 8192) = none) : s.destroyRefused fn b = some 0x02 := by
  simp only [State.destroyRefused, hx]

variable {x : Commit} (hx : s.commits.find? (b.arg0 % 8192) = some x)
include hx

theorem destroyRefused_misfit (h : b.arg0 / 8192 ≠ s.vertex ∨ 496 < b.arg1) : s.destroyRefused fn b = some 0x02 := by
  simp only [State.destroyRefused, hx, if_pos h]

theorem destroyRefused_other (hv : b.arg0 / 8192 = s.vertex) (ha : b.arg1 ≤ 496) (h1 : fn ≠ x.vf) (h2 : fn ≠ 16) :
    s.destroyRefused fn b = some 0x03 := by
  simp [State.destroyRefused, hx, hv, Nat.not_lt.2 ha, mayActOn, h1, h2]

theorem destroyRefused_own (hv : b.arg0 / 8192 = s.vertex) (ha : b.arg1 ≤ 496) (h : fn = x.vf ∨ fn = 16) :
    s.destroyRefused fn b = none := by
  simp [State.destroyRefused, hx, hv, Nat.not_lt.2 ha, mayActOn_iff.2 h]

end

theorem freeCommit_none (h : ∀ i, 0 < i → i < 8192 → s.commits.find? i ≠ none) :
    (((List.range 8192).drop 1).find? fun i => (s.commits.find? i).isNone) = none := by
  rw [List.range_eq_range', List.drop_range', List.find?_range'_eq_none]
  intro i hi hn
  simpa [Option.isSome_iff_ne_none] using h i (by omega) (by omega)

theorem freeCommit_least {i : Nat} (h0 : 0 < i) (hi : i < 8192) (hf : s.commits.find? i = none)
    (hl : ∀ j, 0 < j → j < i → s.commits.find? j ≠ none) :
    (((List.range 8192).drop 1).find? fun i => (s.commits.find? i).isNone) = some i := by
  rw [List.range_eq_range', List.drop_range', List.find?_range'_eq_some]
  refine ⟨by simp [hf], List.mem_range'_1.2 (by omega), fun j hj hlt => ?_⟩
  simpa [Option.isSome_iff_ne_none] using hl j (by omega) hlt

section
variable {p : Posting} {rest : List Posting} (hp : s.posts = p :: rest) (hw : p.walker = false)
include hp hw

theorem answerPost_resumes {n : Nat} (hn : n ≠ 1) :
    s.answerPost p (decide (n = 1)) = ({ s with posts := rest } : State).resumeCtx p.ctx := by
  simp [State.answerPost, hp, hw, hn]

theorem answerPost_ends {n : Nat} (hn : n = 1) :
    s.answerPost p (decide (n = 1)) = ({ s with posts := rest } : State).beginEnd (ctxCluster p.ctx) p.ctx := by
  simp [State.answerPost, hp, hw, hn]

end

theorem oldestPost_mem {ps : List Posting} {q : Posting} (h : oldestPost ps = some q) : q ∈ ps := by
  induction ps generalizing q with
  | nil => cases h
  | cons a rest ih =>
    unfold oldestPost at h
    split at h
    · cases h
      exact List.mem_cons_self ..
    · next r e =>
      split at h <;> cases h
      · exact List.mem_cons_of_mem _ (ih e)
      · exact List.mem_cons_self ..

/-- The one posting of lowest number. -/
theorem oldestPost_eq_some {ps : List Posting} {p : Posting} (hp : p ∈ ps) (hl : ∀ q ∈ ps, q ≠ p → p.num < q.num) :
    oldestPost ps = some p := by
  induction ps with
  | nil => cases hp
  | cons a rest ih =>
    have later : ∀ q ∈ rest, q ≠ p → p.num < q.num := fun q hq => hl q (List.mem_cons_of_mem _ hq)
    unfold oldestPost
    by_cases mem : p ∈ rest
    · rw [ih mem later]
      by_cases ha : a = p
      · subst ha
        simp
      · simp [hl a (List.mem_cons_self ..) ha]
    · obtain rfl : p = a := (List.mem_cons.1 hp).resolve_right mem
      split
      · rfl
      · next q e =>
        have hq := oldestPost_mem e
        have hlt := later q hq fun h => mem (h ▸ hq)
        rw [if_neg (by omega)]

theorem cstDestroy_eq_next (h : s.mboxTurn fn = false ∨ 0x0D < (s.mbox fn).cmd) : exec (.cstDestroy fn) s = .next s := by
  have first : (s.mboxTurn fn && decide ((s.mbox fn).cmd = 0x04)) = false := by
    rcases h with h | h
    · simp [h]
    · simp; omega
  simp only [exec_cstDestroy, execCstDestroy, first, Bool.false_and, Bool.false_eq_true, if_false]
  split
  · rfl
  · exact mboxCmd_eq_next (by decide) h

end

/-! ## Each command, when its turn has come (R337, R339, R349, R354, R362, R363, R370) -/

section
variable {s : State} {fn : Nat}

theorem unknownCmd_known (h1 : 1 ≤ (s.mbox fn).cmd) (hd : (s.mbox fn).cmd ≤ 0x0D) : exec (.mailboxUnknownCmd fn) s = .next s := by
  rw [exec_mailboxUnknownCmd, execMailboxUnknownCmd]
  exact mboxCmd_other (decide_eq_false (by omega))

theorem cstDestroy_waits (hs : (s.mbox fn).sent = true) (hm : s.mgmtOut = true) : exec (.cstDestroy fn) s = .next s := by
  simp [exec_cstDestroy, execCstDestroy, hs, hm]

variable (ht : s.mboxTurn fn = true)
include ht

theorem unknownCmd_served (hc : (s.mbox fn).cmd = 0 ∨ 0x0D < (s.mbox fn).cmd) :
    exec (.mailboxUnknownCmd fn) s = answered fn (s, (s.mbox fn).taken.fail 0x01) := by
  rw [exec_mailboxUnknownCmd, execMailboxUnknownCmd, mboxCmd_served ht (decide_eq_true hc)]

theorem placeSubq_served (hc : (s.mbox fn).cmd = 0x01) : exec (.placeSubq fn) s =
    if (s.mbox fn).arg0 % 128 ≠ 0 then answered fn (s, (s.mbox fn).taken.fail 0x02)
    else answered fn (s.setFunc fn { s.func fn with
      subq := some ((s.mbox fn).arg0 % 2 ^ 55), served := 2 ^ 32, resultOut := false }, (s.mbox fn).taken) := by
  rw [exec_placeSubq, execPlaceSubq, mboxCmd_eq_served ht hc, answered_ite]
  rfl

theorem placeRepl_served (hc : (s.mbox fn).cmd = 0x02) : exec (.placeRepl fn) s =
    if (s.mbox fn).arg0 % 64 ≠ 0 then answered fn (s, (s.mbox fn).taken.fail 0x02)
    else answered fn ((s.setFunc fn { s.func fn with repl := some ((s.mbox fn).arg0 % 2 ^ 55) }).tellAll fn
      ((s.mbox fn).arg0 % 2 ^ 55) 4 0 0, (s.mbox fn).taken) := by
  rw [exec_placeRepl, execPlaceRepl, mboxCmd_eq_served ht hc, answered_ite]
  rfl

theorem cstCreate_full (hc : (s.mbox fn).cmd = 0x03) (h : ∀ i, 0 < i → i < 8192 → s.commits.find? i ≠ none) :
    exec (.cstCreate fn) s = answered fn (s, (s.mbox fn).taken.fail 0x04) := by
  rw [exec_cstCreate, execCstCreate, mboxCmd_eq_served ht hc]
  simp only [freeCommit_none h]

theorem cstCreate_least (hc : (s.mbox fn).cmd = 0x03) {i : Nat} (h0 : 0 < i) (hi : i < 8192) (hf : s.commits.find? i = none)
    (hl : ∀ j, 0 < j → j < i → s.commits.find? j ≠ none) : exec (.cstCreate fn) s =
      answered fn ({ s with commits := AMap.set s.commits i ⟨fn, 0⟩ },
        { (s.mbox fn).taken with arg0 := s.vertex * 8192 + i }) := by
  rw [exec_cstCreate, execCstCreate, mboxCmd_eq_served ht hc]
  simp only [freeCommit_least h0 hi hf hl]

/-- A destruction that firmware turns away. -/
theorem cstDestroy_refused (hc : (s.mbox fn).cmd = 0x04) (hs : (s.mbox fn).sent = false) {st : Nat}
    (hr : s.destroyRefused fn (s.mbox fn) = some st) : exec (.cstDestroy fn) s = answered fn (s, (s.mbox fn).taken.fail st) := by
  have refused : s.destroyRefused fn (s.mbox fn).taken = some st := hr
  have unsent : { (s.mbox fn).taken with status := st, sent := false } = (s.mbox fn).taken.fail st := by rw [← hs]; rfl
  simp only [exec_cstDestroy, execCstDestroy, hr, hs, Option.isNone_some, Bool.and_false, Bool.false_and, Bool.false_eq_true, if_false]
  rw [mboxCmd_eq_served ht hc]
  simp only [refused, unsent]

/-- The lines' CIDs are cleared first. -/
theorem cstDestroy_clears (hc : (s.mbox fn).cmd = 0x04) (hs : (s.mbox fn).sent = false)
    (hr : s.destroyRefused fn (s.mbox fn) = none) {x : Commit} (hx : s.commits.find? ((s.mbox fn).arg0 % 8192) = some x) :
    exec (.cstDestroy fn) s = .next (((List.range (s.mbox fn).arg1).foldl (fun (t : State) i =>
      t.clearLine x.vf (leNat ((s.mbox fn).bytes (8 * i) 8) % 2 ^ 55)) s).setMbox fn { s.mbox fn with sent := true }) := by
  have first : (s.mboxTurn fn && decide ((s.mbox fn).cmd = 0x04) && !(s.mbox fn).sent &&
      (s.destroyRefused fn (s.mbox fn)).isNone) = true := by simp [ht, hc, hs, hr]
  simp only [exec_cstDestroy, execCstDestroy, first, if_true, hx, Option.map_some, Option.getD_some]

theorem cstDestroy_ends (hc : (s.mbox fn).cmd = 0x04) (hs : (s.mbox fn).sent = true) (hm : s.mgmtOut = false)
    (hr : s.destroyRefused fn (s.mbox fn) = none) : exec (.cstDestroy fn) s =
      answered fn ({ s with commits := AMap.erase s.commits ((s.mbox fn).arg0 % 8192) },
        { (s.mbox fn).taken with sent := false }) := by
  have taken : s.destroyRefused fn (s.mbox fn).taken = none := hr
  simp only [exec_cstDestroy, execCstDestroy, hs, hm, Bool.not_true, Bool.and_false, Bool.false_and, Bool.false_eq_true, if_false]
  rw [mboxCmd_eq_served ht hc]
  simp only [taken]
  rfl

theorem errlog_served (hc : (s.mbox fn).cmd = 0x05) : exec (.errlog fn) s = answered fn (s,
    { (s.mbox fn).taken.put (((s.errs.drop (s.mbox fn).arg0).take 124).map ErrRec.bytes).flatten with arg1 := s.errOvr }) := by
  rw [exec_errlog, execErrlog, mboxCmd_eq_served ht hc]
  rfl

theorem roster_served (hc : (s.mbox fn).cmd = 0x06) :
    exec (.roster fn) s = answered fn (s, { (s.mbox fn).taken with arg0 := s.conf.rosterAddr }) := by
  rw [exec_roster, execRoster, mboxCmd_eq_served ht hc]

theorem faultAns_unknown (hc : (s.mbox fn).cmd = 0x07) (h : ∀ p ∈ s.posts, p.num ≠ (s.mbox fn).arg0 ∨ p.vf ≠ fn) :
    exec (.faultAns fn) s = answered fn (s, (s.mbox fn).taken.fail 0x02) := by
  have none : (s.posts.find? fun p => decide (p.num = (s.mbox fn).taken.arg0) && decide (p.vf = fn)) = none :=
    List.find?_eq_none.2 fun p hp => by rcases h p hp with h | h <;> simp [h]
  rw [exec_faultAns, execFaultAns, mboxCmd_eq_served ht hc, none]

theorem faultAns_first (hc : (s.mbox fn).cmd = 0x07) {p : Posting} {rest : List Posting} (hp : s.posts = p :: rest)
    (hn : p.num = (s.mbox fn).arg0) (hv : p.vf = fn) : exec (.faultAns fn) s =
      if 1 < (s.mbox fn).arg1 then answered fn (s, (s.mbox fn).taken.fail 0x02)
      else answered fn (s.answerPost p (decide ((s.mbox fn).arg1 = 1)), (s.mbox fn).taken) := by
  have found : (s.posts.find? fun p => decide (p.num = (s.mbox fn).taken.arg0) && decide (p.vf = fn)) = some p := by
    simp [hp, hn, hv]
  rw [exec_faultAns, execFaultAns, mboxCmd_eq_served ht hc, found]
  exact answered_ite ..

theorem debugCmd_served (hc : (s.mbox fn).cmd = 0x08) : exec (.debugCmd fn) s =
    if (s.mbox fn).arg0 = 1 then answered fn (s.setFunc fn { s.func fn with debug := true }, (s.mbox fn).taken)
    else if (s.mbox fn).arg0 = 0 then answered fn ((s.debugged fn).foldl (fun s k => s.beginEnd (ctxCluster k) k)
      (s.setFunc fn { s.func fn with debug := false }), (s.mbox fn).taken)
    else answered fn (s, (s.mbox fn).taken.fail 0x02) := by
  rw [exec_debugCmd, execDebugCmd, mboxCmd_eq_served ht hc, answered_ite, answered_ite]
  rfl

theorem setLtr_served (hc : (s.mbox fn).cmd = 0x09) : exec (.setLtr fn) s =
    if 2 ^ 32 ≤ (s.mbox fn).arg0 then answered fn (s, (s.mbox fn).taken.fail 0x02)
    else answered fn (s.setFunc fn { s.func fn with ltr := (s.mbox fn).arg0 }, (s.mbox fn).taken) := by
  rw [exec_setLtr, execSetLtr, mboxCmd_eq_served ht hc, answered_ite]
  rfl

theorem quote_served (hc : (s.mbox fn).cmd = 0x0A) : exec (.quote fn) s = answered fn (s, (s.mbox fn).taken.put (s.quoteBody ++
    fitBytes 64 (Config.ed25519Sign s.ident (Config.sha512 (s.quoteBody ++ (s.mbox fn).taken.bytes 0 64))))) := by
  rw [exec_quote, execQuote, mboxCmd_eq_served ht hc]

theorem preempt_unknown (hc : (s.mbox fn).cmd = 0x0B) (h : ∀ x ∈ s.recs, x.2.va ≠ (s.mbox fn).arg0) :
    exec (.preempt fn) s = answered fn (s, (s.mbox fn).taken.fail 0x02) := by
  have none : List.find? (fun (p : Nat × LRec) => decide (p.2.va = (s.mbox fn).taken.arg0) && mayActOn fn p.2.vf && !p.2.done) s.recs =
      none :=
    List.find?_eq_none.2 fun x hx => by simp [h x hx]
  rw [exec_preempt, execPreempt, mboxCmd_eq_served ht hc, none]

section
variable {key : Nat} {r : LRec} {rest : AMap LRec} (hc : (s.mbox fn).cmd = 0x0B) (hr : s.recs = (key, r) :: rest)
  (ha : r.va = (s.mbox fn).arg0) (hf : fn = r.vf ∨ fn = 16) (hd : r.done = false)
include hr ha hf hd

omit ht in
theorem preempt_finds_first :
    List.find? (fun (p : Nat × LRec) => decide (p.2.va = (s.mbox fn).taken.arg0) && mayActOn fn p.2.vf && !p.2.done) s.recs =
      some (key, r) := by
  simp [hr, ha, mayActOn_iff.2 hf, hd]

include hc

theorem preempt_no_pipe (hp : r.pipe = none) : exec (.preempt fn) s = answered fn (s, (s.mbox fn).taken.fail 0x02) := by
  rw [exec_preempt, execPreempt, mboxCmd_eq_served ht hc, preempt_finds_first hr ha hf hd]
  simp only [hp]

theorem preempt_stops {p : Pipe} (hp : r.pipe = some p) (h0 : p.stop = 0) :
    exec (.preempt fn) s = answered fn (s.stopPipe key r p, (s.mbox fn).taken) := by
  rw [exec_preempt, execPreempt, mboxCmd_eq_served ht hc, preempt_finds_first hr ha hf hd]
  simp only [hp, if_pos h0]

end

theorem flr_served (hc : (s.mbox fn).cmd = 0x0C) : exec (.flr fn) s =
    if 16 ≤ fn then answered fn (s, (s.mbox fn).taken.fail 0x02)
    else answered fn (if (s.func fn).flr = 0 then s.flrStop fn else s, (s.mbox fn).taken) := by
  rw [exec_flr, execFlr, mboxCmd_eq_served ht hc, answered_ite]

theorem faultNext_none (hc : (s.mbox fn).cmd = 0x0D) (h : ∀ p ∈ s.posts, p.vf ≠ fn) :
    exec (.faultNext fn) s = answered fn (s, { (s.mbox fn).taken with arg0 := 0 }) := by
  have none : s.posts.filter (fun p => decide (p.vf = fn)) = [] := by simpa using h
  rw [exec_faultNext, execFaultNext, mboxCmd_eq_served ht hc]
  simp only [none, oldestPost]

theorem faultNext_oldest (hc : (s.mbox fn).cmd = 0x0D) {p : Posting} (hp : p ∈ s.posts) (hv : p.vf = fn)
    (hl : ∀ q ∈ s.posts, q.vf = fn → q ≠ p → p.num < q.num) :
    exec (.faultNext fn) s = answered fn (s, { (s.mbox fn).taken.put p.bytes with arg0 := p.num }) := by
  have oldest : oldestPost (s.posts.filter fun p => decide (p.vf = fn)) = some p :=
    oldestPost_eq_some (List.mem_filter.2 ⟨hp, decide_eq_true hv⟩) fun q hq =>
      hl q (List.mem_filter.1 hq).1 (of_decide_eq_true (List.mem_filter.1 hq).2)
  rw [exec_faultNext, execFaultNext, mboxCmd_eq_served ht hc]
  simp only [oldest]

end

/-! ## The statement -/

/-- Settles O59: the clauses of host accesses, of a mailbox whose turn has not come, and of each command are the equations above. -/
theorem hostAndMailboxEvents : Obligations.HostAndMailboxEvents := by
  unfold Obligations.HostAndMailboxEvents
  refine ⟨fun s vf a n bs off ver v => ⟨hostRd_denied, fun he hm => ⟨hostRd_granted he hm, hostWr_granted he hm⟩, hostMemActive,
    hostMailbox_closed, fun h he => ⟨?arg0, ?arg1, ?busy, ?go⟩, hostMboxRd_closed,
    fun h he => ⟨hostMboxRd_status h he, hostMboxRd_arg0 h he, hostMboxRd_arg1 h he⟩, firmware_none, fun h => ⟨?fw0, ?fw1⟩,
    dvsecRd_none, dvsecRd_version, rfl, fun h => congrArg _ (goBusy_set h), fun h => congrArg _ (goBusy_free h)⟩, ?idle, ?turn⟩
  case arg0 => rw [hostMailbox_open h he, writeMbox_arg0]
  case arg1 => rw [hostMailbox_open h he, writeMbox_arg1]
  case busy => exact fun hv hb => by rw [hostMailbox_open h he, writeMbox_go_busy hv hb]
  case go => exact fun hv hb h0 => by rw [hostMailbox_open h he, writeMbox_go hv hb h0]
  case fw0 => rw [firmware_write h, writeMbox_arg0]
  case fw1 => rw [firmware_write h, writeMbox_arg1]
  case idle =>
    intro s fn h
    have idle : ∀ c go, c ≤ 0x0D → mboxCmd s fn (fun x => decide (x = c)) go = .next s := fun c go hc => mboxCmd_eq_next hc h
    refine ⟨?_, ?_, ?_, cstDestroy_eq_next h, ?_⟩
    all_goals simp only [exec_placeSubq, execPlaceSubq, exec_placeRepl, execPlaceRepl, exec_cstCreate, execCstCreate, exec_errlog,
      execErrlog, exec_roster, execRoster, exec_faultAns, execFaultAns, exec_debugCmd, execDebugCmd, exec_setLtr, execSetLtr, exec_quote,
      execQuote, exec_preempt, execPreempt, exec_flr, execFlr, exec_faultNext, execFaultNext, Nat.reduceLeDiff, idle, and_self]
  case turn =>
    intro s fn ht
    refine ⟨unknownCmd_served ht, unknownCmd_known, ?subq, ?repl, ?create, ?destroy, errlog_served ht, roster_served ht, ?ans,
      ?debug, ?ltr, quote_served ht, ?preempt, ?flr, ?next⟩
    case subq =>
      exact fun hc => ⟨fun h => (placeSubq_served ht hc).trans (if_pos h),
        fun h => (placeSubq_served ht hc).trans (if_neg (not_not.2 h))⟩
    case repl =>
      refine fun hc => ⟨fun h => (placeRepl_served ht hc).trans (if_pos h), fun h hr => ?_⟩
      rw [placeRepl_served ht hc, if_neg (not_not.2 h), tellAll_alone (by exact hr)]
      rfl
    case create => exact fun hc => ⟨cstCreate_full ht hc, fun i h0 hi hf hl => cstCreate_least ht hc h0 hi hf hl⟩
    case destroy =>
      exact fun hc => ⟨fun hn hs => cstDestroy_refused ht hc hs (destroyRefused_absent hn), fun x hx =>
        ⟨fun h hs => cstDestroy_refused ht hc hs (destroyRefused_misfit hx h),
          fun hv ha h1 h2 hs => cstDestroy_refused ht hc hs (destroyRefused_other hx hv ha h1 h2), fun hv ha h =>
          ⟨fun hs => cstDestroy_clears ht hc hs (destroyRefused_own hx hv ha h) hx, cstDestroy_waits,
            fun hs hm => cstDestroy_ends ht hc hs hm (destroyRefused_own hx hv ha h)⟩⟩⟩
    case ans =>
      refine fun hc => ⟨faultAns_unknown ht hc, fun p rest hp hn hv hw => ⟨fun h0 => ?resumed, fun h1 => ?ended,
        fun h => (faultAns_first ht hc hp hn hv).trans (if_pos h)⟩⟩
      case resumed =>
        have h0 : (s.mbox fn).arg1 = 0 := h0
        rw [faultAns_first ht hc hp hn hv, if_neg (by omega), answerPost_resumes hp hw (by omega)]
        rfl
      case ended =>
        have h1 : (s.mbox fn).arg1 = 1 := h1
        rw [faultAns_first ht hc hp hn hv, if_neg (by omega), answerPost_ends hp hw h1]
        rfl
    case debug =>
      refine fun hc => ⟨fun h => (debugCmd_served ht hc).trans (if_pos h), fun h hd => ?_, fun h => ?_⟩
      · have h : (s.mbox fn).arg0 = 0 := h
        rw [debugCmd_served ht hc, if_neg (by omega), if_pos h, hd]
        rfl
      · have h : 1 < (s.mbox fn).arg0 := h
        rw [debugCmd_served ht hc, if_neg (by omega), if_neg (by omega)]
        rfl
    case ltr =>
      exact fun hc => ⟨fun h => (setLtr_served ht hc).trans (if_neg (Nat.not_le.2 h)),
        fun h => (setLtr_served ht hc).trans (if_pos h)⟩
    case preempt =>
      exact fun hc => ⟨preempt_unknown ht hc, fun key r rest hr ha hf hd => ⟨preempt_no_pipe ht hc hr ha hf hd,
        fun p hp h0 => preempt_stops ht hc hr ha hf hd hp h0⟩⟩
    case flr =>
      refine fun hc => ⟨fun h => (flr_served ht hc).trans (if_pos h), fun h h0 => ?_, fun h h0 => ?_⟩
      · rw [flr_served ht hc, if_neg (Nat.not_le.2 h), if_pos h0]
        rfl
      · rw [flr_served ht hc, if_neg (Nat.not_le.2 h), if_neg h0]
        rfl
    case next => exact fun hc => ⟨faultNext_none ht hc, fun p hp hv hl => faultNext_oldest ht hc hp hv hl⟩

end Sys2Proof.Machine

end

section
/-!
PROOFS. What folds over parts of the state leave and make, and the frames of error records, routing and sending.
-/

namespace Sys2Proof.Machine

/-! ## The same done for each member of a list -/

section
variable {α β : Type} {f : State → α → State}

/-- What no single step changes, the whole fold does not change. -/
theorem foldl_keeps {g : State → β} (keeps : ∀ s a, g (f s a) = g s) (l : List α) (s : State) : g (l.foldl f s) = g s :=
  List.foldlRecOn l f (motive := fun t => g t = g s) rfl fun t h a _ => (keeps t a).trans h

/-- Each member finds what it needs (`Q`) and makes something true of itself (`P`), and no member undoes either for another. -/
theorem foldl_makes {Q P : α → State → Prop} (makes : ∀ s a, Q a s → P a (f s a)) (keepsQ : ∀ s a b, Q a s → Q a (f s b))
    (keepsP : ∀ s a b, P a s → P a (f s b)) (l : List α) (s : State) (h : ∀ a ∈ l, Q a s) : ∀ a ∈ l, P a (l.foldl f s) := by
  induction l generalizing s with
  | nil => exact fun a ha => absurd ha List.not_mem_nil
  | cons b l ih =>
    intro a ha
    obtain rfl | ha := List.mem_cons.1 ha
    · exact List.foldlRecOn l f (motive := fun t => P a t) (makes s a (h a List.mem_cons_self)) fun t ht b _ => keepsP t a b ht
    · exact ih (f s b) (fun a ha => keepsQ s a b (h a (List.mem_cons_of_mem _ ha))) a ha

end

/-! ## Reading a part of an updated state -/

section
variable {s t : State}

theorem ctx_congr (h : t.ctxs = s.ctxs) (k : Nat) : t.ctx k = s.ctx k := by rw [State.ctx, State.ctx, h]
theorem core_congr (h : t.cores = s.cores) (q : Nat) : t.core q = s.core q := by rw [State.core, State.core, h]
theorem func_congr (h : t.funcs = s.funcs) (v : Nat) : t.func v = s.func v := by rw [State.func, State.func, h]

end

/-! ## Error records and routing (R317, R349, R356) -/

/-- A state without its error records, and without its routing table and the paths of its lanes. -/
def State.bare (s : State) : State := { s with errs := [], errOvr := 0, routes := [], paths := [], fresh := 0 }

theorem record_bare (s : State) (kind code src vf addr : Nat) : (s.record kind code src vf addr).bare = s.bare := by
  unfold State.record; dsimp only; split <;> rfl

theorem rerouteTo_bare (s : State) (dst : Nat) : (s.rerouteTo dst).bare = s.bare := by
  unfold State.rerouteTo
  refine (foldl_keeps (g := State.bare) (fun t l => ?_) (List.range 8) _).trans ?_
  · dsimp only
    rw [apply_ite State.bare]
    exact ite_self t.bare
  · rfl

theorem reroute_bare (s : State) : s.reroute.bare = s.bare := foldl_keeps rerouteTo_bare _ s

@[simp] theorem record_funcs (s : State) (kind code src vf addr : Nat) : (s.record kind code src vf addr).funcs = s.funcs :=
  (congrArg State.funcs (record_bare s kind code src vf addr) :)
@[simp] theorem record_hostOut (s : State) (kind code src vf addr : Nat) : (s.record kind code src vf addr).hostOut = s.hostOut :=
  (congrArg State.hostOut (record_bare s kind code src vf addr) :)
@[simp] theorem record_eccBad (s : State) (kind code src vf addr : Nat) : (s.record kind code src vf addr).eccBad = s.eccBad :=
  (congrArg State.eccBad (record_bare s kind code src vf addr) :)

/-! ## Sending (R320, R321) -/

/-- A state without what issuing a request changes: the requests that stand, and the packets on their way. -/
def State.unsent (s : State) : State := { s with nextTag := 0, reqs := [], inbox := [], egress := [], paths := [], fresh := 0 }

theorem laneNow_cases (s : State) (dst lane : Nat) : ∃ n x, s.laneNow dst lane = ({ s with fresh := n }, x) := by
  unfold State.laneNow
  dsimp only
  split
  · exact ⟨_, _, rfl⟩
  · split
    · exact ⟨_, _, rfl⟩
    · split
      · exact ⟨_, _, rfl⟩
      · split <;> exact ⟨_, _, rfl⟩

/-- A packet that leaves takes its place after those that wait at their ports. -/
theorem sendOut_cases (s : State) (p : Pkt) : ∃ n out ps, s.sendOut p = { s with fresh := n, egress := s.egress ++ [out], paths := ps } := by
  obtain ⟨n, x, h⟩ := laneNow_cases s p.dst p.lane
  unfold State.sendOut
  rw [h]
  exact ⟨_, _, _, rfl⟩

section
variable (s : State) (owner : ReqOwner) (dst eng vf op addr : Nat) (args data : List Byte)

theorem emit_unsent : (s.emit owner dst eng vf op addr args data).unsent = s.unsent := by
  unfold State.emit
  dsimp only
  split
  · rfl
  · split
    · obtain ⟨_, _, _, h⟩ := sendOut_cases (s.await owner _ dst) _
      rw [h]
      rfl
    · rfl

theorem mem_egress_emit {x : Nat × Pkt} (h : x ∈ s.egress) : x ∈ (s.emit owner dst eng vf op addr args data).egress := by
  unfold State.emit
  dsimp only
  split
  · exact h
  · split
    · obtain ⟨_, _, _, e⟩ := sendOut_cases (s.await owner _ dst) _
      rw [e]
      exact List.mem_append_left _ h
    · exact h

end

theorem tellAll_unsent (s : State) (vf va step about frame : Nat) : (s.tellAll vf va step about frame).unsent = s.unsent :=
  foldl_keeps (fun _ _ => emit_unsent ..) _ s

end Sys2Proof.Machine

end

section
/-!
PROOFS. The boot ROM's checks and its last step, O13.
-/

namespace Sys2Proof.Machine

/-! ## The roster's bitmap (R352) -/

/-- A byte put together from its bits. -/
theorem testBit_foldl_bits (b : Nat → Bool) (n : Nat) : ∀ k,
    (((List.range n).filter b).foldl (fun x j => x + 2 ^ j) 0).testBit k = (decide (k < n) && b k) := by
  induction n with
  | zero => simp
  | succ n ih =>
    intro k
    rw [List.range_succ, List.filter_append, List.foldl_append]
    generalize hx : ((List.range n).filter b).foldl (fun x j => x + 2 ^ j) 0 = x at ih ⊢
    have small : x < 2 ^ n := Nat.lt_pow_two_of_testBit x fun i hi => by rw [ih i, decide_eq_false (by omega), Bool.false_and]
    cases hb : b n with
    | false =>
      have out : [n].filter b = [] := by simp [hb]
      rw [out, List.foldl_nil, ih k]
      by_cases hk : k = n
      · simp [hk, hb]
      · rw [decide_eq_decide.2 (by omega : k < n ↔ k < n + 1)]
    | true =>
      have inside : [n].filter b = [n] := by simp [hb]
      rw [inside, List.foldl_cons, List.foldl_nil, Nat.add_comm x]
      obtain hk | rfl | hk := Nat.lt_trichotomy k n
      · rw [Nat.testBit_two_pow_add_gt hk, ih k, decide_eq_decide.2 (by omega : k < n ↔ k < n + 1)]
      · simp [Nat.testBit_two_pow_add_eq, Nat.testBit_lt_two_pow small, hb]
      · have below : 2 ^ n + x < 2 ^ k := by
          have := Nat.pow_le_pow_right (by decide : 0 < 2) (Nat.succ_le_of_lt hk)
          rw [Nat.succ_eq_add_one, Nat.pow_succ] at this
          omega
        rw [Nat.testBit_lt_two_pow below, decide_eq_false (by omega), Bool.false_and]

section
variable {s : State} (h : Memory.wf s.mem = true)
include h

theorem putRoster_bit {d : Nat} (hd : d < 1064) :
    (memGet s.putRoster.mem (s.conf.rosterAddr + d / 8)).getLsbD (d % 8) = s.roster.elem d := by
  have inside : d / 8 < 133 := by omega
  have bit : d % 8 < 8 := Nat.mod_lt d (by decide)
  rw [State.putRoster, memGet_memPut_same _ _ _ h (by simpa using inside), List.getD_eq_getElem _ _ (by simpa using inside),
    List.getElem_map, List.getElem_range, BitVec.getLsbD_ofNat, testBit_foldl_bits, decide_eq_true bit, Bool.true_and, Bool.true_and,
    Nat.div_add_mod]

theorem putRoster_outside {a : Nat} (ha : a < s.conf.rosterAddr ∨ s.conf.rosterAddr + 133 ≤ a) :
    memGet s.putRoster.mem a = memGet s.mem a :=
  memGet_memPut_ne _ _ _ h (by simpa using ha)

end

/-! ## The steps of the boot ROM (R368) -/

section
variable {s : State}

theorem boot_failed (h : s.bootFail ≠ 0) : s.boot = s := by simp [State.boot, h]

/-- A check that fails leaves no mailbox command unanswered. -/
theorem bootFails_answers (n : Nat) : ∀ p ∈ (s.bootFails n).mboxes, p.2.go = false := by
  intro p hp
  obtain ⟨q, _, rfl⟩ := List.mem_map.1 hp
  cases hgo : q.2.go with
  | false => simp [hgo]
  | true => simp

/-- The memory of each function of a list is active. -/
def State.activate (s : State) (vs : List Nat) : State := vs.foldl (fun s v => s.setFunc v { s.func v with memActive := true }) s

theorem activate_memActive (s : State) (vs : List Nat) : ∀ v ∈ vs, ((s.activate vs).func v).memActive = true :=
  foldl_makes (Q := fun _ _ => True) (P := fun v s => (s.func v).memActive = true) (fun _ _ _ => by rw [setFunc_func_same])
    (fun _ _ _ _ => trivial)
    (fun s v w h => by
      by_cases hv : v = w
      · rw [hv, setFunc_func_same]
      · rwa [setFunc_func_ne _ _ _ _ hv])
    _ s fun _ _ => trivial

/-- The state with these memories active and a roster filled in. -/
theorem activate_enrolls (s : State) (vs r : List Nat) : ∃ u : State, { s.activate vs with roster := r } = u ∧ u.conf = s.conf ∧
    u.mem = s.mem ∧ u.roster = r ∧ ∀ v ∈ vs, (u.func v).memActive = true := by
  refine ⟨_, rfl, ?_, ?_, rfl, activate_memActive s vs⟩
  · exact foldl_keeps (g := State.conf) (by intros; rfl) vs s
  · exact foldl_keeps (g := State.mem) (by intros; rfl) vs s

section
variable (hb : s.booted = false) (hf : s.bootFail = 0)
include hb hf

theorem boot_badImage (hn : s.bootStep = 1) (hv : s.conf.valid = false) : s.boot = s.bootFails 2 := by
  simp [State.boot, hb, hf, hn, hv]

theorem boot_badFirmware (hn : s.bootStep = 2) (hv : s.conf.fwValid = false) : s.boot = s.bootFails 3 := by
  simp [State.boot, hb, hf, hn, hv]

theorem boot_last (hn : s.bootStep = 5) : ∃ u : State, s.boot = { u.putRoster with svc := 0, booted := true } ∧ u.conf = s.conf ∧
    u.mem = s.mem ∧ u.roster = s.conf.roster ∧ ∀ v ∈ List.range 16, (u.func v).memActive = true := by
  obtain ⟨u, hu, conf, mem, roster, active⟩ := activate_enrolls { s with bootStep := 6 } (List.range 16) s.conf.roster
  refine ⟨u, ?_, conf, mem, roster, active⟩
  subst hu
  unfold State.boot
  rw [hn, if_neg (by simp [hb, hf]), if_neg (by simp), if_neg (by simp), if_neg (by simp), if_neg (by simp), if_pos rfl]
  rfl

end
end

/-- Settles O13: a failed check by `State.bootFails`, and the last step by what it writes: the functions, then the roster's bitmap. -/
theorem bootRefusesBadImages : Obligations.BootRefusesBadImages := by
  unfold Obligations.BootRefusesBadImages
  refine ⟨fun s hb hf hn hv => ?image, fun s hb hf hn hv => ?firmware, fun s hf => congrArg Host.Outcome.next (boot_failed hf),
    fun s hb hf hn hm => ?last⟩
  case image => exact ⟨_, congrArg Host.Outcome.next (boot_badImage hb hf hn hv), rfl, hb, rfl, bootFails_answers 2⟩
  case firmware => exact ⟨_, congrArg Host.Outcome.next (boot_badFirmware hb hf hn hv), rfl, hb, rfl, bootFails_answers 3⟩
  case last =>
    obtain ⟨u, boots, conf, mem, roster, active⟩ := boot_last hb hf hn
    have wf : Memory.wf u.mem = true := mem ▸ hm
    refine ⟨_, congrArg Host.Outcome.next boots, rfl, rfl, fun v hv => active v (List.mem_range.2 hv), roster, fun d hd => ?_,
      fun a ha => ?_⟩
    · rw [← conf]
      exact putRoster_bit wf hd
    · rw [← mem]
      exact putRoster_outside wf (conf ▸ ha)

end Sys2Proof.Machine

end

section
/-!
PROOFS. Shoot-downs and the fault queue, for O58.
-/

namespace Sys2Proof.Machine

/-! ## Shoot-downs (R306, R307) -/

section
variable {s : State} {cl : Nat}

theorem shootdownStart_idle (h : (s.cluster cl).sd.busy = false ∨ (s.cluster cl).sd.effect = true) :
    exec (.shootdownStart cl) s = .next s := by
  rw [exec_shootdownStart, execShootdownStart, State.sdUpdate]
  exact congrArg _ (if_pos (by rcases h with h | h <;> simp [h]))

theorem shootdownWatchdog_idle (h : (s.cluster cl).sd.busy = false ∨ (s.cluster cl).sd.effect = true ∨ (s.cluster cl).sd.pending = [] ∨
    s.now < (s.cluster cl).sd.start + 210000) : exec (.shootdownWatchdog cl) s = .next s := by
  rw [exec_shootdownWatchdog, execShootdownWatchdog]
  exact if_neg (by rcases h with h | h | h | h <;> simp [h])

theorem shootdownEnd_idle (h : (s.cluster cl).sd.busy = false ∨ (s.cluster cl).sd.effect = false ∨ s.sdInflight cl = true) :
    exec (.shootdownEnd cl) s = .next s := by
  rw [exec_shootdownEnd, execShootdownEnd]
  exact if_neg (by rcases h with h | h | h <;> simp [h])

/-! ### Acknowledgement and effect -/

/-- The quiescent contexts among some stay so. -/
def State.holdQuiet (s : State) (ks : List Nat) : State :=
  ks.foldl (fun s k => if (s.ctx k).quiescent then s.setCtx k { s.ctx k with quiet := true } else s) s

theorem holdQuiet_quiet (ks : List Nat) (h : ∀ k ∈ ks, (s.ctx k).quiescent = true) : ∀ k ∈ ks, ((s.holdQuiet ks).ctx k).quiet = true := by
  refine foldl_makes (Q := fun k s => (s.ctx k).quiescent = true) (P := fun k s => (s.ctx k).quiet = true) ?_ ?_ ?_ ks s h
  · intro s k hq
    rw [if_pos hq, setCtx_ctx_same]
  · intro s k j hq
    split
    · by_cases hk : k = j
      · rw [hk, setCtx_ctx_same]
        rfl
      · rwa [setCtx_ctx_ne _ _ _ _ hk]
    · exact hq
  · intro s k j hq
    split
    · by_cases hk : k = j
      · rw [hk, setCtx_ctx_same]
      · rwa [setCtx_ctx_ne _ _ _ _ hk]
    · exact hq

theorem holdQuiet_cluster (ks : List Nat) : (s.holdQuiet ks).cluster cl = s.cluster cl :=
  foldl_keeps (g := fun s => s.cluster cl) (by intro s k; split <;> rfl) ks s

/-- Context keys of a core of KMASK. -/
def maskKeys (cl i : Nat) : List Nat := (List.range 8).map fun j => 8 * maskCore cl i + j

/-- One core's part of an acknowledgement. -/
def State.ackCore (s : State) (cl i : Nat) : State :=
  let u := s.holdQuiet (maskKeys cl i)
  if (maskKeys cl i).all fun k => (u.ctx k).quiet then
    let q := u.cluster cl
    u.setCluster cl { q with sd := { q.sd with ack := q.sd.ack + 2 ^ i, pending := q.sd.pending.filter fun j => decide (j ≠ i) } }
  else u

theorem sdAck_nil : s.sdAck cl [] = s := rfl

theorem sdAck_cons (i : Nat) (is : List Nat) : s.sdAck cl (i :: is) = (s.ackCore cl i).sdAck cl is := by
  conv_lhs => unfold State.sdAck
  unfold State.ackCore State.holdQuiet maskKeys
  with_reducible rfl

theorem sdAck_forced (is : List Nat) : ((s.sdAck cl is).cluster cl).sd.forced = (s.cluster cl).sd.forced := by
  induction is generalizing s with
  | nil => rfl
  | cons i is ih =>
    rw [sdAck_cons, ih, State.ackCore]
    dsimp only
    split
    · rw [setCluster_cluster_same, holdQuiet_cluster]
    · rw [holdQuiet_cluster]

/-- The last core that a shoot-down waits for has acknowledged. -/
theorem sdAck_last {i : Nat} (hp : (s.cluster cl).sd.pending = [i])
    (quiescent : ∀ j, j < 8 → (s.ctx (8 * maskCore cl i + j)).quiescent = true) : ((s.sdAck cl [i]).cluster cl).sd.pending = [] := by
  have quiet := holdQuiet_quiet (s := s) (maskKeys cl i) (by simpa [maskKeys] using quiescent)
  rw [sdAck_cons, State.ackCore]
  dsimp only
  rw [if_pos (List.all_eq_true.2 quiet), sdAck_nil, setCluster_cluster_same, holdQuiet_cluster, hp]
  simp

theorem sdEffect_sd : ∃ gone, ((s.sdEffect cl).cluster cl).sd = { (s.cluster cl).sd with effect := true, gone := gone } := by
  unfold State.sdEffect
  dsimp only
  rw [setCluster_cluster_same]
  exact ⟨_, congrArg (fun q : Cluster => ({ q.sd with effect := true, gone := _ } : Shoot))
    (foldl_keeps (g := fun s => s.cluster cl) (by intros; rfl) _ s)⟩

section
variable (hb : (s.cluster cl).sd.busy = true) (he : (s.cluster cl).sd.effect = false)

theorem sdUpdate_forced : ((s.sdUpdate cl).cluster cl).sd.forced = (s.cluster cl).sd.forced := by
  unfold State.sdUpdate
  dsimp only
  split
  · rfl
  · split
    · obtain ⟨gone, h⟩ := sdEffect_sd (s := s.sdAck cl (s.cluster cl).sd.pending) (cl := cl)
      rw [h]
      exact sdAck_forced _
    · exact sdAck_forced _

include hb he

/-- No core is left to acknowledge. -/
theorem shootdownStart_effect {u : State} (hu : s.sdAck cl (s.cluster cl).sd.pending = u) (none_left : (u.cluster cl).sd.pending = []) :
    exec (.shootdownStart cl) s = .next (u.sdEffect cl) := by
  rw [exec_shootdownStart, execShootdownStart]
  simp only [State.sdUpdate, hb, he, hu, none_left, List.isEmpty_nil, Bool.not_true, Bool.or_self, Bool.false_eq_true, if_false, if_true]

theorem shootdownStart_acked (hp : (s.cluster cl).sd.pending = []) : exec (.shootdownStart cl) s = .next (s.sdEffect cl) :=
  shootdownStart_effect hb he (by rw [hp, sdAck_nil]) hp

theorem shootdownStart_last {i : Nat} (hp : (s.cluster cl).sd.pending = [i])
    (quiescent : ∀ j, j < 8 → (s.ctx (8 * maskCore cl i + j)).quiescent = true) : ∃ t, exec (.shootdownStart cl) s = .next t ∧
    (t.cluster cl).sd.effect = true ∧ (t.cluster cl).sd.pending = [] := by
  have last := sdAck_last hp quiescent
  generalize hu : s.sdAck cl [i] = u at last
  obtain ⟨gone, h⟩ := sdEffect_sd (s := u) (cl := cl)
  exact ⟨_, shootdownStart_effect hb he (hp ▸ hu) last, congrArg Shoot.effect h, (congrArg Shoot.pending h).trans last⟩

theorem shootdownWatchdog_forces (hp : (s.cluster cl).sd.pending ≠ []) (late : (s.cluster cl).sd.start + 210000 ≤ s.now) :
    ∃ t, exec (.shootdownWatchdog cl) s = .next t ∧ (t.cluster cl).sd.forced = true := by
  rw [exec_shootdownWatchdog, execShootdownWatchdog]
  dsimp only
  rw [if_pos (by simp [hb, he, hp, late])]
  refine ⟨_, rfl, ?_⟩
  rw [sdUpdate_forced, setCluster_cluster_same]

end

/-! ### The end -/

/-- A context once the shoot-down is over: it goes on, also where the watchdog stopped it, unless its function is in reset. -/
def Shoot.freed (d : Shoot) (s : State) (k : Nat) (c : Ctx) : Ctx :=
  let restart := decide (c.run = .stopped) && d.stopped.elem k && decide ((s.func c.stat.vf).flr = 0)
  { c with quiet := false, cHold := false, run := if restart then .ready else c.run }

theorem freed_run (d : Shoot) (s : State) (k : Nat) (c : Ctx) : (d.freed s k c).run =
    if c.run = .stopped ∧ k ∈ d.stopped ∧ (s.func c.stat.vf).flr = 0 then .ready else c.run := by
  simp [Shoot.freed, and_assoc]

theorem freed_freed (d : Shoot) (s : State) (k : Nat) (c : Ctx) : d.freed s k (d.freed s k c) = d.freed s k c := by
  by_cases h : c.run = .stopped ∧ k ∈ d.stopped ∧ (s.func c.stat.vf).flr = 0
  · simp [Shoot.freed, h]
  · have stays : (decide (c.run = .stopped) && d.stopped.elem k && decide ((s.func c.stat.vf).flr = 0)) = false := by
      simpa [and_assoc] using h
    simp only [Shoot.freed, stays, Bool.false_eq_true, if_false]

theorem freed_congr {t : State} (h : t.funcs = s.funcs) (d : Shoot) (k : Nat) (c : Ctx) : d.freed t k c = d.freed s k c := by
  rw [Shoot.freed, Shoot.freed, func_congr h]

theorem freeAll (d : Shoot) (ks : List Nat) (s : State) :
    ∀ k ∈ ks, (ks.foldl (fun s k => s.setCtx k (d.freed s k (s.ctx k))) s).ctx k = d.freed s k (s.ctx k) := by
  have freed : ∀ t k, t.funcs = s.funcs → (t.ctx k = s.ctx k ∨ t.ctx k = d.freed s k (s.ctx k)) →
      d.freed t k (t.ctx k) = d.freed s k (s.ctx k) := by
    intro t k hf h
    rw [freed_congr hf]
    obtain h | h := h
    · rw [h]
    · rw [h, freed_freed]
  refine fun k hk => (foldl_makes (Q := fun k t => t.funcs = s.funcs ∧ (t.ctx k = s.ctx k ∨ t.ctx k = d.freed s k (s.ctx k)))
    (P := fun k t => t.funcs = s.funcs ∧ t.ctx k = d.freed s k (s.ctx k)) ?_ ?_ ?_ ks s (fun k _ => ⟨rfl, .inl rfl⟩) k hk).2
  · rintro t k ⟨hf, h⟩
    exact ⟨hf, (setCtx_ctx_same ..).trans (freed t k hf h)⟩
  · rintro t k j ⟨hf, h⟩
    refine ⟨hf, ?_⟩
    by_cases hk : k = j
    · subst hk
      exact .inr ((setCtx_ctx_same ..).trans (freed t k hf h))
    · rwa [setCtx_ctx_ne _ _ _ _ hk]
  · rintro t k j ⟨hf, h⟩
    refine ⟨hf, ?_⟩
    by_cases hk : k = j
    · subst hk
      exact (setCtx_ctx_same ..).trans (freed t k hf (.inr h))
    · rwa [setCtx_ctx_ne _ _ _ _ hk]

theorem shootdownEnd_ends (hb : (s.cluster cl).sd.busy = true) (he : (s.cluster cl).sd.effect = true) (hi : s.sdInflight cl = false) :
    ∃ t, exec (.shootdownEnd cl) s = .next t ∧ (t.cluster cl).sd = { (s.cluster cl).sd with busy := false } ∧
      ∀ core ∈ (s.cluster cl).sd.cores cl, ∀ j, j < 8 → t.ctx (8 * core + j) =
        (s.cluster cl).sd.freed s (8 * core + j) (s.ctx (8 * core + j)) := by
  rw [exec_shootdownEnd, execShootdownEnd]
  dsimp only
  rw [if_pos (by simp [hb, he, hi])]
  refine ⟨_, rfl, by rw [setCluster_cluster_same], fun core hc j hj => ?_⟩
  rw [setCluster_ctx]
  exact freeAll _ _ s _ (List.mem_flatten_of_mem (List.mem_map_of_mem hc) (List.mem_map_of_mem (List.mem_range.2 hj)))

end

/-! ## The fault queue (R347) -/

section
variable {s : State} {cl : Nat}

theorem faultQueueService_empty (h : (s.cluster cl).faults = []) : exec (.faultQueueService cl) s = .next s := by
  simp only [exec_faultQueueService, execFaultQueueService, h, List.find?_nil, List.foldl_nil]

section
variable {f : FaultEnt} {rest : List FaultEnt} (hq : (s.cluster cl).faults = f :: rest)
include hq

theorem faultQueueService_head (h : f.walker = true ∨ f.cause ≠ 0) : exec (.faultQueueService cl) s = .next (s.serviceFault cl f) := by
  have found : (f :: rest).find? (fun f => f.walker || decide (f.cause ≠ 0)) = some f := List.find?_cons_of_pos (by simpa using h)
  simp only [exec_faultQueueService, execFaultQueueService, hq, found]

/-- A walker's fault enters the records and is posted. -/
theorem serviceFault_walker (hw : f.walker = true) (hc : f.ctx < 8192) : s.serviceFault cl f =
    ((s.setCluster cl { s.cluster cl with faults := rest }).record 9 f.cause (engPort f.port) (s.ctx f.ctx).stat.vf f.val).post
      (s.ctx f.ctx).stat.vf true f f.cause f.val := by
  simp [State.serviceFault, hq, hw, pipeKey, hc]

/-- A context's fault is served by its cause. -/
theorem faultQueueService_cause (hw : f.walker = false) (hc : f.cause ≠ 0) : exec (.faultQueueService cl) s =
    .next (let s1 := s.setCluster cl { s.cluster cl with faults := rest }
     let vf := (s.ctx f.ctx).stat.vf
     if f.cause = 0x0D then s1.resumeCtx f.ctx
     else if f.cause = 0x13 then s1.serviceDeferred vf f
     else if f.cause = 0x14 then s1.serviceXlate vf f f.val
     else if f.cause = 0x09 ∧ (s.func vf).debug then s1
     else s1.beginEnd cl f.ctx) := by
  rw [faultQueueService_head hq (.inr hc)]
  simp [State.serviceFault, hq, hw]

end
end

end Sys2Proof.Machine

end

section
/-!
PROOFS. The migration service, moves of pages, and the messages of other devices, for O58.
-/

namespace Sys2Proof.Machine

/-! ## The migration service (R309, R310) -/

section
variable {s : State}

theorem migrationService_none (h : s.migs = []) : exec .migrationService s = .next s := by
  simp only [exec_migrationService, execMigrationService, h, List.filter_nil, List.foldl_nil, List.find?_nil]

section
variable {m : Migration} (hm : s.migs = [m]) (home : (s.func m.vf).mh = s.vertex)
include hm home

/-- The one fault, which this device serves. -/
theorem migrationService_one (hk : m.kind < 8) : exec .migrationService s = .next (s.serveMig m) := by
  simp [exec_migrationService, execMigrationService, hm, home, hk]

theorem migrationService_kind5 (hk : m.kind = 5) : exec .migrationService s =
    .next (if s.pageBusy m.vf m.va then s else (s.resumeMig m).dropMig m) := by
  rw [migrationService_one hm home (by omega)]
  simp [State.serveMig, home, hk]

section
variable {a l : Nat} (hk : m.kind = 4) (leaf : s.leafOfVa m.vf m.va = some (a, l))
include hk leaf

theorem migrationService_begins (hp : m.phase = 0) : exec .migrationService s =
    .next (if pteMig (s.pteRead a) = 1 then s else if bitAt (s.pteRead a) 58 then s.beginMig m a else (s.resumeMig m).dropMig m) := by
  rw [migrationService_one hm home (by omega)]
  simp [State.serveMig, home, hk, State.serve4, leaf, hp]

theorem migrationService_ends (hp : m.phase = 2) : exec .migrationService s =
    .next (if s.mgmtOut then s else (s.resumeMig m).dropMig m) := by
  rw [migrationService_one hm home (by omega)]
  simp [State.serveMig, home, hk, State.serve4, leaf, hp]

end
end
end

/-! ## Moves of pages (R311) -/

section
variable {s : State} {vf va : Nat} (home : Nat) (aim : FrameAim) (e : ExtBytes)

theorem pageMove_unmapped (h : s.leafOfVa vf va = none) : exec (.pageMove vf va home aim e) s = .next s := by
  simp only [exec_pageMove, execPageMove, h]

section
variable {a l : Nat} (leaf : s.leafOfVa vf va = some (a, l))
include leaf

theorem pageMove_new (hm : s.migs = []) : exec (.pageMove vf va home aim e) s =
    if pteMig (s.pteRead a) ≠ 0 ∨ (s.func vf).mh ≠ s.vertex then .next s else
      .next (let m : Migration := ⟨0, vf, va, s.vertex, 8, 0, [], []⟩
             let u := ({ s with migs := [m] } : State).beginMig m a
             if home = u.vertex then u.readyFrames vf aim.frame (moveFrames (s.pteRead a) l) aim.pool
             else if u.roster.elem home then u.tellMore vf va 6 home aim.frame aim.pool 0 0 home else u) := by
  simp only [exec_pageMove, execPageMove, leaf, hm, List.find?_nil, List.nil_append]

theorem pageMove_copied {m : Migration} (hm : s.migs = [m]) (hk : m.kind = 8) (hv : m.vf = vf) (hp : m.va / 65536 = va / 65536)
    (h2 : m.phase = 2) : exec (.pageMove vf va home aim e) s =
      .next (if s.copyOut vf then s else s.finishMove m a l home aim.frame) := by
  have found : s.migs.find? (fun m => decide (m.kind = 8 ∧ m.vf = vf ∧ m.va / 65536 = va / 65536)) = some m := by
    simp [hm, hk, hv, hp]
  simp only [exec_pageMove, execPageMove, leaf, found, h2, Nat.reduceEqDiff, if_false, if_true]
  split <;> rfl

end
end

/-! ## Messages of other devices (R310, log 18) -/

section
variable {s : State} {i : Nat} {a : Arr} (turn : s.arrival i opMGMT = some a)
include turn

theorem execMgmtPkt_readmits (h12 : rfld a.pkt.data 8 1 = 12) : execMgmtPkt i s =
    .next (((s.readmit (rfld a.pkt.data 0 8)).take i).answer a.pkt 0 [] []) := by
  simp only [execMgmtPkt, turn, h12, Nat.reduceEqDiff, if_false, if_true]

section
variable {vf : Nat} (job : s.jobFunc a.pkt.vf (rfld a.pkt.data 9 2) = some vf)
include job

theorem execMgmtPkt_resumes (h28 : rfld a.pkt.data 8 1 = 28) : execMgmtPkt i s =
    .next (((s.resumeAway vf (rfld a.pkt.data 0 8) 4).take i).answer a.pkt 0 [] []) := by
  simp only [execMgmtPkt, turn, h28, job, Nat.reduceEqDiff, if_false, if_true, Nat.reduceSub, true_or, or_self]

theorem execMgmtPkt_forwards (h20 : rfld a.pkt.data 8 1 = 20) : execMgmtPkt i s =
    .next ((({ s with migs := s.migs ++ [⟨0, vf, rfld a.pkt.data 0 8, a.pkt.src, 4, 0, [], []⟩] } : State).take i).answer a.pkt 0 [] []) := by
  simp only [execMgmtPkt, turn, h20, job, Nat.reduceEqDiff, if_false, if_true, Nat.reduceSub, true_or, or_self]

section
variable {x l : Nat} (leaf : s.leafOfVa vf (rfld a.pkt.data 0 8) = some (x, l))
include leaf

theorem execMgmtPkt_begins (h1 : rfld a.pkt.data 8 1 = 1) (hm : s.migs = []) : execMgmtPkt i s =
    .next (let m : Migration := ⟨0, vf, rfld a.pkt.data 0 8, a.pkt.src, 9, 0, [], []⟩
           ({ s with migs := [m] } : State).beginHere m x) := by
  simp only [execMgmtPkt, turn, h1, job, leaf, State.obey, hm, Nat.reduceEqDiff, if_false, if_true, or_self, List.find?_nil, List.nil_append,
    Bool.false_eq_true]

theorem execMgmtPkt_owns (h2 : rfld a.pkt.data 8 1 = 2) : execMgmtPkt i s =
    .next (((s.ownAlone (rfld a.pkt.data 11 2) x l).take i).answer a.pkt 0 [] []) := by
  simp only [execMgmtPkt, turn, h2, job, leaf, State.obey, Nat.reduceEqDiff, if_false, if_true, or_self]

theorem execMgmtPkt_rehomes (h3 : rfld a.pkt.data 8 1 = 3) : execMgmtPkt i s =
    .next (((s.rehome vf x l (rfld a.pkt.data 11 2) (rfld a.pkt.data 13 3)).take i).answer a.pkt 0 [] []) := by
  simp only [execMgmtPkt, turn, h3, job, leaf, State.obey, Nat.reduceEqDiff, if_false, if_true, or_self]

end
end
end

end Sys2Proof.Machine

end

section
/-!
PROOFS. Repair of lines, cores, links and the pod, and O58.
-/

namespace Sys2Proof.Machine

/-! ## Memory lines (R350, R351) -/

section
variable {s : State} {line : Nat}

theorem lineRetire_sound (h : s.eccBad.elem line = false) : exec (.lineRetire line) s = .next s := by
  simp only [exec_lineRetire, execLineRetire, h, Bool.not_false, if_true]

section
variable (bad : s.eccBad.elem line = true) (unknown : ∀ x ∈ (s.die (dieOfPa (line * 128))).retired, x.1 ≠ line)
include bad unknown

omit bad in
theorem retired_unknown : (s.die (dieOfPa (line * 128))).retired.any (fun e => decide (e.1 = line)) = false := by simpa using unknown

theorem lineRetire_full (full : 2048 ≤ (s.die (dieOfPa (line * 128))).retired.length) :
    exec (.lineRetire line) s = .next (s.freeFrames (line / 512) 1) := by
  have known := retired_unknown unknown
  simp only [exec_lineRetire, execLineRetire, bad, known, full, Bool.not_true, Bool.false_eq_true, if_false, Bool.not_false, and_self, if_true]

/-- The line reads zeros from now on, and the table and the records name it. -/
theorem lineRetire_spares (room : (s.die (dieOfPa (line * 128))).retired.length < 2048) : ∃ t, exec (.lineRetire line) s = .next t ∧
    (t.die (dieOfPa (line * 128))).retired =
      (s.die (dieOfPa (line * 128))).retired ++ [(line, (s.die (dieOfPa (line * 128))).retired.length, true)] ∧
    t.mem = memSets s.mem (cellsAt (line * 128) (List.replicate 128 0#8)) ∧
    t.eccBad = s.eccBad.filter (fun l => decide (l ≠ line)) ∧ t.errs = (s.record 3 0x03 0 0 (line * 128)).errs := by
  have known := retired_unknown unknown
  rw [exec_lineRetire, execLineRetire]
  simp only [bad, known, Bool.not_true, Bool.false_eq_true, if_false, Bool.not_false, true_and, if_neg (Nat.not_le.2 room)]
  refine ⟨_, rfl, ?_, ?_, ?_, rfl⟩
  · exact congrArg Die.retired (setDie_die_same ..)
  · rw [setDie_mem, record_mem]
  · rw [setDie_eccBad, record_eccBad]

end

theorem patrolScrub_eq : exec (.patrolScrub line) s = .next
    (if s.eccFix.elem line then
      ({ s with eccFix := s.eccFix.filter fun l => decide (l ≠ line) } : State).noteCorrected (line * 128)
    else if s.eccBad.elem line then s.record 2 0x03 0 0 (line * 128) else s) := rfl

end

/-! ## Cores (R355) -/

section
variable {s : State} {core : Nat}

theorem coreRetire_none (h : coreExists core = false ∨ isControl core = true) : exec (.coreRetire core) s = .next s := by
  rw [exec_coreRetire, execCoreRetire]
  exact if_pos (by rcases h with h | h <;> simp [h])

section
variable (he : coreExists core = true) (hc : isControl core = false)
include he hc

theorem coreRetire_active (hr : (s.core core).retired = false) : exec (.coreRetire core) s = .next (if s.coreFails core then
    ({ s.setCore core { s.core core with retired := true } with conf := { s.conf with retired := s.conf.retired ++ [core] } } : State).record
      11 0 (s.eng core) (s.owner (coreCluster core)) core else s) := by
  simp only [exec_coreRetire, execCoreRetire, he, hc, hr, Bool.not_true, Bool.or_self, Bool.false_eq_true, if_false, Bool.not_false, if_true]

section
variable (hr : (s.core core).retired = true)
include hr

theorem coreRetire_holding {i : Nat} (hi : i < 8) (held : s.holds (8 * core + i) = true) : exec (.coreRetire core) s = .next s := by
  have some_held : (List.range 8).any (fun i => s.holds (8 * core + i)) = true := List.any_eq_true.2 ⟨i, List.mem_range.2 hi, held⟩
  simp only [exec_coreRetire, execCoreRetire, he, hc, hr, some_held, Bool.not_true, Bool.or_self, Bool.false_eq_true, if_false, if_true]

theorem coreRetire_replaced (idle : ∀ i, i < 8 → s.holds (8 * core + i) = false) (hk : coreK core < 8)
    (unused : (s.cluster (coreCluster core)).spare.getLsbD 7 = false) (sound : (s.core (16 * coreCluster core + 9)).retired = false) :
    exec (.coreRetire core) s = .next (s.useSpare core) := by
  have none_held : (List.range 8).any (fun i => s.holds (8 * core + i)) = false := by
    simpa only [List.any_eq_false, List.mem_range, Bool.not_eq_true] using idle
  simp only [exec_coreRetire, execCoreRetire, he, hc, hr, none_held, hk, unused, sound, Bool.not_true, Bool.or_self, Bool.false_eq_true,
    if_false, Bool.not_false, and_self, if_true]

end
end
end

/-! ## Leaving the roster (R352) -/

/-- What this device held of another, or waited for from it, is gone. -/
def State.forget (s : State) (v : Nat) : State :=
  { s with
    inbox := s.inbox.filter fun a => !(decide (a.pkt.src = v) && !a.isReply),
    expRows := s.expRows.filter fun e => !(e.src.any fun q => decide (q.src = v)),
    rings := s.rings.map fun r => { r with srcs := r.srcs.filter fun x => decide (x.dev ≠ v) },
    known := s.known.filter fun x => decide (x.dev ≠ v), removed := s.removed.filter (fun x => decide (x ≠ v)) ++ [v],
    backs := s.backs.filter fun b => decide (b.pkt.src ≠ v) }

section
variable {s : State} {v : Nat}

theorem rosterRemove_absent (h : v = s.vertex ∨ s.roster.elem v = false) : exec (.rosterRemove v) s = .next s := by
  rw [exec_rosterRemove, execRosterRemove]
  exact if_pos (h.imp_right fun h => by rw [h]; rfl)

theorem endAll_alone (h : s.reqs = []) : s.endAll v = s := by
  simp only [State.endAll, h, List.filter_nil, List.foldl_nil]

/-- What is dropped of the device is recorded. -/
def State.noteDropped (s : State) (v : Nat) : State :=
  let s := (s.inbox.filter fun a => decide (a.pkt.src = v) && !a.isReply).foldl (fun (s : State) a => s.record 5 0 a.pkt.eng a.pkt.vf v) s
  (s.expRows.filter fun e => e.src.any fun q => decide (q.src = v)).foldl
    (fun (s : State) e => s.record 5 0 ((e.src.map (·.eng)).getD 0) e.vf v) s

theorem noteDropped_bare (s : State) (v : Nat) : (s.noteDropped v).bare = s.bare :=
  (foldl_keeps (g := State.bare) (by intros; exact record_bare ..) _ _).trans
    (foldl_keeps (g := State.bare) (by intros; exact record_bare ..) _ _)

/-- The removal, but for the records it makes and the routes it rewrites. -/
theorem rosterRemove_bare (hv : v ≠ s.vertex) (hr : s.roster.elem v = true) (hq : s.reqs = []) : ∃ t, exec (.rosterRemove v) s = .next t ∧
    t.bare = { (({ s with roster := s.roster.filter fun x => decide (x ≠ v) } : State).putRoster.bare.forget v) with
      rgen := (s.rgen + 1) % 2 ^ 32 } := by
  let left : State := ({ s with roster := s.roster.filter fun x => decide (x ≠ v) } : State).putRoster
  let u := (left.noteDropped v).forget v
  have noted : (left.noteDropped v).bare = left.bare := noteDropped_bare left v
  have reqs : u.reqs = [] := (congrArg State.reqs noted :).trans hq
  have rgen : u.rgen = s.rgen := (congrArg State.rgen noted :)
  refine ⟨({ u.reroute with rgen := (s.rgen + 1) % 2 ^ 32 } : State).record 8 0 0 0 v, ?_, ?_⟩
  · have present : ¬ (v = s.vertex ∨ (!s.roster.elem v) = true) := not_or.2 ⟨hv, by rw [hr]; exact Bool.false_ne_true⟩
    have removes : exec (.rosterRemove v) s =
        .next (({ (u.endAll v).reroute with rgen := ((u.endAll v).rgen + 1) % 2 ^ 32 } : State).record 8 0 0 0 v) := if_neg present
    rw [removes, endAll_alone reqs, rgen]
  · calc (State.record _ 8 0 0 0 v).bare = { u.reroute.bare with rgen := (s.rgen + 1) % 2 ^ 32 } := record_bare ..
      _ = { ((left.noteDropped v).bare.forget v) with rgen := (s.rgen + 1) % 2 ^ 32 } := by rw [reroute_bare]; rfl
      _ = { left.bare.forget v with rgen := (s.rgen + 1) % 2 ^ 32 } := by rw [noted]

end

/-! ## Links (R356, R372) -/

section
variable (s : State) (p : Nat)

theorem takeDown_bare : (s.takeDown p).bare = ({ s with ports := AMap.set s.ports p { s.port p with up := false } } : State).bare :=
  (record_bare ..).trans (reroute_bare _)

end

section
variable {s : State} {p : Nat}

theorem laneSpare_first (h : (s.port p).spareUsed = false) : exec (.laneSpare p) s =
    .next (({ s with
      ports := AMap.set s.ports p { s.port p with spareUsed := true },
      conf := { s.conf with laneSpares := AMap.set s.conf.laneSpares p ((s.port p).lanes, true) } } : State).record 6 0 (engPort p) 0 p) := by
  simp only [exec_laneSpare, execLaneSpare, h, Bool.false_eq_true, if_false]

theorem laneSpare_second (h : (s.port p).spareUsed = true) : exec (.laneSpare p) s =
    .next (({ s with
      ports := AMap.set s.ports p { s.port p with lanes := 2 },
      conf := { s.conf with laneSpares := AMap.set s.conf.laneSpares p (2, true) } } : State).record 6 0 (engPort p) 0 p) := by
  simp only [exec_laneSpare, execLaneSpare, h, if_true]

end

/-! ## A link comes up (R372) -/

section
variable {s : State} {v : Nat}

theorem enroll_ports (s : State) (v : Nat) : (s.enroll v).ports = s.ports := by unfold State.enroll; split <;> rfl
theorem enroll_egress (s : State) (v : Nat) : (s.enroll v).egress = s.egress := by unfold State.enroll; split <;> rfl

theorem enroll_new (hv : v ≠ s.vertex) (hr : v ∉ s.roster) :
    (s.enroll v).roster = s.roster ++ [v] ∧ (s.enroll v).rgen = (s.rgen + 1) % 2 ^ 32 := by
  have absent : ¬ (v = s.vertex ∨ s.roster.elem v = true) := by simp [hv, hr]
  rw [State.enroll, if_neg absent]
  exact ⟨rfl, rfl⟩

/-- The other devices of the roster are told of one that is back. -/
def State.tellBack (s : State) (v : Nat) : State :=
  (s.roster.filter fun d => decide (d ≠ s.vertex)).foldl (fun s d => s.tellDev 0 v 12 v 0 d) s

theorem tellBack_unsent (s : State) (v : Nat) : (s.tellBack v).unsent = s.unsent :=
  foldl_keeps (g := State.unsent) (by intros; exact emit_unsent ..) _ s

theorem mem_egress_tellBack {x : Nat × Pkt} (h : x ∈ s.egress) : x ∈ (s.tellBack v).egress :=
  List.foldlRecOn _ _ (motive := fun t : State => x ∈ t.egress) h fun _ h _ _ => mem_egress_emit _ _ _ _ _ _ _ _ _ h

theorem peerUp_eq (s : State) (v mode : Nat) : s.peerUp v mode =
    if mode = 1 then { s with removed := s.removed.filter fun x => decide (x ≠ v) }
    else if mode = 2 ∨ s.removed.elem v ∨ s.roster.elem v then s else (s.tellBack v).enroll v := rfl

theorem peerUp_ports (s : State) (v mode : Nat) : (s.peerUp v mode).ports = s.ports := by
  rw [peerUp_eq]
  split
  · rfl
  · split
    · rfl
    · exact (enroll_ports ..).trans (congrArg State.ports (tellBack_unsent s v) :)

theorem mem_egress_peerUp (mode : Nat) {x : Nat × Pkt} (h : x ∈ s.egress) : x ∈ (s.peerUp v mode).egress := by
  rw [peerUp_eq]
  split
  · exact h
  · split
    · exact h
    · rw [enroll_egress]
      exact mem_egress_tellBack h

theorem peerUp_bringup : (s.peerUp v 1).roster = s.roster ∧ v ∉ (s.peerUp v 1).removed := by
  rw [peerUp_eq, if_pos rfl]
  exact ⟨rfl, by simp⟩

theorem peerUp_stays {mode : Nat} (h : mode = 2 ∨ v ∈ s.removed) : (s.peerUp v mode).roster = s.roster := by
  rw [peerUp_eq]
  split
  · rfl
  · rw [if_pos (h.imp_right fun h => .inl (List.elem_iff.2 h))]

theorem peerUp_joins (hv : v ≠ s.vertex) (hm : v ∉ s.removed) (hr : v ∉ s.roster) :
    (s.peerUp v 0).roster = s.roster ++ [v] ∧ (s.peerUp v 0).rgen = (s.rgen + 1) % 2 ^ 32 := by
  have told := tellBack_unsent s v
  have vertex : (s.tellBack v).vertex = s.vertex := (congrArg State.vertex told :)
  have roster : (s.tellBack v).roster = s.roster := (congrArg State.roster told :)
  have rgen : (s.tellBack v).rgen = s.rgen := (congrArg State.rgen told :)
  rw [peerUp_eq, if_neg (by decide), if_neg (by simp [hm, hr]), ← roster, ← rgen]
  exact enroll_new (vertex ▸ hv) (roster ▸ hr)

end

section
variable {s : State} {p ouv : Nat}

/-- The port as the versions leave it: this end carries minor version 0 alone. -/
def State.linked (s : State) (p ouv : Nat) : State :=
  { s with ports := AMap.set s.ports p { s.port p with up := true, minor := min (ouv % 256) 0 } }

theorem same_major (h : ouv % 65536 / 256 = 1) : ¬ (ouv % 65536 / 256 ≠ ownOuv / 256) := not_not.2 h

theorem same_minor : min (ouv % 65536 % 256) (ownOuv % 256) = min (ouv % 256) 0 := by
  rw [Nat.mod_mod_of_dvd ouv (by decide)]
  rfl

section
variable (hp : portPeer s.vertex p = none)
include hp

theorem linkUp_unpaired_refuses (h : ouv % 65536 / 256 ≠ 1) : exec (.linkUp p ouv) s = exec (.portDown p) s := by
  simp only [exec_linkUp, execLinkUp, hp]
  exact if_pos h

theorem linkUp_unpaired (h : ouv % 65536 / 256 = 1) : exec (.linkUp p ouv) s = .next (s.linked p ouv) := by
  simp only [exec_linkUp, execLinkUp, hp]
  rw [if_neg (same_major h), same_minor]
  rfl

end

section
variable {y : Nat} (hp : portPeer s.vertex p = some y)
include hp

theorem linkUp_refuses (h : ouv % 65536 / 256 ≠ 1) : exec (.linkUp p ouv) s = exec (.portDown p) (s.sendOuv p y) := by
  simp only [exec_linkUp, execLinkUp, hp]
  exact if_pos h

theorem linkUp_pairs (h : ouv % 65536 / 256 = 1) : exec (.linkUp p ouv) s =
    .next (((s.sendOuv p y).linked p ouv).peerUp y (ouv / 65536 % 4)) := by
  simp only [exec_linkUp, execLinkUp, hp]
  rw [if_neg (same_major h), same_minor]
  rfl

end
end

/-- This end's version waits at the port. -/
theorem sendOuv_egress (s : State) (p y : Nat) : ∃ q : Pkt, (p, q) ∈ (s.sendOuv p y).egress ∧ q.dst = y ∧ q.op = 0x3F ∧
    rfld q.data 0 8 = 0x0100 ∧ rfld q.data 8 1 = 13 :=
  ⟨_, List.mem_append_right _ List.mem_cons_self, rfl, rfl, rfl, rfl⟩

/-- Settles O58: each service by what it finds, the removal of a device by what it forgets, and a link's coming up by its peer. -/
theorem translationAndFirmwareEvents : Obligations.TranslationAndFirmwareEvents := by
  unfold Obligations.TranslationAndFirmwareEvents
  refine ⟨fun s cl => ?cluster, fun s => ?migration, fun s vf va home frame pool e => ?move, fun s i vf a ha => ?message,
    fun s line => ?lines, fun s core => ?cores, fun s v p ouv => ?pod⟩
  case cluster =>
    refine ⟨fun hb => ⟨shootdownStart_idle (.inl hb), shootdownWatchdog_idle (.inl hb), shootdownEnd_idle (.inl hb)⟩,
      fun hb he => ⟨shootdownStart_idle (.inr he), shootdownWatchdog_idle (.inr (.inl he))⟩,
      fun hb he => ⟨fun hp => ⟨shootdownStart_acked hb he hp, shootdownWatchdog_idle (.inr (.inr (.inl hp)))⟩,
        fun i rest hp => ⟨fun last => shootdownStart_last hb he (last ▸ hp),
          fun early => shootdownWatchdog_idle (.inr (.inr (.inr early))), shootdownWatchdog_forces hb he (by rw [hp]; exact List.cons_ne_nil _ _)⟩,
        shootdownEnd_idle (.inr (.inl he))⟩,
      fun hb he hi => shootdownEnd_idle (.inr (.inr hi)), fun hb he hi => ?ends, faultQueueService_empty, fun f rest hq hw => ?fault,
      fun f rest hq hw hc => (faultQueueService_head hq (.inl hw)).trans (congrArg _ (serviceFault_walker hq hw hc))⟩
    case ends =>
      obtain ⟨t, ht, sd, freed⟩ := shootdownEnd_ends hb he hi
      refine ⟨t, ht, sd, fun core hc j hj => ?_⟩
      rw [freed core hc j hj]
      exact ⟨rfl, rfl, freed_run ..⟩
    case fault =>
      have served := faultQueueService_cause hq hw
      refine ⟨fun hc => ?_, fun hc => ?_, fun hc => ?_, fun hc hd => ?_, fun hc => ?_⟩
      · exact (served (by omega)).trans (congrArg _ (if_pos hc))
      · refine (served (by omega)).trans (congrArg _ ?_)
        simp [hc, State.serviceXlate]
      · exact (served (by omega)).trans (by simp [hc])
      · exact (served (by omega)).trans (by simp [hc, hd])
      · simp only [List.mem_cons, List.not_mem_nil, or_false, not_or] at hc
        obtain ⟨h0, h9, hd, h13, h14⟩ := hc
        exact (served h0).trans (by simp [h9, hd, h13, h14])
  case migration =>
    refine ⟨migrationService_none, fun m hm hk home => ⟨fun busy => ?_, fun free => ?_⟩,
      fun m a l hm hk home leaf hp => ⟨fun h1 => ?_, fun h1 h2 => ?_, fun h1 h2 => ?_⟩,
      fun m a l hm hk home leaf hp => ⟨fun out => ?_, fun settled => ?_⟩⟩
    · exact (migrationService_kind5 hm home hk).trans (congrArg _ (if_pos busy))
    · exact (migrationService_kind5 hm home hk).trans (congrArg _ (if_neg (Bool.eq_false_iff.1 free)))
    · exact (migrationService_begins hm home hk leaf hp).trans (congrArg _ (if_pos h1))
    · exact (migrationService_begins hm home hk leaf hp).trans (congrArg _ ((if_neg h1).trans (if_pos h2)))
    · exact (migrationService_begins hm home hk leaf hp).trans (congrArg _ ((if_neg h1).trans (if_neg (Bool.eq_false_iff.1 h2))))
    · exact (migrationService_ends hm home hk leaf hp).trans (congrArg _ (if_pos out))
    · exact (migrationService_ends hm home hk leaf hp).trans (congrArg _ (if_neg (Bool.eq_false_iff.1 settled)))
  case move =>
    refine ⟨pageMove_unmapped home _ e, fun a l leaf hm => ⟨fun h => (pageMove_new home _ e leaf hm).trans (if_pos h), fun h1 h2 => ?_,
      fun m _ _ hk hv hp h2 => ?_⟩⟩
    · exact (pageMove_new home _ e leaf hm).trans (if_neg (by simp [h1, h2]))
    · have copied := pageMove_copied (s := { s with migs := [m] }) home ⟨frame, pool⟩ e leaf rfl hk hv hp h2
      exact ⟨fun out => copied.trans (congrArg _ (if_pos out)), fun settled => copied.trans (congrArg _ (if_neg (Bool.eq_false_iff.1 settled)))⟩
  case message =>
    intro p va done ho hd hm job
    have turn : s.arrival i opMGMT = some a := arrival_turn ha hd hm ho
    exact ⟨execMgmtPkt_readmits turn, execMgmtPkt_resumes turn job, fun h4 => execMgmtPkt_placesRepl turn h4 job,
      fun x l leaf => ⟨execMgmtPkt_begins turn job leaf, execMgmtPkt_owns turn job leaf, execMgmtPkt_rehomes turn job leaf,
        execMgmtPkt_forwards turn job⟩⟩
  case lines =>
    exact ⟨lineRetire_sound, fun bad unknown => ⟨lineRetire_full bad unknown, lineRetire_spares bad unknown⟩,
      fun fix => patrolScrub_eq.trans (congrArg _ (if_pos fix)),
      fun fix bad => patrolScrub_eq.trans (congrArg _ ((if_neg (Bool.eq_false_iff.1 fix)).trans (if_pos bad))),
      fun fix bad => patrolScrub_eq.trans (congrArg _ ((if_neg (Bool.eq_false_iff.1 fix)).trans (if_neg (Bool.eq_false_iff.1 bad))))⟩
  case cores =>
    exact ⟨coreRetire_none, fun he hc => ⟨fun hr sound => (coreRetire_active he hc hr).trans (congrArg _ (if_neg (Bool.eq_false_iff.1 sound))),
      fun hr fails => (coreRetire_active he hc hr).trans (congrArg _ (if_pos fails)),
      fun hr ⟨i, hi, held⟩ => coreRetire_holding he hc hr hi held, coreRetire_replaced he hc⟩⟩
  case pod =>
    refine ⟨rosterRemove_absent, fun hv hr hq => ?removed, laneSpare_first, laneSpare_second, ?down, fun hp => ?unpaired, fun y hp => ?paired⟩
    case removed =>
      obtain ⟨t, ht, bare⟩ := rosterRemove_bare hv hr hq
      refine ⟨t, ht, (congrArg State.roster bare :), (congrArg State.rgen bare :), (congrArg State.inbox bare :).trans ?_,
        (congrArg State.expRows bare :), (congrArg State.known bare :), ?_, (congrArg State.mem bare :)⟩
      · exact List.filter_congr fun a _ => by simp
      · have removed : t.removed = s.removed.filter (fun x => decide (x ≠ v)) ++ [v] := (congrArg State.removed bare :)
        rw [removed]
        exact List.mem_append_right _ List.mem_cons_self
    case down =>
      have bare := takeDown_bare s p
      exact ⟨_, rfl, (congrArg State.ports bare :), (congrArg State.mem bare :), (congrArg State.ctxs bare :)⟩
    case unpaired => exact ⟨linkUp_unpaired_refuses hp, linkUp_unpaired hp⟩
    case paired =>
      refine ⟨linkUp_refuses hp, fun major hy => ⟨_, linkUp_pairs hp major, peerUp_ports .., ?_, fun h1 => ?_, fun h => ?_,
        fun h0 hm hr => ?_⟩⟩
      · obtain ⟨q, waits, sent⟩ := sendOuv_egress s p y
        exact ⟨q, mem_egress_peerUp _ waits, sent⟩
      · rw [h1]
        exact peerUp_bringup
      · exact peerUp_stays h
      · rw [h0]
        exact peerUp_joins hy hm hr

end Sys2Proof.Machine

end

section
/-!
PROOFS. Thermal limits, power levels and function-level reset, for O60.
-/

namespace Sys2Proof.Machine

/-! ## Thermal limits (R367) -/

section
variable {s : State} (d : Nat) {t : Nat}

theorem thermalShutdown_idle (h : t < 115 ∨ s.shut = true) : exec (.thermalShutdown d t) s = .next s := by
  have stays : ¬ (115 ≤ t ∧ (!s.shut) = true) := by
    rintro ⟨hot, on⟩
    rcases h with h | h
    · omega
    · simp [h] at on
  exact congrArg _ (if_neg stays)

theorem thermalShutdown_shuts (ht : 115 ≤ t) (h : s.shut = false) : exec (.thermalShutdown d t) s = .next s.shutdown :=
  congrArg _ (if_pos ⟨ht, by rw [h]; rfl⟩)

end

theorem putRoster_mem_congr {s t : State} (mem : t.mem = s.mem) (conf : t.conf = s.conf) (roster : t.roster = s.roster) :
    t.putRoster.mem = s.putRoster.mem := by simp only [State.putRoster, mem, conf, roster]

theorem shutdown_leaves (s : State) :
    s.shutdown.shut = true ∧
    s.shutdown.mem = ({ s with roster := s.roster.filter fun v => decide (v ≠ s.vertex) } : State).putRoster.mem ∧
    s.shutdown.roster = s.roster.filter (fun v => decide (v ≠ s.vertex)) ∧ s.shutdown.rgen = (s.rgen + 1) % 2 ^ 32 := by
  have told := tellAll_unsent s 0 0 7 s.vertex 0
  have mem : (s.tellAll 0 0 7 s.vertex 0).mem = s.mem := (congrArg State.mem told :)
  have conf : (s.tellAll 0 0 7 s.vertex 0).conf = s.conf := (congrArg State.conf told :)
  have roster : (s.tellAll 0 0 7 s.vertex 0).roster = s.roster := (congrArg State.roster told :)
  have vertex : (s.tellAll 0 0 7 s.vertex 0).vertex = s.vertex := (congrArg State.vertex told :)
  have rgen : (s.tellAll 0 0 7 s.vertex 0).rgen = s.rgen := (congrArg State.rgen told :)
  have left : (s.tellAll 0 0 7 s.vertex 0).roster.filter (fun v => decide (v ≠ (s.tellAll 0 0 7 s.vertex 0).vertex)) =
      s.roster.filter fun v => decide (v ≠ s.vertex) := by rw [roster, vertex]
  exact ⟨rfl, putRoster_mem_congr mem conf left, left, by rw [← rgen]; rfl⟩

theorem shutdown_halts (s : State) : ∀ p ∈ s.shutdown.ctxs, p.2.run = .free ∨ p.2.run = .halted := by
  intro p hp
  obtain ⟨q, _, rfl⟩ := List.mem_map.1 hp
  dsimp only
  split
  · exact .inl ‹_›
  · exact .inr rfl

/-! ## Power levels (R364, R365) -/

theorem deepest_eq (ns : Nat) : deepest ns = if 1050000000 ≤ 21 * ns then .off else if 420000 ≤ 21 * ns then .refresh
    else if 42000 ≤ 21 * ns then .retention else if 640 ≤ 21 * ns then .gated else .run := by
  by_cases off : 1050000000 ≤ 21 * ns
  · simp [deepest, Power.exit, off]
  by_cases refresh : 420000 ≤ 21 * ns
  · simp [deepest, Power.exit, off, refresh]
  by_cases retention : 42000 ≤ 21 * ns
  · simp [deepest, Power.exit, off, refresh, retention]
  · by_cases gated : 640 ≤ 21 * ns <;> simp [deepest, Power.exit, off, refresh, retention, gated]

section
variable {s : State} {cl : Nat}

theorem powerLevelEnter_eq {u : State} (hu : u = if s.clusterIdle cl = true ∧ (s.cluster cl).power = .run ∧ s.dieAsked (clusterDie cl) = false
      then s.setCluster cl { s.cluster cl with power := deepest (s.func (s.owner cl)).ltr, wake := 0 } else s) :
    exec (.powerLevelEnter cl) s = .next (if u.dieRefresh (clusterDie cl) then u.setDie (clusterDie cl)
      { u.die (clusterDie cl) with refresh := true } else u) := by
  have enters : u = if s.clusterIdle cl && decide ((s.cluster cl).power = .run) && !s.dieAsked (clusterDie cl) then
      s.setCluster cl { s.cluster cl with power := s.levelFor cl, wake := 0 } else s := by
    rw [hu]
    simp [State.levelFor, and_assoc]
  rw [enters]
  rfl

theorem powerWake_stays (h : (s.cluster cl).power = .run ∨ s.wakes cl = false) : exec (.powerWake cl) s = .next s := by
  rw [exec_powerWake, execPowerWake]
  exact if_pos (h.imp_right fun h => by rw [h]; rfl)

section
variable (hp : (s.cluster cl).power ≠ .run) (hw : s.wakes cl = true)
include hp hw

theorem powerWake_starts (h0 : (s.cluster cl).wake = 0) : exec (.powerWake cl) s =
    .next (s.setCluster cl { s.cluster cl with wake := s.now + (s.cluster cl).power.exit }) := by
  simp only [exec_powerWake, execPowerWake, hp, hw, h0, Bool.not_true, Bool.false_eq_true, or_self, if_false, if_true]

theorem powerWake_waits (h0 : (s.cluster cl).wake ≠ 0) (early : s.now < (s.cluster cl).wake) : exec (.powerWake cl) s = .next s := by
  simp only [exec_powerWake, execPowerWake, hp, hw, h0, early, Bool.not_true, Bool.false_eq_true, or_self, if_false, if_true]

/-- Scratchpads and write queues of some cores are emptied. -/
def State.emptySp (s : State) (cs : List Nat) : State := cs.foldl (fun s c => s.setCore c { s.core c with sp := [], wq := [] }) s

omit hp hw in
theorem emptySp_sp (s : State) (cs : List Nat) : ∀ c ∈ cs, ((s.emptySp cs).core c).sp = [] := by
  refine foldl_makes (Q := fun _ _ => True) (P := fun c s => (s.core c).sp = []) (fun _ _ _ => by rw [setCore_core_same])
    (fun _ _ _ _ => trivial) (fun s c b h => ?_) cs s fun _ _ => trivial
  by_cases hc : c = b
  · rw [hc, setCore_core_same]
  · rwa [setCore_core_ne _ _ _ _ hc]

theorem powerWake_wakes (h0 : (s.cluster cl).wake ≠ 0) (late : (s.cluster cl).wake ≤ s.now) : ∃ t, exec (.powerWake cl) s = .next t ∧
    (t.cluster cl).power = .run ∧ (t.cluster cl).wake = 0 ∧
    t.cores = (if (s.cluster cl).power = .off then s.emptySp ((16 * cl + 8) :: vfCores [cl]) else s).cores := by
  simp only [exec_powerWake, execPowerWake, hp, hw, h0, if_neg (Nat.not_lt.2 late), Bool.not_true, Bool.false_eq_true, or_self, if_false]
  refine ⟨_, rfl, ?_, ?_, ?_⟩
  · rw [setDie_cluster, setCluster_cluster_same]
  · rw [setDie_cluster, setCluster_cluster_same]
  · rw [setDie_cores, setCluster_cores]
    rfl

end
end

/-! ## Function-level reset (R357) -/

/-- The slots of some save areas read as zeros once they are cleared, and every other byte as before. -/
theorem memGet_clearAll_outside (at_ : Nat → Nat) (n : Nat) (cs : List Nat) {m : List Host.Cell} (h : Memory.wf m = true) {a : Nat}
    (out : ∀ c ∈ cs, a < at_ c ∨ at_ c + n ≤ a) : memGet (cs.foldl (fun m c => memClear m (at_ c) n) m) a = memGet m a := by
  induction cs generalizing m with
  | nil => rfl
  | cons c cs ih =>
    have here := out c List.mem_cons_self
    rw [List.foldl_cons, ih (memClear_wf _ _ h) fun c hc => out c (List.mem_cons_of_mem _ hc), memGet_memClear _ _ _ h, if_neg (by omega)]

theorem memGet_clearAll_inside (at_ : Nat → Nat) (n : Nat) (cs : List Nat) {m : List Host.Cell} (h : Memory.wf m = true) {a : Nat}
    (inside : ∃ c ∈ cs, at_ c ≤ a ∧ a < at_ c + n) : memGet (cs.foldl (fun m c => memClear m (at_ c) n) m) a = 0#8 := by
  induction cs generalizing m with
  | nil => exact absurd inside (by simp)
  | cons c cs ih =>
    rw [List.foldl_cons]
    by_cases later : ∃ c ∈ cs, at_ c ≤ a ∧ a < at_ c + n
    · exact ih (memClear_wf _ _ h) later
    · have here : at_ c ≤ a ∧ a < at_ c + n := by simpa [later] using inside
      rw [memGet_clearAll_outside _ _ _ (memClear_wf _ _ h) fun c hc => ?_, memGet_memClear _ _ _ h, if_pos here]
      by_contra hin
      exact later ⟨c, hc, by omega⟩

/-- A context without a task or an operation. -/
def Ctx.vacant (c : Ctx) : Prop := c.run = .free ∧ c.ops = []

/-- The contexts under some keys are as at reset. -/
def State.idleAll (s : State) (ks : List Nat) : State :=
  ks.foldl (fun s k => s.setCtx k { Ctx.idle with serial := (s.ctx k).serial, quiet := (s.ctx k).quiet }) s

theorem idleAll_keeps {s : State} {k : Nat} (h : (s.ctx k).vacant) (ks : List Nat) : ((s.idleAll ks).ctx k).vacant := by
  refine List.foldlRecOn ks _ (motive := fun s : State => (s.ctx k).vacant) h fun s h j _ => ?_
  by_cases hk : k = j
  · rw [hk, setCtx_ctx_same]
    exact ⟨rfl, rfl⟩
  · rwa [setCtx_ctx_ne _ _ _ _ hk]

theorem idleAll_vacant (s : State) (ks : List Nat) : ∀ k ∈ ks, ((s.idleAll ks).ctx k).vacant := by
  unfold State.idleAll
  refine foldl_makes (Q := fun _ _ => True) (P := fun k s => (s.ctx k).vacant) (fun s k _ => ?_) (fun _ _ _ _ => trivial)
    (fun _ _ j h => ?_) ks s fun _ _ => trivial
  · rw [setCtx_ctx_same]
    exact ⟨rfl, rfl⟩
  · exact idleAll_keeps h [j]

theorem idleAll_cores (s : State) (ks : List Nat) : (s.idleAll ks).cores = s.cores := foldl_keeps (g := State.cores) (by intros; rfl) ks s

section
variable {s : State}

/-- A core whose scratchpad is empty, and whose contexts are as at reset. -/
def State.scrubbed (s : State) (core : Nat) : Prop := (s.core core).sp = [] ∧ ∀ j, j < 8 → (s.ctx (8 * core + j)).vacant

theorem flrCore_ctx (asid core k : Nat) : (s.flrCore asid core).ctx k = (s.idleAll (coreKeys core)).ctx k := by
  rw [State.flrCore, setCore_ctx, State.idleAll]

theorem flrCore_scrubs (asid core : Nat) : (s.flrCore asid core).scrubbed core := by
  refine ⟨?_, fun j hj => ?_⟩
  · rw [State.flrCore, setCore_core_same]
    rfl
  · rw [flrCore_ctx]
    exact idleAll_vacant s _ _ (List.mem_append_left _ (List.mem_map_of_mem (List.mem_range.2 hj)))

theorem flrCore_keeps {core : Nat} (h : s.scrubbed core) (asid other : Nat) : (s.flrCore asid other).scrubbed core := by
  obtain ⟨empty, free⟩ := h
  refine ⟨?_, fun j hj => ?_⟩
  · by_cases hc : core = other
    · rw [hc]
      exact (flrCore_scrubs asid other).1
    · rw [State.flrCore, setCore_core_ne _ _ _ _ hc]
      exact (congrArg Core.sp (core_congr (idleAll_cores s (coreKeys other)) core)).trans empty
  · rw [flrCore_ctx]
    exact idleAll_keeps (free j hj) _

end

/-- Every core of a list is scrubbed. -/
def State.flrCores (s : State) (vf : Nat) (cores : List Nat) : State := cores.foldl (fun s c => s.flrCore (s.asidOf vf) c) s

theorem flrCores_scrubbed (s : State) (vf : Nat) (cores : List Nat) : ∀ c ∈ cores, (s.flrCores vf cores).scrubbed c :=
  foldl_makes (Q := fun _ _ => True) (P := fun c s => s.scrubbed c) (fun _ c _ => flrCore_scrubs _ c) (fun _ _ _ _ => trivial)
    (fun _ _ b h => flrCore_keeps h _ b) cores s fun _ _ => trivial

/-- A state without its contexts and cores. -/
def State.uncored (s : State) : State := { s with ctxs := [], cores := [] }

theorem setCore_uncored (s : State) (q : Nat) (c : Core) : (s.setCore q c).uncored = s.uncored := rfl

theorem flrCore_uncored (s : State) (asid core : Nat) : (s.flrCore asid core).uncored = s.uncored := by
  rw [State.flrCore, setCore_uncored]
  exact foldl_keeps (g := State.uncored) (by intros; rfl) (coreKeys core) s

theorem flrCores_uncored (s : State) (vf : Nat) (cores : List Nat) : (s.flrCores vf cores).uncored = s.uncored :=
  foldl_keeps (g := State.uncored) (by intros; exact flrCore_uncored ..) cores s

section
variable (s : State) (vf : Nat)

theorem flrScrub_ctxs : (s.flrScrub vf).ctxs = (s.flrCores vf (vfCores (s.vfClusters vf))).ctxs :=
  foldl_keeps (g := State.ctxs) (by intros; rfl) _ _

theorem flrScrub_cores : (s.flrScrub vf).cores = (s.flrCores vf (vfCores (s.vfClusters vf))).cores :=
  foldl_keeps (g := State.cores) (by intros; rfl) _ _

theorem flrScrub_scrubbed : ∀ c ∈ vfCores (s.vfClusters vf), (s.flrScrub vf).scrubbed c := by
  intro c hc
  obtain ⟨empty, free⟩ := flrCores_scrubbed s vf _ c hc
  exact ⟨(core_congr (flrScrub_cores s vf) c).symm ▸ empty, fun j hj => (ctx_congr (flrScrub_ctxs s vf) _).symm ▸ free j hj⟩

theorem flrScrub_mem : (s.flrScrub vf).mem =
    (vfCores (s.vfClusters vf)).foldl (fun m c => memClear m (s.savePa (spillBase + 16 * c)) (16 * saveSlotSize)) s.mem := by
  have rest := flrCores_uncored s vf (vfCores (s.vfClusters vf))
  have mem : (s.flrCores vf (vfCores (s.vfClusters vf))).mem = s.mem := (congrArg State.mem rest :)
  have conf : (s.flrCores vf (vfCores (s.vfClusters vf))).conf = s.conf := (congrArg State.conf rest :)
  have place : ∀ k, (s.flrCores vf (vfCores (s.vfClusters vf))).savePa k = s.savePa k := fun k => by rw [State.savePa, State.savePa, conf]
  refine (foldl_keeps (g := State.mem) (by intros; rfl) _ _).trans ?_
  simp only [← mem, ← place]
  rfl

end

section
variable {s : State} {vf : Nat}

theorem flr_none (h : 16 ≤ vf) : exec (.functionLevelReset vf) s = .next s := by
  rw [exec_functionLevelReset, execFunctionLevelReset]
  exact if_pos h

section
variable (h : vf < 16)
include h

theorem flr_begins (hf : (s.func vf).flr = 0) : exec (.functionLevelReset vf) s = .next (s.flrStop vf) := by
  simp only [exec_functionLevelReset, execFunctionLevelReset, if_neg (Nat.not_le.2 h), hf, if_true]

theorem flr_drains (hf : (s.func vf).flr = 2) : exec (.functionLevelReset vf) s =
    .next (if (s.flrDiscard vf).flrBusy vf then s.flrDiscard vf
      else (s.flrDiscard vf).setFunc vf { (s.flrDiscard vf).func vf with flr := 3 }) := by
  simp only [exec_functionLevelReset, execFunctionLevelReset, if_neg (Nat.not_le.2 h), hf, Nat.reduceEqDiff, if_false, if_true]

theorem flr_scrubs (hf : (s.func vf).flr = 3) : exec (.functionLevelReset vf) s =
    .next ((s.flrScrub vf).setFunc vf { (s.flrScrub vf).func vf with flr := 4 }) := by
  simp only [exec_functionLevelReset, execFunctionLevelReset, if_neg (Nat.not_le.2 h), hf, Nat.reduceEqDiff, if_false, if_true]

theorem flr_releases (hf : (s.func vf).flr = 4) : exec (.functionLevelReset vf) s =
    .next ((s.flrRelease vf).setFunc vf { (s.flrRelease vf).func vf with flr := 5 }) := by
  simp only [exec_functionLevelReset, execFunctionLevelReset, if_neg (Nat.not_le.2 h), hf, Nat.reduceEqDiff, if_false, if_true]

theorem flr_reports (hf : (s.func vf).flr = 5) : exec (.functionLevelReset vf) s = .next (s.flrReport vf) := by
  simp only [exec_functionLevelReset, execFunctionLevelReset, if_neg (Nat.not_le.2 h), hf, Nat.reduceEqDiff, if_false]

end

theorem flrReport_func : ((s.flrReport vf).func vf).flr = 0 ∧ ((s.flrReport vf).func vf).nextPost = 1 := by
  have funcs : (s.flrReport vf).func vf = { s.func vf with flr := 0, nextPost := 1 } :=
    (func_congr (record_funcs ..) vf).trans (setFunc_func_same ..)
  rw [funcs]
  exact ⟨rfl, rfl⟩

theorem flrReport_hostOut : (s.flrReport vf).hostOut = s.hostOut ++ [(0x200 + vf, [])] := by
  rw [State.flrReport, record_hostOut]
  rfl

theorem flrReport_mem : (s.flrReport vf).mem = s.mem := by
  rw [State.flrReport, record_mem]
  rfl

end

end Sys2Proof.Machine

end

section
/-!
PROOFS. Submission queues, and O60.
-/

namespace Sys2Proof.Machine

/-! ## One entry (R225, R289) -/

/-- Whether a record could not be read. -/
def recFails : Except RdErr (List Byte) → Bool
  | .error _ => true
  | .ok _ => false

/-- Whether a record is of another function. -/
def recForeign (vf : Nat) : Except RdErr (List Byte) → Bool
  | .ok bs => decide (recVf bs ≠ vf)
  | .error _ => false

section
variable {s : State} (ext : ExtBytes) (cl vf : Nat) {ent : List Byte}

theorem serveEntry_count (h : rfld ent 8 4 < 1 ∨ 4096 < rfld ent 8 4) :
    s.serveEntry ext cl vf ent = (s, 2 ^ 63 + 0x02 * 2 ^ 16 + 0xFFFF) := by
  simp only [State.serveEntry, if_pos h, refuseTok]

section
variable (few : ¬ (rfld ent 8 4 < 1 ∨ 4096 < rfld ent 8 4))
include few

theorem serveEntry_unaligned (ha : rfld ent 0 8 % 128 ≠ 0) : s.serveEntry ext cl vf ent = (s, 2 ^ 63 + 0x02 * 2 ^ 16) := by
  simp only [State.serveEntry, if_neg few, if_pos ha, refuseTok, Nat.add_zero]

section
variable (ha : rfld ent 0 8 % 128 = 0) {recs : RecBytes} (hr : s.readRecs ext vf (rfld ent 0 8) (rfld ent 8 4) = recs)
include ha hr

/-- The records are read, then their functions compared, then the graph is checked. -/
theorem serveEntry_scan : s.serveEntry ext cl vf ent =
    ((List.range (rfld ent 8 4)).find? fun i => (recs[i]?).any recFails).elim
      (((List.range (rfld ent 8 4)).find? fun i => (recs[i]?).any (recForeign vf)).elim
        (s.acceptGraph ext cl ⟨vf, true, true⟩ (rfld ent 0 8) (rfld ent 8 4)) fun i => (s, refuseTok 0x05 i))
      fun i => (s, refuseTok 0x09 i) := by
  simp only [State.serveEntry, if_neg few, if_neg (not_not.2 ha), hr]
  split
  next i h =>
    rw [show (List.range (rfld ent 8 4)).find? (fun i => (recs[i]?).any recFails) = some i from h]
    rfl
  next h =>
    rw [show (List.range (rfld ent 8 4)).find? (fun i => (recs[i]?).any recFails) = none from h]
    split
    next i h =>
      rw [show (List.range (rfld ent 8 4)).find? (fun i => (recs[i]?).any (recForeign vf)) = some i from h]
      rfl
    next h =>
      rw [show (List.range (rfld ent 8 4)).find? (fun i => (recs[i]?).any (recForeign vf)) = none from h]
      rfl

omit few ha in
theorem recs_inside {i : Nat} {r : Except RdErr (List Byte)} (hi : recs[i]? = some r) : i < rfld ent 8 4 := by
  have inside := (List.getElem?_eq_some_iff.1 hi).1
  simpa [← hr, State.readRecs] using inside

/-- The first record that cannot be read refuses the graph. -/
theorem serveEntry_unreadable {i : Nat} {c : RdErr} (hi : recs[i]? = some (.error c))
    (before : ∀ j, j < i → ∃ bs, recs[j]? = some (.ok bs)) : s.serveEntry ext cl vf ent = (s, 2 ^ 63 + 0x09 * 2 ^ 16 + i) := by
  have first : (List.range (rfld ent 8 4)).find? (fun i => (recs[i]?).any recFails) = some i := by
    refine List.find?_range_eq_some.2 ⟨by rw [hi]; rfl, List.mem_range.2 (recs_inside ext vf hr hi), fun j hj => ?_⟩
    obtain ⟨bs, hb⟩ := before j hj
    rw [hb]
    rfl
  rw [serveEntry_scan ext cl vf few ha hr, first]
  rfl

section
variable (readable : ∀ j, j < rfld ent 8 4 → ∃ bs, recs[j]? = some (.ok bs))
include readable

omit few ha hr in
theorem find?_recFails : (List.range (rfld ent 8 4)).find? (fun i => (recs[i]?).any recFails) = none := by
  refine List.find?_range_eq_none.2 fun j hj => ?_
  obtain ⟨bs, hb⟩ := readable j hj
  rw [hb]
  rfl

/-- The first record of another function refuses the graph. -/
theorem serveEntry_foreign {i : Nat} {bs : List Byte} (hi : recs[i]? = some (.ok bs)) (hv : rfld bs 3 1 % 16 ≠ vf)
    (before : ∀ j bs, j < i → recs[j]? = some (.ok bs) → rfld bs 3 1 % 16 = vf) :
    s.serveEntry ext cl vf ent = (s, 2 ^ 63 + 0x05 * 2 ^ 16 + i) := by
  have inside : i < rfld ent 8 4 := recs_inside ext vf hr hi
  have first : (List.range (rfld ent 8 4)).find? (fun i => (recs[i]?).any (recForeign vf)) = some i := by
    refine List.find?_range_eq_some.2 ⟨by rw [hi]; exact decide_eq_true hv, List.mem_range.2 inside, fun j hj => ?_⟩
    obtain ⟨bs, hb⟩ := readable j (Nat.lt_trans hj inside)
    have own : recForeign vf (.ok bs) = false := decide_eq_false (not_not.2 (before j bs hj hb))
    rw [hb, Option.any_some, own]
    rfl
  rw [serveEntry_scan ext cl vf few ha hr, find?_recFails readable, first]
  rfl

theorem serveEntry_accepts (own : ∀ (j : Nat) (bs : List Byte), recs[j]? = some (.ok bs) → rfld bs 3 1 % 16 = vf) :
    s.serveEntry ext cl vf ent = s.acceptGraph ext cl ⟨vf, true, true⟩ (rfld ent 0 8) (rfld ent 8 4) := by
  have none_foreign : (List.range (rfld ent 8 4)).find? (fun i => (recs[i]?).any (recForeign vf)) = none := by
    refine List.find?_range_eq_none.2 fun j hj => ?_
    obtain ⟨bs, hb⟩ := readable j hj
    have own : recForeign vf (.ok bs) = false := decide_eq_false (not_not.2 (own j bs hb))
    rw [hb, Option.any_some, own]
    rfl
  rw [serveEntry_scan ext cl vf few ha hr, find?_recFails readable, none_foreign]
  rfl

end
end
end
end

/-! ## The queue (R289, R290) -/

/-- The result of an entry is written. -/
def State.giveResult (s : State) (cl vf va tok : Nat) : State :=
  let s := s.putVa cl vf va (leBytes 8 tok)
  s.setFunc vf { s.func vf with resultOut := true }

section
variable {s : State} {vf : Nat} {e : ExtBytes}

theorem submission_none (h : (s.func vf).subq = none) : exec (.submissionQueueServe vf e) s = .next s := by
  simp only [exec_submissionQueueServe, execSubmissionQueueServe, h]

section
variable {db : Nat} {line : List Byte} (hq : (s.func vf).subq = some db) (hb : s.booted = true) (hr : s.resetting vf = false) (hn : s.reqs = [])
  (hl : s.readVa e vf db 128 = .ok line) (awake : ∀ a ∈ s.vaPas vf db 128, s.dieAwake (dieOfPa a) = true)
include hq hb hr hn hl awake

/-- The turn of a queue whose first line can be read. -/
theorem submission_turn : exec (.submissionQueueServe vf e) s =
    (let cl := (s.vfClusters vf).headD 0
     let cons := rfld line 4 4
     let qsz := rfld line 24 2
     if (s.func vf).resultOut then
       let t := s.putVa cl vf (db + 4) (leBytes 4 ((cons + 1) % 2 ^ 32))
       .next (t.setFunc vf { t.func vf with resultOut := false })
     else if (s.func vf).served = 2 ^ 32 ∨ cons = (s.func vf).served then .next (s.takeProd cl vf db (rfld line 0 4) cons qsz)
     else whenAwake s (s.vaPas vf (rfld line 8 8 + 16 * (cons % qsz)) 16 ++ s.vaPas vf (rfld line 16 8 + 8 * (cons % qsz)) 8) fun s =>
       let r := match s.readVa e vf (rfld line 8 8 + 16 * (cons % qsz)) 16 with
         | .ok ent => s.serveEntry e cl vf ent
         | .error _ => (s, refuseTok 0x09 0)
       .next (r.1.giveResult cl vf (rfld line 16 8 + 8 * (cons % qsz)) r.2)) := by
  simp only [exec_submissionQueueServe, execSubmissionQueueServe, hq, hb, hr, hn, whenAwake_awake awake, hl, Bool.not_true, List.any_nil,
    Bool.or_self, Bool.false_eq_true, if_false]
  rfl

theorem submission_advances (ho : (s.func vf).resultOut = true) : ∃ t, exec (.submissionQueueServe vf e) s =
      .next (t.setFunc vf { t.func vf with resultOut := false }) ∧
    t = s.putVa ((s.vfClusters vf).headD 0) vf (db + 4) (leBytes 4 ((rfld line 4 4 + 1) % 2 ^ 32)) :=
  ⟨_, (submission_turn hq hb hr hn hl awake).trans (if_pos ho), rfl⟩

section
variable (ho : (s.func vf).resultOut = false)
include ho

theorem submission_takes (hs : (s.func vf).served = 2 ^ 32 ∨ rfld line 4 4 = (s.func vf).served) : exec (.submissionQueueServe vf e) s =
    .next (s.takeProd ((s.vfClusters vf).headD 0) vf db (rfld line 0 4) (rfld line 4 4) (rfld line 24 2)) :=
  (submission_turn hq hb hr hn hl awake).trans ((if_neg (Bool.eq_false_iff.1 ho)).trans (if_pos hs))

theorem submission_entry (h1 : (s.func vf).served ≠ 2 ^ 32) (h2 : rfld line 4 4 ≠ (s.func vf).served) {ent : List Byte}
    (he : s.readVa e vf (rfld line 8 8 + 16 * (rfld line 4 4 % rfld line 24 2)) 16 = .ok ent)
    (awake2 : ∀ a ∈ s.vaPas vf (rfld line 8 8 + 16 * (rfld line 4 4 % rfld line 24 2)) 16 ++
      s.vaPas vf (rfld line 16 8 + 8 * (rfld line 4 4 % rfld line 24 2)) 8, s.dieAwake (dieOfPa a) = true) {t : State} {tok : Nat}
    (ht : s.serveEntry e ((s.vfClusters vf).headD 0) vf ent = (t, tok)) : exec (.submissionQueueServe vf e) s =
      .next (t.giveResult ((s.vfClusters vf).headD 0) vf (rfld line 16 8 + 8 * (rfld line 4 4 % rfld line 24 2)) tok) := by
  rw [submission_turn hq hb hr hn hl awake]
  simp only [ho, h1, h2, or_self, Bool.false_eq_true, if_false, whenAwake_awake awake2, he, ht]

end
end

theorem takeProd_none (s : State) (cl vf db cons qsz : Nat) : s.takeProd cl vf db cons cons qsz = s := if_pos rfl

theorem takeProd_fits {prod cons qsz : Nat} (hp : prod ≠ cons) (fits : (prod + 2 ^ 32 - cons) % 2 ^ 32 ≤ qsz) (cl db : Nat) :
    s.takeProd cl vf db prod cons qsz = s.setFunc vf { s.func vf with served := prod } :=
  (if_neg hp).trans (if_neg (Nat.not_lt.2 fits))

theorem takeProd_overflows {prod cons qsz : Nat} (hp : prod ≠ cons) (exceeds : qsz < (prod + 2 ^ 32 - cons) % 2 ^ 32) (cl db : Nat) :
    s.takeProd cl vf db prod cons qsz =
      ((s.setFunc vf { s.func vf with served := prod }).putVa cl vf (db + 26) [1#8]).putVa cl vf (db + 4) (leBytes 4 prod) :=
  (if_neg hp).trans (if_pos exceeds)

end

/-- Settles O60: temperatures, levels and the steps of a reset by what they compare, and the queue's turn by what its line holds. -/
theorem powerResetAndSubmissionEvents : Obligations.PowerResetAndSubmissionEvents := by
  unfold Obligations.PowerResetAndSubmissionEvents
  refine ⟨fun s d t => ?thermal, fun s cl => ?power, fun s vf => ?reset,
    fun s vf e => ⟨submission_none, fun db line hq hb hr hn hl awake => ?queue⟩⟩
  case thermal =>
    refine ⟨fun h => congrArg _ (if_pos h), fun h => congrArg _ (if_neg (Nat.not_le.2 h)), fun h => congrArg _ (if_pos h),
      fun h => congrArg _ (if_neg (Nat.not_lt.2 h)), fun h => congrArg _ (if_pos h), fun h => congrArg _ (if_neg (Nat.not_le.2 h)),
      fun h => congrArg _ (if_pos h), fun h => congrArg _ (if_neg (Nat.not_lt.2 h)), thermalShutdown_idle d, fun ht hs => ?_⟩
    obtain ⟨shut, mem, roster, rgen⟩ := shutdown_leaves s
    exact ⟨_, thermalShutdown_shuts d ht hs, shut, mem, roster, rgen, shutdown_halts s⟩
  case power =>
    refine ⟨fun u hu => powerLevelEnter_eq (hu.trans ?_), powerWake_stays, fun hp hw =>
      ⟨fun h0 => ?_, powerWake_waits hp hw, fun h0 late => ?_⟩⟩
    · rw [deepest_eq]
    · exact powerWake_starts hp hw h0
    · obtain ⟨t, ht, run, wake, cores⟩ := powerWake_wakes hp hw h0 late
      refine ⟨t, ht, run, wake, fun off c hc => ?_, fun on => ?_⟩
      · rw [if_pos off] at cores
        rw [core_congr cores]
        exact emptySp_sp s _ c hc
      · rw [cores, if_neg on]
  case reset =>
    refine ⟨flr_none, fun h => ⟨flr_begins h, fun hf => ⟨fun busy => ?_, fun idle => ?_⟩, fun hf => ?scrub,
      fun hf => ?release, fun hf => ?report⟩⟩
    · exact (flr_drains h hf).trans (congrArg _ (if_pos busy))
    · exact ⟨_, (flr_drains h hf).trans (congrArg _ (if_neg (Bool.eq_false_iff.1 idle))), congrArg Func.flr (setFunc_func_same ..)⟩
    case scrub =>
      refine ⟨_, flr_scrubs h hf, congrArg Func.flr (setFunc_func_same ..), fun wf a => ⟨fun inside => ?_, fun out => ?_⟩,
        flrScrub_scrubbed s vf⟩
      · rw [setFunc_mem, flrScrub_mem]
        exact memGet_clearAll_inside _ _ _ wf inside
      · rw [setFunc_mem, flrScrub_mem]
        exact memGet_clearAll_outside _ _ _ wf out
    case release => exact ⟨_, flr_releases h hf, congrArg Func.flr (setFunc_func_same ..), rfl, rfl⟩
    case report =>
      obtain ⟨flr, nextPost⟩ := flrReport_func (s := s) (vf := vf)
      exact ⟨_, flr_reports h hf, flr, nextPost, flrReport_hostOut, flrReport_mem⟩
  case queue =>
    refine ⟨submission_advances hq hb hr hn hl awake, fun ho hs => ?prod, fun ent ho h1 h2 he awake2 => ?entry⟩
    case prod =>
      have takes := submission_takes hq hb hr hn hl awake ho hs
      refine ⟨fun hp => ?_, fun hp fits => takes.trans (congrArg _ (takeProd_fits hp fits _ _)),
        fun exceeds hp => takes.trans (congrArg _ (takeProd_overflows hp exceeds _ _))⟩
      rw [takes, hp, takeProd_none]
    case entry =>
      intro va n answered
      have serves {t : State} {tok : Nat} : s.serveEntry e _ vf ent = (t, tok) → exec (.submissionQueueServe vf e) s = answered t tok :=
        submission_entry hq hb hr hn hl awake ho h1 h2 he awake2
      refine ⟨fun hc => serves (serveEntry_count e _ vf hc), fun least most ha => serves (serveEntry_unaligned e _ vf ?_ ha),
        fun least most ha recs hrecs => ?_⟩
      · exact not_or.2 ⟨Nat.not_lt.2 least, Nat.not_lt.2 most⟩
      have few : ¬ (n < 1 ∨ 4096 < n) := not_or.2 ⟨Nat.not_lt.2 least, Nat.not_lt.2 most⟩
      refine ⟨fun i c hi before => serves (serveEntry_unreadable e _ vf few ha hrecs hi before),
        fun i bs hi hv readable before => serves (serveEntry_foreign e _ vf few ha hrecs readable hi hv before), fun all => ?_⟩
      have readable : ∀ j, j < n → ∃ bs, recs[j]? = some (.ok bs) := fun j hj => (all j hj).imp fun _ h => h.1
      have own : ∀ (j : Nat) (bs : List Byte), recs[j]? = some (.ok bs) → rfld bs 3 1 % 16 = vf := fun j bs hj => by
        obtain ⟨b, hb, hv⟩ := all j (recs_inside e vf hrecs hj)
        rw [hb, Option.some.injEq, Except.ok.injEq] at hj
        rwa [← hj]
      have accepts := serveEntry_accepts e ((s.vfClusters vf).headD 0) vf few ha hrecs readable own
      have positive : (0 : Int) < n := Int.natCast_pos.2 least
      have small : (n : Int) ≤ 4096 := Int.ofNat_le.2 most
      exact ⟨fun t r i hc => serves (accepts.trans (acceptGraph_refused e _ ⟨vf, true, true⟩ positive small ha hrecs hc)), fun t xs hc =>
        ⟨t.newRecs va xs, serves (accepts.trans (acceptGraph_accepted e _ ⟨vf, true, true⟩ positive small ha hrecs hc)),
          fun j bs x hx => mem_newRecs t va hx⟩⟩

end Sys2Proof.Machine

end
